-- ==== Sys2Proof/Word.lean ====
section
/-! DEFINITION. Bytes and little-endian words (R8, 00_scope.md), and the plainest arithmetic over Nat. -/

namespace Sys2Proof

abbrev Byte := BitVec 8
abbrev Bytes := List Byte
/-- A binary32 image (Table 9.1, 09_matrix_array_and_fusion.md). -/
abbrev F32 := BitVec 32

/-- The number that bytes spell, byte 0 least significant (R8). -/
def leNat : Bytes → Nat
  | [] => 0
  | b :: bs => b.toNat + 256 * leNat bs

/-- The n bytes of v, least significant first (R8). -/
def natLe : Nat → Nat → Bytes
  | 0, _ => []
  | n + 1, v => BitVec.ofNat 8 v :: natLe n (v / 256)

/-- n bytes from offset o; a byte beyond the end reads 0. -/
def sliceB (bs : Bytes) (o n : Nat) : Bytes :=
  (List.range n).map fun i => bs.getD (o + i) 0

/-- The little-endian number of n bytes at offset o. -/
def fieldB (bs : Bytes) (o n : Nat) : Nat := leNat (sliceB bs o n)

/-- Bits lo to lo + w - 1 of v. -/
def bitsOf (v lo w : Nat) : Nat := v / 2 ^ lo % 2 ^ w

def ceilDiv (a b : Nat) : Nat := (a + b - 1) / b

def b2n (b : Bool) : Nat := if b then 1 else 0

/-- All bytes at the given offsets are zero (reserved fields, R9). -/
def zeroB (bs : Bytes) (o n : Nat) : Bool := (sliceB bs o n).all (· == 0)

def sat32 (n : Nat) : Nat := min n 0xFFFFFFFF
def sat16 (n : Nat) : Nat := min n 65535

/-- A two's complement reading of an n-bit field. -/
def signedOf (w v : Nat) : Int := if v < 2 ^ (w - 1) then (v : Int) else (v : Int) - (2 ^ w : Nat)

/-- Replace entry i of a list (no change beyond its end). -/
def setAt {α : Type} (l : List α) (i : Nat) (f : α → α) : List α := l.modify i f

end Sys2Proof
end

