-- ==== Sys2Proof/Config.lean ====
section
/-! DEFINITION. What an implementation fixes and this spec leaves open. The opaque constants are free values: nothing
constrains them, and no proof can see one (log 3). Each is applied to the state's own counter (clk.freeCtr) or to the operands. -/

namespace Sys2Proof

/-- Eight samples of the noise source (R418, 16_security_lifecycle_entropy.md): free. -/
opaque Config.noise : Nat → Byte

/-- Byte i of the key under which the conditioner takes its CMAC (Table 16.11 names none): free. -/
opaque Config.condKey : Nat → Byte

/-- A byte whose value the spec leaves unspecified (non-resident memory at release, R150; rows of a tap not yet counted, R279). -/
opaque Config.freeByte : Nat → Byte

/-- A number of the device's own making whose value the spec does not give (bytes of a compressed image, R309; a transfer's
or a firmware's own estimate, R82, R108). -/
opaque Config.freeNat : Nat → Nat

/-- Field i of a sealed result's header where no rule gives it (R434), of the operation's descriptor and headers: free. -/
opaque Config.sealField : List Byte → Nat → Nat

/-- DEPTH of a result of two ciphertexts whose DEPTH differs (Table 17.2): free. -/
opaque Config.sealDepth : Nat → Nat → Nat

/-- Byte i of OUT's body after an operation that one of its jobs stopped (R440), of the operation's descriptor and headers and its jobs: free. -/
opaque Config.sealByte : List Byte → Nat → Byte

/-- Byte i of what a nest leaves in its operand buffers and staging regions (R253, 10_tiling_and_task_programs.md), of its descriptor and its
sources: free, and the same in two runs on the same operands (R350). -/
opaque Config.nestByte : List Byte → Nat → Byte

/-- An isle's allocation tables and shard views as the bytes that a SESSION record's CRC covers (Table 14.5); their layout is free. -/
opaque Config.tableBytes : List (List Nat) → List Byte

/-- Chips of the board's archipelago, N of R29 (02_package_power_board.md): free. -/
opaque Config.boardChips : Nat

/-- Estimated milliseconds to READY of R82 (04_start_up.md), by phase code. -/
opaque Config.msToReady : Nat → Nat

/-- Bytes of the names and dates of a boot's alias certificate (R401, 16_security_lifecycle_entropy.md): free. -/
opaque Config.certByte : Nat → Nat → Byte

/-- Byte i of a parked image's body (R309, 12_kv_cache.md), a compression of the pages and slots that it holds: free. -/
opaque Config.imageByte : Nat → Nat → Byte

end Sys2Proof
end

