-- ==== Sys2Proof/Syntax.lean ====
section
/-! DEFINITION. The commands of spec/opcode_table.json, one constructor of Instr for each row, with the operands a row needs:
who sends it, what it carries, and the outcome of whatever happens outside the block's own logic (a training, a test, a
verification, a reading). log 1 says how operands were chosen, since the table gives a row none. -/

namespace Sys2Proof

/-- The supplies of Table 2.8, which the standby island monitors (R38); a stack number goes with the HBM rails. -/
inductive Rail where
  | vcore | vshelf | vhbmc (stack : Nat) | vhbmq (stack : Nat) | vphy | vaux | vstby
  deriving DecidableEq, Repr

/-- The 32-byte command header of Table 5.5 (R100). -/
structure Hdr where
  opcode : Nat
  flags  : Nat
  tag    : Nat
  plen   : Nat
  res0   : Nat   -- bytes 11:10, reserved
  token  : Nat   -- REPLAY_TOKEN
  res1   : Nat   -- bytes 31:16, reserved
  deriving DecidableEq, Repr

/-- A mailbox command as its function rings it: function (0 the PF, k the VF k), slot, header, and the payload bytes (R100). -/
structure MbxArg where
  fn      : Nat
  slot    : Nat
  hdr     : Hdr
  payload : Bytes
  deriving DecidableEq, Repr

/-- What a reading and check of one firmware image found (R77, R78, R403): the header's fields and which signature entries verify. -/
structure ImageDesc where
  readable    : Bool
  formatOk    : Bool      -- header, length and hash
  slotA       : Nat       -- 0 to 3, 255 empty
  slotB       : Nat
  validA      : Bool      -- entry A verifies under its slot's fused digest
  validB      : Bool
  keyA        : Bytes     -- PUBKEY of each entry
  keyB        : Bytes
  measurement : Nat       -- SHA-384 of header bytes 79:0
  ifVersion   : Nat
  build       : Nat
  deriving DecidableEq, Repr

/-- The configuration record of the boot flash (Table 4.5): HBM bin cap, the regulators on PMBus, and the board's options. -/
structure FlashCfg where
  binCap     : Nat := 0x64
  regulators : List Nat := []
  options    : Bytes := []
  deriving DecidableEq, Repr

/-- What the manufacturing path writes (R398, R406): the unique device secret with its check bits, the digests of the signing slots, and
the certificate store: the manufacturing CA's certificate and the DeviceID certificate. -/
structure Mfg where
  uds   : Nat
  check : Nat
  slots : List Nat
  certs : Bytes
  deriving DecidableEq, Repr

/-- The failing units MEM_TEST finds (Table 4.8). Shelf banks are (segment, bank 0 to 33), banks 32 and 33 the spares. -/
structure MemTestResult where
  cpOk        : Bool
  shelfFailed : List (Nat × Nat)
  lagoonFailed : List Nat
  coreFailed  : List Nat
  rauFailed   : List Nat
  deriving DecidableEq, Repr

/-- What one port finds at training (R85, R318). -/
structure PortTrain where
  port        : Nat
  lanesOk     : Bool
  peerChip    : Nat
  peerPort    : Nat
  peerInc     : Nat
  peerAligned : Bool
  peerReady   : Bool      -- the peer has reported itself ready for alignment (R87)
  latency     : Nat       -- one way, in ticks
  deriving DecidableEq, Repr

/-- The fields of configuration space that Table 5.1 gives a value (R96, log 22). -/
inductive CfgReg where
  | totalVFs | firstVfOffset | vfStride | vfDeviceId | numVFs | vfEnable | bar0Size | vfBar0Size | pfVectors | vfVectors
  | maxPayload | maxReadRequest | tagBits | atsEnable (fn : Nat)
  | linkSpeed | linkWidth | flitMode | errorReporting | msi | intx | pri | pasid
  deriving DecidableEq, Repr

/-- What of a function a host access served (R98): a stream's ring or shadow, the completion ring, the tail shadow, or the command of a
TAG that reaches host memory as it executes. -/
inductive HostObj where
  | stream (h : Nat) | ring | shadow | command (tag : Nat)
  deriving DecidableEq, Repr

/-- A PCI Express configuration request (R81, R97, R380). -/
inductive CfgReq where
  | read (offset : Nat)             -- a double word of the PF's standard header
  | readVf (fn offset : Nat)        -- the same of a VF
  | write (offset value : Nat)      -- the same, written: BAR0 takes its base
  | register (r : CfgReg)           -- a field of a capability, named as Table 5.1 names it
  | setNumVFs (n : Nat)
  | setVfEnable (on : Bool)
  | setAts (fn : Nat) (on : Bool)   -- ATS Enable of a function
  deriving DecidableEq, Repr

/-- An action that takes effect at an agreed count (R64 and the owning chapters). -/
inductive Action where
  | epochLen (e : Nat)                              -- R70
  | coreChange (isle : Nat) (record : Bytes)        -- R374
  | pool (payload : Bytes)                          -- R389
  | slotTable (owners : List Nat)                   -- R383
  | archForm (mask : Nat)                           -- R327
  | archLeave (chip : Nat)                          -- R329
  | fwActivate                                      -- R122
  | unitRetire (cls idx : Nat)                      -- R456
  | unitReturn (cls idx : Nat)                      -- R456
  | replayStart (isle b0 mask : Nat)                -- R364
  | spareSwitch (seg bank : Nat)                    -- R138
  | portReturn (port : Nat)                         -- R347
  | rejoin (chip : Nat)                             -- R328, R346
  deriving DecidableEq, Repr

/-- What a read of a memory word found (R163, R450). -/
inductive EccResult where
  | clean | corrected | uncorrectable
  deriving DecidableEq, Repr

/-- The SMART fields the governor uses (R190). -/
structure Smart where
  critical  : Nat   -- Critical Warning bits
  spare     : Nat
  threshold : Nat
  used      : Nat   -- Percentage Used
  duWritten : Nat   -- Data Units Written, units of 512,000 B
  duRead    : Nat := 0   -- Data Units Read, units of 512,000 B
  hours     : Nat := 0   -- Power On Hours
  mediaErrs : Nat := 0   -- Media and Data Integrity Errors
  deriving DecidableEq, Repr

/-- What the NVMe controller reports when it is ready (Tables 8.1 and 8.2). -/
structure CartInfo where
  meetsTable81 : Bool
  capacityGiB  : Nat
  rated        : Nat
  readRate     : Nat
  writeRate    : Nat
  vendor       : Nat
  serial       : Nat
  deriving DecidableEq, Repr

/-- A pairing record's plaintext (Table 8.3). -/
structure PairRecord where
  chip     : Nat   -- digest of the chip's device identity public key
  cart     : Nat   -- cartridge identity digest at pairing
  certSlot : Nat
  rated    : Nat
  lifeDate : Nat
  checkUtc : Nat
  checkWritten : Nat
  deriving DecidableEq, Repr

/-- The result of an SPDM exchange on one certificate slot, and of reading the pairing area (R180, R184, R185). -/
structure SpdmResult where
  ok          : Bool               -- GET_CERTIFICATE and CHALLENGE passed on the slot used
  digest      : Nat                -- leaf SubjectPublicKeyInfo digest
  certSlot    : Nat                -- lowest populated slot
  lowest      : Nat                -- leaf digest of that slot
  recordMatch : Bool               -- Identify's cay record equals measurement 2
  lba0        : Bytes              -- LBA 0 of the pairing area
  deriving DecidableEq, Repr

/-- The telemetry readings of Table 18.11 that come from outside the firmware. -/
structure Telemetry where
  hottest   : Nat          -- 0.1 degrees C
  quadrants : List Nat
  sensors   : List Nat     -- the 64 on-die sensors, by the core beside each
  stackTemps  : List Nat
  cartTemps   : List Nat
  measured  : List Nat     -- VCORE, VSHELF, VPHY in mV
  current   : Nat
  power     : Nat
  regulators : List Bytes  -- last PMBus readings, by regulator of the configuration record
  deriving DecidableEq, Repr

/-- What the headers of a message's data flits say (Table 13.2) and where they came in: the port, ORIG, INC, and the LSEQ and FSEQ of its
first flit, with which those of its other flits follow (log 37). A port other than ORIG's own brings it by a detour. -/
structure FlitHdr where
  port : Nat
  orig : Nat
  inc  : Nat
  lseq : Nat
  fseq : Nat
  deriving DecidableEq, Repr

/-- The 16-byte message header of Table 13.4 with its flit's addressing (Table 13.2). -/
structure WinMsg where
  hdr     : FlitHdr
  srcIsle : Nat
  dstIsle : Nat
  window  : Nat
  tag     : Nat
  offset  : Nat
  bytes   : Nat
  kv      : Bool     -- a replica copy by the control firmware (R285)
  data    : Bytes
  deriving DecidableEq, Repr

/-- A COLLECT part as it lands (R341). -/
structure PartMsg where
  hdr      : FlitHdr
  srcIsle  : Nat
  window   : Nat
  offset   : Nat
  collId   : Nat
  boundary : Nat     -- low 16 bits of the releasing boundary's epoch index
  round    : Nat
  position : Nat
  shard    : Nat     -- the receiving member's shard
  tag      : Nat
  data     : Bytes
  deriving DecidableEq, Repr

/-- A link control flit (R321). Credits are the running totals modulo 2^16, by channel TM, CT, RP, CO, WW, WR of Table 13.3 and then the DT
buffers by class group: control, replies, requests (log 37). With it the lanes report the codewords that FEC has corrected since the LCF
before (R349, log 82). -/
structure Lcf where
  crcOk   : Bool
  acked   : Nat            -- data flits received in order, cumulative modulo 2^16
  replay  : Option Nat     -- replay request from this LSEQ
  credits : List Nat
  corrected : Nat := 0
  deriving DecidableEq, Repr

/-- One admitted sequence of a home chip's list (R297). -/
structure Admitted where
  handle : Nat
  frames : List Bytes
  deriving DecidableEq, Repr

/-- The commands: one constructor for each row of spec/opcode_table.json, in the table's order. -/
inductive Instr where
  -- Power, pins and thermal (chapter 2)
  | vstbyPowerOn (noiseOk : Bool)
  | perstNAssert
  | cayPwrEnTristate
  | perstNRelease (railsOk : Bool)
  | brownout (rail : Rail)
  | vstbyBrownout
  | railMargin (rail : Rail) (present : Bool)
  | strapLatch (samples : List Nat)
  | thermalThreshold (deciC : Nat)
  | thermtrip (degC : Nat)
  | sensorFail (sensor : Nat)
  | avsCommand (mV : Nat)
  | avsLost
  | telemetryRefresh (t : Telemetry)
  -- Start-up (chapter 4)
  | fuses
  | romLoad (copy0 copy1 : Option Bytes) (mfg : Option Mfg)
  | fwStart (katOk : Bool) (cfg : FlashCfg)
  | fwStartTimeout
  | memTest (r : MemTestResult)
  | portTrain (ports : List PortTrain)
  | align
  | alignTimeout
  | hbmTrain (failedStacks : List Nat) (failedPcs : List Nat)
  | hbmZero
  | ready
  | tideSyncReleaseStopped
  | configRequest (req : CfgReq)
  | pushTransferDone (readOk : Bool)
  | pushVerifyDone
  -- Tide (chapter 3)
  | markDrive
  | markRelease
  | markDetect (pulse : Bool)
  | checkMark
  | refclkLost
  | epochBoundary (cpAck : Bool) (paces : List Nat)
  | completionDeadline (isle : Nat)
  | subslotStart
  | agreedCountProposal (t : Nat) (h : FlitHdr) (act : Action)
  | agreedCountAck (t : Nat) (h : FlitHdr) (act : Action)
  | agreedCountConfirm (t : Nat) (h : FlitHdr) (act : Action)
  | confirmDeadline (t : Nat)
  | agreedCountMiss (t : Nat) (h : FlitHdr) (act : Action)
  | agreedCountCancel (t : Nat) (h : FlitHdr) (act : Action)
  | alignRequest (h : FlitHdr)
  | tideMark (h : FlitHdr) (count : Nat)
  -- Host interface (chapter 5)
  | slotCopy (fn slot : Nat)
  | registerWrite (fn offset size value : Nat)
  | cqEnable (fn value : Nat)
  | cqHeadWrite (fn value : Nat)
  | irqCauseClear (fn value : Nat)
  | irqMaskWrite (fn value : Nat)
  | tideCountLoRead (fn : Nat)
  | dbStream (fn handle offset size value : Nat)
  | flrVf (vf : Nat)
  | windowFence (isle : Nat)
  | flrComplete (fn : Nat)
  | flrPf
  | hotReset
  | surpriseDown
  | vfEnableClear
  | atsInvalidate (fn page : Nat) (reRequestOk : Bool)
  | hostAccessFail (fn : Nat) (obj : HostObj)
  | tlpError
  | scrubEnd (isle : Nat)
  -- Memory, patrol and retirement (chapters 6, 7, 18)
  | tierOnePatrol (addr : Nat) (r : EccResult)
  | onChipPatrol (space addr : Nat) (r : EccResult)
  | spareCopyDone (seg bank : Nat)
  | retireCopyDone (pc : Nat)
  | dirtyCopyDone (pc : Nat)
  | stackFail (stack : Nat)
  | fatalKeyDestroy
  | fatalPortsIdle
  | unitSelftestDone (cls idx : Nat) (ok : Bool)
  -- Cay slots (chapter 8)
  | cayInsertion (slot : Nat)
  | cayPerstRelease (slot : Nat)
  | cayLinkUp (slot : Nat) (ok : Bool) (capTo : Nat)
  | nvmeReady (slot : Nat) (ok : Bool) (info : CartInfo)
  | caySpdm (slot : Nat) (r : SpdmResult)
  | cayIdentityCompare (slot : Nat)
  | cayHealthRead (slot : Nat) (ok : Bool) (sm : Smart)
  | cayRemoval (slot : Nat)
  | cayPowerRelease (slot : Nat)
  | caySmartEvent (slot : Nat) (sm : Smart)
  | cayInboundRequest (slot addr : Nat)
  | cayIoError (slot : Nat) (isle handle : Nat) (write tagFail : Bool)
  | cayLinkLoss (slot : Nat) (controller : Bool)
  | governorCheckpoint (slot : Nat) (sm : Smart)
  | lifeDatePassed (slot : Nat)
  | parkWriteStart (isle handle : Nat)
  | parkWriteDone (isle handle : Nat)
  | unparkReadDone (isle handle : Nat) (read : Bytes)
  | replicaCopyDone (isle handle : Nat)
  | pageMoveDone (isle handle page : Nat)
  | migrateImageDone (slot : Nat) (isle handle : Nat)
  | cayShutdownDone (slot : Nat)
  | cayDeallocDone (slot : Nat)
  -- Bornis links and the archipelago (chapter 13)
  | portTrainPattern (r : PortTrain)
  | linkControlFlit (port : Nat) (l : Lcf)
  | linkDown (port : Nat)
  | detourProbe (h : FlitHdr) (src dest : Nat)
  | probeAnswer (h : FlitHdr) (src dest : Nat)
  | probeTimeout (port : Nat)
  | detourFlit (h : FlitHdr) (dest : Nat) (flit : Bytes)
  | portRetrain (port : Nat) (r : PortTrain)
  | fseqDeliveredAck (h : FlitHdr) (cls fseq : Nat)
  | depart (h : FlitHdr)
  | incarnationAnnounce (h : FlitHdr) (links : Nat)
  | windowWrite (m : WinMsg)
  | windowRead (m : WinMsg)
  | readData (h : FlitHdr) (tag : Nat) (data : Bytes)
  | writeAcknowledgement (h : FlitHdr) (cls tag : Nat)
  | windowRefusal (h : FlitHdr) (cls tag code : Nat)
  | collectPart (m : PartMsg)
  | fence (h : FlitHdr) (isle : Nat) (raised : Bool)
  | stepDone (h : FlitHdr) (isle digest inv : Nat)
  | stepFail (h : FlitHdr) (isle digest inv : Nat)
  | progRunAccept (h : FlitHdr) (isle digest mode tick : Nat)
  | progRunTimeout (isle prog : Nat)
  | admissionList (h : FlitHdr) (isle digest : Nat) (entries : List Admitted)
  | replicaRewind (h : FlitHdr) (isle handle len boundary : Nat)
  | replicaCreate (h : FlitHdr) (isle handle kind : Nat) (payload : Bytes)
  -- Task classes (chapters 9 to 13): the next released descriptor of a unit issues
  | move (isle unit : Nat)
  | matmul (isle unit : Nat)
  | attend (isle unit : Nat)
  | verify (isle unit : Nat)
  | combine (isle unit : Nat)
  | vchain (isle unit : Nat)
  | allGather (isle unit : Nat)
  | reduceScatter (isle unit : Nat)
  | allReduce (isle unit : Nat)
  | tap (isle unit : Nat)
  | kvappend (isle unit : Nat)
  | kvflush (isle unit : Nat)
  | ntt (isle unit : Nat)
  | intt (isle unit : Nat)
  | add (isle unit : Nat)
  | sub (isle unit : Nat)
  | padd (isle unit : Nat)
  | pmul (isle unit : Nat)
  | cmul (isle unit : Nat)
  | mul (isle unit : Nat)
  | relin (isle unit : Nat)
  | rotate (isle unit : Nat)
  | rescale (isle unit : Nat)
  | drop (isle unit : Nat)
  | encode (isle unit : Nat)
  | sealJobAdmit (rau : Nat)
  | sealJobEnd (rau : Nat) (mismatch : Bool)
  | signal (isle unit : Nat)
  | wait (isle unit : Nat)
  | taskComplete (isle unit id : Nat) (conflicts : List Nat)
  -- Entropy, life-cycle, JTAG and MCTP (chapters 16, 18, 20)
  | healthTestFail (samples : List Bool)
  | startupTestDone (samples : List Bool)
  | entropyHoldExpiry
  | drbgReseed
  | lcChallengeExpiry
  | bypass
  | idcode
  | samplePreload
  | extest
  | setEndpointId (eid : Nat)
  | getEndpointId
  | getMctpVersionSupport
  | getMessageTypeSupport
  | getStandbyRecord
  | clearStandbyRecord
  | mctpAlertAck (fltSeq : Nat)
  | getFaultSummary
  | getFaultWord (domain inst : Nat)
  | getTelemetry
  | getRegulator (index : Nat)
  -- Mailbox commands (Table 20.2)
  | bootImagePush (c : MbxArg)
  | tideQuery (c : MbxArg)
  | tideEpochSet (c : MbxArg)
  | paceQuery (c : MbxArg)
  | isleCreate (c : MbxArg)
  | isleResize (c : MbxArg)
  | isleDestroy (c : MbxArg)
  | isleEnable (c : MbxArg)
  | isleDisable (c : MbxArg)
  | isleReset (c : MbxArg)
  | isleQosSet (c : MbxArg)
  | isleQuery (c : MbxArg)
  | poolSet (c : MbxArg)
  | slotTableSet (c : MbxArg)
  | pressureQuery (c : MbxArg)
  | memQuery (c : MbxArg)
  | memResidentSet (c : MbxArg)
  | memLoad (c : MbxArg)
  | memStore (c : MbxArg)
  | memModeSet (c : MbxArg)
  | t1Query (c : MbxArg)
  | progLoad (c : MbxArg)
  | progUnload (c : MbxArg)
  | progRun (c : MbxArg)
  | progQuery (c : MbxArg)
  | tapArm (c : MbxArg)
  | tapClose (c : MbxArg)
  | tapQuery (c : MbxArg)
  | streamCreate (c : MbxArg)
  | streamDestroy (c : MbxArg)
  | streamQuery (c : MbxArg)
  | seqPoolSet (c : MbxArg)
  | seqBatchSet (c : MbxArg)
  | seqCreate (c : MbxArg)
  | seqDestroy (c : MbxArg)
  | seqBind (c : MbxArg)
  | seqQuery (c : MbxArg)
  | seqRewind (c : MbxArg)
  | seqPark (c : MbxArg)
  | seqWakeHint (c : MbxArg)
  | seqPrefixDrop (c : MbxArg)
  | admitSet (c : MbxArg)
  | archQuery (c : MbxArg)
  | archForm (c : MbxArg)
  | archLeave (c : MbxArg)
  | portQuery (c : MbxArg)
  | winOpen (c : MbxArg)
  | winClose (c : MbxArg)
  | winQuery (c : MbxArg)
  | replayLogSet (c : MbxArg)
  | replayLogStop (c : MbxArg)
  | replayStart (c : MbxArg)
  | replayAdvance (c : MbxArg)
  | replayStop (c : MbxArg)
  | detQuery (c : MbxArg)
  | shardSelect (c : MbxArg)
  | drawSet (c : MbxArg)
  | lcQuery (c : MbxArg)
  | lcChallenge (c : MbxArg)
  | lcTransition (c : MbxArg)
  | debugUnlock (c : MbxArg)
  | attestCerts (c : MbxArg)
  | attestQuote (c : MbxArg)
  | keyAdvance (c : MbxArg)
  | keyRevoke (c : MbxArg)
  | keyEpochRotate (c : MbxArg)
  | keyEpochRetire (c : MbxArg)
  | keyEpochQuery (c : MbxArg)
  | entropyQuery (c : MbxArg)
  | entropyRestart (c : MbxArg)
  | rngRead (c : MbxArg)
  | cartQuery (c : MbxArg)
  | cartPair (c : MbxArg)
  | cartUnpair (c : MbxArg)
  | cartLifeSet (c : MbxArg)
  | cartTimeSet (c : MbxArg)
  | cartEject (c : MbxArg)
  | cartQuiesce (c : MbxArg)
  | sealPsetSet (c : MbxArg)
  | sealKeyLoad (c : MbxArg)
  | sealKeyDrop (c : MbxArg)
  | sealQuery (c : MbxArg)
  | faultQuery (c : MbxArg)
  | faultClear (c : MbxArg)
  | unitRetire (c : MbxArg)
  | unitReturn (c : MbxArg)
  | unitQuery (c : MbxArg)
  | alertAck (c : MbxArg)
  | fwStage (c : MbxArg)
  | fwActivate (c : MbxArg)
  -- Events added at the end of the table
  | refusalQuantum (fn : Nat)
  | peerAnswer (fn tag status : Nat) (found : List (Nat × Nat × Nat))
  | hostTransferDone (fn tag : Nat) (ok : Bool)
  | flitCrcFail (port : Nat)
  | tideSyncRise
  | cayPrsntNChange (slot : Nat) (level : Bool)
  | msixMaskChange (fn vector : Nat) (mask : Bool) (functionMask : Bool)
  deriving DecidableEq, Repr

end Sys2Proof
end

