-- ==== Sys2Proof/Machine/Crypto.lean ====
section
/-! DEFINITION. The published functions that results depend on: SHA-384 (FIPS 180-4), SipHash-2-4, AES (FIPS 197) with GCM, CMAC and
CTR_DRBG, the health tests of SP 800-90B, CRC-64, ECDSA over P-384 and DER certificates, named by Table 16.14
(16_security_lifecycle_entropy.md), R303 (12_kv_cache.md), R357 and R361 (14_determinism_and_replay.md). -/

namespace Sys2Proof.Machine

/-! ## SHA-384 -/

def rotr64 (x n : Nat) : Nat := (x >>> n ||| x <<< (64 - n)) % 2 ^ 64

/-- The primes below n. -/
def primesBelow (n : Nat) : List Nat :=
  (List.range n).filter fun p => 2 ≤ p && (List.range p).all fun d => d < 2 || p % d != 0

/-- The greatest r + x with x below 2^b whose k-th power is at most n, one bit after the other. -/
def rootFrom (k n : Nat) : Nat → Nat → Nat
  | 0, r => r
  | b + 1, r => rootFrom k n b (if (r + 2 ^ b) ^ k ≤ n then r + 2 ^ b else r)

/-- The first 64 bits of the fractional part of the k-th root of p (FIPS 180-4, 4.2.3 and 5.3.4), for a root below 8. -/
def rootFraction (k p : Nat) : Nat := rootFrom k (p * 2 ^ (64 * k)) 67 0 % 2 ^ 64

/-- The round constants come from the cube roots of the first eighty primes. -/
def shaK : List Nat := (primesBelow 410).map (rootFraction 3)

/-- The initial hash value comes from the square roots of the ninth to the sixteenth prime. -/
def shaH : List Nat := ((primesBelow 54).drop 8).map (rootFraction 2)

/-- The number of bytes, most significant first. -/
def beNat (bs : Bytes) : Nat := bs.foldl (fun n b => 256 * n + b.toNat) 0

/-- n bytes of v, most significant first. -/
def natBe (n v : Nat) : Bytes := (natLe n v).reverse

def shaPad (m : Bytes) : Bytes :=
  m ++ [0x80] ++ List.replicate ((239 - m.length % 128) % 128) 0 ++ natBe 16 (8 * m.length)

/-- The message schedule, newest word first: 16 words and then 64 more. -/
def shaSchedule : Nat → List Nat → List Nat
  | 0, w => w
  | n + 1, w =>
    let a := w.getD 14 0
    let b := w.getD 1 0
    let s0 := rotr64 a 1 ^^^ rotr64 a 8 ^^^ a >>> 7
    let s1 := rotr64 b 19 ^^^ rotr64 b 61 ^^^ b >>> 6
    shaSchedule n (((w.getD 15 0 + s0 + w.getD 6 0 + s1) % 2 ^ 64) :: w)

def shaRound (h : List Nat) (kw : Nat × Nat) : List Nat :=
  match h with
  | [a, b, c, d, e, f, g, x] =>
    let t1 := x + (rotr64 e 14 ^^^ rotr64 e 18 ^^^ rotr64 e 41) + ((e &&& f) ^^^ ((2 ^ 64 - 1 - e) &&& g)) + kw.1 + kw.2
    let t2 := (rotr64 a 28 ^^^ rotr64 a 34 ^^^ rotr64 a 39) + ((a &&& b) ^^^ (a &&& c) ^^^ (b &&& c))
    [(t1 + t2) % 2 ^ 64, a, b, c, (d + t1) % 2 ^ 64, e, f, g]
  | _ => h

def shaBlock (h : List Nat) (m : Bytes) : List Nat :=
  let w := (shaSchedule 64 ((List.range 16).map fun i => beNat (sliceB m (8 * i) 8)).reverse).reverse
  (List.zipWith (fun a b => (a + b) % 2 ^ 64) h ((shaK.zip w).foldl shaRound h))

/-- The 48 bytes of SHA-384. -/
def sha384 (m : Bytes) : Bytes :=
  let p := shaPad m
  let h := (List.range (p.length / 128)).foldl (fun h i => shaBlock h ((p.drop (128 * i)).take 128)) shaH
  (h.take 6).flatMap (natBe 8)

/-! ## SipHash-2-4 -/

def rotl64 (x n : Nat) : Nat := (x <<< n ||| x >>> (64 - n)) % 2 ^ 64

def sipRound (v : Nat × Nat × Nat × Nat) : Nat × Nat × Nat × Nat :=
  let (v0, v1, v2, v3) := v
  let v0 := (v0 + v1) % 2 ^ 64
  let v1 := rotl64 v1 13 ^^^ v0
  let v0 := rotl64 v0 32
  let v2 := (v2 + v3) % 2 ^ 64
  let v3 := rotl64 v3 16 ^^^ v2
  let v0 := (v0 + v3) % 2 ^ 64
  let v3 := rotl64 v3 21 ^^^ v0
  let v2 := (v2 + v1) % 2 ^ 64
  let v1 := rotl64 v1 17 ^^^ v2
  (v0, v1, rotl64 v2 32, v3)

def sipWord (v : Nat × Nat × Nat × Nat) (m : Nat) : Nat × Nat × Nat × Nat :=
  let (v0, v1, v2, v3) := sipRound (sipRound (v.1, v.2.1, v.2.2.1, v.2.2.2 ^^^ m))
  (v0 ^^^ m, v1, v2, v3)

/-- SipHash-2-4 of a message under a 128-bit key. -/
def sipHash (key : Nat) (m : Bytes) : Nat :=
  let k0 := key % 2 ^ 64
  let k1 := key / 2 ^ 64 % 2 ^ 64
  let v := (k0 ^^^ 0x736f6d6570736575, k1 ^^^ 0x646f72616e646f6d, k0 ^^^ 0x6c7967656e657261, k1 ^^^ 0x7465646279746573)
  let last := leNat (m.drop (m.length / 8 * 8)) + m.length % 256 * 2 ^ 56
  let v := ((List.range (m.length / 8)).map fun i => fieldB m (8 * i) 8).foldl sipWord v
  let (v0, v1, v2, v3) := sipWord v last
  let (v0, v1, v2, v3) := sipRound (sipRound (sipRound (sipRound (v0, v1, v2 ^^^ 0xff, v3))))
  v0 ^^^ v1 ^^^ v2 ^^^ v3

/-! ## AES, by the table and the steps of FIPS 197 -/

def xtime (a : Nat) : Nat := if a < 128 then 2 * a else (2 * a ^^^ 0x11b) % 256

/-- The rows of the S-box as FIPS 197 prints them, sixteen bytes a row. -/
def aesBox : List Nat :=
  [0x637c777bf26b6fc53001672bfed7ab76, 0xca82c97dfa5947f0add4a2af9ca472c0, 0xb7fd9326363ff7cc34a5e5f171d83115,
   0x04c723c31896059a071280e2eb27b275, 0x09832c1a1b6e5aa0523bd6b329e32f84, 0x53d100ed20fcb15b6acbbe394a4c58cf,
   0xd0efaafb434d338545f9027f503c9fa8, 0x51a3408f929d38f5bcb6da2110fff3d2, 0xcd0c13ec5f974417c4a77e3d645d1973,
   0x60814fdc222a908846eeb814de5e0bdb, 0xe0323a0a4906245cc2d3ac629195e479, 0xe7c8376d8dd54ea96c56f4ea657aae08,
   0xba78252e1ca6b4c6e8dd741f4bbd8b8a, 0x703eb5664803f60e613557b986c11d9e, 0xe1f8981169d98e949b1e87e9ce5528df,
   0x8ca1890dbfe6426841992d0fb054bb16]

def aesSub (a : Nat) : Nat := aesBox.getD (a / 16) 0 / 2 ^ (8 * (15 - a % 16)) % 256

def xorList (a b : List Nat) : List Nat := List.zipWith (fun x y => x ^^^ y) a b

/-- The key schedule in words of four bytes, newest first: n more words for a key of nk words. -/
def aesWords (nk : Nat) : Nat → List (List Nat) → List (List Nat)
  | 0, w => w
  | n + 1, w =>
    let i := w.length
    let t := w.getD 0 []
    let t :=
      if i % nk = 0 then
        xorList [aesSub (t.getD 1 0), aesSub (t.getD 2 0), aesSub (t.getD 3 0), aesSub (t.getD 0 0)]
          [(List.range (i / nk - 1)).foldl (fun r _ => xtime r) 1, 0, 0, 0]
      else if nk = 8 ∧ i % 8 = 4 then t.map aesSub
      else t
    aesWords nk n (xorList (w.getD (nk - 1) []) t :: w)

/-- The round keys of a key of 16 or 32 bytes, 11 or 15 of 16 bytes. -/
def aesKeys (key : List Nat) : List (List Nat) :=
  let nk := key.length / 4
  let w := (aesWords nk (3 * nk + 28) ((List.range nk).map fun i => (key.drop (4 * i)).take 4).reverse).reverse
  (List.range (nk + 7)).map fun r => ((w.drop (4 * r)).take 4).flatten

def aesShift (x : List Nat) : List Nat := (List.range 16).map fun i => x.getD ((i + 4 * (i % 4)) % 16) 0

def aesMix (x : List Nat) : List Nat :=
  (List.range 16).map fun i =>
    let at' := fun j => x.getD (i / 4 * 4 + (i + j) % 4) 0
    xtime (at' 0) ^^^ xtime (at' 1) ^^^ at' 1 ^^^ at' 2 ^^^ at' 3

/-- One AES block under round keys; the block is 16 bytes in the standard's order. -/
def aesRounds (ks : List (List Nat)) (block : List Nat) : List Nat :=
  match ks with
  | [] => block
  | k :: ks =>
    let st := ks.dropLast.foldl (fun st k => xorList (aesMix (aesShift (st.map aesSub))) k) (xorList block k)
    xorList (aesShift (st.map aesSub)) (ks.getLastD [])

/-- One block of AES-128 or AES-256, as the key is 16 or 32 bytes long. -/
def aesBlock (key block : List Nat) : List Nat := aesRounds (aesKeys key) block

def bytesOf (l : List Nat) : Bytes := l.map fun x => BitVec.ofNat 8 x
def natsOf (b : Bytes) : List Nat := b.map fun x => x.toNat

/-- One block as bytes. -/
def aesBytes (key block : Bytes) : Bytes := bytesOf (aesBlock (natsOf key) (natsOf block))

def xorBytes (a b : Bytes) : Bytes := List.zipWith (fun x y => x ^^^ y) a b

/-! ## GCM with 96-bit IVs and 128-bit tags (SP 800-38D) -/

/-- The product of two 128-bit blocks, the first bit the most significant. -/
def ghashMul (x y : Nat) : Nat :=
  ((List.range 128).foldl (fun (p : Nat × Nat) i =>
    ((if x.testBit (127 - i) then p.1 ^^^ p.2 else p.1), (if p.2 % 2 = 1 then p.2 / 2 ^^^ 0xE1 * 2 ^ 120 else p.2 / 2))) (0, y)).1

/-- Whole blocks, the last one filled with zeros. -/
def padBlock (b : Bytes) : Bytes := b ++ List.replicate ((16 - b.length % 16) % 16) 0

def ghash (h : Nat) (b : Bytes) : Nat :=
  (List.range (b.length / 16)).foldl (fun y i => ghashMul (y ^^^ beNat (sliceB b (16 * i) 16)) h) 0

/-- The key stream of counter blocks 2, 3, … XORed over a text. -/
def gcmStream (key iv text : Bytes) : Bytes :=
  let ks := aesKeys (natsOf key)
  xorBytes text (((List.range (ceilDiv text.length 16)).flatMap fun i =>
    bytesOf (aesRounds ks (natsOf (iv ++ natBe 4 ((i + 2) % 2 ^ 32))))).take text.length)

def gcmTag (key iv aad ct : Bytes) : Bytes :=
  let h := beNat (aesBytes key (List.replicate 16 0))
  let y := ghash h (padBlock aad ++ padBlock ct ++ natBe 8 (8 * aad.length) ++ natBe 8 (8 * ct.length))
  xorBytes (natBe 16 y) (aesBytes key (iv ++ natBe 4 1))

/-- Ciphertext and tag. -/
def gcmSeal (key iv aad text : Bytes) : Bytes × Bytes :=
  let ct := gcmStream key iv text
  (ct, gcmTag key iv aad ct)

/-- The text, none where the tag is wrong. -/
def gcmOpen (key iv aad ct tag : Bytes) : Option Bytes := if gcmTag key iv aad ct = tag then some (gcmStream key iv ct) else none

/-! ## CMAC (SP 800-38B) -/

def cmacDouble (x : Nat) : Nat := if x.testBit 127 then (2 * x % 2 ^ 128) ^^^ 0x87 else 2 * x

def cmac (key msg : Bytes) : Bytes :=
  let k1 := cmacDouble (beNat (aesBytes key (List.replicate 16 0)))
  let n := max 1 (ceilDiv msg.length 16)
  let last := msg.drop (16 * (n - 1))
  let tail := if last.length = 16 then xorBytes last (natBe 16 k1)
    else xorBytes (padBlock (last ++ [0x80])) (natBe 16 (cmacDouble k1))
  aesBytes key (xorBytes tail ((List.range (n - 1)).foldl (fun c i => aesBytes key (xorBytes c (sliceB msg (16 * i) 16))) (List.replicate 16 0)))

/-! ## CTR_DRBG with AES-256, no derivation function (SP 800-90A) -/

/-- n bytes of the counter's blocks after V. -/
def drbgStream (st : Bytes × Bytes) (n : Nat) : Bytes :=
  let ks := aesKeys (natsOf st.1)
  ((List.range (ceilDiv n 16)).flatMap fun i => bytesOf (aesRounds ks (natsOf (natBe 16 ((beNat st.2 + i + 1) % 2 ^ 128))))).take n

/-- The state (Key, V) after an update with 48 bytes, from a V that the counter has reached. -/
def drbgUpdate (st : Bytes × Bytes) (data : Bytes) : Bytes × Bytes :=
  let t := xorBytes (drbgStream st 48) data
  (t.take 32, t.drop 32)

/-- A seed of 48 bytes instantiates the generator, or reseeds the one there is. -/
def drbgSeed (st : Option (Bytes × Bytes)) (seed : Bytes) : Bytes × Bytes :=
  drbgUpdate (st.getD (List.replicate 32 0, List.replicate 16 0)) seed

/-- One generate call for n bytes. -/
def drbgGenerate (st : Bytes × Bytes) (n : Nat) : Bytes × (Bytes × Bytes) :=
  (drbgStream st n, drbgUpdate (st.1, natBe 16 ((beNat st.2 + ceilDiv n 16) % 2 ^ 128)) (List.replicate 48 0))

/-! ## Health tests of the noise source (SP 800-90B, Table 16.11) -/

/-- The longest run of equal samples. -/
def longestRun (l : List Bool) : Nat :=
  (l.foldl (fun (p : Option Bool × Nat × Nat) b =>
    let n := if p.1 = some b then p.2.1 + 1 else 1
    (some b, n, max p.2.2 n)) (none, 0, 0)).2.2

/-- Repetition count test: 81 identical consecutive samples. -/
def rctFails (l : List Bool) : Bool := decide (81 ≤ longestRun l)

/-- Adaptive proportion test: in a window of 1,024 samples 840 equal the first. -/
def aptFails (l : List Bool) : Bool :=
  (List.range (l.length / 1024)).any fun w =>
    let x := (l.drop (1024 * w)).take 1024
    decide (840 ≤ x.countP fun b => some b == x.head?)

/-! ## CRC-64 of ECMA-182 (R362, 14_determinism_and_replay.md): initial value 0, no reflection, no final XOR -/

def crc64Byte (c : Nat) (b : Byte) : Nat :=
  (List.range 8).foldl (fun c _ => if c.testBit 63 then (2 * c % 2 ^ 64) ^^^ 0x42F0E1EBA9EA3693 else 2 * c) (c ^^^ b.toNat * 2 ^ 56)

def crc64 (bs : Bytes) : Nat := bs.foldl crc64Byte 0

/-! ## ECDSA over P-384 (FIPS 186-5): verification of a signature on a hash (R403, R407, R410) -/

def p384p : Nat := 2 ^ 384 - 2 ^ 128 - 2 ^ 96 + 2 ^ 32 - 1
def p384b : Nat := 0xb3312fa7e23ee7e4988e056be3f82d19181d9c6efe8141120314088f5013875ac656398d8a2ed19d2a85c8edd3ec2aef
def p384n : Nat := 0xffffffffffffffffffffffffffffffffffffffffffffffffc7634d81f4372ddf581a0db248b0a77aecec196accc52973
def p384g : Nat × Nat :=
  (0xaa87ca22be8b05378eb1c71ef320ad746e1d3b628ba79b9859f741e082542a385502f25dbf55296c3a545e3872760ab7,
   0x3617de4a96262c6f5d9e98bf9292dc29f8f41dbd289a147ce9da3113b5f0b8c00a60b1ce1d7e819d7a431d7c90ea0e5f)

/-- b^e mod m for an e below 2^k, by squaring. -/
def powMod (m k b e : Nat) : Nat :=
  ((List.range k).foldl (fun (p : Nat × Nat) i => ((if e.testBit i then p.1 * p.2 % m else p.1), p.2 * p.2 % m)) (1 % m, b % m)).1

def invMod384 (m a : Nat) : Nat := powMod m 384 a (m - 2)

/-- The sum of two points; none is the point at infinity. -/
def ecAdd (x y : Option (Nat × Nat)) : Option (Nat × Nat) :=
  match x, y with
  | none, q => q
  | q, none => q
  | some (x1, y1), some (x2, y2) =>
    let p := p384p
    if x1 = x2 ∧ (y1 + y2) % p = 0 then none else
    let l := if x1 = x2 then (3 * x1 * x1 + (p - 3)) * invMod384 p (2 * y1) % p
      else (y2 + (p - y1)) * invMod384 p ((x2 + (p - x1)) % p) % p
    let x3 := (l * l + (p - x1) + (p - x2)) % p
    some (x3, (l * (x1 + (p - x3)) + (p - y1)) % p)

def ecMul (k : Nat) (q : Nat × Nat) : Option (Nat × Nat) :=
  ((List.range 384).foldl (fun (r : Option (Nat × Nat) × Option (Nat × Nat)) i =>
    ((if k.testBit i then ecAdd r.1 r.2 else r.1), ecAdd r.2 r.2)) (none, some q)).1

/-- The signature r ‖ s (48 bytes each) on a 48-byte hash verifies under a 97-byte uncompressed point. -/
def ecdsaVerify (key hash sig : Bytes) : Bool :=
  let x := beNat (sliceB key 1 48)
  let y := beNat (sliceB key 49 48)
  let r := beNat (sliceB sig 0 48)
  let t := beNat (sliceB sig 48 48)
  let p := p384p
  key.getD 0 0 == 4 && decide (x < p) && decide (y < p) && (y * y % p == (x * x * x + (p - 3) * x + p384b) % p) &&
  decide (1 ≤ r) && decide (r < p384n) && decide (1 ≤ t) && decide (t < p384n) &&
  (let w := invMod384 p384n t
   match ecAdd (ecMul (beNat hash * w % p384n) p384g) (ecMul (r * w % p384n) (x, y)) with
   | some q => q.1 % p384n == r
   | none => false)

/-! ## HMAC-SHA-384 (FIPS 198-1), and deterministic ECDSA over P-384 (FIPS 186-5 with RFC 6979 nonces) (R400, R402) -/

def xorByte (c : Byte) (b : Bytes) : Bytes := b.map fun x => x ^^^ c

/-- The MAC of a message under a key of at most 128 bytes, one block of the hash. -/
def hmac384 (key msg : Bytes) : Bytes :=
  let k := key ++ List.replicate (128 - key.length) 0
  sha384 (xorByte 0x5C k ++ sha384 (xorByte 0x36 k ++ msg))

/-- The private scalar of a key pair derived from a value under a label (R400): the first counter byte whose MAC is below the largest
multiple of n below 2^384. -/
def deriveScalar (v label : Bytes) : Nat :=
  let mac := fun c => beNat (hmac384 v (label ++ natLe 1 c))
  match (List.range 256).find? fun c => decide (mac c < 2 ^ 384 - 2 ^ 384 % p384n) with
  | some c => mac c % (p384n - 1) + 1
  | none => 1

/-- The public point of a private scalar, 97 bytes uncompressed. -/
def publicKey (d : Nat) : Bytes :=
  match ecMul d p384g with
  | some q => [4] ++ natBe 48 q.1 ++ natBe 48 q.2
  | none => List.replicate 97 0

/-- The first candidate nonce in range, and its successors, from the generator state (K, V) of RFC 6979. -/
def nonceFrom (f : Nat → Option Bytes) : Nat → Bytes → Bytes → Option Bytes
  | 0, _, _ => none
  | n + 1, k, v =>
    let v := hmac384 k v
    match f (beNat v) with
    | some sig => some sig
    | none =>
      let k := hmac384 k (v ++ [0])
      nonceFrom f n k (hmac384 k v)

/-- r ‖ s for a nonce k, when both are usable. -/
def signWith (d h k : Nat) : Option Bytes :=
  if k = 0 ∨ p384n ≤ k then none else
  match ecMul k p384g with
  | none => none
  | some q =>
    let r := q.1 % p384n
    let t := invMod384 p384n k * (h + r * d) % p384n
    if r = 0 ∨ t = 0 then none else some (natBe 48 r ++ natBe 48 t)

/-- The signature of a 48-byte hash by private scalar d. -/
def ecdsaSign (d : Nat) (hash : Bytes) : Bytes :=
  let x := natBe 48 d ++ natBe 48 (beNat hash % p384n)
  let v := List.replicate 48 1
  let k := hmac384 (List.replicate 48 0) (v ++ [0] ++ x)
  let v := hmac384 k v
  let k := hmac384 k (v ++ [1] ++ x)
  (nonceFrom (signWith d (beNat hash)) 16 k (hmac384 k v)).getD (List.replicate 96 0)

/-! ## DER (RFC 5280, TCG DICE): the certificates of R401 -/

def derLen (n : Nat) : Bytes :=
  if n < 128 then natLe 1 n else if n < 256 then natLe 1 0x81 ++ natLe 1 n else natLe 1 0x82 ++ natBe 2 n

/-- One element: tag and content. -/
def der (tag : Nat) (b : Bytes) : Bytes := natLe 1 tag ++ derLen b.length ++ b

/-- An unsigned INTEGER, from its bytes, most significant first, under a tag. -/
def derUnsigned (tag : Nat) (b : Bytes) : Bytes :=
  let b := b.dropWhile fun x => x == 0
  der tag (if decide (128 ≤ (b.getD 0 0x80).toNat) then 0 :: b else b)

def derOid (l : List Nat) : Bytes := der 0x06 (bytesOf l)

/-- ecdsa-with-SHA384, 1.2.840.10045.4.3.3. -/
def derSigAlg : Bytes := der 0x30 (derOid [0x2A, 0x86, 0x48, 0xCE, 0x3D, 0x04, 0x03, 0x03])

/-- SubjectPublicKeyInfo of a point of secp384r1. -/
def derKeyInfo (key : Bytes) : Bytes :=
  der 0x30 (der 0x30 (derOid [0x2A, 0x86, 0x48, 0xCE, 0x3D, 0x02, 0x01] ++ derOid [0x2B, 0x81, 0x04, 0x00, 0x22]) ++ der 0x03 (0 :: key))

/-- The extension with DiceTcbInfo (2.23.133.5.4.1): key index as index, the measurement as fwid, state and stepping as vendor information. -/
def derTcbInfo (measurement : Bytes) (keyIdx lc stepping : Nat) : Bytes :=
  let fwid := der 0x30 (derOid [0x60, 0x86, 0x48, 0x01, 0x65, 0x03, 0x04, 0x02, 0x02] ++ der 0x04 measurement)
  let info := der 0x30 (derUnsigned 0x85 (natLe 1 keyIdx) ++ der 0xA6 fwid ++ der 0x88 (natLe 1 lc ++ natLe 1 stepping))
  der 0xA3 (der 0x30 (der 0x30 (derOid [0x67, 0x81, 0x05, 0x05, 0x04, 0x01] ++ der 0x01 [0xFF] ++ der 0x04 info)))

/-- R401: a certificate of a subject key with its extensions, between names and dates, signed by a private scalar. Its serial number is the
first 20 bytes of the SHA-384 of the subject public key. -/
def certificate (signer : Nat) (issuer dates subject key ext : Bytes) : Bytes :=
  let tbs := der 0x30 (der 0xA0 (der 0x02 [2]) ++ derUnsigned 0x02 ((sha384 key).take 20) ++ derSigAlg ++ issuer ++ dates ++ subject ++
    derKeyInfo key ++ ext)
  let sig := ecdsaSign signer (sha384 tbs)
  der 0x30 (tbs ++ derSigAlg ++ der 0x03 (0 :: der 0x30 (derUnsigned 0x02 (sig.take 48) ++ derUnsigned 0x02 (sig.drop 48))))

end Sys2Proof.Machine
end

