-- ==== Sys2Proof/Machine/State.lean ====
section
/-! DEFINITION. The state of the block as plain data, with every piece of state the spec names, and State.reset. Each field's
docstring reads: what it is | width | file and rule of spec/ | reset value. INVENTORY.md's list is made from these lines. -/

namespace Sys2Proof.Machine

/-! ## Codes and small records -/

/-- The status codes of Table 20.3 (R10, R475); their numbers are Status.code in Ops.lean. -/
inductive Status where
  | sOk | sPending | eBadcmd | eBadarg | eBadlen | eDenied | eState | eBusy | eNores | eFault | ePoison | eRng
  | ePeerLost | eCollectiveAbort | eLink | eCart | eCartLost | eCartAuth | eLevel | eSealCheck | eOverrun | eRetry | eLimbo
  deriving DecidableEq, Repr

/-- A completion or event entry (Table 5.8, R103); quiet is the command's QUIET flag (Table 5.6). -/
structure Entry where
  status : Status := .sOk
  detail : Nat := 0
  tag    : Nat := 0
  tide   : Nat := 0
  w0     : Nat := 0
  w1     : Nat := 0
  w2     : Nat := 0
  w3     : Nat := 0
  quiet  : Bool := false
  final  : Bool := false     -- ends its command, which is outstanding until the entry is written (R102)
  deriving DecidableEq, Repr

/-- Where an accepted command stands between acceptance and its final entry (R102, R104, R109, R110). -/
inductive CmdPhase where
  | held                                        -- waits under FENCE or the order of one handle
  | boundary                                    -- boundary-executed, waits for step 3 of a boundary
  | refusal (q : Nat) (st : Status) (detail : Nat)   -- a refusal whose entry is written at q
  | peer (q : Nat)                              -- waits for another chip's answer until q - 6,400 (R111)
  | working                                     -- executing; a later event of the block ends it
  | final                                       -- S_PENDING written, the final entry to come
  deriving DecidableEq, Repr

/-- A command of a function's queue (R102): what was copied from the slot, and the tick of acceptance. -/
structure Cmd where
  seq     : Nat := 0          -- doorbell order within the function
  slot    : Nat := 0
  hdr     : Hdr := { opcode := 0, flags := 0, tag := 0, plen := 0, res0 := 0, token := 0, res1 := 0 }
  payload : Bytes := []
  d       : Nat := 0
  phase   : CmdPhase := .held
  data    : Bool := false     -- data-affecting: its execution is recorded (R156, R360)
  view    : Nat := 0          -- shard selected for the function at acceptance (R356)
  aux     : List Nat := []    -- what execution has worked out so far: result words of a refusal still to be written
  note    : Bytes := []       -- what its COMMAND record carries beside the payload (R230: a loaded image's DIGEST)
  deriving DecidableEq, Repr

/-- A stream (R113 to R116). -/
structure Stream where
  ring     : Nat := 0
  shadow   : Nat := 0
  entries  : Nat := 64
  dirOut   : Bool := false
  slotLog2 : Nat := 7
  vector   : Nat := 0xFFFF
  irqOnConsume : Bool := false
  producer : Nat := 0
  consumer : Nat := 0
  lastDb   : Nat := 0
  dbTicks  : List (Nat × Nat) := []   -- accepted input doorbells not yet overtaken: (count, tide count at arrival) (R15)
  bound    : Option Nat := none
  reasons  : Nat := 0
  stopped  : Bool := false
  stalled  : Bool := false
  deriving DecidableEq, Repr

/-- A first-fault capture (Table 18.3, R447). -/
structure Capture where
  bit   : Nat := 0
  isle  : Nat := 0xFF
  unit  : Nat := 0xFFFF
  tide  : Nat := 0
  addr  : Nat := 0
  info  : Nat := 0
  later : Nat := 0
  deriving DecidableEq, Repr

/-- One instance of a fault domain in one view: its status word, generation and capture (R444, R447, R448). -/
structure FaultInst where
  word : Nat := 0
  gen  : Nat := 0
  cap  : Capture := {}
  deriving DecidableEq, Repr

/-- A view of the faults (R446): FLT_SEQ, and every instance recorded so far, keyed by (domain code, instance); an instance
that is not listed holds zero and an empty capture. -/
structure FaultView where
  seq   : Nat := 0
  insts : List ((Nat × Nat) × FaultInst) := []
  deriving DecidableEq, Repr

/-- What leaves the block: interrupt messages, replies on the side buses and messages to peer chips. -/
inductive OutMsg where
  | msix (fn vector : Nat)                      -- R117
  | config (reply : Option Nat)                 -- R81: none is Configuration Request Retry Status
  | regRead (fn value : Nat)
  | mctp (resp : Bytes)                         -- R461
  | jtag (dr : Nat)                             -- R411, R481
  | dmaToHost (addr : Nat) (bytes : Bytes)      -- a transfer of more than a register's bytes
  | propose (t dst : Nat) (act : Action)        -- R64, in a TIDE_MARK message to each member
  | ack (t dst : Nat) (act : Action)
  | confirm (t dst : Nat) (act : Action)
  | miss (t dst : Nat) (act : Action)
  | cancel (t dst : Nat) (act : Action)
  | alignRequest (port : Nat)                   -- R58
  | tideMark (port count : Nat)
  | lcf (port : Nat) (l : Lcf)                   -- R321
  | peer (dst : Nat) (what : Nat) (args : List Nat) (data : Bytes)   -- the messages of chapter 13, by PeerMsg codes
  | cart (slot : Nat) (what : Nat) (args : List Nat)                 -- commands to a cartridge's controller (chapter 8)
  | avs (mV : Nat)                              -- R33
  | strobe (pin : Nat) (level : Bool)           -- pins driven over JTAG EXTEST
  deriving DecidableEq, Repr

/-! ## Board, standby island, power (02_package_power_board.md, 18_faults_and_service.md) -/

structure Clk where
  /-- 10 ns intervals since VSTBY rose | unbounded count | 02_package_power_board.md R35 | 0 -/
  ticks : Nat := 0
  /-- the model's own counter of free values drawn (log 3) | unbounded count | model | DESIGN CHOICE 0, log 3 -/
  freeCtr : Nat := 0
  deriving DecidableEq, Repr

structure Pins where
  /-- PERST_N level, true when high | 1 bit | 02_package_power_board.md R35, R36 | false: held low -/
  perstN : Bool := false
  /-- READY_N driven low | 1 bit | 02_package_power_board.md R43, 04_start_up.md R92 | false: released -/
  readyLow : Bool := false
  /-- ALERT_N driven low | 1 bit | 02_package_power_board.md R43, 18_faults_and_service.md R460 | false: released -/
  alertLow : Bool := false
  /-- TIDE_SYNC held low by this chip, outside a mark | 1 bit | 02_package_power_board.md R35, R36 | true: driven low -/
  syncHold : Bool := true
  /-- a mark or check mark being driven on TIDE_SYNC, with the tick at which it began | Option of a tick | 03_clockless_pace_and_tide.md R56, R59 | none -/
  markSince : Option Nat := none
  /-- TIDE_SYNC line level, true when high | 1 bit | 02_package_power_board.md R43 | false: low in reset -/
  syncHigh : Bool := false
  /-- tick at which TIDE_SYNC last rose | tick | 03_clockless_pace_and_tide.md R56 | 0 -/
  syncSince : Nat := 0
  /-- CAY_PWR_EN of the two slots, true driven high, false tri-stated | 2 bits | 02_package_power_board.md R35, R45 | false, false -/
  cayPwr : List Bool := [false, false]
  /-- CAY_REFCLK of the two slots, true running | 2 bits | 02_package_power_board.md R45, 04_start_up.md R93 | DESIGN CHOICE false, false, log 20 -/
  cayRefclk : List Bool := [false, false]
  /-- CAY_PERST_N of the two slots, true high | 2 bits | 02_package_power_board.md R35, R45 | false, false: driven low -/
  cayPerst : List Bool := [false, false]
  /-- CAY_PRSNT_N of the two slots, true high (no cartridge) | 2 bits | 02_package_power_board.md R45 | DESIGN CHOICE true, true (no cartridge seated), log 20 -/
  cayPrsnt : List Bool := [true, true]
  /-- tick of each slot's last CAY_PRSNT_N change | 2 ticks | 02_package_power_board.md R45 | 0, 0 -/
  cayPrsntSince : List Nat := [0, 0]
  deriving DecidableEq, Repr

structure Standby where
  /-- VSTBY in regulation, the standby island out of power-on reset | 1 bit | 02_package_power_board.md R35, R38 | true (log 20) -/
  vstbyUp : Bool := true
  /-- BROWNOUT of the standby record | 1 bit | 18_faults_and_service.md Table 18.10, 02_package_power_board.md R38 | false -/
  brownout : Bool := false
  /-- STRAP_UNSTABLE of the standby record | 1 bit | 18_faults_and_service.md Table 18.10, 02_package_power_board.md R40 | false -/
  strapUnstable : Bool := false
  /-- THERMTRIP record and THERMTRIP_N latch | 1 bit | 02_package_power_board.md R44 | false -/
  thermtrip : Bool := false
  /-- FATAL field: domain code and bit | Option of 4 and 5 bits | 18_faults_and_service.md R454, Table 18.10 | none -/
  fatal : Option (Nat × Nat) := none
  /-- rail of the last brown-out | 4 bits | 18_faults_and_service.md Table 18.10 | 0 -/
  rail : Nat := 0
  /-- stack of a VHBM brown-out | 3 bits | 18_faults_and_service.md Table 18.10 | 0 -/
  railStack : Nat := 0
  /-- hottest sensor at trip, in degrees C | 8 bits | 18_faults_and_service.md Table 18.10 | 0 -/
  tripTemp : Nat := 0
  /-- brown-outs since VSTBY rose, saturating | 8 bits | 18_faults_and_service.md Table 18.10 | 0 -/
  brownouts : Nat := 0
  /-- a record of BROWNOUT or STRAP_UNSTABLE not yet followed by latched straps | 1 bit | 18_faults_and_service.md R459 | false -/
  recFresh : Bool := false
  /-- rails below their brown-out threshold | set of rails | 02_package_power_board.md R38, Table 2.11 | DESIGN CHOICE none (the board holds its rails up), log 20 -/
  railsLow : List Rail := []
  /-- rails whose RAIL_MARGIN condition persists | set of rails | 02_package_power_board.md R38, 18_faults_and_service.md R460 | DESIGN CHOICE none, log 20 -/
  railsMargin : List Rail := []
  /-- incarnation number | 32 bits | 02_package_power_board.md R36, 13_archipelago.md R325 | see R325 -/
  incarnation : Nat := 0
  /-- MCTP endpoint identifier | 8 bits | 18_faults_and_service.md R461 | DESIGN CHOICE 0 (unassigned), log 21 -/
  eid : Nat := 0
  deriving DecidableEq, Repr

structure Power where
  /-- VCORE command in mV | 600 to 900 | 02_package_power_board.md R32, R33 | 750 -/
  vcore : Nat := 750
  /-- tick of the last AVSBus command | tick | 02_package_power_board.md R33 | 0 -/
  avsTick : Nat := 0
  /-- VCORE level that the firmware is moving to, in steps of at most 50 mV every 20 µs | Option of mV | 02_package_power_board.md R32, R33, R48 | none -/
  vGoal : Option Nat := none
  /-- AVSBus commands stopped after AVS_LOST | 1 bit | 02_package_power_board.md R33 | false -/
  avsStopped : Bool := false
  /-- hottest on-die sensor in 0.1 degrees C | signed reading | 02_package_power_board.md R48 | DESIGN CHOICE 250, log 20 -/
  hottest : Nat := 250
  /-- VCORE below 0.65 V or the junction above 105 degrees C at some time since the last boundary | 1 bit | 14_determinism_and_replay.md Table 14.7 | false -/
  paceOut : Bool := false
  /-- hottest sensor at 100 degrees C or above, with hysteresis | 1 bit | 02_package_power_board.md R48 | false -/
  over100 : Bool := false
  /-- hottest sensor at 105 degrees C or above, with hysteresis | 1 bit | 02_package_power_board.md R48 | false -/
  over105 : Bool := false
  /-- sensors that stopped reporting | set of 64 | 18_faults_and_service.md R445 | none -/
  sensorsLost : List Nat := []
  /-- telemetry last refreshed | Table 18.11 | 18_faults_and_service.md R462 | DESIGN CHOICE all zero, log 20 -/
  tele : Telemetry := { hottest := 0, quadrants := [], sensors := [], stackTemps := [], cartTemps := [], measured := [], current := 0, power := 0, regulators := [] }
  /-- tick of the last telemetry refresh | tick | 18_faults_and_service.md R462 | 0 -/
  teleTick : Nat := 0
  deriving DecidableEq, Repr

/-! ## Start-up (04_start_up.md) -/

structure Boot where
  /-- device held in reset (PERST_N low, a brown-out, unstable straps or a thermal trip) | 1 bit | 02_package_power_board.md R36, R38, R40, R44 | true -/
  inReset : Bool := true
  /-- straps latched since the last PERST_N release | 1 bit | 02_package_power_board.md R40 | false -/
  strapsLatched : Bool := false
  /-- latched ARCH_EN | 1 bit | 02_package_power_board.md R41 | DESIGN CHOICE false, log 20 -/
  archEn : Bool := false
  /-- latched BOOT_SRC | 2 bits | 02_package_power_board.md R41 | DESIGN CHOICE 0, log 20 -/
  bootSrc : Nat := 0
  /-- latched CHIP_ID | 4 bits | 02_package_power_board.md R41 | DESIGN CHOICE 0, log 20 -/
  chipIdStrap : Nat := 0
  /-- DEV_BOOT.PHASE | 8 bits | 04_start_up.md Table 4.2 | 0x01 -/
  phase : Nat := 0x01
  /-- DEV_BOOT.PUSH_STATUS | 8 bits | 04_start_up.md Table 4.2 | 0x00 -/
  pushStatus : Nat := 0
  /-- DEV_BOOT.FAIL_CODE | 8 bits | 04_start_up.md Table 4.2 | 0x00 -/
  failCode : Nat := 0
  /-- DEV_BOOT.LOADER | 1 bit | 04_start_up.md Table 4.2 | 0 -/
  loader : Bool := false
  /-- DEV_BOOT.IMAGE_COPY | 1 bit | 04_start_up.md Table 4.2 | 0 -/
  imageCopy : Nat := 0
  /-- tick of the last PERST_N release (T2) | tick | 02_package_power_board.md R35 | 0 -/
  t2 : Nat := 0
  /-- tick at which the current phase was entered | tick | 04_start_up.md R73, R89 | 0 -/
  phaseTick : Nat := 0
  /-- work of the current phase done, the next phase's event may come | 1 bit | 04_start_up.md R73 | false -/
  phaseDone : Bool := false
  /-- configuration space reachable, Configuration Request Retry Status ended | 1 bit | 04_start_up.md R81 | false -/
  cfgReachable : Bool := false
  /-- the control firmware runs (from the end of FW_START) | 1 bit | 04_start_up.md R82 | false -/
  fwRunning : Bool := false
  /-- the image that is starting: the FW_START phase was entered with an accepted image | 1 bit | 04_start_up.md R79, R80 | false -/
  imageAccepted : Bool := false
  /-- address and length of the push in progress | 64 and 32 bits | 04_start_up.md Table 4.6 | 0, 0 -/
  push : Nat × Nat := (0, 0)
  /-- intent target of a torn life-cycle transition (the chip is in LIMBO) | Option of a state code | 04_start_up.md R75, R76 | none -/
  limbo : Option Nat := none
  /-- tick of the last link-mark request or TIDE_SYNC release of ALIGN | tick | 04_start_up.md R88 | 0 -/
  alignTick : Nat := 0
  /-- alignment by link mark chosen | 1 bit | 04_start_up.md R86 | false -/
  alignByLink : Bool := false
  /-- TIDE_SYNC released by a stopped start-up | 1 bit | 04_start_up.md R89 | false -/
  stoppedReleased : Bool := false
  /-- configuration record of the boot flash, as read | Table 4.5 | 04_start_up.md R77, R90 | DESIGN CHOICE bin cap 0x64, no regulators, no options until FW_START reads it, log 92 -/
  cfg : FlashCfg := {}
  /-- HBM speed bin | 8 bits | 04_start_up.md R90, Table 5.3 | 0x00 -/
  bin : Nat := 0
  /-- HBM bin of the training attempt to come, none before the first | Option of 8 bits | 04_start_up.md R90 | none -/
  trialBin : Option Nat := none
  deriving DecidableEq, Repr

/-- The running firmware's announced versions and a staged image (R121, R122). -/
structure Fw where
  /-- DEV_IF_VERSION | 32 bits | 05_host_interface.md Table 5.3, R121 | 0 until FW_START ends -/
  ifVersion : Nat := 0
  /-- DEV_FW_VERSION | 64 bits | 05_host_interface.md Table 5.3 | 0 until FW_START ends -/
  build : Nat := 0
  /-- image that started or will start: IF version, build | 32 and 64 bits | 04_start_up.md R80 | 0, 0 -/
  image : Nat × Nat := (0, 0)
  /-- staged image: IF version, build, measurement | Option | 05_host_interface.md R122 | none -/
  staged : Option (Nat × Nat × Nat) := none
  /-- valid signature entries of the staged image: slot and PUBKEY | up to 2 | 16_security_lifecycle_entropy.md R403, R404 | none -/
  stagedKeys : List (Nat × Bytes) := []
  /-- tick until which descriptor emission of managed sequences pauses after activation | tick | 05_host_interface.md R123 | 0 -/
  emitPauseUntil : Nat := 0
  deriving DecidableEq, Repr

/-! ## Tide (03_clockless_pace_and_tide.md) -/

/-- One agreed-count proposal held on this chip (R64): the proposal is the pair (T, action) of one proposing chip. -/
structure Agreed where
  t         : Nat
  src       : Nat                 -- proposing chip
  act       : Action
  proposed  : Nat := 0            -- tick of the proposal
  acks      : List Nat := []      -- members that acknowledged (proposer)
  confirmed : Bool := false       -- confirm held (a member) or sent (the proposer)
  order     : Nat := 0            -- order of confirms (R458)
  cmd       : Option (Nat × Nat) := none   -- the command that waits for T: function, seq
  deriving DecidableEq, Repr

structure Tide where
  /-- tide counter | 64 bits | 03_clockless_pace_and_tide.md R54 | 0 -/
  count : Nat := 0
  /-- TIDE_STATUS.ALIGNED: counter aligned and running | 1 bit | 03_clockless_pace_and_tide.md Table 3.4 | 0 -/
  aligned : Bool := false
  /-- counter frozen by a lost reference | 1 bit | 03_clockless_pace_and_tide.md R60 | false -/
  frozen : Bool := false
  /-- TIDE_STATUS.LINK_ALIGNED | 1 bit | 03_clockless_pace_and_tide.md Table 3.4 | 0 -/
  linkAligned : Bool := false
  /-- TIDE_STATUS.REFCLK_OK | 1 bit | 03_clockless_pace_and_tide.md Table 3.4 | 0 -/
  refclkOk : Bool := false
  /-- TIDE_STATUS.LEADER | 4 bits | 03_clockless_pace_and_tide.md Table 3.4 | 0 -/
  leader : Nat := 0
  /-- TIDE_EPOCH_LEN | 32 bits | 03_clockless_pace_and_tide.md Table 3.4, R61 | 100,000 -/
  epochLen : Nat := 100000
  /-- TIDE_EPOCH_BASE | 64 bits | 03_clockless_pace_and_tide.md Table 3.4 | 0 -/
  base : Nat := 0
  /-- next boundary not yet carried out | tick | 03_clockless_pace_and_tide.md R61, R62 | 0 -/
  nextB : Nat := 0
  /-- an alignment mark is awaited at the falling edge (cold alignment under way) | 1 bit | 03_clockless_pace_and_tide.md R56 | false -/
  coldWait : Bool := false
  /-- tide count modulo 64 at which the crossings were last reset, none before | Option of a count | 03_clockless_pace_and_tide.md R53 | none -/
  crossReset : Option Nat := none
  /-- check-mark intervals skipped in a row | count | 03_clockless_pace_and_tide.md R59, R72 | 0 -/
  marksSkipped : Nat := 0
  /-- last check-mark tick handled | tick | 03_clockless_pace_and_tide.md R59 | 0 -/
  lastCheck : Nat := 0
  /-- consecutive slow epochs by core | per core count | 03_clockless_pace_and_tide.md R51 | none slow -/
  slowEpochs : List (Nat × Nat) := []
  /-- pace of each core over the last epoch, in thousandths of nominal | 64 counts | 03_clockless_pace_and_tide.md R51, R69 | DESIGN CHOICE empty (reads 0), log 20 -/
  paces : List Nat := []
  /-- boundaries in a row the CP failed to acknowledge | count | 18_faults_and_service.md R445 | 0 -/
  cpMissed : Nat := 0
  /-- agreed counts held, in the order received | list | 03_clockless_pace_and_tide.md R64 | empty -/
  agreed : List Agreed := []
  /-- number of confirms sent or received so far | count | 18_faults_and_service.md R458 | 0 -/
  confirms : Nat := 0
  /-- sub-slot in force, as its index in the epoch | 0 to 15 | 15_isles.md R383, R384 | 0 -/
  subslot : Nat := 0
  deriving DecidableEq, Repr

/-! ## Host interface (05_host_interface.md) -/

/-- One function: 0 is the PF, k the VF k (R97). -/
structure Func where
  /-- mailbox slot bytes 0 to 4,095 | 4 KiB | 05_host_interface.md R100 | DESIGN CHOICE 0, log 20 -/
  slots : List Host.Cell := []
  /-- doorbelled slots not yet copied, in doorbell order; MBX_SLOT_BUSY holds their bits | 16 bits | 05_host_interface.md R101, R102 | none -/
  doorbells : List Nat := []
  /-- MBX_ERR | 2 bits | 05_host_interface.md Table 5.7 | 0 -/
  mbxErr : Nat := 0
  /-- MBX_CQ_BASE.ADDR (whole register without ENABLE) | 64 bits | 05_host_interface.md Table 5.7 | 0 -/
  cqBase : Nat := 0
  /-- MBX_CQ_BASE.ENABLE | 1 bit | 05_host_interface.md Table 5.7 | 0 -/
  cqEnable : Bool := false
  /-- MBX_CQ_SHADOW.ADDR | 64 bits | 05_host_interface.md Table 5.7 | 0 -/
  cqShadow : Nat := 0
  /-- MBX_CQ_SHADOW.ENABLE | 1 bit | 05_host_interface.md Table 5.7 | 0 -/
  shadowEnable : Bool := false
  /-- MBX_CQ_HEAD | 8 bits | 05_host_interface.md Table 5.7 | 0 -/
  head : Nat := 0
  /-- MBX_CQ_TAIL | 8 bits | 05_host_interface.md Table 5.7 | 0 -/
  tail : Nat := 0
  /-- entries written and not released since the ring last counted as empty | 0 to 255 | 05_host_interface.md R103, corner cases | 0 -/
  unread : Nat := 0
  /-- IRQ_CAUSE | 6 bits | 05_host_interface.md Table 5.14 | 0 -/
  irqCause : Nat := 0
  /-- IRQ_MASK | 6 bits | 05_host_interface.md Table 5.14 | 0x3F -/
  irqMask : Nat := 0x3F
  /-- tide shadow of the upper half | 32 bits | 03_clockless_pace_and_tide.md R55 | 0 -/
  tideShadow : Nat := 0
  /-- MSI-X table address and data bytes, keyed by offset in the table | 4 KiB or 1 KiB | 20_reference_tables.md R471 | PRESUMED 0 (PCI Express), log 22 -/
  msixTable : List Host.Cell := []
  /-- MSI-X vectors whose mask bit is clear | 256 or 64 bits | 05_host_interface.md R117, 20_reference_tables.md R471 | PRESUMED none clear (PCI Express: masked), log 22 -/
  msixUnmasked : List Nat := []
  /-- MSI-X Function Mask | 1 bit | 05_host_interface.md R117 | PRESUMED false (PCI Express), log 22 -/
  msixFnMask : Bool := false
  /-- MSI-X pending bits | 256 or 64 bits | 20_reference_tables.md R471 | PRESUMED none (PCI Express), log 22 -/
  msixPending : List Nat := []
  /-- the function's outstanding commands in doorbell order | up to 64 | 05_host_interface.md R102 | empty -/
  cmds : List Cmd := []
  /-- next doorbell order number | count | 05_host_interface.md R109 | 0 -/
  nextSeq : Nat := 0
  /-- completions waiting for ring space, final ones up to 64 | list | 05_host_interface.md R105 | empty -/
  heldComps : List Entry := []
  /-- events waiting for ring space | up to 64 | 05_host_interface.md R105 | empty -/
  heldEvents : List Entry := []
  /-- events dropped and not yet announced | 32 bits | 05_host_interface.md R105 | 0 -/
  eventsLost : Nat := 0
  /-- tick at which a Function Level Reset that is not yet complete arrived | Option of a tick | 05_host_interface.md R119 | none -/
  flr : Option Nat := none
  /-- ATS Enable | 1 bit | 05_host_interface.md R98 | PRESUMED false (PCI Express), log 22 -/
  atsEnable : Bool := false
  /-- view SHARD_SELECT chose | 4 bits | 14_determinism_and_replay.md R356 | see R356 -/
  view : Nat := 0
  /-- the TAGs of commands whose access to host memory fails as they execute | set | 05_host_interface.md R98 | none (the model's own, log 95) -/
  failTags : List Nat := []
  deriving DecidableEq, Repr

structure Pcie where
  /-- host link up | 1 bit | 02_package_power_board.md R36, 04_start_up.md R81 | false -/
  linkUp : Bool := false
  /-- base address in the PF's BAR0 | 64 bits | 05_host_interface.md R96, Table 5.1 | PRESUMED 0 (PCI Express), log 22 -/
  bar0 : Nat := 0
  /-- SR-IOV NumVFs | 5 bits | 05_host_interface.md R97, 15_isles.md R380 | PRESUMED 0 (SR-IOV), log 22 -/
  numVFs : Nat := 0
  /-- SR-IOV VF Enable | 1 bit | 05_host_interface.md R97, 15_isles.md R380 | PRESUMED false (SR-IOV), log 22 -/
  vfEnable : Bool := false
  deriving DecidableEq, Repr

/-! ## Memories (06_on_chip_memory.md, 07_tier_one_and_translation.md) -/

structure Mems where
  /-- host memory as each function's bus addresses see it, keyed by function * 2^64 + bus address | 32 spaces of 64-bit addresses | 05_host_interface.md R98 | DESIGN CHOICE unlisted bytes read 0, log 4 -/
  host : List Host.Cell := []
  /-- ATS translations cached, as function * 2^52 + 4 KiB page of its bus addresses | set | 05_host_interface.md R98 | none -/
  ats : List Nat := []
  /-- operand buffers, keyed by core * 2^20 + buffer * 2^18 + offset | 64 times 768 KiB | 06_on_chip_memory.md R124, R130 | 0 (04_start_up.md R83) -/
  ob : List Host.Cell := []
  /-- lagoons, keyed by core * 2^24 + offset | 64 times 16 MiB | 06_on_chip_memory.md R124, R130 | 0 (04_start_up.md R83) -/
  lagoon : List Host.Cell := []
  /-- shelf, keyed by segment * 2^28 + segment offset | 64 times 240 MiB | 06_on_chip_memory.md R124, R130 | 0 (04_start_up.md R83) -/
  shelf : List Host.Cell := []
  /-- tier one, keyed by the SPACE 0xB physical address | 384 GiB | 07_tier_one_and_translation.md R157 | 0 (04_start_up.md R91) -/
  hbm : List Host.Cell := []
  /-- poisoned 512 B lines of operand buffers | set of line numbers | 18_faults_and_service.md R450, R451 | none -/
  obPoison : List Nat := []
  /-- poisoned 256 B lines of lagoons | set of line numbers | 18_faults_and_service.md R450, R451 | none -/
  lagoonPoison : List Nat := []
  /-- poisoned 128 B lines of the shelf | set of line numbers | 18_faults_and_service.md R450, R451 | none -/
  shelfPoison : List Nat := []
  /-- poisoned 64 B units of tier one | set of unit numbers | 07_tier_one_and_translation.md R163 | none -/
  hbmPoison : List Nat := []
  /-- stacks that stopped answering: every unit of their frames reads as poisoned | set of stacks | 07_tier_one_and_translation.md R165, corner cases | none -/
  stackFail : List Nat := []
  deriving DecidableEq, Repr

/-- The service state of a unit that is not as it was at the end of start-up (R458): state code and T of the last change. -/
structure UnitRec where
  state : Nat := 0      -- 0 IN_SERVICE, 1 RETIRING, 2 RETIRED, 3 RETURNING, 4 ABSENT
  lastT : Nat := 0
  deriving DecidableEq, Repr

/-- A retirement or return in progress (R456, R457, R166, R138). -/
structure UnitJob where
  cls     : Nat
  idx     : Nat
  ret     : Bool := false           -- a return, not a retirement
  since   : Nat := 0                -- tick r of Table 7.4
  reqT    : Nat := 0                -- requested T
  t       : Option Nat := none      -- the agreed count once proposed
  targets : List (Nat × Nat) := []  -- frames on p and the frames that replace them; bank to spare for a shelf bank
  hold    : List Nat := []          -- isles whose release waits for the dirty copy
  cmd     : Option (Nat × Nat) := none
  lagoon  : Bool := false           -- the core's lagoon failed after T of its return was agreed
  deriving DecidableEq, Repr

/-- Units released and being zeroed (R151, R164). -/
structure ScrubJob where
  lagoonUnits : List Nat := []
  extents     : List Nat := []
  frames      : List Nat := []
  cores       : List Nat := []
  endTick     : Nat := 0
  deriving DecidableEq, Repr

structure Units where
  /-- service state of the units that differ from IN_SERVICE, keyed by (class, index); a core disabled by grade is ABSENT | 3 bits each | 18_faults_and_service.md R458, Table 18.7 | none retired -/
  recs : List ((Nat × Nat) × UnitRec) := []
  /-- cores whose lagoon is out of service (LAGOON_FAIL) | 64 bits | 06_on_chip_memory.md R131, 18_faults_and_service.md R445 | none -/
  lagoonsOut : List Nat := []
  /-- spare map: (segment, bank) to the spare that replaces it | up to 128 entries | 06_on_chip_memory.md R136, R137, R138 | empty -/
  spareMap : List ((Nat × Nat) × Nat) := []
  /-- spares that failed their march | set of (segment, spare) | 06_on_chip_memory.md R137 | none -/
  sparesBad : List (Nat × Nat) := []
  /-- failed banks relocated into the withdrawn extents | set of (segment, bank) | 06_on_chip_memory.md R137 | none -/
  relocated : List (Nat × Nat) := []
  /-- banks marked for relocation at the next boot | set of (segment, bank) | 06_on_chip_memory.md R138 | none -/
  relocPending : List (Nat × Nat) := []
  /-- extents withdrawn from allocation, from extent 239 downward | 8 bits | 06_on_chip_memory.md R137 | 0 -/
  withdrawn : Nat := 0
  /-- stacks retired at start-up | 8 bits | 07_tier_one_and_translation.md Table 7.3 | none -/
  stacksOut : List Nat := []
  /-- corrected-word ticks within the last 3,600 s, keyed by (domain, unit) | lists of ticks | 18_faults_and_service.md R445, 07_tier_one_and_translation.md R165 | none -/
  ceTimes : List ((Nat × Nat) × List Nat) := []
  /-- uncorrectable words or units found within the last 86,400 s, as (tick, its number), keyed by (domain, unit) | lists | 18_faults_and_service.md R445, 07_tier_one_and_translation.md R165 | none -/
  ueTimes : List ((Nat × Nat) × List (Nat × Nat)) := []
  /-- retirements and returns in progress, oldest first | list | 18_faults_and_service.md R456 | empty -/
  jobs : List UnitJob := []
  /-- pseudo-channels that wait for the retirement in progress to end | set | 07_tier_one_and_translation.md corner cases | none -/
  pcQueue : List Nat := []
  /-- frames of returned pseudo-channels that refill the retirement reserve | set of chip frames | 07_tier_one_and_translation.md R167 | none -/
  reserveExtra : List Nat := []
  /-- where the control firmware's frames of row 0 lie after a retirement moved them: frame of row 0 to its place | list | 07_tier_one_and_translation.md R158, R166 | none moved -/
  rowZero : List (Nat × Nat) := []
  /-- released units being zeroed | list | 06_on_chip_memory.md R151, R152 | empty -/
  scrubs : List ScrubJob := []
  deriving DecidableEq, Repr

/-! ## Isles (15_isles.md) -/

inductive IsleState where
  | absent | created | enabled | quiescing | scrubbing | disabled
  deriving DecidableEq, Repr

/-- An isle's grant: the resource record of Table 15.2 as last granted (R369, R374). -/
structure Grant where
  pool    : Bool := false
  lagoons : Nat := 0
  cores   : Nat := 0            -- mask
  shelf   : Nat := 0
  frames  : Nat := 0
  table   : Nat := 0
  streams : Nat := 0
  seqs    : Nat := 0
  windows : Nat := 0
  cay     : List Nat := [0, 0]
  share   : List Nat := [0, 0]
  parkWait : Nat := 2000
  deriving DecidableEq, Repr

/-- A pending target command of a QUIESCING or SCRUBBING isle (R376): function, seq, and the target it asked for. -/
structure TargetCmd where
  fn     : Nat
  seq    : Nat
  target : IsleState
  deriving DecidableEq, Repr

/-! ## The paged KV cache (12_kv_cache.md) -/

/-- Page states (Table 7.8, Table 12.2). -/
inductive PageState where
  | free | staging | committed | shared | parked | inFlight | lost
  deriving DecidableEq, Repr

/-- One page of a sequence: state, program address of its place, tokens, and the (layer) copies already made by committed
invocations (R291, R299). For a SHARED page, node names the entry of the prefix tree it refers to. -/
structure Page where
  state  : PageState := .free
  addr   : Nat := 0
  tokens : List Nat := []
  copied : List Nat := []
  node   : Option Nat := none
  deriving DecidableEq, Repr

/-- A shoal slot in use: its number in the owner slot's pool, and the token of its position or node (R292). -/
structure ShoalSlot where
  slot  : Nat
  token : Nat
  deriving DecidableEq, Repr

/-- Geometry and pools of an isle (R282, R284), as SEQ_POOL_SET set them. -/
structure KvPool where
  pageLog2 : Nat := 6
  shoalFirst : Nat := 0
  shoalUnits : Nat := 1
  layers : Nat := 1
  heads  : Nat := 1
  vec    : Nat := 64
  shelfBase : Nat := 0
  shelfLen  : Nat := 0
  t1Base : Nat := 0
  t1Len  : Nat := 0
  deriving DecidableEq, Repr

/-- Sequence states (Table 12.1). -/
inductive SeqState where
  | resident | parking | parked | unparking | broken
  deriving DecidableEq, Repr

/-- A consumed input frame waiting in the pending queue (R296). -/
structure InFrame where
  kind  : Nat
  count : Nat
  eot   : Bool
  raw   : Bytes                        -- the frame, header and payload, as it was read
  step  : Nat := 0                     -- its recorded step and LAST, in replay mode (R367)
  last  : Bool := true
  deriving DecidableEq, Repr

/-- A parked image or shadow image: where it lies, what it holds, and under which key epoch (R309, R310, R416). -/
structure Image where
  slot   : Nat
  blocks : List Nat            -- cay blocks of its run
  bytes  : Nat                 -- bytes written
  epoch  : Nat                 -- key epoch identifier
  nonce  : Nat := 0
  pages  : List (Bytes × List Nat) := []    -- content and tokens of pages 0 to F / P - 1
  shoal  : List (Bytes × Nat) := []         -- content and token of positions F to C - 1
  c      : Nat := 0
  f      : Nat := 0
  step   : Nat := 0
  seed   : Nat := 0
  domain : Nat := 0
  chain  : Nat := 0
  sealed : Bytes := []         -- what was written: header, encrypted body and tag
  deriving DecidableEq, Repr

/-- A sequence (R286 to R293). -/
structure Seq where
  state   : SeqState := .resident
  managed : Bool := false
  share   : Bool := false
  place   : Nat := 0               -- 0 tier one, 1 shelf
  owner   : Nat := 0
  lmax    : Nat := 4096
  replicas : Nat := 0
  home    : Bool := true
  seed    : Nat := 0
  domain  : Nat := 0
  c       : Nat := 0
  f       : Nat := 0
  step    : Nat := 0
  lastToken : Nat := 0xFFFFFFFF
  cont    : Bool := false
  rewound : Bool := false
  fresh   : Bool := true
  waited  : Bool := false               -- withheld at a boundary since its last committed step (WITHHELD of Table 14.6)
  lateOn  : Bool := false               -- a command for it came after its step: the steps that follow carry INPUT_LATE (R366)
  late    : Bool := false               -- its next step carries INPUT_LATE (R366, R367)
  pages   : List Page := []
  shoal   : List ShoalSlot := []        -- committed region, positions F to C - 1 in order
  prov    : List ShoalSlot := []        -- provisional region of the invocation in flight
  prog    : Option Nat := none
  inStream  : Option Nat := none
  outStream : Option Nat := none
  inputs  : List InFrame := []
  eligibleSince : Option Nat := none
  lastEot : Nat := 0
  needInput : Bool := false             -- rewound, and no input consumed since (R19)
  moves   : List Nat := []              -- page indices scheduled to move in or out (R287)
  moved   : List Nat := []              -- of these, the ones copied and switched at the next boundary
  emit    : List Nat := []              -- descriptors still to be emitted (R176)
  image   : Option Image := none        -- parked image (PARKED, UNPARKING) or shadow image (R310)
  tierOnePark : Bool := false
  parkCmd : Option Nat := none          -- seq of the SEQ_PARK that waits, on the isle's function
  parkStart : Option Nat := none        -- tick at which the park's write started
  parkFlush : Bool := false             -- image written and flushed; pages are freed at the next boundary
  parkImage : Option Image := none      -- the image being written
  abandon : Option Status := none       -- the park is to be abandoned at the next boundary, with this final status
  unparkWanted : Bool := false          -- a wake accepted after the final flush of a park (R308)
  unparkRead : Bool := false            -- the image has been read and verified
  unparkDone : Bool := false            -- on every replica chip too; completes at the next boundary
  rewindTo : Option Nat := none         -- a rewind that waits for the unpark (Table 12.7 step 6)
  lossDue : Option Status := none       -- the content is lost, with page effects at the next boundary (R199, R200, R312)
  kvWins  : List (Nat × Nat) := []      -- replica chips and the window of each over the isle's pools there (R288, R343)
  unparkEnd : Option Status := none     -- the slot can no longer be read: the unpark ends with it at the next boundary (R185)
  rewindHold : Bool := false            -- a rewind came while it was parked: it is applied before input is consumed (Table 12.7)
  content : Option Image := none        -- UNPARKING: the image as it has been read and verified
  farHeld : List Nat := []              -- replica chips that hold the sequence's pages (R14)
  farPlaces : List (Nat × List Nat) := []   -- unpark: replica chips and the offsets in those windows of the places each took (R311)
  farSent : List Nat := []              -- unpark: replica chips to which the pages, or the order to restore them, went
  farDone : List Nat := []              -- unpark: replica chips that hold every page
  deriving DecidableEq, Repr

/-- What an isle did and suffered between two boundaries, for R468 and R469. -/
structure Pressure where
  mat  : Nat := 0                       -- row-steps of MATMUL and EXPAND
  att  : Nat := 0                       -- row-steps of ATTEND and TAP
  rau  : Nat := 0                       -- RAU job ticks
  late : Nat := 0                       -- epochs overrun
  wait : Nat := 0                       -- boundaries that the longest-withheld sequence had waited
  gone : List (Nat × Nat) := []         -- sequences that left the active count, by program
  deriving DecidableEq, Repr

/-- A valid leaf entry (Table 7.7) or page descriptor (Table 7.9): state, program address, and the page index a descriptor repeats. -/
structure TabEntry where
  state : PageState := .free
  addr  : Nat := 0
  page  : Nat := 0
  deriving DecidableEq, Repr

/-- A VALID L1 entry (Table 7.5) and what it leads to: the VALID L2 entries with the addresses of their leaf tables (Table 7.6), and the
leaf entries of a direct sequence or the descriptors of a managed one, by page index; an entry that is not listed is FREE and zero. -/
structure SeqTable where
  managed  : Bool := false
  pageLog2 : Nat := 6
  count    : Nat := 1
  base     : Nat := 0
  l2       : List (Nat × Nat) := []
  entries  : List (Nat × TabEntry) := []
  deriving DecidableEq, Repr

/-- An entry of a slice's translation cache (R168): its tag and the page's program address. -/
structure StuEntry where
  isle   : Nat
  handle : Nat
  page   : Nat
  addr   : Nat
  deriving DecidableEq, Repr

/-- An entry of an isle's prefix tree (R303, R304). -/
structure TreeNode where
  id     : Nat
  hash   : Nat
  domain : Nat
  addr   : Nat
  tokens : List Nat
  refs   : Nat                 -- references by sequences
  inTree : Bool := true        -- the tree's own reference
  lastUse : Nat := 0
  poisoned : Bool := false
  deriving DecidableEq, Repr

/-- Batch binding of a program (R294). -/
structure Batch where
  eCap   : Nat := 1
  aDec   : Nat := 1
  featPos : Nat := 0
  rltBase : Nat := 0
  recBase : Nat := 0
  outBase : Nat := 0
  inBase : Nat := 0
  inBytes : Nat := 0
  deriving DecidableEq, Repr

/-! ## Cay slots and the life governor (08_cay_cartridges.md) -/

/-- Cay slot states (Table 8.4). -/
inductive CayState where
  | empty | bringup | unpaired | online | readOnly | ejecting | ejected | refused | failed | quiesced
  deriving DecidableEq, Repr

/-- An isle's bucket on a slot (R192): credit in bytes (it may go negative under R196), and bytes written this incarnation. -/
structure Bucket where
  credit  : Int := 0
  tick    : Nat := 0           -- tick of the last accrual
  queued  : Nat := 0           -- charges admitted and not yet written
  written : Nat := 0
  debt    : Bool := false      -- went negative, and has not been above zero since (R196)
  deriving DecidableEq, Repr

structure CaySlot where
  /-- slot state | Table 8.4 | 08_cay_cartridges.md R186 | EMPTY -/
  state : CayState := .empty
  /-- bring-up step of Table 4.10 reached, 0 before step 1 | 0 to 7 | 04_start_up.md R93 | 0 -/
  step : Nat := 0
  /-- tick at which the step began | tick | 04_start_up.md R93 | 0 -/
  stepTick : Nat := 0
  /-- slot retired with UNIT_RETIRE | 1 bit | 08_cay_cartridges.md R187 | false -/
  retired : Bool := false
  /-- CAP.TO of the controller, in units of 500 ms | 8 bits | 04_start_up.md R93 | 0 -/
  capTo : Nat := 0
  /-- the controller's identification has been read | 1 bit | 08_cay_cartridges.md R182, R183 | false -/
  identified : Bool := false
  /-- the slot has been READ_ONLY since its bring-up | 1 bit | 08_cay_cartridges.md R194 | false -/
  wornOut : Bool := false
  /-- a reading of the health log for a checkpoint is under way | 1 bit | 08_cay_cartridges.md R190, R192 | false -/
  reading : Bool := false
  /-- that checkpoint is the one before a quiesce's shutdown | 1 bit | 08_cay_cartridges.md R198 | false -/
  stopDue : Bool := false
  /-- REFUSED for AUTH_FAIL alone | 1 bit | 08_cay_cartridges.md R187, R204 | false -/
  authOnly : Bool := false
  /-- cartridge data: capacity in GiB, RATED, READ_RATE, WRITE_RATE, vendor, serial | Tables 8.1, 8.2 | 08_cay_cartridges.md R179 to R182 | zero -/
  info : CartInfo := { meetsTable81 := false, capacityGiB := 0, rated := 0, readRate := 0, writeRate := 0, vendor := 0, serial := 0 }
  /-- identity digest, once SPDM has reported it | Option of 384 bits | 08_cay_cartridges.md R182 | none -/
  identity : Option Nat := none
  /-- SPDM certificate slot in use | 3 bits, 0xFF none | 08_cay_cartridges.md R185, Table 8.6 | 0xFF -/
  certSlot : Nat := 0xFF
  /-- lowest populated certificate slot as SPDM last reported it, and its leaf's digest | 3 and 384 bits | 08_cay_cartridges.md R182 | 0xFF, 0 -/
  lowest : Nat × Nat := (0xFF, 0)
  /-- IV drawn for the pairing record that CART_PAIR will write | 12 bytes | 16_security_lifecycle_entropy.md R417 | none -/
  pairIv : Bytes := []
  /-- pairing record as read or written | Option, Table 8.3 | 08_cay_cartridges.md R184 | none -/
  pairing : Option PairRecord := none
  /-- SMART fields last read | R190 | 08_cay_cartridges.md R190 | zero -/
  smart : Smart := { critical := 0, spare := 0, threshold := 0, used := 0, duWritten := 0 }
  /-- bytes written by the chip since the last SMART read | count | 08_cay_cartridges.md R190 | 0 -/
  sinceRead : Nat := 0
  /-- governor clock: seconds at the base, and the tide count of the base | 64 bits each | 08_cay_cartridges.md R191 | 0, 0 -/
  clock : Nat × Nat := (0, 0)
  /-- governed rate Rg in bytes per second | count | 08_cay_cartridges.md R192 | 0 -/
  rg : Nat := 0
  /-- tide count of the last checkpoint | tick | 08_cay_cartridges.md R192 | 0 -/
  checkTick : Nat := 0
  /-- isle buckets | per isle | 08_cay_cartridges.md R192 | none created -/
  buckets : List (Nat × Bucket) := []
  /-- blocks awaiting deallocation | set of blocks | 08_cay_cartridges.md R189, R201 | none -/
  dealloc : List Nat := []
  /-- deallocation of every block that holds no image, begun at bring-up or CART_UNPAIR, not yet complete | 1 bit | 08_cay_cartridges.md R189, R201 | false -/
  wipe : Bool := false
  /-- ejection in progress: mode (false MIGRATE, true DISCARD) and the command's seq on the PF | Option | 08_cay_cartridges.md R195 | none -/
  eject : Option (Bool × Nat) := none
  /-- migrated images waiting for the boundary that switches them: (isle, handle) and the new image | list | 08_cay_cartridges.md R195 | empty -/
  migrated : List ((Nat × Nat) × Image) := []
  /-- a shutdown notification has been issued | 1 bit | 08_cay_cartridges.md R195, R198 | false -/
  shutdown : Bool := false
  /-- removal or loss recognized, page effects due at the next boundary: the status the losses carry | Option | 08_cay_cartridges.md R199, R200 | none -/
  lossDue : Option Status := none
  /-- CAY_PWR_EN release due at this tick | Option of a tick | 02_package_power_board.md R45 | none -/
  powerOffAt : Option Nat := none
  /-- a checkpoint's write to the pairing area is deferred until the entropy service recovers | 1 bit | 16_security_lifecycle_entropy.md R417 | false -/
  checkDue : Bool := false
  /-- SPDM waits for CART_PAIR: the command's seq on the PF | Option | 08_cay_cartridges.md R204 | none -/
  pairCmd : Option Nat := none
  deriving DecidableEq, Repr

/-! ## Task programs, invocations and units (10_tiling_and_task_programs.md) -/

inductive ProgState where
  | loaded | running | faulted
  deriving DecidableEq, Repr

/-- A draw binding (R358). -/
structure Draw where
  nodes : Nat
  draws : Nat
  base  : Nat
  deriving DecidableEq, Repr

/-- A loaded program (R229 to R233). -/
structure Prog where
  image  : Bytes := []
  state  : ProgState := .loaded
  mode   : Nat := 0                  -- of the last PROG_RUN
  committed : Nat := 0
  aborted : Nat := 0
  batch  : Option Batch := none
  draw   : Option Draw := none
  table  : Nat := 0                  -- next table index j (R294)
  invCtr : Nat := 0                  -- next invocation number
  oneShot : Bool := false            -- MODE 2 not yet released
  regions : List (Nat × Nat × Nat) := []   -- operand regions: view, program address, length (R232)
  shards : Nat := 0                  -- shard set (R330)
  lostB  : Option Nat := none        -- boundary interval in which a PEER_LOST event was posted (R337)
  withheldB : Option Nat := none     -- boundary at which R333 first withheld its release, until it resumes
  deriving DecidableEq, Repr

/-- A used batch entry of an invocation (R295, Table 12.4). -/
structure Entry12 where
  seq   : Nat                        -- handle
  a     : Nat                        -- A_e
  c     : Nat
  f     : Nat
  step  : Nat
  flushable : Nat
  frames : Nat := 0                  -- pending frames it received
  flushed : List (Nat × Nat × Nat) := []  -- layers copied: page index, first layer, number (R299)
  wrote  : List (Nat × Nat × Nat × Nat) := []  -- KVAPPENDs: shard, layer, provisional slot, head (R362)
  flags : Nat := 0                   -- WITHHELD, INPUT_LATE, REWOUND
  deriving DecidableEq, Repr

/-- An invocation in flight (R233). -/
structure Inv where
  prog   : Nat
  num    : Nat                       -- invocation number
  start  : Nat                       -- boundary of phase 0
  phase  : Nat := 0                  -- phase released last
  table  : Nat := 0
  finalB : Nat := 0                  -- boundary at which it commits
  entries : List Entry12 := []
  poisoned : Bool := false
  poisonLines : List Nat := []       -- poisoned lines read, as view * 2^48 + program address of the line (R453)
  faulted : Bool := false
  flags  : Nat := 0                  -- Table 14.7
  collFail : Nat := 0                -- cause of a failed collective (Table 13.6), 0 none
  done   : Bool := false             -- STEP_DONE sent
  doneFrom : List Nat := []          -- chips whose STEP_DONE arrived
  failFrom : List (Nat × Nat) := []  -- chips whose STEP_FAIL arrived, with cause
  overrun : Nat := 0                 -- epochs overrun
  stopped : Bool := false            -- stopped at the overrun limit (R67)
  deriving DecidableEq, Repr

/-- A MATMUL with RING that streams (R208, R244): rows read and written, the weight tile and scales as loaded, and the row that has
been read and waits for its place. -/
structure RingRun where
  rd     : Nat := 0
  wr     : Nat := 0
  tile   : Bytes := []
  scales : Bytes := []
  poison : Bool := false               -- poison in the weight tile, its scales or a stage operand
  row    : List (Byte × Bool) := []
  deriving DecidableEq, Repr

/-- A descriptor waiting or running on a unit: its invocation, list index and words. -/
structure Task where
  id    : Nat                        -- order of issue within the unit's release
  prog  : Nat
  inv   : Nat
  phase : Nat
  index : Nat
  desc  : Bytes
  ext   : Bytes := []
  wait  : List Nat := []             -- source tags of requests it still waits for
  ring  : Option RingRun := none
  round : Nat := 0                   -- COLLECT: rounds begun; one more when its result is written
  busy  : Bool := false              -- it has issued and its own work is not over
  reps  : List (List Nat) := []      -- MOVE: tags that each repeat not yet counted in PER_CTR waits for (R242)
  deriving DecidableEq, Repr

/-- A unit u = 64 h + s of an isle: slot s of the instance of rank h (R234, R354). -/
structure TUnit where
  queue   : List Task := []          -- in the unit's window of its core's task queue, not yet issued
  later   : List Task := []          -- still in the table frames
  window  : Nat := 256               -- queue entries of the unit: floor(256 / k)
  running : List Task := []          -- issued, not complete
  stopped : Bool := false            -- after a task fault (R241)
  counters : List (Nat × Nat) := []  -- nonzero signal counters
  deriving DecidableEq, Repr

/-! ## Score taps (11_attention_engine.md) -/

inductive TapState where
  | free | armed | done
  deriving DecidableEq, Repr

/-- A row that an invocation in flight has captured (R277, R278): its position, its node where it is staged, and its entry. -/
structure TapRow where
  prog  : Nat
  inv   : Nat
  unit  : Nat
  pos   : Nat
  entry : Nat := 0
  p0    : Nat := 0
  node  : Option Nat := none
  fin   : Bool := false                -- a TAP task has finished it
  miss  : Bool := false                -- it counts as missed
  deriving DecidableEq, Repr

structure Tap where
  state  : TapState := .free
  seq    : Nat := 0
  layer  : Nat := 0
  head   : Nat := 0
  raw    : Bool := false
  qf     : Nat := 0                  -- first query position and their number
  qn     : Nat := 0
  kf     : Nat := 0                  -- first key position and their number
  kn     : Nat := 0
  base   : Nat := 0                  -- DEST, in its view
  view   : Nat := 0
  captured : List Nat := []          -- positions captured by committed invocations
  pendingRows : List TapRow := []    -- rows of invocations in flight
  missed : List Nat := []            -- positions missed by committed invocations
  deriving DecidableEq, Repr

/-! ## Record and replay (14_determinism_and_replay.md) -/

/-- A log record not yet written: its type (Table 14.4), home shard or 0xFF, relative index, boundary tick and body. -/
structure LogRec where
  ty    : Nat
  shard : Nat
  rel   : Nat
  tide  : Nat
  body  : Bytes
  deriving DecidableEq, Repr

structure LogSession where
  stream : Nat
  b0     : Nat
  epoch  : Nat                       -- epoch length of the session, which a change ends (R359)
  frames : Bool
  digests : Bool
  complete : Bool
  seqno  : Nat := 0
  recs : List LogRec := []           -- records not yet written, in their order (R360, R361)
  cmds : List (Nat × LogRec) := []   -- COMMAND records of the coming boundary, by place in the function's queue (R360)
  ending : Option Nat := none        -- reason of an END record still to be written
  deriving DecidableEq, Repr

structure ReplayMode where
  b0     : Nat                       -- recorded b0
  start  : Nat                       -- b0'
  matched : Bool
  index  : Nat := 0
  horizon : Nat := 0
  started : Bool := false
  late   : Bool := false             -- a command came after its index: the steps that follow carry INPUT_LATE (R366)
  deriving DecidableEq, Repr

/-! ## Security, life-cycle and entropy (16_security_lifecycle_entropy.md) -/

structure Fuses where
  /-- grade code | 8 bits | 05_host_interface.md Table 5.3, 00_scope.md R1 | fused; DESIGN CHOICE 0x40 (EGD-1664), log 23 -/
  grade : Nat := 0x40
  /-- stepping code | 8 bits | 00_scope.md R3 | fused; DESIGN CHOICE 0xB0, log 23 -/
  stepping : Nat := 0xB0
  /-- cores disabled by grade | 64-bit mask | 00_scope.md R1, R2 | fused; DESIGN CHOICE 0, log 23 -/
  disabled : Nat := 0
  /-- fused HBM rating, as a bin code | 8 bits | 04_start_up.md R90 | fused; DESIGN CHOICE 0x64, log 23 -/
  binRating : Nat := 0x64
  /-- shelf banks named by fused repairs | set of (segment, bank) | 04_start_up.md Table 4.8 | DESIGN CHOICE none, log 23 -/
  repairs : List (Nat × Nat) := []
  /-- slot digests SLOT0 to SLOT3, none where not fused | 4 times 384 bits | 16_security_lifecycle_entropy.md R398 | fused; DESIGN CHOICE 0 each, log 23 -/
  slotDigests : List (Option Nat) := [some 0, some 0, some 0, some 0]
  /-- rows with a fuse that four pulses do not blow: 10 + x INTx, 20 + x COMx, 30 + i IDXi, 40 + s REVs | set of rows | 16_security_lifecycle_entropy.md R398, R409 | DESIGN CHOICE none, log 23 -/
  stuck : List Nat := []
  /-- fuses blown in rows IDX1 to IDX3 | 0 to 32 each | 16_security_lifecycle_entropy.md R398 | fused; DESIGN CHOICE 0, log 23 -/
  idx : List Nat := [0, 0, 0]
  /-- fuses blown in rows REV0 to REV3 | 0 to 32 each | 16_security_lifecycle_entropy.md R398 | fused; DESIGN CHOICE 0, log 23 -/
  rev : List Nat := [0, 0, 0, 0]
  /-- fuses blown in intent rows INT1 to INT5 | 0 to 32 each | 16_security_lifecycle_entropy.md R398 | fused; DESIGN CHOICE FIELD (32, 32, 0, 0, 0), log 23 -/
  int : List Nat := [32, 32, 0, 0, 0]
  /-- fuses blown in commit rows COM1 to COM5 | 0 to 32 each | 16_security_lifecycle_entropy.md R398 | fused; DESIGN CHOICE FIELD (32, 32, 0, 0, 0), log 23 -/
  com : List Nat := [32, 32, 0, 0, 0]
  /-- unique device secret | 256 bits | 16_security_lifecycle_entropy.md R398, R399 | fused; DESIGN CHOICE 0, log 23 -/
  uds : Nat := 0
  /-- check bits of the UDS rows | 32 bits | 16_security_lifecycle_entropy.md R398, Table 16.2 | fused; DESIGN CHOICE 0, log 23 -/
  udsCheck : Nat := 0
  /-- digest of the DeviceID public key, as the DeviceID certificate in the certificate store carries it | 384 bits | 16_security_lifecycle_entropy.md R400, R401 | fused; DESIGN CHOICE that of the UDS 0, log 23 -/
  deviceId : Nat := 0xdd0360d996753eff685090bbb9be325c0cb35fd3c9ea62ce2987449fd78c33e16b1453856900076a78230077e85aa1b7
  /-- certificate store: the manufacturing CA's certificate and the DeviceID certificate | up to 8 KiB | 16_security_lifecycle_entropy.md R401 | fused; DESIGN CHOICE 2,048 zero bytes, log 23 -/
  certStore : Bytes := List.replicate 2048 0
  deriving DecidableEq, Repr

/-- A row that is being programmed (R39, R398): fuses blown before and in the end, and the ticks at which it begins and is verified. -/
structure RowBurn where
  row    : Nat
  before : Nat
  goal   : Nat
  start  : Nat
  stop   : Nat
  deriving DecidableEq, Repr

/-- What programming is for: a transition to a state, the key index n, or the revocation of a slot (R404, R405, R407). -/
inductive BurnFor where
  | transition (target : Nat)
  | advance (n : Nat)
  | revoke (slot : Nat)
  deriving DecidableEq, Repr

/-- The programming that a command asked for. -/
structure Burn where
  fn   : Nat
  seq  : Nat
  what : BurnFor
  rows : List RowBurn
  deriving DecidableEq, Repr

/-- What an entry of the key store is the key of (R412, Table 16.9). -/
inductive KeyUse where
  | deviceId | pairing | attest       -- R400: the DeviceID key, KP and the alias key
  | epoch (id : Nat)                  -- R414, by its identifier
  | sip (isle : Nat)                  -- R303: an isle's SipHash key
  deriving DecidableEq, Repr

/-- An entry of the key store. -/
structure KeyEntry where
  use   : KeyUse
  bytes : Bytes
  deriving DecidableEq, Repr

structure Sec where
  /-- life-cycle state decided at FUSES | 4 bits | 16_security_lifecycle_entropy.md R406, 04_start_up.md R75 | decided at FUSES; DESIGN CHOICE 0 before it, log 24 -/
  lc : Nat := 0
  /-- key index in force since boot | 2 bits | 16_security_lifecycle_entropy.md R404 | decided at FUSES; 0 -/
  keyIdx : Nat := 0
  /-- UDS rows locked | 1 bit | 16_security_lifecycle_entropy.md R399 | false -/
  udsLocked : Bool := false
  /-- firmware measurement register | 384 bits | 04_start_up.md R80, 16_security_lifecycle_entropy.md R403 | 0 -/
  measurement : Nat := 0
  /-- valid signature entries of the running image: slot and PUBKEY | up to 2 | 16_security_lifecycle_entropy.md R403, R404 | none -/
  imageKeys : List (Nat × Bytes) := []
  /-- key store, by entry index | 128 entries | 16_security_lifecycle_entropy.md R412, R400, R414 | empty -/
  store : List (Nat × KeyEntry) := []
  /-- DeviceID key locked against the control firmware | 1 bit | 16_security_lifecycle_entropy.md R400 | false -/
  devLocked : Bool := false
  /-- alias certificate of this boot | bytes | 16_security_lifecycle_entropy.md R400, R401 | none -/
  aliasCert : Bytes := []
  /-- fuse programming in progress, in order | list | 02_package_power_board.md R39, 16_security_lifecycle_entropy.md R398, R409 | none -/
  burns : List Burn := []
  /-- a life-cycle transition completed since boot: its target | Option of a code | 16_security_lifecycle_entropy.md R408, 04_start_up.md R76 | none -/
  lcDone : Option Nat := none
  /-- outstanding challenge: its 32 bytes and the tick of issue | Option | 16_security_lifecycle_entropy.md R407, R423 | none -/
  challenge : Option (Bytes × Nat) := none
  /-- DEBUG_UNLOCKED, with SCOPE | Option of 2 bits | 16_security_lifecycle_entropy.md R410 | none -/
  unlocked : Option Nat := none
  /-- JTAG instruction register: 0 BYPASS, 1 IDCODE, 2 SAMPLE/PRELOAD, 3 EXTEST | code | 16_security_lifecycle_entropy.md R411 | PRESUMED 1 (IEEE 1149.1: IDCODE), log 22 -/
  jtagIr : Nat := 1
  /-- pin values captured by SAMPLE/PRELOAD | bits | 16_security_lifecycle_entropy.md R411 | PRESUMED 0, log 22 -/
  boundary : Nat := 0
  deriving DecidableEq, Repr

inductive EntState where
  | unstarted | running | restarting | failed
  deriving DecidableEq, Repr

/-- A request that the entropy service holds (R419): what waits for it. -/
inductive EntReq where
  | cmd (fn seq bytes : Nat)            -- a mailbox command
  | isleEnd (isle bytes : Nat)          -- the key draw at scrub end (R377)
  | isle0Keys (bytes : Nat)             -- isle 0's first epoch (R414)
  deriving DecidableEq, Repr

structure Entropy where
  /-- service state | R418, R419 | 16_security_lifecycle_entropy.md R418 | unstarted until the start-up tests end -/
  state : EntState := .unstarted
  /-- output buffer | up to 2,048 bytes | 16_security_lifecycle_entropy.md R418 | empty -/
  buffer : Bytes := []
  /-- requests held, in arrival order | up to 256 | 16_security_lifecycle_entropy.md R418, R419 | empty -/
  queue : List EntReq := []
  /-- tick of the failure that began RESTARTING | tick | 16_security_lifecycle_entropy.md R419 | 0 -/
  failTick : Nat := 0
  /-- tick at which the running start-up test began | tick | 16_security_lifecycle_entropy.md R418 | 0 -/
  testTick : Nat := 0
  /-- a start-up test is under way | 1 bit | 16_security_lifecycle_entropy.md R418 | true (it runs at VSTBY rise) -/
  testing : Bool := true
  /-- the test under way is ENTROPY_RESTART's: its command's seq on the PF | Option | 16_security_lifecycle_entropy.md R419 | none -/
  restartCmd : Option Nat := none
  /-- restarts since READY | count | 16_security_lifecycle_entropy.md R423 | 0 -/
  restarts : Nat := 0
  /-- Key and V of the DRBG, none while it is not instantiated | Option of 32 and 16 bytes | 16_security_lifecycle_entropy.md R418 | none -/
  drbg : Option (Bytes × Bytes) := none
  /-- DRBG known-answer test passed | 1 bit | 16_security_lifecycle_entropy.md R418, R421 | false -/
  kat : Bool := false
  /-- generate calls since the last reseed | count | 16_security_lifecycle_entropy.md R418 | 0 -/
  calls : Nat := 0
  /-- tick of the last reseed | tick | 16_security_lifecycle_entropy.md R418 | 0 -/
  seedTick : Nat := 0
  deriving DecidableEq, Repr

/-- An isle's key epochs (R414, R415): identifiers of the current and previous epoch, the count of epochs drawn in this
incarnation, and image counts per live epoch (R416). The keys themselves lie in the key store. -/
structure Keys where
  current  : Option Nat := none
  previous : Option Nat := none
  drawn    : Nat := 0
  images   : List (Nat × Nat) := []
  deriving DecidableEq, Repr

/-! ## The archipelago (13_archipelago.md) -/

/-- Port states (Table 13.1). -/
inductive PortState where
  | idle | training | active | detoured | cut | retired
  deriving DecidableEq, Repr

/-- A data flit kept in the replay buffer until acknowledged (R322): LSEQ, virtual channel, class, FSEQ, destination chip and issuing isle. -/
structure TxFlit where
  lseq : Nat
  ch   : Nat
  cls  : Nat
  fseq : Nat
  dest : Nat
  isle : Nat
  fwd  : Bool := false           -- forwarded for another chip (R345)
  deriving DecidableEq, Repr

/-- A message that has arrived ahead of its flow's next FSEQ and waits in the receive buffers (R321, R323): its flow, FSEQ and flits. -/
structure RxMsg where
  orig : Nat
  cls  : Nat
  fseq : Nat
  ch   : Nat
  left : Nat
  deriving DecidableEq, Repr

/-- A message that waits at a transmitter (R321, R323). -/
structure TxMsg where
  ch    : Nat                    -- virtual channel (Table 13.3): 0 TM, 1 CT, 2 RP, 3 CO, 4 WW, 5 WR
  cls   : Nat                    -- flow class (Table 13.2)
  isle  : Nat                    -- issuing isle
  dest  : Nat                    -- destination chip
  left  : Nat                    -- flits not yet sent
  begun : Bool := false          -- its first flit has been sent
  again : Option Nat := none     -- the FSEQ of a flit that goes out again through a detour (R344), or for another chip (R345)
  tag   : Option Nat := none     -- the request that it carries (R339)
  fwd   : Option Nat := none     -- the port whose DT buffer holds it (R345)
  msg   : OutMsg
  deriving DecidableEq, Repr

structure Port where
  /-- port state | Table 13.1 | 13_archipelago.md R317 | IDLE -/
  state : PortState := .idle
  /-- peer chip ID and incarnation recorded at training | 4 and 16 bits | 13_archipelago.md R318, R325 | DESIGN CHOICE 0, 0, log 20 -/
  peer : Nat × Nat := (0, 0)
  /-- peer reports itself aligned | 1 bit | 04_start_up.md R85, R86 | false -/
  peerAligned : Bool := false
  /-- peer reports itself ready for alignment | 1 bit | 04_start_up.md R87 | false -/
  peerReady : Bool := false
  /-- one-way latency in ticks | count | 13_archipelago.md R318 | 0 -/
  latency : Nat := 0
  /-- wiring refused until PERST_N | 1 bit | 13_archipelago.md R318 | false -/
  wiring : Bool := false
  /-- next LSEQ to send | 16 bits | 13_archipelago.md R320, R322 | 0 -/
  txSeq : Nat := 0
  /-- the trained link runs: from training to link-down, electrical idle or retirement | 1 bit | 13_archipelago.md R318, R322 | false -/
  linkUp : Bool := false
  /-- LSEQ expected next | 16 bits | 13_archipelago.md R322 | 0 -/
  rxSeq : Nat := 0
  /-- flits received in order, cumulative | 16 bits | 13_archipelago.md R321 | 0 -/
  rxCount : Nat := 0
  /-- replay buffer of unacknowledged flits | up to 512 | 13_archipelago.md R322 | empty -/
  replay : List TxFlit := []
  /-- the next LCF requests a replay from the LSEQ expected | 1 bit | 13_archipelago.md R322 | false -/
  wantReplay : Bool := false
  /-- LSEQ last replayed and how many times in a row | 16 bits and a count | 13_archipelago.md R322 | 0, 0 -/
  replayed : Nat × Nat := (0, 0)
  /-- consecutive LCFs that failed their CRC | count | 13_archipelago.md R322 | 0 -/
  lcfFails : Nat := 0
  /-- tick of the last acknowledgement progress | tick | 13_archipelago.md R322 | 0 -/
  ackTick : Nat := 0
  /-- credit totals last received, per channel TM, CT, RP, CO, WW, WR and DT group | 9 times 16 bits | 13_archipelago.md R321, Table 13.3 | 0 -/
  credits : List Nat := List.replicate 9 0
  /-- flits sent per channel and DT group | 9 times 16 bits | 13_archipelago.md R321, Table 13.3 | 0 -/
  sent : List Nat := List.replicate 9 0
  /-- totals of credits freed at this receiver, per channel and DT group | 9 times 16 bits | 13_archipelago.md R321, Table 13.3 | 0 -/
  freed : List Nat := List.replicate 9 0
  /-- receive buffers: messages ahead of their flow's next FSEQ (what is forwarded waits in the transmitters, with the DT buffer that holds it) | list | 13_archipelago.md R321, R323, Table 13.3 | empty -/
  rxHeld : List RxMsg := []
  /-- messages that wait for a credit, a place in the replay buffer or their isle's sub-slot | list | 13_archipelago.md R321, 15_isles.md R384 | empty -/
  txq : List TxMsg := []
  /-- isle served last, per channel | 6 times 5 bits | 15_isles.md R388 | DESIGN CHOICE 31 each: isle 0 is first, log 37 -/
  turns : List Nat := List.replicate 6 31
  /-- ticks of CRC failures after FEC within 1 s | list of ticks | 13_archipelago.md R349 | none -/
  crcTimes : List Nat := []
  /-- codewords that FEC corrected within 1 s: tick of the report and their number | list | 13_archipelago.md R349 | none -/
  fecTimes : List (Nat × Nat) := []
  /-- tick at which the port went down | tick | 13_archipelago.md R344, R345 | 0 -/
  downTick : Nat := 0
  /-- probe outstanding: the intermediate chip and the tick it was sent | Option | 13_archipelago.md R344 | none -/
  probe : Option (Nat × Nat) := none
  /-- intermediate chip of a detour | Option of a chip ID | 13_archipelago.md R344 | none -/
  detour : Option Nat := none
  /-- the one retrain of R345 has been made | 1 bit | 13_archipelago.md R345 | false -/
  retrained : Bool := false
  /-- flows held for a port return: class and the last FSEQ sent through the detour | list | 13_archipelago.md R347 | empty -/
  heldFlows : List (Nat × Nat) := []
  /-- messages held until their flow moves to the direct port | list | 13_archipelago.md R347 | empty -/
  heldMsgs : List TxMsg := []
  /-- a return of this port is agreed and past T, waiting for the delivered acknowledgements | 1 bit | 13_archipelago.md R347 | false -/
  returning : Bool := false
  /-- replays since the last query | count | 13_archipelago.md R348 | 0 -/
  replays : Nat := 0
  /-- stale flits dropped since the last query | count | 13_archipelago.md R325, R348 | 0 -/
  stale : Nat := 0
  deriving DecidableEq, Repr

/-- A window table entry (R334). -/
structure Window where
  peerIsle : Nat := 0
  mask   : Nat := 0
  rights : Nat := 0
  base   : Nat := 0
  len    : Nat := 0
  view   : Nat := 0
  incs   : List (Nat × Nat) := []     -- chip and the incarnation recorded at open
  refusals : Nat := 0
  bytes  : Nat := 0                   -- bytes written since the last query
  deriving DecidableEq, Repr

/-- An outstanding window request of this chip (R337, R339). -/
structure WinReq where
  tag  : Nat
  dest : Nat                          -- destination chip
  port : Nat
  isle : Nat                          -- issuing isle
  dstIsle : Nat
  unit : Nat                          -- unit and task that wait; unit 0xFFFF for the control firmware
  task : Nat
  read : Option (Nat × Nat) := none   -- for a read: view and program address its data goes to
  msg  : OutMsg := .jtag 0            -- the request's message
  flits : Nat := 1
  cls  : Nat := 0                     -- flow class (Table 13.2)
  sent : Bool := false                -- its first flit has left: it is one of the 256 outstanding of its port (R339)
  handle : Nat := 0                   -- replica copies: the sequence
  deriving DecidableEq, Repr

/-- A COLLECT part that has landed (R341). -/
structure Part where
  isle  : Nat
  collId : Nat
  boundary : Nat
  round : Nat
  pos   : Nat
  shard : Nat
  data  : Bytes
  deriving DecidableEq, Repr

/-- A partner's acceptance of a PROG_RUN (R331). -/
structure RunAccept where
  isle   : Nat
  chip   : Nat
  digest : Nat
  mode   : Nat
  tick   : Nat
  deriving DecidableEq, Repr

structure Arch where
  /-- member mask | 16 bits | 13_archipelago.md R326 | DESIGN CHOICE 0 before FW_START (then an archipelago of one), log 20 -/
  member : Nat := 0
  /-- present mask | 16 bits | 13_archipelago.md R326 | as the member mask -/
  present : Nat := 0
  /-- formed by ARCH_FORM | 1 bit | 13_archipelago.md R348 | false -/
  formed : Bool := false
  /-- recorded incarnation of each chip | 16 times 16 bits | 13_archipelago.md R325 | none recorded -/
  incs : List (Nat × Nat) := []
  /-- (chip, isle) pairs fenced by FENCE | set | 13_archipelago.md R338 | none -/
  fenced : List (Nat × Nat) := []
  /-- departures to be acted on at the next boundary | set of chips | 13_archipelago.md R346 | none -/
  departed : List Nat := []
  /-- this chip's orderly leave: agreed T reached, and the ARCH_LEAVE command's seq on the PF | Option | 13_archipelago.md R329 | none -/
  leaving : Option Nat := none
  /-- chips whose leave has reached its T | set | 13_archipelago.md R329 | none -/
  leavers : List Nat := []
  /-- outstanding window requests | up to 256 per port | 13_archipelago.md R339 | none -/
  reqs : List WinReq := []
  /-- next source tag | 16 bits | 13_archipelago.md Table 13.4 | DESIGN CHOICE 0, log 20 -/
  nextTag : Nat := 0
  /-- COLLECT parts landed and not yet combined | list | 13_archipelago.md R341 | none -/
  parts : List Part := []
  /-- PROG_RUN acceptances received and made | list | 13_archipelago.md R331 | none -/
  accepts : List RunAccept := []
  /-- next FSEQ to send by (destination, class) | 16 bits each | 13_archipelago.md R323 | none sent -/
  fseqTx : List ((Nat × Nat) × Nat) := []
  /-- FSEQ to deliver next by (originating chip, class) | 16 bits each | 13_archipelago.md R323 | none delivered -/
  fseqRx : List ((Nat × Nat) × Nat) := []
  /-- chips that each member's ports reach directly, as it last announced | 16 times 16 bits | 13_archipelago.md R344 | none announced -/
  links : List (Nat × Nat) := []
  /-- leavers that have announced that they are gone | set | 13_archipelago.md R329 | none -/
  left : List Nat := []
  /-- admission lists received for the coming boundary: (isle, program digest, home chip, entries) | list | 12_kv_cache.md R297 | none -/
  admissions : List (Nat × Nat × Nat × List Admitted) := []
  /-- STEP_DONE and STEP_FAIL (true) received before their invocation was known: (isle, program digest, invocation, chip, failed) | list | 13_archipelago.md R332 | none -/
  early : List (Nat × Nat × Nat × Nat × Bool) := []
  /-- what the chips of a replicated sequence told each other that waits for a boundary: (isle, handle, kind, payload) | list | 12_kv_cache.md R288, R291 | none -/
  creates : List (Nat × Nat × Nat × Bytes) := []
  /-- rewinds a home chip named: (isle, handle, length, boundary) | list | 12_kv_cache.md R302 | none -/
  rewinds : List (Nat × Nat × Nat × Nat) := []
  deriving DecidableEq, Repr

/-! ## Sealed arithmetic (17_sealed_arithmetic.md) -/

/-- A parameter set (Table 17.1). -/
structure Pset where
  nLog2 : Nat
  l     : Nat
  k     : Nat
  dnum  : Nat
  primes : List Nat
  deriving DecidableEq, Repr

/-- A registered key (R429): its sealed region (program address and length, in a view) and its header. -/
structure SealKey where
  base  : Nat
  len   : Nat
  view  : Nat
  kind  : Nat
  pset  : Nat
  auto  : Nat
  keyId : Nat
  deriving DecidableEq, Repr

/-- Where a limb of a job lies: in A, B, OUT or the key of the operation, a constant of CMUL, or among the operation's intermediate limbs,
which have no place that a program could address (log 58). -/
inductive SealLoc
  | a (i j : Nat)
  | b (i j : Nat)
  | out (i j : Nat)
  | key (t i r : Nat)
  | const (j : Nat)
  | tmp (c i j : Nat)
  | zero
  deriving DecidableEq, Repr

/-- What a pointwise job does with two limbs (R436). lower l divides by q_l, lowerP by the product of the special primes. -/
inductive SealFn
  | copy | add | sub | mul | lower (l : Nat) | lowerP | tau
  deriving DecidableEq, Repr

/-- The work of one job (Table 17.8). Primes are numbered as in the parameter set, the special ones from L on. -/
inductive SealWork
  | ntt (r : Nat) (x z : SealLoc)
  | intt (r : Nat) (x z : SealLoc)
  | encode (j : Nat)
  | point (f : SealFn) (r : Nat) (x y z : SealLoc) (strip : Nat)
  | mac (t r : Nat) (x : SealLoc) (strip : Nat)
  | conv (bs : List Nat) (c k r strip : Nat)
  deriving DecidableEq, Repr

structure SealJob where
  bound : Nat
  work  : SealWork
  deriving DecidableEq, Repr

/-- A SEAL task queued at an RAU (R425, R437): who issued it, its descriptor, and its jobs. -/
structure SealTask where
  isle  : Nat
  unit  : Nat
  task  : Nat
  prog  : Nat
  view  : Nat
  desc  : Bytes
  inv   : Nat := 0
  phase : Nat := 0
  plan  : List SealJob := []      -- jobs still to be admitted, once the header checks have passed
  started : Bool := false    -- the header checks have passed
  headA : Bytes := []        -- the headers of A and B as the checks found them
  headB : Bytes := []
  ended : Nat := 0           -- jobs that have ended
  admitted : Option Nat := none   -- tide count at which the job that runs was admitted
  job   : Option SealJob := none  -- the job that runs
  temps : List ((Nat × Nat × Nat) × List Nat) := []   -- intermediate limbs (R436)
  deriving DecidableEq, Repr

structure Rau where
  /-- tasks queued, the first one served | up to 256 | 17_sealed_arithmetic.md R425 | empty -/
  queue : List SealTask := []
  /-- ticks of output mismatches within 3,600 s | list of ticks | 17_sealed_arithmetic.md R441 | none -/
  mismatches : List Nat := []
  /-- elastic isle served last | Option of an isle | 17_sealed_arithmetic.md R438 | none -/
  lastIsle : Option Nat := none
  deriving DecidableEq, Repr

structure Seal where
  /-- parameter sets 0 to 7 in use | Table 17.1 | 17_sealed_arithmetic.md R426 | none -/
  psets : List (Nat × Pset) := []
  /-- key table of 64 entries | R429 | 17_sealed_arithmetic.md R429, R430 | empty -/
  keys : List (Nat × SealKey) := []
  /-- jobs run since the last query | 32 bits | 17_sealed_arithmetic.md R442 | 0 -/
  jobs : Nat := 0
  /-- E_SEAL_CHECK results since the last query | 32 bits | 17_sealed_arithmetic.md R442 | 0 -/
  checks : Nat := 0
  deriving DecidableEq, Repr

/-- A remap that the log sessions record at the next boundary (R344, R456, Table 14.4). -/
structure Remap where
  cls  : Nat
  idx  : Nat
  old  : Nat
  now  : Nat
  t    : Nat
  isles : List Nat := List.range 32   -- the isles it touches (R396)
  deriving DecidableEq, Repr

/-! ## The isle record -/

structure Isle where
  /-- isle state | Table 5.4 | 15_isles.md R376, R373 | ABSENT (isle 0 ENABLED from READY) -/
  state : IsleState := .absent
  /-- target state of QUIESCING and SCRUBBING | Table 5.4 | 15_isles.md R376 | ABSENT -/
  target : IsleState := .absent
  /-- pending target command | Option | 15_isles.md R376 | none -/
  targetCmd : Option TargetCmd := none
  /-- tide count at which QUIESCING was entered | tick | 15_isles.md R376 | 0 -/
  quiesceAt : Nat := 0
  /-- end tick of the scrub | tick | 15_isles.md R379 | 0 -/
  scrubEnd : Nat := 0
  /-- the key draw at scrub end is held by the entropy service | 1 bit | 16_security_lifecycle_entropy.md corner cases | false -/
  keysHeld : Bool := false
  /-- window fence due at f + 200 | Option of a tick | 05_host_interface.md R119, 13_archipelago.md R338 | none -/
  fenceDue : Option Nat := none
  /-- class: 0 real-time, 1 standard, 2 bulk | 2 bits | 15_isles.md R381 | 1 -/
  cls : Nat := 1
  /-- overrun limit in epochs | 1 to 16 | 15_isles.md R382, 03_clockless_pace_and_tide.md R67 | 4 -/
  overrunLimit : Nat := 4
  /-- grant | Table 15.2 | 15_isles.md R374 | none -/
  grant : Grant := {}
  /-- lagoon units held, as core * 32 + unit, ascending | list | 06_on_chip_memory.md R131, 15_isles.md R371 | none -/
  lagUnits : List Nat := []
  /-- pool units assigned by POOL_SET | count | 15_isles.md R389 | 0 -/
  poolUnits : Nat := 0
  /-- extra lagoons held through LAGOONS, by physical core | list | 15_isles.md R372 | none -/
  extraLagoons : List Nat := []
  /-- slot map of each view: 64 lists of physical lagoon units | list of lists | 06_on_chip_memory.md R132 | empty -/
  slotMap : List (List (List Nat)) := []
  /-- isle extent table of each view | list of lists of chip extents | 06_on_chip_memory.md R134 | empty -/
  extents : List (List Nat) := []
  /-- isle frame table of each view | list of lists of chip frames | 07_tier_one_and_translation.md R161 | empty -/
  frames : List (List Nat) := []
  /-- table frames | list of chip frames | 07_tier_one_and_translation.md R172 | none -/
  tableFrames : List Nat := []
  /-- conflict mode, true strict | 1 bit | 06_on_chip_memory.md R146 | false: arbitrated -/
  strict : Bool := false
  /-- conflict mode of the tasks released last, true strict | 1 bit | 06_on_chip_memory.md R154 | false: arbitrated -/
  strictRel : Bool := false
  /-- strict-mode conflicts since the last MEM_QUERY | 32 bits | 06_on_chip_memory.md R153 | 0 -/
  conflicts : Nat := 0
  /-- resident ranges: view, program address, length | up to 64 | 06_on_chip_memory.md R149 | none -/
  resident : List (Nat × Nat × Nat) := []
  /-- corrected units since the last T1_QUERY | 32 bits | 07_tier_one_and_translation.md R178 | 0 -/
  t1Corrected : Nat := 0
  /-- streams by handle | up to 8,192 | 05_host_interface.md R113 | none -/
  streams : List (Nat × Stream) := []
  /-- loaded programs by handle 0 to 15 | up to 16 | 10_tiling_and_task_programs.md R230 | none -/
  progs : List (Nat × Prog) := []
  /-- invocations in flight, oldest first | list | 10_tiling_and_task_programs.md R233 | none -/
  invs : List Inv := []
  /-- units of the current release by u = 64 h + s | list | 10_tiling_and_task_programs.md R235, 14_determinism_and_replay.md R354 | none -/
  units : List (Nat × TUnit) := []
  /-- boundary of the release whose tasks still run past their deadline, with epochs overrun | Option | 03_clockless_pace_and_tide.md R66 | none -/
  overrun : Option (Nat × Nat) := none
  /-- boundary of the last release | Option of a tick | 03_clockless_pace_and_tide.md R63, R66 | none -/
  released : Option Nat := none
  /-- per executing core, the unit that issued last in the release | list | 10_tiling_and_task_programs.md R235 | none -/
  turn : List (Nat × Nat) := []
  /-- release withheld for one epoch (bulk yield) | 1 bit | 03_clockless_pace_and_tide.md R68 | false -/
  yield : Bool := false
  /-- tap entries | 8 | 11_attention_engine.md R275 | 8 FREE -/
  taps : List Tap := [{}, {}, {}, {}, {}, {}, {}, {}]
  /-- KV geometry and pools, with the view their addresses translate through | Option | 12_kv_cache.md R282, R284 | none -/
  pool : Option (KvPool × Nat) := none
  /-- sequences by handle | up to 65,536 | 12_kv_cache.md R286 | none -/
  seqs : List (Nat × Seq) := []
  /-- lookup tables by handle: L1 entries with their L2 tables, leaf tables or page lists | Tables 7.5 to 7.9 | 07_tier_one_and_translation.md R170, R175 | none -/
  tables : List (Nat × SeqTable) := []
  /-- prefix tree | entries | 12_kv_cache.md R303 | empty -/
  tree : List TreeNode := []
  /-- entries withheld by the batch cap, for pool space and for output room, and unparks queued, since the last isle query | 4 times 32 bits | 12_kv_cache.md Table 12.10 | 0 -/
  withheld : Nat × Nat × Nat × Nat := (0, 0, 0, 0)
  /-- window table | 256 entries | 13_archipelago.md R334 | none open -/
  windows : List (Nat × Window) := []
  /-- key epochs | R414 | 16_security_lifecycle_entropy.md R414 | none -/
  keys : Keys := {}
  /-- sealed arithmetic | R426 to R442 | 17_sealed_arithmetic.md R426 | none -/
  sealed : Seal := {}
  /-- log session | Option | 14_determinism_and_replay.md R359 | none -/
  log : Option LogSession := none
  /-- replay mode | Option | 14_determinism_and_replay.md R364 | none -/
  replay : Option ReplayMode := none
  /-- no data-affecting command executed since the last scrub | 1 bit | 14_determinism_and_replay.md R359 | true -/
  pristine : Bool := true
  /-- steps marked timing-invalid since the last DET_QUERY | 32 bits | 14_determinism_and_replay.md R368 | 0 -/
  timingInvalid : Nat := 0
  /-- flags of Table 14.7 that the next steps carry | 12 bits | 14_determinism_and_replay.md R352 | 0 -/
  stepFlags : Nat := 0
  /-- the isle's view of the faults | R446 | 18_faults_and_service.md R446 | zero -/
  faults : FaultView := {}
  /-- ACTIVE_MAX by program | 1 to 65,536 each | 19_performance_and_saturation.md R467 | none -/
  admitLimits : List (Nat × Nat) := []
  /-- pressure records of the last 1,024 boundaries, newest first, the one under way at the head | up to 1,025 records | 19_performance_and_saturation.md R468, R469 | none -/
  pressure : List Pressure := []
  deriving DecidableEq, Repr

/-- The shared pool (R389, R390). -/
structure Pool where
  /-- pool core mask, 0 without a pool | 64 bits | 15_isles.md R389 | 0 -/
  cores : Nat := 0
  /-- members in list order, with their lagoon units; the place of a member that has left is kept under the number 32 | list | 15_isles.md R389 | none -/
  members : List (Nat × Nat) := []
  /-- pool core and the member that ran first on it in the previous epoch | list | 15_isles.md R390 | none -/
  first : List (Nat × Nat) := []
  /-- pool core and the member that has run first on it in this epoch | list | 15_isles.md R390 | none -/
  ranNow : List (Nat × Nat) := []
  /-- pool core and the isle whose tasks its operand buffers served last | list | 06_on_chip_memory.md R150, 15_isles.md R390 | none -/
  obOwner : List (Nat × Nat) := []
  deriving DecidableEq, Repr

/-! ## The state -/

/-- The whole block. Every field's line names what it is, its width, the rule that gives it, and its reset value. -/
structure State where
  /-- commands that wait, first in, first out | queue | model (the host's form of a block) | empty -/
  pending : List Instr := []
  clk : Clk := {}
  pins : Pins := {}
  standby : Standby := {}
  power : Power := {}
  boot : Boot := {}
  fw : Fw := {}
  tide : Tide := {}
  pcie : Pcie := {}
  /-- the PF and VFs 1 to 31 | 32 functions | 05_host_interface.md R97 | each at its reset values -/
  funcs : List Func := List.replicate 32 {}
  mems : Mems := {}
  units : Units := {}
  /-- isles 0 to 31 | 32 isles | 15_isles.md R369 | each ABSENT -/
  isles : List Isle := List.replicate 32 {}
  pool : Pool := {}
  /-- sub-slot owners, 255 elastic | 16 times 8 bits | 15_isles.md R383 | every entry elastic -/
  subslots : List Nat := List.replicate 16 255
  /-- translation caches of the 64 slices, by core, oldest entry first | 64 times up to 1,024 entries | 07_tier_one_and_translation.md R168 | empty -/
  stu : List (Nat × List StuEntry) := []
  /-- chip view of the faults | R446 | 18_faults_and_service.md R444 | zero -/
  faults : FaultView := {}
  /-- cay slots 0 and 1 | 2 slots | 08_cay_cartridges.md R186 | EMPTY -/
  cay : List CaySlot := [{}, {}]
  /-- quiesce of the cay slots in progress, with the CART_QUIESCE's seq on the PF when a command asked for it | Option | 08_cay_cartridges.md R198, 16_security_lifecycle_entropy.md R410 | none -/
  quiesce : Option (Option Nat) := none
  /-- UTC last supplied by CART_TIME_SET, with the tide count at which it was | Option of two counts | 08_cay_cartridges.md R191 | none -/
  utc : Option (Nat × Nat) := none
  /-- unparks queued, in order of acceptance: (isle, handle) | queue | 12_kv_cache.md R311 | empty -/
  unparkQ : List (Nat × Nat) := []
  /-- Bornis ports P0 to P14 | 15 ports | 13_archipelago.md R317 | IDLE -/
  ports : List Port := List.replicate 15 {}
  arch : Arch := {}
  /-- remaps to be recorded at the next boundary | list | 13_archipelago.md R344, 18_faults_and_service.md R456 | empty -/
  remaps : List Remap := []
  fuses : Fuses := {}
  sec : Sec := {}
  ent : Entropy := {}
  /-- RAUs 0 to 3 | 4 units | 17_sealed_arithmetic.md R424 | idle -/
  raus : List Rau := List.replicate 4 {}
  /-- tick of a fatal fault whose halt sequence has begun | Option of a tick | 18_faults_and_service.md R454 | none -/
  halt : Option Nat := none
  /-- what the block has sent out, newest first | list | model (log 5) | empty -/
  out : List OutMsg := []
  deriving DecidableEq, Repr

/-- The machine right after reset: VSTBY is up, the standby island has left power-on reset and PERST_N is held low
(R35, R36); memories read zero, every register holds the value its line names. -/
def State.reset : State := {}

/-! ## How a step can stop -/

/-- Why a run of the block can stop. No rule of the spec stops the block: there is one constructor, raised by no meaning. -/
inductive Fault where
  /-- raised by no meaning; kept so that the type has a name for a state the spec excludes. Safe: it only stops. -/
  | excluded
  deriving DecidableEq, Repr

/-- Why a command can have no meaning. -/
inductive Refusal where
  /-- raised by an arm of exec whose command is not modelled yet, with its mnemonic. Safe: it only stops. -/
  | notModelled (mnemonic : String)
  deriving DecidableEq, Repr

end Sys2Proof.Machine
end

