-- ==== Sys2Proof/Machine/Ops.lean ====
section
/-! DEFINITION. The named operations: codes of the tables, keyed lists, memories in their canonical form, updates of one part
of the state, time, pins, interrupts, completion entries, events, and the recording of faults. -/

namespace Sys2Proof.Machine

/-! ## Codes of the tables -/

/-- Table 20.3. -/
def statusCode : Status → Nat
  | .sOk => 0x0000 | .sPending => 0x0001 | .eBadcmd => 0x0100 | .eBadarg => 0x0101 | .eBadlen => 0x0102
  | .eDenied => 0x0200 | .eState => 0x0300 | .eBusy => 0x0301 | .eNores => 0x0302 | .eFault => 0x0400
  | .ePoison => 0x0401 | .eRng => 0x0500 | .ePeerLost => 0x0600 | .eCollectiveAbort => 0x0601 | .eLink => 0x0602
  | .eCart => 0x0700 | .eCartLost => 0x0701 | .eCartAuth => 0x0702 | .eLevel => 0x0800 | .eSealCheck => 0x0801
  | .eOverrun => 0x0900 | .eRetry => 0x0A00 | .eLimbo => 0x0B00

/-- The codes of Table 20.3 that an entry, event or record can carry: all but E_LINK (R475, R476). -/
def carriedCodes : List Nat :=
  [.sOk, .sPending, .eBadcmd, .eBadarg, .eBadlen, .eDenied, .eState, .eBusy, .eNores, .eFault, .ePoison, .eRng, .ePeerLost,
   .eCollectiveAbort, .eCart, .eCartLost, .eCartAuth, .eLevel, .eSealCheck, .eOverrun, .eRetry, .eLimbo].map statusCode

/-- Table 5.4. -/
def isleStateCode : IsleState → Nat
  | .absent => 0 | .created => 1 | .enabled => 2 | .quiescing => 3 | .scrubbing => 4 | .disabled => 5

/-- Table 7.8. -/
def pageStateCode : PageState → Nat
  | .free => 0 | .staging => 1 | .committed => 2 | .shared => 3 | .parked => 4 | .inFlight => 5 | .lost => 6

/-- Table 12.1. -/
def seqStateCode : SeqState → Nat
  | .resident => 0 | .parking => 1 | .parked => 2 | .unparking => 3 | .broken => 4

/-- Table 8.4. -/
def cayStateCode : CayState → Nat
  | .empty => 0 | .bringup => 1 | .unpaired => 2 | .online => 3 | .readOnly => 4 | .ejecting => 5 | .ejected => 6
  | .refused => 7 | .failed => 8 | .quiesced => 9

/-- Table 13.1. -/
def portStateCode : PortState → Nat
  | .idle => 0 | .training => 1 | .active => 2 | .detoured => 3 | .cut => 4 | .retired => 5

/-- Start-up phases (Table 4.1). -/
def phStraps := 0x01
def phFuses := 0x02
def phRom := 0x03
def phFw := 0x04
def phMem := 0x05
def phPort := 0x06
def phAlign := 0x07
def phHbm := 0x08
def phReady := 0x09
def phPush := 0x0C
def phLimbo := 0x0E
def phFailed := 0x0F

/-- Fault domains (Table 18.1). -/
def dDev := 0
def dCore := 1
def dShelf := 2
def dHbm := 3
def dLink := 4
def dCay := 5
def dHost := 6
def dEntropy := 7
def dSeal := 8
def dTide := 9
def dCp := 10

/-- Instances of a fault domain (Table 18.1). -/
def domCount (d : Nat) : Nat := if d = 1 then 64 else if d = 4 then 15 else if d = 5 then 2 else if d ≤ 10 then 1 else 0

/-- Class F bits (R479). -/
def fatalBit (d bit : Nat) : Bool :=
  (d == 2 && bit == 1) || (d == 3 && bit == 5) || (d == 9 && bit == 0) || (d == 10 && (bit == 0 || bit == 1))

/-- Class I bits (R445): BANK_CONFLICT and TASK_FAULT. -/
def isleOnlyBit (d bit : Nat) : Bool := d == 1 && (bit == 3 || bit == 4)

/-- What a message to a peer chip is (OutMsg.peer); a peer check carries its command's opcode instead (R111). -/
def pmDepart := 1
def pmIncarnation := 2
def pmFence := 3
def pmStepDone := 4
def pmStepFail := 5
def pmRunAccept := 6
def pmAdmission := 7
def pmRewind := 8
def pmCreate := 9
def pmReadData := 10
def pmWriteAck := 11
def pmRefusal := 12
def pmWindowWrite := 13
def pmWindowRead := 14
def pmPart := 15
def pmProbe := 16
def pmProbeAnswer := 17
def pmUnreachable := 18
def pmForward := 19
def pmDelivered := 20
def pmResend := 21
def pmMarker := 22

/-! ## Keyed lists -/

def aGet {α : Type} (l : List (Nat × α)) (k : Nat) : Option α := (l.find? fun p => p.1 == k).map fun p => p.2

/-- Set key k, keeping the keys in rising order. -/
def aSet {α : Type} (k : Nat) (v : α) : List (Nat × α) → List (Nat × α)
  | [] => [(k, v)]
  | (j, w) :: l => if k < j then (k, v) :: (j, w) :: l else if k = j then (k, v) :: l else (j, w) :: aSet k v l

def aDel {α : Type} (l : List (Nat × α)) (k : Nat) : List (Nat × α) := l.filter fun p => p.1 != k

def aMod {α : Type} (k : Nat) (f : α → α) (l : List (Nat × α)) : List (Nat × α) :=
  l.map fun p => if p.1 = k then (p.1, f p.2) else p

/-- The lowest key from 0 that is not in the list, below a limit. -/
def aFree {α : Type} (l : List (Nat × α)) (limit : Nat) : Option Nat :=
  (List.range (min limit (l.length + 1))).find? fun k => (aGet l k).isNone

def pGet {α : Type} (l : List ((Nat × Nat) × α)) (k : Nat × Nat) : Option α :=
  (l.find? fun p => p.1.1 == k.1 && p.1.2 == k.2).map fun p => p.2

def pSet {α : Type} (k : Nat × Nat) (v : α) : List ((Nat × Nat) × α) → List ((Nat × Nat) × α)
  | [] => [(k, v)]
  | (j, w) :: l =>
    if k.1 < j.1 ∨ (k.1 = j.1 ∧ k.2 < j.2) then (k, v) :: (j, w) :: l
    else if k.1 = j.1 ∧ k.2 = j.2 then (k, v) :: l else (j, w) :: pSet k v l

def pDel {α : Type} (l : List ((Nat × Nat) × α)) (k : Nat × Nat) : List ((Nat × Nat) × α) :=
  l.filter fun p => !(p.1.1 == k.1 && p.1.2 == k.2)

/-- Insert into a rising list without repeats. -/
def insNat (k : Nat) : List Nat → List Nat
  | [] => [k]
  | j :: l => if k < j then k :: j :: l else if k = j then j :: l else j :: insNat k l

/-- Bits of a mask, ascending, below n. -/
def maskBits (m n : Nat) : List Nat := (List.range n).filter fun i => m.testBit i

def setBit (m i : Nat) : Nat := if m.testBit i then m else m + 2 ^ i
def clrBit (m i : Nat) : Nat := if m.testBit i then m - 2 ^ i else m
def popCount (m n : Nat) : Nat := (maskBits m n).length

/-! ## Memories: (address, byte) pairs, addresses rising, no entry 0 (an unlisted byte reads 0) -/

def Memory.read (m : List Host.Cell) (a : Nat) : Byte :=
  match m with
  | [] => 0
  | (k, v) :: l => if k = a then v else Memory.read l a

def Memory.write (m : List Host.Cell) (a : Nat) (b : Byte) : List Host.Cell :=
  match m with
  | [] => if b = 0 then [] else [(a, b)]
  | (k, v) :: l =>
    if a < k then (if b = 0 then (k, v) :: l else (a, b) :: (k, v) :: l)
    else if a = k then (if b = 0 then l else (a, b) :: l)
    else (k, v) :: Memory.write l a b

/-- The canonical form: addresses strictly rising from a lower bound, and no byte 0. -/
def Memory.wfFrom (lo : Nat) : List Host.Cell → Bool
  | [] => true
  | (k, v) :: l => decide (lo ≤ k) && v != 0 && Memory.wfFrom (k + 1) l

def Memory.wf (m : List Host.Cell) : Bool := Memory.wfFrom 0 m

def Memory.readN (m : List Host.Cell) (a n : Nat) : Bytes := (List.range n).map fun i => Memory.read m (a + i)

def Memory.writeN (m : List Host.Cell) (a : Nat) : Bytes → List Host.Cell
  | [] => m
  | b :: bs => Memory.writeN (Memory.write m a b) (a + 1) bs

/-- Zero n bytes from a. -/
def Memory.clear (m : List Host.Cell) (a n : Nat) : List Host.Cell :=
  m.filter fun c => c.1 < a || a + n ≤ c.1

/-! ## Updates of one part of the state -/

def State.mapClk (f : Clk → Clk) (s : State) : State := { s with clk := f s.clk }
def State.mapPins (f : Pins → Pins) (s : State) : State := { s with pins := f s.pins }
def State.mapStandby (f : Standby → Standby) (s : State) : State := { s with standby := f s.standby }
def State.mapPower (f : Power → Power) (s : State) : State := { s with power := f s.power }
def State.mapBoot (f : Boot → Boot) (s : State) : State := { s with boot := f s.boot }
def State.mapFw (f : Fw → Fw) (s : State) : State := { s with fw := f s.fw }
def State.mapTide (f : Tide → Tide) (s : State) : State := { s with tide := f s.tide }
def State.mapPcie (f : Pcie → Pcie) (s : State) : State := { s with pcie := f s.pcie }
def State.mapFunc (fn : Nat) (f : Func → Func) (s : State) : State := { s with funcs := setAt s.funcs fn f }
def State.mapMems (f : Mems → Mems) (s : State) : State := { s with mems := f s.mems }
def State.mapUnits (f : Units → Units) (s : State) : State := { s with units := f s.units }
def State.mapIsle (k : Nat) (f : Isle → Isle) (s : State) : State := { s with isles := setAt s.isles k f }
def State.mapIsles (f : Isle → Isle) (s : State) : State := { s with isles := s.isles.map f }
def State.mapFaults (f : FaultView → FaultView) (s : State) : State := { s with faults := f s.faults }
def State.mapCay (i : Nat) (f : CaySlot → CaySlot) (s : State) : State := { s with cay := setAt s.cay i f }
def State.mapPort (p : Nat) (f : Port → Port) (s : State) : State := { s with ports := setAt s.ports p f }
def State.mapPorts (f : Port → Port) (s : State) : State := { s with ports := s.ports.map f }
def State.mapArch (f : Arch → Arch) (s : State) : State := { s with arch := f s.arch }
def State.mapFuses (f : Fuses → Fuses) (s : State) : State := { s with fuses := f s.fuses }
def State.mapSec (f : Sec → Sec) (s : State) : State := { s with sec := f s.sec }
def State.mapEnt (f : Entropy → Entropy) (s : State) : State := { s with ent := f s.ent }
def State.mapRau (r : Nat) (f : Rau → Rau) (s : State) : State := { s with raus := setAt s.raus r f }
def State.emit (m : OutMsg) (s : State) : State := { s with out := m :: s.out }

def State.func (s : State) (fn : Nat) : Func := s.funcs.getD fn {}
def State.isle (s : State) (k : Nat) : Isle := s.isles.getD k {}
def State.port (s : State) (p : Nat) : Port := s.ports.getD p {}
def State.caySlot (s : State) (i : Nat) : CaySlot := s.cay.getD i {}
def State.rau (s : State) (r : Nat) : Rau := s.raus.getD r {}

/-- A free number and the state with its counter advanced (log 3). -/
def drawNat (s : State) : Nat × State :=
  (Config.freeNat s.clk.freeCtr, s.mapClk fun c => { c with freeCtr := c.freeCtr + 1 })

/-! ## The entropy service's generator (R418) -/

/-- The next n conditioned blocks: each the CMAC over 1,024 samples of the noise source (Table 16.11, log 3). -/
def drawBlocks (n : Nat) (s : State) : Bytes × State :=
  ((List.range n).flatMap fun j =>
      cmac ((List.range 32).map Config.condKey) ((List.range 128).map fun i => Config.noise (128 * (s.clk.freeCtr + j) + i)),
   s.mapClk fun c => { c with freeCtr := c.freeCtr + n })

/-- Three fresh conditioned blocks instantiate the DRBG or reseed it. -/
def seedDrbg (s : State) : State :=
  let (b, s) := drawBlocks 3 s
  s.mapEnt fun e => { e with drbg := some (drbgSeed e.drbg b), calls := 0, seedTick := s.clk.ticks }

/-- While the service runs, one generate call brings the output buffer back to 2,048 bytes (log 67). -/
def fillBuffer (s : State) : State :=
  s.mapEnt fun e => match e.drbg with
    | some st =>
      if e.state = .running ∧ e.buffer.length < 2048 then
        let g := drbgGenerate st (2048 - e.buffer.length)
        { e with buffer := e.buffer ++ g.1, drbg := some g.2, calls := e.calls + 1 }
      else e
    | none => e

/-- The next n bytes of the service's output buffer, as a number below 256^n with the first byte lowest. -/
def drawEntropy (n : Nat) (s : State) : Nat × State :=
  (leNat (s.ent.buffer.take n), fillBuffer (s.mapEnt fun e => { e with buffer := e.buffer.drop n }))

/-! ## The key store (R412) -/

/-- The key that an entry of the store holds for a use. -/
def keyOf (s : State) (u : KeyUse) : Option Bytes := (s.sec.store.find? fun p => p.2.use == u).map fun p => p.2.bytes

/-- Entries destroyed: their bytes are overwritten. -/
def dropEntries (p : KeyUse → Bool) (s : State) : State := s.mapSec fun c => { c with store := c.store.filter fun e => !p e.2.use }

/-- A key takes the lowest entry that is free (log 112); the 32 isles' keys and the three of the ROM need no more than 128. -/
def putKey (u : KeyUse) (b : Bytes) (s : State) : State :=
  let s := dropEntries (fun v => v == u) s
  match aFree s.sec.store 128 with
  | some i => s.mapSec fun c => { c with store := aSet i { use := u, bytes := b } c.store }
  | none => s

/-! ## Time and identity -/

/-- The tide count, which every stamp carries: 0 before alignment (R54, R82). -/
def tideNow (s : State) : Nat := s.tide.count

/-- The tick that refusal quanta count: the tide count, or before ALIGN the ticks since PERST_N release (R110). -/
def quantNow (s : State) : Nat := if s.tide.aligned then s.tide.count else s.clk.ticks - s.boot.t2

/-- The effective chip ID (R41, R480). -/
def chipId (s : State) : Nat := if s.boot.archEn then s.boot.chipIdStrap else 0

/-- The work window W (R63). -/
def workWindow (e : Nat) : Nat := e - 2500

/-- R64: the earliest agreed count for a proposal at p. -/
def earliestT (s : State) (p : Nat) : Nat :=
  let e := s.tide.epochLen
  let lo := p + max (2 * e) 100000
  s.tide.base + ceilDiv (lo - s.tide.base) e * e

/-- R61, R64: a requested T must be a boundary at or after the earliest one; 0 asks for the earliest. -/
def chooseT (s : State) (req : Nat) : Option Nat :=
  let t0 := earliestT s (tideNow s)
  if req = 0 then some t0
  else if req < t0 ∨ (req - s.tide.base) % s.tide.epochLen ≠ 0 then none
  else some req

/-- READY reached and no fatal halt (R92, R454). -/
def isReady (s : State) : Bool := s.boot.phase == phReady && s.halt.isNone

/-- The chip has reached READY and is not in reset: what runs goes on to its end, also after a fatal fault (R60, R454). -/
def pastReady (s : State) : Bool := s.boot.phase == phReady

/-- The isle of the function fn is number fn (R97). -/
def isleOf (fn : Nat) : Nat := fn

/-- One 10 ns tick (R35, R54): the tide counter counts while it is aligned and not frozen (R60). -/
def tick (s : State) : State :=
  { s with clk := { s.clk with ticks := s.clk.ticks + 1 },
           tide := { s.tide with count :=
             if s.tide.aligned && !s.tide.frozen then (s.tide.count + 1) % 2 ^ 64 else s.tide.count } }

/-- The tide counter counts: aligned and not frozen (R54, R60). -/
def counting (s : State) : Bool := s.tide.aligned && !s.tide.frozen

/-- A row that the spec ties to a tick reports that the tick has come: time moves forward to it, never back (log 7). -/
def advanceTicks (t : Nat) (s : State) : State :=
  let d := t - s.clk.ticks
  { s with clk := { s.clk with ticks := s.clk.ticks + d },
           tide := { s.tide with count := if counting s then (s.tide.count + d) % 2 ^ 64 else s.tide.count } }

/-- The same for a tick given as a tide count. -/
def advanceCount (t : Nat) (s : State) : State := advanceTicks (s.clk.ticks + (t - s.tide.count)) s

/-- The same on the axis of the refusal quanta (R110). -/
def advanceQuant (t : Nat) (s : State) : State := advanceTicks (s.clk.ticks + (t - quantNow s)) s

/-! ## Interrupts (R117) -/

/-- A vector's message, or its pending bit while it is masked; none of a function in reset (R119). -/
def sendVector (fn v : Nat) (s : State) : State :=
  let f := s.func fn
  if f.flr.isSome then s
  else if f.msixFnMask ∨ ¬ f.msixUnmasked.contains v then
    s.mapFunc fn fun f => { f with msixPending := insNat v f.msixPending }
  else s.emit (.msix fn v)

/-- The vector that serves a cause bit (Table 5.14). -/
def causeVector (bit : Nat) : Nat := if bit ≥ 4 then 1 else 0

/-- Set a cause bit: a message when the bit goes from 0 to 1 while unmasked. The registers of a function in reset stay as they are
(R119). -/
def setCause (fn bit : Nat) (s : State) : State :=
  let f := s.func fn
  if f.flr.isSome then s else
  let s' := s.mapFunc fn fun f => { f with irqCause := setBit f.irqCause bit }
  if f.irqCause.testBit bit then s' else if f.irqMask.testBit bit then s' else sendVector fn (causeVector bit) s'

/-! ## Completion ring (R103 to R106) -/

/-- The 32 bytes of an entry (Table 5.8). -/
def entryBytes (e : Entry) : Bytes :=
  natLe 2 (statusCode e.status) ++ natLe 2 e.detail ++ natLe 4 e.tag ++ natLe 8 e.tide
    ++ natLe 4 e.w0 ++ natLe 4 e.w1 ++ natLe 4 e.w2 ++ natLe 4 e.w3

/-- Every host address is a bus address of its function (R98, log 95). -/
def hostKey (fn a : Nat) : Nat := fn * 2 ^ 64 + a

/-- With ATS enabled the translations of the pages that an access touches are cached (R98). -/
def hostTouch (fn a n : Nat) (s : State) : State :=
  if (s.func fn).atsEnable then
    s.mapMems fun m => { m with ats :=
      (List.range (ceilDiv (a % 4096 + n) 4096)).foldl (fun l i => insNat (fn * 2 ^ 52 + a / 4096 + i) l) m.ats }
  else s

/-- A host write by the device; none for a function in reset (R119). -/
def hostWrite (fn a : Nat) (bs : Bytes) (s : State) : State :=
  if (s.func fn).flr.isSome then s else
  hostTouch fn a bs.length (s.mapMems fun m => { m with host := Memory.writeN m.host (hostKey fn a) bs })

def hostRead (s : State) (fn a n : Nat) : Bytes := Memory.readN s.mems.host (hostKey fn a) n

/-- A VF whose entry may be written: the ring is enabled and not full (R103). -/
def ringRoom (f : Func) : Bool := f.cqEnable && (f.tail + 1) % 256 != f.head

/-- Write one entry at TAIL, then the shadow, then the cause (R103, R105, Table 5.14). -/
def writeEntry (fn : Nat) (e : Entry) (s : State) : State :=
  let f := s.func fn
  let s := hostWrite fn (f.cqBase + 32 * f.tail) (entryBytes e) s
  let s := s.mapFunc fn fun f => { f with tail := (f.tail + 1) % 256, unread := f.unread + 1 }
  let s := if f.shadowEnable then hostWrite fn f.cqShadow (natLe 4 ((f.tail + 1) % 256)) s else s
  if e.quiet then s else setCause fn 0 s

/-- Events of the block (R106): DETAIL, type and words. -/
def eventEntry (st : Status) (detail ty w1 w2 w3 tide : Nat) : Entry :=
  { status := st, detail := sat16 detail, tag := 0, tide := tide, w0 := ty, w1 := w1, w2 := w2, w3 := w3 }

/-- EVENTS_LOST (R105). -/
def lostEntry (s : State) (n : Nat) : Entry := eventEntry .sOk 0 5 n 0 0 (tideNow s)

/-- Write what waits for room, in order: completions, then EVENTS_LOST when events were dropped, then events. -/
def drainRing : Nat → Nat → State → State
  | 0, _, s => s
  | n + 1, fn, s =>
    let f := s.func fn
    if !ringRoom f then s
    else match f.heldComps with
      | e :: es => drainRing n fn (writeEntry fn e (s.mapFunc fn fun f => { f with heldComps := es }))
      | [] =>
        if f.eventsLost ≠ 0 then
          drainRing n fn (writeEntry fn (lostEntry s f.eventsLost) (s.mapFunc fn fun f => { f with eventsLost := 0 }))
        else match f.heldEvents with
          | e :: es => drainRing n fn (writeEntry fn e (s.mapFunc fn fun f => { f with heldEvents := es }))
          | [] => s

/-- At the enabling of a ring the EVENTS_LOST entry comes first (R105). -/
def drainEnabled (fn : Nat) (s : State) : State :=
  let f := s.func fn
  let s := if f.eventsLost ≠ 0 then
      writeEntry fn (lostEntry s f.eventsLost) (s.mapFunc fn fun f => { f with eventsLost := 0 }) else s
  drainRing 256 fn s

/-- No entry is written for a function in reset (R105, R119), nor by stopped firmware (R454, R36). -/
def entriesOff (fn : Nat) (s : State) : Bool :=
  (s.func fn).flr.isSome || s.boot.inReset || !s.boot.fwRunning ||
    (s.halt.isSome && (s.standby.fatal == some (10, 0) || s.standby.fatal == some (10, 1)))

/-- A completion entry of a function, written or held (R103, R105). -/
def postEntry (fn : Nat) (e : Entry) (s : State) : State :=
  let f := s.func fn
  if entriesOff fn s then s
  else if ringRoom f && f.heldComps.isEmpty then writeEntry fn e s
  else setCause fn 1 (s.mapFunc fn fun f => { f with heldComps := f.heldComps ++ [e] })

/-- An event entry, written, held, or dropped and counted (R105); none after a fatal fault (R454). -/
def postEventEntry (fn : Nat) (e : Entry) (s : State) : State :=
  let f := s.func fn
  if entriesOff fn s || s.halt.isSome then s
  else if ringRoom f && f.heldComps.isEmpty && f.heldEvents.isEmpty && f.eventsLost == 0 then writeEntry fn e s
  else if f.heldEvents.length ≥ 64 || f.eventsLost ≠ 0 then
    setCause fn 2 (s.mapFunc fn fun f => { f with eventsLost := sat32 (f.eventsLost + 1) })
  else setCause fn 1 (s.mapFunc fn fun f => { f with heldEvents := f.heldEvents ++ [e] })

def postEvent (fn : Nat) (st : Status) (detail ty w1 w2 w3 : Nat) (s : State) : State :=
  postEventEntry fn (eventEntry st detail ty w1 w2 w3 (tideNow s)) s

/-- An event stamped with a given boundary. -/
def postEventAt (tide fn : Nat) (st : Status) (detail ty w1 w2 w3 : Nat) (s : State) : State :=
  postEventEntry fn (eventEntry st detail ty w1 w2 w3 tide) s

/-! ## Outstanding commands (R102, R104) -/

/-- The result words of a final entry. -/
structure Words where
  w0 : Nat := 0
  w1 : Nat := 0
  w2 : Nat := 0
  w3 : Nat := 0

def w64 (v : Nat) : Words := { w0 := v % 2 ^ 32, w1 := v / 2 ^ 32 % 2 ^ 32 }

/-- The commands of a function that are outstanding: those without a final entry, and those whose final entry waits to be written
(R102, R105). -/
def outstanding (f : Func) : Nat := f.cmds.length + (f.heldComps.filter fun e => e.final).length

def findCmd (s : State) (fn seq : Nat) : Option Cmd := (s.func fn).cmds.find? fun c => c.seq == seq

def dropCmd (fn seq : Nat) (s : State) : State :=
  s.mapFunc fn fun f => { f with cmds := f.cmds.filter fun c => c.seq != seq }

def setPhase (fn seq : Nat) (p : CmdPhase) (s : State) : State :=
  s.mapFunc fn fun f => { f with cmds := f.cmds.map fun c => if c.seq = seq then { c with phase := p } else c }

def setAux (fn seq : Nat) (a : List Nat) (s : State) : State :=
  s.mapFunc fn fun f => { f with cmds := f.cmds.map fun c => if c.seq = seq then { c with aux := a } else c }

def mkEntry (c : Cmd) (st : Status) (detail : Nat) (w : Words) (tide : Nat) : Entry :=
  if c.hdr.tag % 2 ^ 32 = 0 then
    -- R106: every entry of a TAG-0 command is a refusal and takes this form
    { status := st, detail := sat16 detail, tag := 0, tide := tide, w0 := 0, w1 := c.hdr.opcode + c.slot * 65536,
      quiet := c.hdr.flags.testBit 1, final := st != .sPending }
  else
    { status := st, detail := sat16 detail, tag := c.hdr.tag, tide := tide, w0 := w.w0 % 2 ^ 32, w1 := w.w1 % 2 ^ 32,
      w2 := w.w2 % 2 ^ 32, w3 := w.w3 % 2 ^ 32, quiet := c.hdr.flags.testBit 1,
      final := st != .sPending }

/-- The sequence a command names, for the COMMAND record's STEP (Table 14.4): the SEQ commands and TAP_ARM carry it in
bytes 3:0. -/
def namedStep (isle : Isle) (c : Cmd) : Nat :=
  if 0x0503 ≤ c.hdr.opcode ∧ c.hdr.opcode ≤ 0x0508 ∨ c.hdr.opcode = 0x0410 then
    match aGet isle.seqs (fieldB c.payload 0 4) with
    | some q => q.step
    | none => 0xFFFFFFFF
  else 0xFFFFFFFF

/-- Home shard of the sequence that a command names, the lowest of its REPLICAS, or 0xFF (Table 14.3). -/
def namedShard (isle : Isle) (c : Cmd) : Nat :=
  let low := fun m => ((List.range 16).find? fun i => Nat.testBit m i).getD 0xFF
  if c.hdr.opcode = 0x0502 then low (fieldB c.payload 8 2)
  else if 0x0503 ≤ c.hdr.opcode ∧ c.hdr.opcode ≤ 0x0508 ∨ c.hdr.opcode = 0x0410 then
    (match aGet isle.seqs (fieldB c.payload 0 4) with | some q => low q.replicas | none => 0xFF)
  else 0xFF

/-- The relative index of a tick in a log session (R359): that of its boundary, or of the coming one for what executes between two; that
of the replay run while one runs (R364). -/
def relIndex (s : State) (k : Nat) (l : LogSession) (t : Nat) : Nat :=
  let n := (t - l.b0 + l.epoch - 1) / l.epoch
  match (s.isle k).replay with
  | some m => if m.started then m.index + (if (t - l.b0) % l.epoch = 0 then 0 else 1) else n
  | none => n

/-- A record of what happens at tick t (Table 14.3): its TIDE is a boundary. -/
def recOf (s : State) (k ty shard : Nat) (l : LogSession) (t : Nat) (body : Bytes) : LogRec :=
  { ty := ty, shard := shard, rel := relIndex s k l t, tide := l.b0 + (t - l.b0 + l.epoch - 1) / l.epoch * l.epoch, body := body }

/-- Add a record to the isle's log session (R360), unless the session has ended. -/
def logRec (k ty shard b : Nat) (body : Bytes) (s : State) : State :=
  s.mapIsle k fun r => { r with log := r.log.map fun l => if l.ending.isSome then l else
    { l with recs := l.recs ++ [recOf s k ty shard l b body] } }

/-- Insert by place in the function's queue. -/
def insCmdRec (a : Nat × LogRec) : List (Nat × LogRec) → List (Nat × LogRec)
  | [] => [a]
  | x :: l => if a.1 < x.1 then a :: x :: l else x :: insCmdRec a l

/-- Add a COMMAND record to those of its boundary, in doorbell order (R360). -/
def logCommand (k shard tide seq : Nat) (body : Bytes) (s : State) : State :=
  s.mapIsle k fun r => { r with log := r.log.map fun l => if l.ending.isSome then l else
    { l with cmds := insCmdRec (seq, recOf s k 3 shard l tide body) l.cmds } }

/-- Body of a COMMAND record (Table 14.4). -/
def commandBody (isle : Isle) (c : Cmd) (st : Status) (w : Words) : Bytes :=
  natLe 2 c.hdr.opcode ++ natLe 2 (statusCode st) ++ natLe 4 c.hdr.token ++ natLe 4 (namedStep isle c) ++ natLe 4 0
    ++ natLe 4 w.w0 ++ natLe 4 w.w1 ++ natLe 4 w.w2 ++ natLe 4 w.w3 ++ c.payload ++ c.note

/-- The execution of a data-affecting command: the isle has executed one since its scrub (R359), and its session records it. One that is not
boundary-executed belongs to the coming boundary, after which the index that it precedes begins (R366). -/
def noteCommand (tide fn : Nat) (c : Cmd) (st : Status) (w : Words) (s : State) : State :=
  if !c.data then s else
  let k := isleOf fn
  let t := if c.phase = .working then tide + 1 else tide
  let s' := logCommand k (namedShard (s.isle k) c) t c.seq (commandBody (s.isle k) c st w) s
  s'.mapIsle k fun r => { r with pristine := false }

/-- Final completion of an outstanding command, stamped tide: its entry is posted, and once that is written it is outstanding no more. -/
def finishAt (tide fn seq : Nat) (st : Status) (detail : Nat) (w : Words) (s : State) : State :=
  match findCmd s fn seq with
  | none => s
  | some c => postEntry fn (mkEntry c st detail w tide) (dropCmd fn seq (noteCommand tide fn c st w s))

/-- A refusal by one of checks 1 to 7, or the disposal of a command that never ran: an entry and no record. -/
def refuseAt (tide fn seq : Nat) (st : Status) (detail : Nat) (s : State) : State :=
  match findCmd s fn seq with
  | none => s
  | some c => postEntry fn (mkEntry c st detail {} tide) (dropCmd fn seq s)

def finish (fn seq : Nat) (st : Status) (detail : Nat) (w : Words) (s : State) : State :=
  finishAt (tideNow s) fn seq st detail w s

/-- S_PENDING: an entry now and a final one later (R104). -/
def pendAt (tide fn seq : Nat) (s : State) : State :=
  match findCmd s fn seq with
  | none => s
  | some c => postEntry fn (mkEntry c .sPending 0 {} tide) (setPhase fn seq .final s)

def pend (fn seq : Nat) (s : State) : State := pendAt (tideNow s) fn seq s

/-- The head record of an isle's pressure list. -/
def addPressure (k : Nat) (f : Pressure → Pressure) (s : State) : State :=
  s.mapIsle k fun r => { r with pressure := match r.pressure with | [] => [f {}] | x :: l => f x :: l }

/-! ## Recording faults (R446 to R448) -/

/-- One bit's condition recorded in a view: word, GEN, capture, FLT_SEQ. -/
def viewRecord (d inst bit : Nat) (cap : Capture) (v : FaultView) : FaultView :=
  let fi := (pGet v.insts (d, inst)).getD {}
  let cap' := if fi.word = 0 then { cap with bit := bit, later := 0 }
    else { fi.cap with later := sat32 (fi.cap.later + 1) }
  { seq := (v.seq + 1) % 2 ^ 32,
    insts := pSet (d, inst) { word := setBit fi.word bit, gen := (fi.gen + 1) % 2 ^ 32, cap := cap' } v.insts }

/-- Where a fault lies: isle (0xFF none), unit, addresses by view, INFO. -/
structure FaultAt where
  isle  : Nat := 0xFF
  unit  : Nat := 0xFFFF
  phys  : Nat := 0
  prog  : Nat := 0
  info  : Nat := 0

def capOf (s : State) (a : FaultAt) (unit addr : Nat) : Capture :=
  { isle := a.isle, unit := unit, tide := tideNow s, addr := addr, info := a.info }

/-- The dedicated cores of an isle, ascending (Table 15.2). -/
def dedicated (k : Isle) : List Nat := maskBits k.grant.cores 64

/-- The isle core index of a physical core or of a lagoon held through LAGOONS (R118). -/
def isleCoreIndex (k : Isle) (core : Nat) : Option Nat :=
  (dedicated k ++ k.extraLagoons).findIdx? fun c => c == core

/-- The fault in one isle's view, with the cause on its function (R446). -/
def recordIsle (k d inst bit : Nat) (a : FaultAt) (s : State) : State :=
  let isle := s.isle k
  if isle.state = .absent then s else
  let place := if d = dCore then isleCoreIndex isle inst else some inst
  match place with
  | none => s
  | some i =>
    let unit := if d = dCore then i else a.unit
    let s := s.mapIsle k fun r => { r with faults := viewRecord d i bit (capOf s a unit a.prog) r.faults }
    setCause k 4 s

/-- Domains that every isle uses (R446). -/
def commonDomain (d : Nat) : Bool := d == dDev || d == dTide || d == dEntropy || d == dCp

/-- FATAL_HALT (R454): the halt sequence begins and the standby record takes domain and bit. -/
def fatalHalt (d bit : Nat) (s : State) : State :=
  let s := s.mapStandby fun r => { r with fatal := some (d, bit) }
  if s.halt.isSome then s else { s with halt := some s.clk.ticks }

/-- Record a fault: the chip view unless the bit is class I, ALERT_N for class A, the views of the touched isles, and the
halt for class F. -/
def recordFault (d inst bit : Nat) (a : FaultAt) (touched : List Nat) (s : State) : State :=
  let s := if isleOnlyBit d bit then s else
    setCause 0 4 (s.mapFaults fun v => viewRecord d inst bit (capOf s a a.unit a.phys) v)
  let s := if isleOnlyBit d bit || fatalBit d bit then s else s.mapPins fun p => { p with alertLow := true }
  let isles := if fatalBit d bit || commonDomain d then List.range 32 else touched
  let s := isles.foldl (fun s k => recordIsle k d inst bit a s) s
  if fatalBit d bit then fatalHalt d bit s else s

/-- A failed host access of a command: E_FAULT and HOST_ACCESS (R98). -/
def hostFails (fn : Nat) (c : Cmd) (s : State) : State :=
  finish fn c.seq .eFault 0 {} (recordFault dHost 0 0 {} [isleOf fn] s)

/-- A command reaches host memory as it executes: go carries it on, unless the access fails, which is the command's error (R98). -/
def withHost (fn : Nat) (c : Cmd) (tide : Nat) (go : State → State) (s : State) : State :=
  if (s.func fn).failTags.contains c.hdr.tag then
    finishAt tide fn c.seq .eFault 0 {} (recordFault dHost 0 0 {} [isleOf fn]
      (s.mapFunc fn fun f => { f with failTags := f.failTags.filter (· != c.hdr.tag) }))
  else go s

def faultWord (v : FaultView) (d inst : Nat) : Nat := ((pGet v.insts (d, inst)).getD {}).word

/-- Some class F bit is set in the chip view (R459). -/
def anyFatal (s : State) : Bool :=
  s.faults.insts.any fun p => (List.range 32).any fun b => fatalBit p.1.1 b && p.2.word.testBit b

/-- FAULT_N (R459): driven low while one of its conditions holds. -/
def faultNLow (s : State) : Bool :=
  anyFatal s || s.halt.isSome || s.boot.phase == phFailed || s.boot.phase == phLimbo || s.standby.thermtrip
    || ((s.standby.brownout || s.standby.strapUnstable) && s.standby.recFresh)

/-! ## Units in service (R458) -/

def unitState (s : State) (cls idx : Nat) : Nat :=
  match pGet s.units.recs (cls, idx) with
  | some r => r.state
  | none => if cls = 0 ∧ s.fuses.disabled.testBit idx then 4 else 0

/-- A change of a unit's state: the record, ALERT_N (R460) and the UNIT_STATE event (R458). -/
def setUnitState (cls idx st t : Nat) (s : State) : State :=
  let s := s.mapUnits fun u => { u with recs := pSet (cls, idx) { state := st, lastT := t } u.recs }
  let s := s.mapPins fun p => { p with alertLow := true }
  postEvent 0 .sOk 0 0x10 (cls + idx * 65536) st 0 s

/-- A unit carries work while IN_SERVICE or RETIRING. -/
def unitServes (s : State) (cls idx : Nat) : Bool := unitState s cls idx == 0 || unitState s cls idx == 1

/-- The cores enabled and in service (DEV_CORE_MAP, Table 5.3). -/
def coreMap (s : State) : List Nat :=
  if s.boot.phase < phPort || phReady < s.boot.phase then [] else
  (List.range 64).filter fun c => unitServes s 0 c && !s.units.lagoonsOut.contains c

def natMask (l : List Nat) : Nat := l.foldl (fun m i => setBit m i) 0

end Sys2Proof.Machine
end

