-- ==== Sys2Proof/Machine/Operands.lean ====
section
/-! DEFINITION. Operand forms: logical shards and views, program addresses (R127 to R135, R161), the reads and writes of memory
through them with poison (R451), and blocks of the memory port (R142, R143). -/

namespace Sys2Proof.Machine

/-! ## Shards and views (R326, R353) -/

/-- The members of the archipelago; before formation, this chip alone. -/
def members (s : State) : List Nat := if s.arch.member = 0 then [chipId s] else maskBits s.arch.member 16

/-- The chip that hosts logical shard g: m_j with j = floor(g N / 16). -/
def shardHost (s : State) (g : Nat) : Nat := (members s).getD (g * (members s).length / 16) (chipId s)

def hostedShards (s : State) : List Nat := (List.range 16).filter fun g => shardHost s g == chipId s

/-- H of R354: shards this chip hosts, at least 1. -/
def hostedCount (s : State) : Nat := max 1 (hostedShards s).length

/-- The rank of shard g among the hosted ones: the index of its view. -/
def shardRank (s : State) (g : Nat) : Option Nat := (hostedShards s).findIdx? fun x => x == g

/-- The view that SHARD_SELECT selected for a function, as a rank (R356). -/
def viewOf (s : State) (fn : Nat) : Nat := (shardRank s (s.func fn).view).getD 0

/-- The shard mask of shards whose host is absent (R326). -/
def orphaned (s : State) : Nat :=
  if s.arch.member = 0 then 0 else
  natMask ((List.range 16).filter fun g => !(s.arch.present.testBit (shardHost s g)))

/-! ## Physical places -/

/-- A physical byte: which memory, and its key there (R130, R157). -/
inductive Phys where
  | ob (k : Nat) | lagoon (k : Nat) | shelf (k : Nat) | hbm (k : Nat)
  deriving DecidableEq, Repr

/-- The diagnostic address of a physical byte: SPACE 0x8 to 0xB (R130, R157). -/
def physAddr : Phys → Nat
  | .ob k => 8 * 2 ^ 44 + k / 2 ^ 20 * 2 ^ 38 + k % 2 ^ 20
  | .lagoon k => 9 * 2 ^ 44 + k / 2 ^ 24 * 2 ^ 38 + k % 2 ^ 24
  | .shelf k => 10 * 2 ^ 44 + k / 2 ^ 28 * 2 ^ 38 + k % 2 ^ 28
  | .hbm k => 11 * 2 ^ 44 + k

def physRead (m : Mems) : Phys → Byte
  | .ob k => Memory.read m.ob k
  | .lagoon k => Memory.read m.lagoon k
  | .shelf k => Memory.read m.shelf k
  | .hbm k => Memory.read m.hbm k

def physWrite (m : Mems) (p : Phys) (b : Byte) : Mems :=
  match p with
  | .ob k => { m with ob := Memory.write m.ob k b }
  | .lagoon k => { m with lagoon := Memory.write m.lagoon k b }
  | .shelf k => { m with shelf := Memory.write m.shelf k b }
  | .hbm k => { m with hbm := Memory.write m.hbm k b }

/-- Whether the line of a byte carries a poison mark (Table 18.4, R163). -/
def physPoison (m : Mems) : Phys → Bool
  | .ob k => m.obPoison.contains (k / 512)
  | .lagoon k => m.lagoonPoison.contains (k / 256)
  | .shelf k => m.shelfPoison.contains (k / 128)
  | .hbm k => m.hbmPoison.contains (k / 64) || m.stackFail.contains (k / 2 ^ 21 % 512 / 64)

/-- Mark the line of a byte poisoned (R451). -/
def physMark (m : Mems) : Phys → Mems
  | .ob k => { m with obPoison := insNat (k / 512) m.obPoison }
  | .lagoon k => { m with lagoonPoison := insNat (k / 256) m.lagoonPoison }
  | .shelf k => { m with shelfPoison := insNat (k / 128) m.shelfPoison }
  | .hbm k => { m with hbmPoison := insNat (k / 64) m.hbmPoison }

/-- Clear the mark of a byte's line (a whole-line write, R451). -/
def physUnmark (m : Mems) : Phys → Mems
  | .ob k => { m with obPoison := m.obPoison.filter (· != k / 512) }
  | .lagoon k => { m with lagoonPoison := m.lagoonPoison.filter (· != k / 256) }
  | .shelf k => { m with shelfPoison := m.shelfPoison.filter (· != k / 128) }
  | .hbm k => { m with hbmPoison := m.hbmPoison.filter (· != k / 64) }

/-- Bytes of a line of the memory that holds p, and p's offset in it. -/
def physLine : Phys → Nat × Nat
  | .ob k => (512, k % 512) | .lagoon k => (256, k % 256) | .shelf k => (128, k % 128) | .hbm k => (64, k % 64)

/-! ## Program addresses (R127, R129) -/

def spaceOf (a : Nat) : Nat := bitsOf a 44 4

/-- Translation of a program address in view h of isle k; core names the operand buffers of the executing core (R128). -/
def translate (s : State) (k h : Nat) (core : Option Nat) (a : Nat) : Option Phys :=
  let isle := s.isle k
  if a / 2 ^ 48 ≠ 0 then none else
  let b := a % 2 ^ 44
  match spaceOf a with
  | 0 =>
    match core with
    | none => none
    | some c => if b / 2 ^ 20 ≠ 0 ∨ bitsOf b 18 2 = 3 then none else some (.ob (c * 2 ^ 20 + b))
  | 1 =>
    if bitsOf b 24 14 ≠ 0 then none else
    let off := b % 2 ^ 24
    match ((isle.slotMap.getD h []).getD (b / 2 ^ 38) [])[off / 2 ^ 19]? with
    | none => none
    | some u => some (.lagoon (u / 32 * 2 ^ 24 + u % 32 * 2 ^ 19 + off % 2 ^ 19))
  | 2 =>
    if bitsOf b 28 10 ≠ 0 then none else
    match (isle.extents.getD h [])[bitsOf b 20 8]? with
    | none => none
    | some e => some (.shelf (b / 2 ^ 38 * 2 ^ 28 + e * 2 ^ 20 + b % 2 ^ 20))
  | 3 =>
    if b / 2 ^ 36 ≠ 0 then none else
    match (isle.extents.getD h [])[b / 2 ^ 26]? with
    | none => none
    | some e =>
      let y := b % 2 ^ 26
      let c := y / 4096
      some (.shelf (c % 64 * 2 ^ 28 + e * 2 ^ 20 + c / 64 * 4096 + y % 4096))
  | 4 =>
    if b / 2 ^ 39 ≠ 0 then none else
    match (isle.frames.getD h [])[b / 2 ^ 21]? with
    | none => none
    | some f => some (.hbm (f * 2 ^ 21 + b % 2 ^ 21))
  | _ => none

/-- Bytes that translate as one piece, and the bytes from a space's start to its end, by space. -/
def pieceOf (a : Nat) : Nat × Nat :=
  match spaceOf a with
  | 0 => (2 ^ 18, 2 ^ 18)
  | 1 => (2 ^ 19, 2 ^ 24)
  | 2 => (2 ^ 20, 2 ^ 20)
  | 3 => (2 ^ 26, 2 ^ 36)
  | _ => (2 ^ 21, 2 ^ 39)

/-- The first byte of a range and every other one translate (R129); a segment-view range stays in its slice (R143). -/
def rangeOk (s : State) (k h : Nat) (core : Option Nat) (a len : Nat) : Bool :=
  let (piece, lim) := pieceOf a
  decide (a % lim + len ≤ lim) && (translate s k h core a).isSome &&
    (List.range (ceilDiv (a % piece + len) piece)).all fun i =>
      (translate s k h core (if i = 0 then a else a - a % piece + i * piece)).isSome

/-- The ranges a and b (address, length) meet. -/
def meets (a la b lb : Nat) : Bool := decide (a < b + lb) && decide (b < a + la)

/-! ## KV pools and sealed regions (R285, R430) -/

/-- The address of the same shelf byte in the other shelf view (R128): segment view and striped view. -/
def shelfAlias (a : Nat) : Nat :=
  let b := a % 2 ^ 44
  if spaceOf a = 2 then 3 * 2 ^ 44 + bitsOf b 20 8 * 2 ^ 26 + (b % 2 ^ 20 / 4096 * 64 + b / 2 ^ 38) * 4096 + b % 4096
  else if spaceOf a = 3 then
    2 * 2 ^ 44 + b / 4096 % 64 * 2 ^ 38 + b / 2 ^ 26 * 2 ^ 20 + b % 2 ^ 26 / 4096 / 64 * 4096 + b % 4096
  else a

/-- The parts of a range by 4 KiB chunks, as (address, length). -/
def pagePieces (a len : Nat) : List (Nat × Nat) :=
  (List.range (ceilDiv (a % 4096 + len) 4096)).map fun i =>
    let lo := max a (a / 4096 * 4096 + i * 4096)
    (lo, min (a + len) ((a / 4096 + i + 1) * 4096) - lo)

/-- Two ranges of one view meet, also where they name the bytes in different shelf views (R128). -/
def regionMeets (a la b lb : Nat) : Bool :=
  la != 0 && lb != 0 && (meets a la b lb ||
    ((spaceOf a == 2 || spaceOf a == 3) && (pagePieces a la).any fun c => meets (shelfAlias c.1) c.2 b lb))

/-- Whether a range of view h meets the isle's KV pools (R284). -/
def inPool (isle : Isle) (h a len : Nat) : Bool :=
  match isle.pool with
  | none => false
  | some (p, pv) =>
    pv == h && (regionMeets a len p.shelfBase p.shelfLen || meets a len p.t1Base p.t1Len ||
      (spaceOf a == 1 && meets (a % 2 ^ 24) len (p.shoalFirst * 2 ^ 19) (p.shoalUnits * 2 ^ 19)))

/-- Whether a range of view h meets a registered key region (R430). -/
def inSealed (s : State) (k h a len : Nat) : Bool :=
  (s.isle k).sealed.keys.any fun e => e.2.view == h && regionMeets a len e.2.base e.2.len

/-- Resident declarations cover the range (R149), page by page, whichever shelf view they were made in. -/
def isResident (isle : Isle) (h a len : Nat) : Bool :=
  let has := fun (x n : Nat) => isle.resident.any fun r => r.1 == h && decide (r.2.1 ≤ x) && decide (x + n ≤ r.2.1 + r.2.2)
  has a len || (List.range (ceilDiv (a % 4096 + len) 4096)).all fun p =>
    has (a / 4096 * 4096 + 4096 * p) 4096 || has (shelfAlias (a / 4096 * 4096 + 4096 * p)) 4096

/-! ## Reads and writes -/

/-- n bytes at program address a, with a poison flag per byte; none when a byte does not translate. -/
def readProg (s : State) (k h : Nat) (core : Option Nat) (a n : Nat) : Option (List (Byte × Bool)) :=
  (List.range n).mapM fun i => (translate s k h core (a + i)).map fun p => (physRead s.mems p, physPoison s.mems p)

/-- The poisoned lines met by n bytes at a, as diagnostic addresses of the line. -/
def poisonedLines (s : State) (k h : Nat) (core : Option Nat) (a n : Nat) : List Nat :=
  ((List.range n).filterMap fun i =>
    match translate s k h core (a + i) with
    | some p => if physPoison s.mems p then some (physAddr p - (physLine p).2) else none
    | none => none).foldl (fun l x => insNat x l) []

/-- Write bytes with poison flags: a destination line that receives a poisoned byte is marked; a line that is covered whole by
clean bytes loses its mark (R451). -/
def writeProg (k h : Nat) (core : Option Nat) (a : Nat) (bs : List (Byte × Bool)) (s : State) : State :=
  let ps := (List.range bs.length).filterMap fun i =>
    match translate s k h core (a + i), bs[i]? with
    | some p, some b => some (p, i, b)
    | _, _ => none
  let clean := (ps.filter fun x => (physLine x.1).2 == 0 &&
    decide (x.2.1 + (physLine x.1).1 ≤ bs.length)).map fun x => x.1
  let m := clean.foldl physUnmark s.mems
  let m := ps.foldl (fun m x => physWrite m x.1 x.2.2.1) m
  let m := ps.foldl (fun m x => if x.2.2.2 then physMark m x.1 else m) m
  { s with mems := m }

def plainBytes (bs : Bytes) : List (Byte × Bool) := bs.map fun b => (b, false)

/-- A command's write of clean bytes. -/
def writeBytes (k h a : Nat) (bs : Bytes) (s : State) : State := writeProg k h none a (plainBytes bs) s

/-- A command's read, bytes only (absent bytes read 0). -/
def readBytes (s : State) (k h a n : Nat) : Bytes :=
  ((readProg s k h none a n).getD []).map fun x => x.1

/-! ## Zeroing (R151): whole units of each memory -/

def zeroLagoonUnit (u : Nat) (m : Mems) : Mems :=
  let a := u / 32 * 2 ^ 24 + u % 32 * 2 ^ 19
  { m with lagoon := Memory.clear m.lagoon a (2 ^ 19),
           lagoonPoison := m.lagoonPoison.filter fun l => !(decide (a / 256 ≤ l) && decide (l < (a + 2 ^ 19) / 256)) }

def zeroExtent (e : Nat) (m : Mems) : Mems :=
  { m with shelf := m.shelf.filter fun c => c.1 % 2 ^ 28 / 2 ^ 20 != e,
           shelfPoison := m.shelfPoison.filter fun l => l * 128 % 2 ^ 28 / 2 ^ 20 != e }

def zeroFrame (f : Nat) (m : Mems) : Mems :=
  { m with hbm := m.hbm.filter fun c => c.1 / 2 ^ 21 != f,
           hbmPoison := m.hbmPoison.filter fun l => l * 64 / 2 ^ 21 != f }

def zeroOb (core : Nat) (m : Mems) : Mems :=
  { m with ob := m.ob.filter fun c => c.1 / 2 ^ 20 != core,
           obPoison := m.obPoison.filter fun l => l * 512 / 2 ^ 20 != core }

/-! ## Blocks (R142, R143) -/

/-- A block (Table 6.6). -/
structure Block where
  base : Nat
  esz  : Nat        -- bytes of an element
  rows : Nat
  cols : Nat
  rs   : Nat
  cs   : Nat

def Block.addr (b : Block) (i j : Nat) : Nat := b.base + (i * b.rs + j * b.cs) * b.esz

/-- (i, j) of a block in row-major order. -/
def Block.order (b : Block) : List (Nat × Nat) :=
  (List.range b.rows).flatMap fun i => (List.range b.cols).map fun j => (i, j)

/-- DIGEST of a program image (Table 10.2). -/
def imgDigest (b : Bytes) : Bytes := sliceB b 0x10 48

/-- The digest by which partners name a program (R331). -/
def Prog.digest (g : Prog) : Nat := leNat (imgDigest g.image)

end Sys2Proof.Machine
end

