-- ==== Sys2Proof/Machine/Flags.lean ====
section
/-! DEFINITION. Every status computation: the words of the registers of BAR0 (Table 20.1), the fault summary, and BAR0 reads. -/

namespace Sys2Proof.Machine

/-- Fields marked "firmware" read zero until FW_START ends (Table 5.3). -/
def devRev (s : State) : Nat := s.fuses.grade * 2 ^ 16 + s.fuses.stepping * 2 ^ 8

/-- DEV_BOOT (Table 4.2); a VF sees PHASE alone (R74). -/
def devBoot (s : State) (fn : Nat) : Nat :=
  if fn ≠ 0 then s.boot.phase else
  s.boot.pushStatus * 2 ^ 24 + s.boot.failCode * 2 ^ 16 + b2n s.boot.loader * 2 ^ 9 + s.boot.imageCopy * 2 ^ 8 + s.boot.phase

/-- DEV_STRAPS (Table 5.3). -/
def devStraps (s : State) (fn : Nat) : Nat :=
  b2n s.boot.archEn * 2 ^ 7 + (if fn = 0 then s.boot.bootSrc * 2 ^ 4 else 0) + chipId s

/-- DEV_CORE_MAP (Table 5.3): physical cores in service for the PF, d low bits for a VF. -/
def devCoreMap (s : State) (fn : Nat) : Nat :=
  if fn = 0 then natMask (coreMap s) else 2 ^ (dedicated (s.isle fn)).length - 1

/-- Pseudo-channels in service. -/
def pcsInService (s : State) : Nat := ((List.range 512).filter fun p => unitServes s 2 p).length

def stacksInService (s : State) : Nat :=
  ((List.range 8).filter fun st => (List.range 64).any fun p => unitServes s 2 (64 * st + p)).length

/-- DEV_HBM (Table 5.3): zero until HBM_TRAIN ends. -/
def devHbm (s : State) (fn : Nat) : Nat :=
  if s.boot.bin = 0 ∨ s.boot.phase = phHbm then 0 else
  (if fn = 0 then pcsInService s * 2 ^ 16 else 0) + stacksInService s * 2 ^ 8 + s.boot.bin

/-- DEV_FUNC (Table 5.3). -/
def devFunc (s : State) (fn : Nat) : Nat := isleStateCode (s.isle fn).state * 2 ^ 8 + fn

/-- DEV_LIMITS (Table 5.3, R370). -/
def devLimits (s : State) (fn : Nat) : Nat := 64 * 2 ^ 16 + (s.isle fn).grant.streams

/-- An epoch change agreed and not yet effective (Table 3.4). -/
def changePending (s : State) : Bool :=
  s.tide.agreed.any fun a => a.confirmed && (match a.act with | .epochLen _ => true | _ => false)

/-- TIDE_STATUS (Table 3.4). -/
def tideStatus (s : State) : Nat :=
  s.tide.leader * 2 ^ 8 + b2n (changePending s) * 8 + b2n s.tide.linkAligned * 4 + b2n s.tide.aligned * 2 + b2n s.tide.refclkOk

/-- The view a function's fault summary registers show (R118): the chip view on the PF, the isle view on a VF. -/
def viewFor (s : State) (fn : Nat) : FaultView := if fn = 0 then s.faults else (s.isle fn).faults

def domainSet (v : FaultView) (d : Nat) : Bool := v.insts.any fun p => p.1.1 == d && p.2.word != 0

/-- FLT_SUMMARY (Table 5.15): the bit of a domain is its code (R444). -/
def fltSummary (v : FaultView) : Nat := natMask ((List.range 11).filter fun d => domainSet v d)

/-- Instances of a domain with a bit set, as a mask. -/
def instMask (v : FaultView) (d : Nat) : Nat :=
  natMask ((List.range (domCount d)).filter fun i => faultWord v d i != 0)

def fltCore (v : FaultView) : Nat := instMask v dCore

def fltPorts (v : FaultView) : Nat := instMask v dCay * 2 ^ 15 + instMask v dLink

def slotBusy (f : Func) : Nat := natMask f.doorbells

def irqPending (f : Func) : Nat := natMask ((List.range 6).filter fun b => f.irqCause.testBit b && !f.irqMask.testBit b)

/-- MBX_CQ_BASE and MBX_CQ_SHADOW as read. -/
def cqBaseReg (f : Func) : Nat := f.cqBase + b2n f.cqEnable
def cqShadowReg (f : Func) : Nat := f.cqShadow + b2n f.shadowEnable

def lowHalf (v : Nat) : Nat := v % 2 ^ 32
def highHalf (v : Nat) : Nat := v / 2 ^ 32 % 2 ^ 32

/-- MSI-X vectors of a function (R471). -/
def vectors (fn : Nat) : Nat := if fn = 0 then 256 else 64

/-- The 4-byte word at an aligned BAR0 offset, for offsets the functions' registers hold (Table 20.1); others read 0 (R99).
TIDE_COUNT_HI reads the shadow (R55). A register that mirrors live state shows it also while a reset holds the function's registers (R119;
DESIGN CHOICE, log 125). -/
def regWord (s : State) (fn off : Nat) : Nat :=
  let f := s.func fn
  if 0x1000 ≤ off ∧ off < 0x2000 then leNat (Memory.readN f.slots (off - 0x1000) 4)
  else if 0x6000 ≤ off ∧ off < 0x6000 + 16 * vectors fn then
    let v := (off - 0x6000) / 16
    if off % 16 = 12 then b2n (!f.msixUnmasked.contains v) else leNat (Memory.readN f.msixTable (off - 0x6000) 4)
  else if 0x7000 ≤ off ∧ off < 0x7000 + vectors fn / 8 then
    natMask ((List.range 32).filter fun b => f.msixPending.contains ((off - 0x7000) * 8 + b))
  else match off with
  | 0x0000 => (if fn = 0 then 0x0D01 else 0x0D02) * 2 ^ 16 + 0x1D7A
  | 0x0004 => devRev s
  | 0x0008 => devBoot s fn
  | 0x000C => devStraps s fn
  | 0x0010 => lowHalf (devCoreMap s fn)
  | 0x0014 => highHalf (devCoreMap s fn)
  | 0x0018 => devHbm s fn
  | 0x001C => s.fw.ifVersion
  | 0x0020 => lowHalf s.fw.build
  | 0x0024 => highHalf s.fw.build
  | 0x0028 => devFunc s fn
  | 0x002C => devLimits s fn
  | 0x2004 => slotBusy f
  | 0x2008 => f.mbxErr
  | 0x2010 => lowHalf (cqBaseReg f)
  | 0x2014 => highHalf (cqBaseReg f)
  | 0x2018 => lowHalf (cqShadowReg f)
  | 0x201C => highHalf (cqShadowReg f)
  | 0x2020 => f.head
  | 0x2024 => f.tail
  | 0x3000 => f.irqCause
  | 0x3004 => f.irqMask
  | 0x3008 => irqPending f
  | 0x4000 => lowHalf s.tide.count
  | 0x4004 => f.tideShadow
  | 0x4008 => s.tide.epochLen
  | 0x4010 => lowHalf s.tide.base
  | 0x4014 => highHalf s.tide.base
  | 0x4018 => tideStatus s
  | 0x5000 => fltSummary (viewFor s fn)
  | 0x5004 => (viewFor s fn).seq
  | 0x5008 => lowHalf (fltCore (viewFor s fn))
  | 0x500C => highHalf (fltCore (viewFor s fn))
  | 0x5010 => fltPorts (viewFor s fn)
  | _ => 0

/-- A BAR0 read of 1, 2, 4 or 8 bytes at a multiple of its size; any other access reads zero (R483). The loader serves
DEV_BOOT, a zero tide mirror and slot 0 alone (R79). -/
def barRead (s : State) (fn off size : Nat) : Nat :=
  if ¬ (size = 1 ∨ size = 2 ∨ size = 4 ∨ size = 8) ∨ off % size ≠ 0 then 0
  else
    let word := fun o =>
      if s.boot.loader ∧ ¬ s.boot.fwRunning then
        (if fn = 0 ∧ (o = 8 ∨ (0x1000 ≤ o ∧ o < 0x1100)) then regWord s fn o else 0)
      else regWord s fn o
    if size = 8 then
      if off = 0x4000 then s.tide.count else word off + word (off + 4) * 2 ^ 32
    else word (off - off % 4) / 2 ^ (8 * (off % 4)) % 2 ^ (8 * size)

end Sys2Proof.Machine
end

