-- ==== Sys2Proof/Machine/Mbx.lean ====
section
/-! DEFINITION. Mailbox commands: what a command's own chapter says of it (CmdSpec), the checks of Table 5.10, acceptance,
the uniform refusals of R110 and R111, the orders of R109, and the execution of boundary-executed commands. -/

namespace Sys2Proof.Machine

/-- What Table 20.2 and a command's own chapter say of it. The functions get the state, the function number and the payload. -/
structure CmdSpec where
  opcode : Nat
  pfOnly : Bool := false
  /-- served before READY (Table 4.7) -/
  early : Bool := false
  /-- PLEN is the command's defined length -/
  plen : Bytes → Nat → Bool
  /-- check 4 beyond the function: handles, windows, keys, peers, authorization -/
  auth : State → Nat → Cmd → Bool := fun _ _ _ => true
  /-- check 6: reserved payload fields zero and fields in range -/
  args : State → Nat → Cmd → Bool := fun _ _ _ => true
  /-- check 7: object or isle in the wrong state -/
  pre : State → Nat → Cmd → Option (Status × Nat) := fun _ _ _ => none
  /-- allocates or uses isle memory: needs the isle ENABLED, E_BUSY while it is being scrubbed (R119) -/
  memUse : Bool := false
  boundary : Bool := false
  peer : State → Nat → Bytes → Bool := fun _ _ _ => false
  /-- what the question to the peers carries: the payload, or more -/
  peerData : State → Nat → Bytes → Bytes := fun _ _ b => b
  /-- marked peer-checked without condition (P of Table 20.2): every refusal uses the peer grid (R111) -/
  peerMark : Bool := false
  data : Bytes → Bool := fun _ => false
  /-- the object named: a namespace and a handle (R109) -/
  handle : Bytes → Option (Nat × Nat) := fun _ => none
  /-- what acceptance itself does, before execution (R308, R311) -/
  accepted : Nat → Cmd → State → State := fun _ _ s => s
  /-- execution (check 8): function, command, stamp -/
  run : Nat → Cmd → Nat → State → State

/-- The commands of the running interface, by opcode (R473). -/
abbrev CmdTable := Nat → Option CmdSpec

def plenIs (n : Nat) : Bytes → Nat → Bool := fun _ p => p == n

/-! ## Quanta (R110, R111) -/

def quantum (d : Nat) : Nat := (d / 6400 + 2) * 6400
def peerQuantum (d : Nat) : Nat := (d / 6400 + 4) * 6400

/-- The security classes (R110): opcodes 0x0200 to 0x0AFF, and any command that is denied. -/
def securityClass (opcode : Nat) (st : Status) : Bool := (0x0200 ≤ opcode && opcode ≤ 0x0AFF) || st == .eDenied

/-- The stamp of a quantized refusal: Q, or 0 before ALIGN (R110). -/
def quantStamp (s : State) (q : Nat) : Nat := if s.tide.aligned then q else 0

/-! ## Checks of Table 5.10 -/

/-- Remaining scrub time of an isle in milliseconds, rounded up (R379, R108). -/
def scrubMs (s : State) (k : Nat) : Nat :=
  let r := s.isle k
  if r.state = .quiescing ∨ r.state = .scrubbing then min 65535 (ceilDiv (r.scrubEnd - tideNow s) 100000) else 0

/-- A reserved header field is nonzero, or TAG is 0 (check 6). -/
def hdrBad (h : Hdr) : Bool := h.flags / 4 != 0 || h.res0 != 0 || h.res1 != 0 || h.tag % 2 ^ 32 == 0

/-- Check 1: after a completed transition (R408), and in LIMBO, where only LC_TRANSITION to the intent target passes (R76, R409). -/
def check1 (s : State) (c : Cmd) : Option (Status × Nat) :=
  match s.sec.lcDone with
  | some _ => if c.hdr.opcode = 0x0800 ∨ c.hdr.opcode = 0x0830 then none else some (.eState, 0)
  | none =>
    match s.boot.limbo with
    | some t => if c.hdr.opcode = 0x0802 ∧ fieldB c.payload 0 1 = t then none else some (.eLimbo, t)
    | none => none

def check2 (s : State) (fn : Nat) (spec : Option CmdSpec) : Option (Status × Nat) :=
  if s.boot.limbo.isSome ∨ s.boot.phase = phReady then none
  else if fn = 0 ∧ (spec.map fun c => c.early) = some true then none
  else some (.eBusy, sat16 (Config.msToReady s.boot.phase))

/-- After a fatal fault every command but the queries of Table 4.7 completes with E_FAULT (R454). -/
def checkHalt (s : State) (spec : Option CmdSpec) : Option (Status × Nat) :=
  if s.halt.isSome ∧ (spec.map fun c => c.early) ≠ some true then some (.eFault, 0) else none

/-- Check 7's common part (R119, R152): the isle itself. -/
def isleCheck (s : State) (fn : Nat) (spec : CmdSpec) : Option (Status × Nat) :=
  if !spec.memUse then none else
  match (s.isle (isleOf fn)).state with
  | .enabled => none
  | .quiescing | .scrubbing => some (.eBusy, max 1 (scrubMs s (isleOf fn)))
  | _ => some (.eState, 0)

/-- Checks 4 to 7 of a known command. -/
def checks47 (s : State) (fn : Nat) (spec : CmdSpec) (c : Cmd) : Option (Status × Nat) :=
  if (spec.pfOnly && fn != 0) || !spec.auth s fn c then some (.eDenied, 0)
  else if !spec.plen c.payload c.hdr.plen || c.hdr.plen > 224 then some (.eBadlen, 0)
  else if hdrBad c.hdr || !spec.args s fn c then some (.eBadarg, 0)
  else (isleCheck s fn spec).or (spec.pre s fn c)

/-- Checks 1 to 7, in order: the first that fails. -/
def checkAll (s : State) (fn : Nat) (spec : Option CmdSpec) (c : Cmd) : Option (Status × Nat) :=
  ((check1 s c).or (checkHalt s spec)).or <|
  (check2 s fn spec).or <|
  match spec with
  | none => some (.eBadcmd, 0)
  | some sp => checks47 s fn sp c

/-- Judged again at the execution boundary: ownership and state (R107). -/
def rejudge (s : State) (fn : Nat) (spec : CmdSpec) (c : Cmd) : Option (Status × Nat) :=
  if !spec.auth s fn c then some (.eDenied, 0)
  else (isleCheck s fn spec).or (spec.pre s fn c)

/-! ## Acceptance (R102) -/

/-- A function that can send: the PF, or a VF that VF Enable and NumVFs allow. -/
def fnAlive (s : State) (fn : Nat) : Bool :=
  s.boot.fwRunning && !s.boot.inReset && (s.func fn).flr.isNone &&
    (fn == 0 || (fn < 32 && s.pcie.vfEnable && fn ≤ s.pcie.numVFs))

/-- A refused command: its entry at Q when its class is quantized (R110), else now. No quanta in LIMBO. -/
def refuse (fn seq : Nat) (c : Cmd) (peer : Bool) (st : Status) (detail : Nat) (s : State) : State :=
  if securityClass c.hdr.opcode st && s.boot.limbo.isNone then
    setPhase fn seq (.refusal (if peer then peerQuantum c.d else quantum c.d) st detail) s
  else refuseAt (tideNow s) fn seq st detail s

def sameHandle (tbl : CmdTable) (a b : Cmd) : Bool :=
  match tbl a.hdr.opcode, tbl b.hdr.opcode with
  | some x, some y =>
    match x.handle a.payload, y.handle b.payload with
    | some h, some g => h == g
    | _, _ => false
  | _, _ => false

/-- A phase in which a command has not yet executed. -/
def unexecuted : CmdPhase → Bool
  | .held | .boundary | .peer _ | .working => true
  | _ => false

/-- R109: held back by FENCE, or by an earlier command that names the same handle. -/
def blocked (tbl : CmdTable) (f : Func) (c : Cmd) : Bool :=
  f.cmds.any fun e => decide (e.seq < c.seq) && (c.hdr.flags.testBit 0 || (unexecuted e.phase && sameHandle tbl e c))

/-- A boundary-executed command waits for its boundary in any case; its orders are kept there (boundaryCmds). -/
def atBoundary (tbl : CmdTable) (c : Cmd) : Bool :=
  match tbl c.hdr.opcode with
  | some spec => spec.boundary
  | none => false

/-- The index before which a recorded command that is not boundary-executed may not start in replay mode (R366). -/
def replayIndex (m : ReplayMode) : Nat := if m.started then m.index + 1 else 0

/-- R366: in replay mode such a command waits for the index before its recorded one. -/
def replayHeld (tbl : CmdTable) (s : State) (fn : Nat) (c : Cmd) : Bool :=
  match (s.isle (isleOf fn)).replay with
  | none => false
  | some m => c.data && !atBoundary tbl c && decide (replayIndex m < c.hdr.token)

/-- A recorded command whose placement has passed executes at once, and the steps that follow carry INPUT_LATE (R366). -/
def markLate (fn : Nat) (s : State) : State :=
  s.mapIsle (isleOf fn) fun r => { r with replay := r.replay.map fun m => { m with late := true } }

/-- Whether a command that is not boundary-executed comes after its placement in a replay. -/
def replayLate (s : State) (fn : Nat) (c : Cmd) : Bool :=
  match (s.isle (isleOf fn)).replay with
  | none => false
  | some m => c.data && m.started && decide (c.hdr.token ≤ m.index)

/-- Start a command that passed its checks and that nothing holds back. -/
def startCmd (spec : CmdSpec) (fn : Nat) (c : Cmd) (s : State) : State :=
  if spec.peer s fn c.payload then
    (setPhase fn c.seq (.peer (peerQuantum c.d)) s).emit (.peer 0xFF c.hdr.opcode [fn, c.hdr.tag] (spec.peerData s fn c.payload))
  else if spec.boundary then setPhase fn c.seq .boundary s
  else spec.run fn c (tideNow s) (setPhase fn c.seq .working (if replayLate s fn c then markLate fn s else s))

/-- Start, one after the other, the held commands of a function that nothing holds back any more. -/
def pumpFn (tbl : CmdTable) (fn : Nat) : Nat → State → State
  | 0, s => s
  | n + 1, s =>
    let f := s.func fn
    match f.cmds.find? fun c => c.phase == .held && !replayHeld tbl s fn c && (atBoundary tbl c || !blocked tbl f c) with
    | none => s
    | some c =>
      match tbl c.hdr.opcode with
      | none => pumpFn tbl fn n (refuseAt (tideNow s) fn c.seq .eBadcmd 0 s)
      | some spec => pumpFn tbl fn n (startCmd spec fn c s)

/-- Every function's held commands. -/
def pumpAll (tbl : CmdTable) (s : State) : State :=
  (List.range 32).foldl (fun s fn => if (s.func fn).cmds.isEmpty then s else pumpFn tbl fn 64 s) s

/-- Acceptance of a command: it enters the function's queue at tick d, and checks 1 to 7 judge it. -/
def acceptCmd (tbl : CmdTable) (spec : Option CmdSpec) (fn slot : Nat) (h : Hdr) (payload : Bytes) (s : State) : State :=
  let f := s.func fn
  let c : Cmd := { seq := f.nextSeq, slot := slot, hdr := h, payload := payload.take h.plen, d := quantNow s, phase := .held,
                   data := match spec with | some sp => sp.data payload | none => false, view := f.view }
  let s := s.mapFunc fn fun f => { f with cmds := f.cmds ++ [c], nextSeq := f.nextSeq + 1 }
  match checkAll s fn spec c with
  | some (st, detail) =>
    refuse fn c.seq c (match spec with | some sp => sp.peerMark || sp.peer s fn c.payload | none => false) st detail s
  | none => pumpFn tbl fn 64 (match spec with | some sp => sp.accepted fn c s | none => s)

/-- MBX_DOORBELL (R101): ignored for a busy slot or with the ring disabled, with the error bits and their cause. -/
def ringDoorbell (fn slot : Nat) (s : State) : State :=
  let f := s.func fn
  let busy := f.doorbells.contains slot
  if !busy && f.cqEnable then s.mapFunc fn fun f => { f with doorbells := f.doorbells ++ [slot] }
  else
    let e := if busy then setBit f.mbxErr 0 else f.mbxErr
    let e := if f.cqEnable then e else setBit e 1
    setCause fn 3 (s.mapFunc fn fun f => { f with mbxErr := e })

/-- The 32 bytes of a header (Table 5.5). -/
def hdrBytes (h : Hdr) : Bytes :=
  natLe 2 h.opcode ++ natLe 2 h.flags ++ natLe 4 h.tag ++ natLe 2 h.plen ++ natLe 2 h.res0 ++ natLe 4 h.token ++ natLe 16 h.res1

/-- The host writes a slot: header and payload; a busy slot discards them (R100, R101). -/
def putSlot (slot : Nat) (h : Hdr) (payload : Bytes) (f : Func) : Func :=
  if f.doorbells.contains slot then f
  else { f with slots := Memory.writeN f.slots (256 * slot) ((hdrBytes h ++ payload).take 256) }

/-- A doorbelled slot is copied at once: it is not busy, the ring is enabled, no slot waits before it, and fewer than 64 commands are
outstanding (R101, R102). -/
def copiesNow (f : Func) (slot : Nat) : Bool :=
  !f.doorbells.contains slot && f.cqEnable && f.doorbells.isEmpty && decide (outstanding f < 64)

/-- A command's own row: the host writes its slot and rings the doorbell; the device accepts the command at once, or the slot
stays BUSY until it can (R101, R102, log 77). -/
def hostRow (tbl : CmdTable) (spec : Option CmdSpec) (fn slot : Nat) (h : Hdr) (payload : Bytes) (s : State) : State :=
  if !fnAlive s fn then s else
  let u := s.mapFunc fn (putSlot slot h payload)
  if copiesNow (s.func fn) slot then pumpAll tbl (acceptCmd tbl spec fn slot h payload u) else ringDoorbell fn slot u

def mbxRow (tbl : CmdTable) (spec : CmdSpec) (c : MbxArg) (s : State) : State :=
  hostRow tbl (some spec) c.fn c.slot { c.hdr with opcode := spec.opcode } c.payload s

/-! ## Slots (R100 to R102) -/

def slotBytes (f : Func) (slot o n : Nat) : Bytes := Memory.readN f.slots (256 * slot + o) n

/-- The header in a slot (Table 5.5). -/
def slotHdr (f : Func) (slot : Nat) : Hdr :=
  let b := slotBytes f slot 0 32
  { opcode := fieldB b 0 2, flags := fieldB b 2 2, tag := fieldB b 4 4, plen := fieldB b 8 2, res0 := fieldB b 10 2,
    token := fieldB b 12 4, res1 := fieldB b 16 16 }

/-- The device copies the doorbelled slot that is first in order, with fewer than 64 commands outstanding. -/
def copySlot (tbl : CmdTable) (fn slot : Nat) (s : State) : State :=
  let f := s.func fn
  if !fnAlive s fn || outstanding f ≥ 64 then s else
  match f.doorbells with
  | [] => s
  | x :: rest =>
    if x ≠ slot then s else
    let h := slotHdr f slot
    let s := s.mapFunc fn fun f => { f with doorbells := rest }
    acceptCmd tbl (tbl h.opcode) fn slot h (slotBytes f slot 32 (min h.plen 224)) s

/-! ## Refusal entries (R110, R111) -/

/-- Write the refusals of a function that are due, in the order they were doorbelled (a load that its checks refused carries words and is
recorded, R231); a peer-checked command whose peer has not answered by Q - 6,400 ends at Q with E_PEER_LOST. -/
def dueRefusals (fn : Nat) (s : State) : State :=
  (s.func fn).cmds.foldl (fun s c =>
    match c.phase with
    | .refusal q st detail =>
      if quantNow s < q then s
      else match c.aux with
        | [a, b, d] => finishAt (quantStamp s q) fn c.seq st detail { w0 := a, w1 := b, w2 := d } s
        | _ => refuseAt (quantStamp s q) fn c.seq st detail s
    | .peer q => if q ≤ quantNow s then refuseAt (quantStamp s q) fn c.seq .ePeerLost 0 s else s
    | _ => s) s

/-- A peer-checked command that waits for its peers. -/
def awaitsPeer (c : Cmd) : Bool := match c.phase with | .peer _ => true | _ => false

/-- An answer after Q - 6,400 comes too late (R111). -/
def answersLate (s : State) (c : Cmd) : Bool := match c.phase with | .peer q => decide (q - 6400 < quantNow s) | _ => true

/-- A peer's answer to the peer-checked command with this TAG: it proceeds, or is refused at its Q with the peer's status. -/
def answerPeer (tbl : CmdTable) (fn tag : Nat) (st : Option Status) (detail : Nat) (s : State) : State :=
  match (s.func fn).cmds.find? fun c => c.hdr.tag == tag && awaitsPeer c with
  | none => s
  | some c =>
    match c.phase, tbl c.hdr.opcode with
    | .peer q, some spec =>
      match st with
      | some e => setPhase fn c.seq (.refusal q e detail) s
      | none =>
        if spec.boundary then setPhase fn c.seq .boundary s
        else pumpAll tbl (spec.run fn c (tideNow s) (setPhase fn c.seq .working s))
    | _, _ => s

/-! ## Step 3 of a boundary (R107, R109) -/

/-- The boundary-executed commands of one function, in doorbell order; ok says which may execute now (R366). -/
def boundaryCmds (tbl : CmdTable) (ok : State → Nat → Cmd → Bool) (fn b : Nat) (s : State) : State :=
  (s.func fn).cmds.foldl (fun s c0 =>
    match findCmd s fn c0.seq with
    | none => s
    | some c =>
      if c.phase ≠ .boundary ∨ blocked tbl (s.func fn) c ∨ ¬ ok s fn c then s else
      match tbl c.hdr.opcode with
      | none => s
      | some spec =>
        match rejudge s fn spec c with
        | some (st, detail) => finishAt b fn c.seq st detail {} s
        | none => spec.run fn c b s) s

end Sys2Proof.Machine
end

