-- ==== Sys2Proof/Machine/Fuse.lean ====
section
/-! DEFINITION. Fuse rows as they stand and as they are programmed: R39 (02_package_power_board.md), R398, R406, R409
(16_security_lifecycle_entropy.md). A row takes time, and a reset stops it at once. -/

namespace Sys2Proof.Machine

/-! ## Rows by number: 10 + x INTx, 20 + x COMx, 30 + n IDXn, 40 + s REVs -/

def rowCount (f : Fuses) (row : Nat) : Nat :=
  if row < 20 then f.int.getD (row - 11) 0
  else if row < 30 then f.com.getD (row - 21) 0
  else if row < 40 then f.idx.getD (row - 31) 0
  else f.rev.getD (row - 40) 0

def setRow (row n : Nat) (f : Fuses) : Fuses :=
  if row < 20 then { f with int := setAt f.int (row - 11) fun _ => n }
  else if row < 30 then { f with com := setAt f.com (row - 21) fun _ => n }
  else if row < 40 then { f with idx := setAt f.idx (row - 31) fun _ => n }
  else { f with rev := setAt f.rev (row - 40) fun _ => n }

/-- The fuses of a row that programming leaves blown: all 32, or 31 where one does not blow in four pulses (R398, R409). -/
def rowGoal (f : Fuses) (row : Nat) : Nat := if f.stuck.contains row then 31 else 32

/-! ## Programming -/

/-- Fuses of a row that is being programmed, blown by tick t: they are blown one after the other. -/
def RowBurn.at (r : RowBurn) (t : Nat) : Nat :=
  if r.stop ≤ t then r.goal
  else if t ≤ r.start then r.before
  else r.before + (r.goal - r.before) * (t - r.start) / (r.stop - r.start)

def Burn.stop (b : Burn) : Nat := b.rows.foldl (fun m r => max m r.stop) 0

/-- Every row of the programming verifies. -/
def Burn.verifies (b : Burn) : Bool := b.rows.all fun r => r.goal == 32

def Burn.settle (b : Burn) (t : Nat) (f : Fuses) : Fuses := b.rows.foldl (fun f r => if t ≤ r.start then f else setRow r.row (r.at t) f) f

/-- The fuses as they stand at tick t, rows in progress included. -/
def fusesAt (s : State) (t : Nat) : Fuses := s.sec.burns.foldl (fun f b => b.settle t f) s.fuses

def fusesNow (s : State) : Fuses := fusesAt s s.clk.ticks

/-- The tick at which all programming asked for so far is over. -/
def burnsStop (s : State) : Nat := s.sec.burns.foldl (fun m b => max m b.stop) s.clk.ticks

/-- Append a row to a programming under way; each missing fuse takes one to four pulses of 20 µs (R398), a free number (log 91). -/
def planRow (row : Nat) (a : Burn × Nat × Fuses × State) : Burn × Nat × Fuses × State :=
  let (b, t, f, s) := a
  let have0 := rowCount f row
  let n := rowGoal f row - have0
  let (v, s) := drawNat s
  let r : RowBurn := { row := row, before := have0, goal := max have0 (rowGoal f row), start := t, stop := t + n * 2000 + v % (n * 6000 + 1) }
  ({ b with rows := b.rows ++ [r] }, r.stop, setRow row r.goal f, s)

/-- Rows are programmed in order, each verified before the next is begun (R407). -/
def planRows (rows : List Nat) (a : Burn × Nat × Fuses × State) : Burn × Nat × Fuses × State :=
  rows.foldl (fun a row => if a.1.verifies then planRow row a else a) a

/-- A command begins to program rows, after whatever is being programmed. -/
def beginBurn (fn seq : Nat) (what : BurnFor) (rows : List Nat) (s : State) : State :=
  let t := burnsStop s
  let (b, _, _, s) := planRows rows ({ fn := fn, seq := seq, what := what, rows := [] }, t, fusesAt s t, s)
  s.mapSec fun c => { c with burns := c.burns ++ [b] }

/-! ## What the rows say (R398, R404, R406) -/

/-- Row COMx verifies: every one of its 32 fuses is blown. -/
def comVerifies (f : Fuses) (x : Nat) : Bool := f.com.getD (x - 1) 0 == 32

/-- Row INTx is present. -/
def intPresent (f : Fuses) (x : Nat) : Bool := f.int.getD (x - 1) 0 != 0

/-- The highest state whose commit row verifies; UNPROVISIONED when none does. -/
def fusedState (f : Fuses) : Nat := ([1, 2, 3, 4, 5].filter fun x => comVerifies f x).foldl max 0

/-- The intent target of a torn transition: the highest state above it with an intent row and no verified commit row. -/
def tornTarget (f : Fuses) : Option Nat :=
  ([5, 4, 3, 2, 1].filter fun x => decide (fusedState f < x) && intPresent f x && !comVerifies f x).head?

/-- The key index: the number of verified IDX rows (Table 16.2). -/
def keyIndex (f : Fuses) : Nat := (f.idx.filter fun n => n == 32).length

def revoked (f : Fuses) (slot : Nat) : Bool := f.rev.getD slot 0 != 0

end Sys2Proof.Machine
end

