-- ==== Sys2Proof/Machine/Power.lean ====
section
/-! DEFINITION. Chapter 2: power, resets, straps, voltage commands, thermal thresholds and sensors (R32 to R48). -/

namespace Sys2Proof.Machine

/-! ## VCORE (R32, R33) -/

/-- The next command on the way from v to g: at most 50 mV at a time (R33). -/
def vcoreStep (g v : Nat) : Nat := if v < g then min g (v + 50) else max g (v - 50)

def setVcore (mV tick : Nat) (s : State) : State :=
  (s.mapPower fun p => { p with
    vcore := mV, avsTick := tick, vGoal := if p.vGoal = some mV then none else p.vGoal,
    paceOut := p.paceOut || decide (p.vcore < 650) || decide (mV < 650) }).emit (.avs mV)

/-- The commands toward the level sought whose time has come: one every 20 µs after the last (R33). A move within 600 to 900 mV
takes at most six. -/
def avsDueFrom : Nat → State → State
  | 0, s => s
  | n + 1, s =>
    match s.power.vGoal with
    | none => s
    | some g =>
      if s.power.avsTick + 2000 ≤ s.clk.ticks then avsDueFrom n (setVcore (vcoreStep g s.power.vcore) (s.power.avsTick + 2000) s) else s

def avsDue (s : State) : State := avsDueFrom 6 s

/-- The VCORE command in force (R32), which PACE_QUERY and the telemetry report. -/
def vcoreNow (s : State) : Nat := (avsDue s).power.vcore

/-- Move VCORE to a level: the first command now, or 20 µs after the last one, and the others at that distance (R33). -/
def seekVcore (g : Nat) (s0 : State) : State :=
  let s := avsDue s0
  if s.power.avsStopped || s.power.vcore == g then s else
  let s := s.mapPower fun p => { p with vGoal := some g }
  if s.power.avsTick + 2000 ≤ s.clk.ticks then setVcore (vcoreStep g s.power.vcore) s.clk.ticks s else s

/-- An isle of the real-time or standard class is enabled (R32). -/
def floorIsle (s : State) : Bool := s.isles.any fun k => k.state == .enabled && k.cls != 2

/-- A real-time or standard isle is not released before VCORE has come up to 670 mV (R32, chapter 15's corner cases, log 83). -/
def belowFloor (s : State) (k : Nat) : Bool := (s.isle k).cls != 2 && decide (vcoreNow s < 670)

/-- VCORE up to 670 mV when a real-time or standard isle is enabled (R32). -/
def raiseFloor (s : State) : State := if !floorIsle s || decide (670 ≤ vcoreNow s) then s else seekVcore 670 s

/-! ## Resets -/

/-- The device in reset (R36): link down, ports in electrical idle, TIDE_SYNC and CAY_PERST_N low, READY_N and ALERT_N released, the
incarnation number one up, the departure announced; everything that is not kept by the standby island, by fuses or by the board is at its
reset value. Fuse programming stops as far as it has come (R39). Memories keep their bytes until start-up zeroes them (R83, R91). -/
def deviceReset (s : State) : State :=
  { State.reset with
    pending := s.pending, clk := s.clk, fuses := fusesNow s, ent := s.ent, mems := s.mems,
    out := (if s.arch.formed then [OutMsg.peer 0xFF pmDepart [chipId s] []] else []) ++ s.out,
    pins := { s.pins with readyLow := false, alertLow := false, syncHold := true, syncHigh := false, markSince := none,
                          cayPerst := [false, false] },
    standby := { s.standby with incarnation := (s.standby.incarnation + 1) % 65536 },
    power := { State.reset.power with vcore := vcoreNow s, avsTick := (avsDue s).power.avsTick, hottest := s.power.hottest },
    boot := { State.reset.boot with archEn := s.boot.archEn, bootSrc := s.boot.bootSrc, chipIdStrap := s.boot.chipIdStrap, t2 := s.boot.t2 },
    units := { State.reset.units with relocPending := s.units.relocPending },
    sec := { State.reset.sec with jtagIr := s.sec.jtagIr, boundary := s.sec.boundary } }

/-- The whole chip at VSTBY power-on reset (R35, R38): fuses and what lies outside the chip stay, and the VCORE command starts again
at the 0.75 V boot voltage (R32, R33). -/
def powerOnReset (s : State) : State :=
  { State.reset with
    pending := s.pending, clk := { ticks := 0, freeCtr := s.clk.freeCtr }, fuses := fusesNow s, out := s.out, mems := s.mems,
    pins := { State.reset.pins with cayPrsnt := s.pins.cayPrsnt },
    power := { State.reset.power with hottest := s.power.hottest },
    units := { State.reset.units with relocPending := s.units.relocPending } }

/-- R35, R325: the standby island leaves power-on reset, the incarnation number comes from the entropy source; without noise it
is 0 and STARTUP_FAIL is set (Table 16.12). -/
def execVstbyPowerOn (noiseOk : Bool) (s : State) : Host.Outcome State Fault Refusal :=
  let s := powerOnReset s
  if noiseOk then
    let (b, s) := drawBlocks 1 s
    .next ((s.mapStandby fun r => { r with incarnation := leNat (b.take 2) }).mapClk fun c => { c with ticks := 100000 })
  else .next (recordFault dEntropy 0 2 {} [] (s.mapClk fun c => { c with ticks := 100000 }))

/-- R36. PERST_N can fall only when it is high. -/
def execPerstNAssert (s : State) : Host.Outcome State Fault Refusal :=
  if s.pins.perstN then
    .next (deviceReset { s with pins := { s.pins with perstN := false }, boot := { s.boot with inReset := true } })
  else .next s

/-- R36: 10 µs into reset. -/
def execCayPwrEnTristate (s : State) : Host.Outcome State Fault Refusal :=
  if s.boot.inReset then .next (s.mapPins fun p => { p with cayPwr := [false, false], cayRefclk := [false, false] }) else .next s

/-- R73, R38, R44: start-up begins at STRAPS, unless a rail is below its threshold or a thermal trip is latched. The entropy
start-up tests run (R418) and the link trains (R81). -/
def execPerstNRelease (railsOk : Bool) (s : State) : Host.Outcome State Fault Refusal :=
  if s.pins.perstN then .next s else
  let s := { s.mapPins fun p => { p with perstN := true } with ent := { testing := true, testTick := s.clk.ticks } }
  if !railsOk || s.standby.thermtrip then .next s else
  .next { s with
    standby := { s.standby with railsLow := [] },
    boot := { s.boot with inReset := false, phase := phStraps, t2 := s.clk.ticks, phaseTick := s.clk.ticks, strapsLatched := false },
    pcie := { s.pcie with linkUp := true },
    tide := { s.tide with refclkOk := true } }

/-- Table 18.10: code of a rail and the stack of an HBM rail. -/
def railCode : Rail → Nat × Nat
  | .vcore => (0, 0) | .vshelf => (1, 0) | .vhbmc st => (2, st) | .vhbmq st => (3, st) | .vphy => (4, 0) | .vaux => (5, 0)
  | .vstby => (0, 0)   -- no code: its brown-out clears the record (R38)

/-- R38: VSTBY below 2.90 V; every sideband pin falls to its resting level (Table 2.13). -/
def vstbyLost (s : State) : State :=
  ((powerOnReset s).mapStandby fun r => { r with vstbyUp := false }).mapPins fun p => { p with syncHold := false }

/-- R38: a brown-out of a rail; that of VSTBY has its own row. -/
def execBrownout (rail : Rail) (s : State) : Host.Outcome State Fault Refusal :=
  if rail = .vstby then .next (vstbyLost s) else
  let s := if s.boot.inReset then s else deviceReset s
  .next (s.mapStandby fun r => { r with
    brownout := true, recFresh := true, rail := (railCode rail).1, railStack := (railCode rail).2,
    brownouts := min 255 (r.brownouts + 1), railsLow := if r.railsLow.contains rail then r.railsLow else rail :: r.railsLow })

def execVstbyBrownout (s : State) : Host.Outcome State Fault Refusal := .next (vstbyLost s)

/-- R38, R460: a rail between its operating minimum and its threshold for more than 10 µs, or the end of that condition. -/
def execRailMargin (rail : Rail) (present : Bool) (s : State) : Host.Outcome State Fault Refusal :=
  if present then
    if s.boot.inReset then .next s else
    let s := s.mapStandby fun r => { r with railsMargin := if r.railsMargin.contains rail then r.railsMargin else rail :: r.railsMargin }
    .next (recordFault dDev 0 1 {} [] s)
  else .next (s.mapStandby fun r => { r with railsMargin := r.railsMargin.filter (· != rail) })

/-- R40, R41: agreeing samples are latched and start-up goes on to FUSES; bits 3:0 CHIP_ID, 5:4 BOOT_SRC, 6 ARCH_EN. When they
disagree the chip stays in reset, its host link down (R95). -/
def execStrapLatch (samples : List Nat) (s : State) : Host.Outcome State Fault Refusal :=
  if s.boot.inReset || s.boot.phase != phStraps || s.boot.strapsLatched then .next s else
  match samples with
  | [] => .next s
  | v :: rest =>
    if rest.all (· == v) then
      .next { s with
        boot := { s.boot with strapsLatched := true, phase := phFuses, phaseTick := s.clk.ticks,
                              chipIdStrap := bitsOf v 0 4, bootSrc := bitsOf v 4 2, archEn := v.testBit 6 },
        standby := { s.standby with recFresh := false } }
    else
      .next { s with boot := { s.boot with inReset := true }, pcie := { s.pcie with linkUp := false }, standby := { s.standby with strapUnstable := true, recFresh := true } }

/-! ## Voltage commands (R32, R33) -/

/-- The cap of Table 2.15 in force. -/
def vcoreCap (s : State) : Nat := if s.power.over105 then 670 else if s.power.over100 then 750 else 900

/-- A voltage command the firmware may issue: a step of at most 50 mV, within 600 to 900 mV, at or above 670 mV while a
real-time or standard isle is enabled, no higher than the thermal cap unless it comes down towards it, and no step away from a
level that it is moving to. -/
def avsLegal (mV : Nat) (s : State) : Bool :=
  s.boot.fwRunning && !s.power.avsStopped && s.halt.isNone &&
  decide (600 ≤ mV) && decide (mV ≤ 900) && decide (mV ≤ s.power.vcore + 50) && decide (s.power.vcore ≤ mV + 50) &&
  (!floorIsle s || decide (670 ≤ mV) || decide (s.power.vcore < mV)) && (decide (mV ≤ vcoreCap s) || decide (mV < s.power.vcore)) &&
  (match s.power.vGoal with
   | none => true
   | some g => (decide (s.power.vcore ≤ mV) && decide (mV ≤ g)) || (decide (g ≤ mV) && decide (mV ≤ s.power.vcore)))

/-- R33: commands come at least 20 µs apart. -/
def execAvsCommand (mV : Nat) (s : State) : Host.Outcome State Fault Refusal :=
  if avsLegal mV (avsDue s) then
    let u := advanceTicks ((avsDue s).power.avsTick + 2000) (avsDue s)
    .next (setVcore mV u.clk.ticks u)
  else .next (avsDue s)

/-- R33: the third unacknowledged frame; the regulator's held voltage stays. -/
def execAvsLost (s : State) : Host.Outcome State Fault Refusal :=
  if !s.boot.fwRunning || s.power.avsStopped then .next s else
  .next (recordFault dDev 0 0 {} [] ((avsDue s).mapPower fun p => { p with avsStopped := true, vGoal := none }))

/-! ## Temperature (R44, R48) -/

/-- A threshold with 3 °C of hysteresis, in 0.1 °C. -/
def crossed (th now : Nat) (was : Bool) : Bool := decide (th ≤ now) || (was && decide (th < now + 30))

/-- R48: the hottest sensor's reading; what Table 2.15 does when a threshold is crossed upward. VCORE goes
down to the cap in the steps of R33, which the passing of time completes (avsDue). -/
def execThermalThreshold (deciC : Nat) (s : State) : Host.Outcome State Fault Refusal :=
  if !s.boot.fwRunning then .next (s.mapPower fun p => { p with hottest := deciC }) else
  let o100 := crossed 1000 deciC s.power.over100
  let o105 := crossed 1050 deciC s.power.over105
  let up100 := o100 && !s.power.over100
  let up105 := o105 && !s.power.over105
  let s := s.mapPower fun p => { p with
    hottest := deciC, over100 := o100, over105 := o105, paceOut := p.paceOut || decide (1050 < deciC) }
  let s := if up100 || up105 then s.mapPins fun p => { p with alertLow := true } else s
  let s := if up105 then recordFault dDev 0 2 {} [] s else s
  .next (if (up100 || up105) && decide (vcoreCap s < vcoreNow s) then seekVcore (vcoreCap s) s else avsDue s)

/-- R44: the comparator's trip; the device stays in reset until VSTBY browns out. -/
def execThermtrip (degC : Nat) (s : State) : Host.Outcome State Fault Refusal :=
  if s.standby.thermtrip then .next s else
  let s := if s.boot.inReset then s else deviceReset s
  .next (s.mapStandby fun r => { r with thermtrip := true, tripTemp := degC % 256 })

/-- Table 18.2 SENSOR_FAIL: the firmware uses the hottest neighbour in the sensor's place (sensorReading). -/
def execSensorFail (sensor : Nat) (s : State) : Host.Outcome State Fault Refusal :=
  if !s.boot.fwRunning then .next s else
  .next (recordFault dDev 0 3 { info := sensor } [] (s.mapPower fun p => { p with sensorsLost := insNat sensor p.sensorsLost }))

/-- Neighbours of a sensor on the 8 by 8 grid of cores. -/
def neighbours (n : Nat) : List Nat :=
  (List.range 64).filter fun m => m != n && decide (m / 8 ≤ n / 8 + 1) && decide (n / 8 ≤ m / 8 + 1) &&
    decide (m % 8 ≤ n % 8 + 1) && decide (n % 8 ≤ m % 8 + 1)

/-- The reading used for the sensor beside a core. -/
def sensorReading (s : State) (n : Nat) : Nat :=
  if s.power.sensorsLost.contains n then
    ((neighbours n).filter fun m => !s.power.sensorsLost.contains m).foldl (fun h m => max h (s.power.tele.sensors.getD m 0)) 0
  else s.power.tele.sensors.getD n 0

/-- R462: the 10 ms refresh. -/
def execTelemetryRefresh (t : Telemetry) (s : State) : Host.Outcome State Fault Refusal :=
  if !s.boot.fwRunning then .next s else
  .next ((avsDue s).mapPower fun p => { p with
    tele := t, teleTick := s.clk.ticks, hottest := t.hottest, paceOut := p.paceOut || decide (1050 < t.hottest) })

end Sys2Proof.Machine
end

