-- ==== Sys2Proof/Machine/Ent.lean ====
section
/-! DEFINITION. Draws from the entropy service (R418, R419) and an isle's key epochs (R414, R415). -/

namespace Sys2Proof.Machine

/-- What the service answers to a request. -/
inductive EntAns where
  | got | held | failed | full
  deriving DecidableEq, Repr

/-- A request for n bytes: served while RUNNING, and from the buffer in queue order while RESTARTING; else held, up to 256 requests;
refused in FAILED (R419). -/
def entAsk (n : Nat) (req : EntReq) (s : State) : EntAns × State :=
  match s.ent.state with
  | .running => (.got, s)
  | .restarting =>
    if s.ent.queue.isEmpty ∧ n ≤ s.ent.buffer.length then (.got, s)
    else if s.ent.queue.length ≥ 256 then (.full, s)
    else (.held, s.mapEnt fun e => { e with queue := e.queue ++ [req] })
  | _ => (.failed, s)

/-- Milliseconds that a hold can still last (R419). -/
def holdMs (s : State) : Nat := max 1 (ceilDiv (s.ent.failTick + 2000000 - s.clk.ticks) 100000)

/-- An isle can draw another epoch in this chip incarnation: not the 2^27th (R414). -/
def epochsLeft (s : State) (k : Nat) : Bool := decide ((s.isle k).keys.drawn + 1 < 2 ^ 27)

/-- A drawn key becomes the current epoch's; the old current epoch becomes the previous one. None at the 2^27th draw (R414). -/
def addEpoch (k key : Nat) (s : State) : Option State :=
  let n := (s.isle k).keys.drawn + 1
  if !epochsLeft s k then none else
  some ((putKey (.epoch (k * 2 ^ 27 + n)) (natLe 32 key) s).mapIsle k fun r => { r with keys := { r.keys with
    current := some (k * 2 ^ 27 + n), previous := r.keys.current, drawn := n } })

/-- Isle keys are drawn: not in RETURNED (Table 16.6), after a completed transition (R408), or after DEBUG_UNLOCK (Table 16.8). -/
def keysAllowed (s : State) : Bool := s.sec.lc != 4 && s.sec.lcDone.isNone && s.sec.unlocked.isNone

/-- The first key epoch and the SipHash key, drawn together (R377, Table 16.12). -/
def drawKeys (k : Nat) (s : State) : State :=
  if !keysAllowed s || !epochsLeft s k then s else
  let (v, s) := drawEntropy 32 s
  match addEpoch k v s with
  | none => s
  | some s =>
    let (v, s) := drawEntropy 16 s
    putKey (.sip k) (natLe 16 v) s

/-- An isle's SipHash key (R303). -/
def sipKey (s : State) (k : Nat) : Option Nat := (keyOf s (.sip k)).map leNat

/-- Every key of an isle destroyed; the count of epochs drawn goes on (R414). -/
def destroyKeys (k : Nat) (s : State) : State :=
  let s := dropEntries (fun u => match u with | .epoch e => decide (e / 2 ^ 27 = k) | .sip i => decide (i = k) | _ => false) s
  s.mapIsle k fun r => { r with keys := { drawn := r.keys.drawn } }

/-- A key epoch that still exists. -/
def epochLive (s : State) (k e : Nat) : Bool := (s.isle k).keys.current == some e || (s.isle k).keys.previous == some e

/-- Blocks handed to background deallocation (R201). -/
def deallocBlocks (slot : Nat) (blocks : List Nat) (s : State) : State :=
  s.mapCay slot fun c => { c with dealloc := blocks.foldl (fun l b => insNat b l) c.dealloc }

/-- An ISLE_STATE event (R376): to the physical function, and to the isle's own, which holds it while its ring is off (R105). -/
def isleStateEvent (k : Nat) (st : Status) (code tide : Nat) (s : State) : State :=
  let s := postEventAt tide 0 st 0 2 code 0 0 s
  if k = 0 then s else postEventAt tide k st 0 2 code 0 0 s

end Sys2Proof.Machine
end

