-- ==== Sys2Proof/Machine/Alloc.lean ====
section
/-! DEFINITION. Ownership of cores, lagoon units, extents and frames: what is free, how it is placed (R132, R134, R162, R172,
R371, R372), scrubs of what is given back (R151, R164), and executing cores (R234, R389). -/

namespace Sys2Proof.Machine

/-! ## Cores (R234) -/

/-- An isle holds a place in the shared pool (R389). -/
def poolMember (s : State) (k : Nat) : Bool := s.pool.members.any fun m => m.1 == k

/-- The members of the shared pool. -/
def poolIsles (s : State) : List Nat := (s.pool.members.map fun m => m.1).filter fun k => decide (k < 32)

/-- Executing cores of an isle: its dedicated cores in service, or the pool's. -/
def execCores (s : State) (k : Nat) : List Nat :=
  let d := dedicated (s.isle k)
  let l := if !d.isEmpty then d else if poolMember s k then maskBits s.pool.cores 64 else []
  l.filter fun c => unitServes s 0 c

/-- Units per core at most on a chip that hosts h shards (R354). -/
def unitsPerCore (d h : Nat) : Nat := if d = 0 then 64 * h else ceilDiv (64 * h) d

/-- The core that executes unit u = 64 h + s (R234, R354). -/
def coreOf (s : State) (k u : Nat) : Option Nat :=
  let l := execCores s k
  if l.isEmpty then none else l[u * l.length / (64 * hostedCount s)]?

/-- The next in-service RAU after r (R425). -/
def nextRau (s : State) (r : Nat) : Option Nat := ((List.range 4).map fun i => (r + i) % 4).find? fun x => unitServes s 5 x

/-- The RAU at the centre of a core's quadrant, or the next in service. -/
def rauOf (s : State) (core : Nat) : Option Nat := nextRau s (2 * (core / 32) + core % 8 / 4)

/-- d_eff of R354: executing cores when the chip hosts H shards, at least 1. -/
def dEff (d h : Nat) : Nat := if d = 0 then 0 else max 1 (d / h)

/-! ## What is free -/

def scrubbing (s : State) : List ScrubJob := s.units.scrubs

def lagoonServes (s : State) (core : Nat) : Bool := !s.units.lagoonsOut.contains core

/-- Whole lagoons of disabled cores an isle may receive: disabled by grade, or retired with the lagoon in service, and held neither by
an isle, with its core or through LAGOONS, nor by the pool (R372). -/
def spareLagoons (s : State) : List Nat :=
  (List.range 64).filter fun c =>
    lagoonServes s c && (unitState s 0 c == 4 || unitState s 0 c == 2) && !s.pool.cores.testBit c &&
      !(s.isles.any fun k => k.extraLagoons.contains c || k.grant.cores.testBit c) &&
      !((scrubbing s).any fun j => j.lagoonUnits.any fun u => u / 32 == c)

/-- Extents the chip may hand out: 2 to 239 less those withdrawn (R134, R137). -/
def extentRange (s : State) : List Nat := (List.range (240 - s.units.withdrawn)).drop 2

def extentsHeld (s : State) : List Nat := s.isles.flatMap fun k => k.extents.flatten

def freeExtents (s : State) : List Nat :=
  (extentRange s).filter fun e => !(extentsHeld s).contains e && !((scrubbing s).any fun j => j.extents.contains e)

def framesHeld (s : State) : List Nat := s.isles.flatMap fun k => k.frames.flatten ++ k.tableFrames

/-- Frames that a retirement in progress copies to (Table 7.4). -/
def copyTargets (s : State) : List Nat := s.units.jobs.flatMap fun j => if j.cls = 2 then j.targets.map fun x => x.2 else []

/-- The place of the control firmware's frame f of row 0 (R158, R166). -/
def rowZeroAt (s : State) (f : Nat) : Nat := (aGet s.units.rowZero f).getD f

/-- Frames in use: held by an isle, being scrubbed, targets of a copy, or the firmware's own. -/
def framesTaken (s : State) : List Nat :=
  framesHeld s ++ ((scrubbing s).flatMap fun j => j.frames) ++ copyTargets s ++ s.units.rowZero.map fun x => x.2

/-- Frames that are not free to allocate: in use, or kept for retirements. -/
def framesBusy (s : State) : List Nat := framesTaken s ++ s.units.reserveExtra

/-- Pseudo-channels on which frames are allocated: in service, none once retiring (Table 7.4). -/
def pcAllocates (s : State) (p : Nat) : Bool := unitState s 2 p == 0

def freeRow (busy : List Nat) (p : Nat) : Option Nat :=
  ((List.range 382).drop 1).find? fun r => !busy.contains (r * 512 + p)

/-- R162: n frames, from pseudo-channel p onward in ascending order. -/
def placeFrames (s : State) : Nat → Nat → List Nat → Option (List Nat)
  | 0, _, _ => some []
  | n + 1, p, busy =>
    match (List.range 512).findSome? fun i =>
        let q := (p + i) % 512
        if pcAllocates s q then (freeRow busy q).map fun r => r * 512 + q else none with
    | none => none
    | some f => (placeFrames s n ((f % 512 + 1) % 512) (f :: busy)).map fun l => f :: l

/-- The pseudo-channel after the last frame of a chain. -/
def nextPc (chain : List Nat) : Nat := match chain.getLast? with | none => 0 | some f => (f % 512 + 1) % 512

/-- Free frames: those of rows 1 to 381 of the pseudo-channels in service that are not busy (R158). -/
def framesFree (s : State) : Nat :=
  381 * ((List.range 512).filter fun p => pcAllocates s p).length -
    ((framesBusy s).eraseDups.filter fun f => decide (1 ≤ f / 512) && decide (f / 512 ≤ 381) && pcAllocates s (f % 512)).length

/-! ## Lagoon units -/

def wholeLagoon (c : Nat) : List Nat := (List.range 32).map fun u => c * 32 + u

/-- Units of a pool member: in member order, ascending core, then ascending unit (R389). -/
def poolUnitsOf (cores : List Nat) (members : List (Nat × Nat)) (k : Nat) : List Nat :=
  let all := cores.flatMap wholeLagoon
  let before := ((members.takeWhile fun m => m.1 != k).map fun m => m.2).sum
  match members.find? fun m => m.1 == k with
  | none => []
  | some m => (all.drop before).take m.2

/-- Lagoon units an isle holds: its dedicated cores' and extra lagoons, or its pool units (R131); none of a failed lagoon (R2). -/
def unitsHeld (s : State) (k : Nat) : List Nat :=
  let r := s.isle k
  let l := (dedicated r ++ r.extraLagoons).flatMap wholeLagoon ++ poolUnitsOf (maskBits s.pool.cores 64) s.pool.members k
  (l.filter fun u => lagoonServes s (u / 32)).foldl (fun a u => insNat u a) []

def hops (a b : Nat) : Nat := (max (a / 8) (b / 8) - min (a / 8) (b / 8)) + (max (a % 8) (b % 8) - min (a % 8) (b % 8))

/-- Units in the order in which a slot on core c takes them (R132). -/
def unitOrder (c : Option Nat) (us : List Nat) : List Nat :=
  match c with
  | none => us
  | some c => (List.range 15).flatMap fun h => us.filter fun u => hops c (u / 32) == h

/-- R132: the slot map of one view from its run of units. -/
def fillSlots (q : Nat) (coreAt : Nat → Option Nat) : Nat → List Nat → List (List Nat)
  | 0, _ => []
  | n + 1, us =>
    let mine := (unitOrder (coreAt (63 - n)) us).take q
    mine :: fillSlots q coreAt n (us.filter fun u => !mine.contains u)

/-- R371: the units divided into H runs, a slot map for each view. Slot s of the view of rank i is unit 64 i + s (R354). -/
def buildSlotMap (cores us : List Nat) (h : Nat) : List (List (List Nat)) :=
  (List.range h).map fun i =>
    let run := (us.drop (i * (us.length / h))).take (us.length / h)
    let coreAt := fun sl => if cores.isEmpty then none else cores[(64 * i + sl) * cores.length / (64 * h)]?
    fillSlots (run.length / 64) coreAt 64 run

/-! ## Scrubs (R151, R164) -/

/-- Ticks to zero frames: m × 2 MiB ÷ 4.24 GB/s, m the largest number on one pseudo-channel. -/
def frameScrub (fs : List Nat) : Nat :=
  let m := (List.range 512).foldl (fun m p => max m (fs.filter fun f => f % 512 == p).length) 0
  ceilDiv (m * 20971520) 424

/-- Ticks of the on-chip part (Table 6.7, guaranteed minimum). -/
def onChipScrub (us es cores : List Nat) : Nat :=
  let lag := (List.range 64).foldl (fun m c =>
    let n := (us.filter fun u => u / 32 == c).length
    max m (if n = 32 then 2050 else 256 * n)) 0
  max lag (max (485 * es.length) (if cores.isEmpty then 0 else 43))

def scrubTicks (us es fs cores : List Nat) : Nat := max (frameScrub fs) (onChipScrub us es cores)

/-- Zero units, extents, frames and operand buffers. -/
def zeroAll (us es fs cores : List Nat) (s : State) : State :=
  s.mapMems fun m => cores.foldl (fun m c => zeroOb c m) (fs.foldl (fun m f => zeroFrame f m)
    (es.foldl (fun m e => zeroExtent e m) (us.foldl (fun m u => zeroLagoonUnit u m) m)))

/-- Copies of the frames in retirements are abandoned; the targets they had are scrubbed with them (chapter 7's corner cases). -/
def dropCopies (fs : List Nat) (s : State) : List Nat × State :=
  let hit := fun (j : UnitJob) (x : Nat × Nat) => j.cls == 2 && fs.contains x.1
  (fs ++ s.units.jobs.flatMap fun j => (j.targets.filter (hit j)).map (fun x => x.2),
    s.mapUnits fun u => { u with jobs := u.jobs.map fun j => { j with targets := j.targets.filter fun x => !hit j x } })

/-- Give units back: zeroed, and held by no isle until the scrub's end tick. -/
def release (us es fs cores : List Nat) (s : State) : State :=
  if us.isEmpty && es.isEmpty && fs.isEmpty && cores.isEmpty then s else
  let (fs, s) := dropCopies fs s
  (zeroAll us es fs cores s).mapUnits fun u => { u with scrubs := u.scrubs ++
    [{ lagoonUnits := us, extents := es, frames := fs, cores := cores, endTick := tideNow s + scrubTicks us es fs cores }] }

/-- Everything an isle holds, and the time its scrub takes (R379). -/
def isleScrubTicks (s : State) (k : Nat) : Nat :=
  let r := s.isle k
  scrubTicks (unitsHeld s k) r.extents.flatten (r.frames.flatten ++ r.tableFrames) (execCores s k)

/-- The block once the scrubs that end by tide count t have ended: what they zeroed is free, and isles bound for ABSENT are gone
(R152, R164, R376). -/
def settledBy (s : State) (t : Nat) : State :=
  { s.mapUnits (fun u => { u with scrubs := u.scrubs.filter fun j => decide (t < j.endTick) }) with
    isles := s.isles.map fun r => if r.state = .scrubbing ∧ r.target = .absent ∧ r.scrubEnd ≤ t then {} else r }

/-- The tide counts at which the scrubs in progress free something. -/
def scrubEnds (s : State) : List Nat :=
  ((scrubbing s).map fun j => j.endTick) ++
    (s.isles.filter fun r => r.state == .scrubbing && r.target == .absent).map fun r => r.scrubEnd

/-- Milliseconds until the first end of a scrub by which the block answers to ok, for E_BUSY (R152). -/
def scrubsMs (s : State) (ok : State → Bool) : Option Nat :=
  (((scrubEnds s).filter fun t => ok (settledBy s t)).min?).map fun t => max 1 (min 65535 (ceilDiv (t - tideNow s) 100000))

/-- The first boundary after tick t (R61). -/
def boundaryAfter (s : State) (t : Nat) : Nat :=
  if t < s.tide.base then s.tide.base else s.tide.base + ((t - s.tide.base) / s.tide.epochLen + 1) * s.tide.epochLen

/-! ## Moving lagoon contents when a slot map changes (R149) -/

/-- Pairs (old unit, new unit) for slots and units present in both maps. -/
def unitMoves (old new : List (List (List Nat))) : List (Nat × Nat) :=
  (List.range (min old.length new.length)).flatMap fun h => (List.range 64).flatMap fun sl =>
    ((old.getD h []).getD sl []).zip ((new.getD h []).getD sl [])

/-- Move cells of whole units; the bytes of every unit named old and not moved are dropped. -/
def moveUnits (mv : List (Nat × Nat)) (gone : List Nat) (m : Mems) : Mems :=
  let unitOf := fun a => a / 2 ^ 24 * 32 + a % 2 ^ 24 / 2 ^ 19
  let keyOf := fun u => u / 32 * 2 ^ 24 + u % 32 * 2 ^ 19
  let stay := m.lagoon.filter fun c => !(mv.any fun p => p.1 == unitOf c.1) && !gone.contains (unitOf c.1)
  let moved := m.lagoon.filterMap fun c => (mv.find? fun p => p.1 == unitOf c.1).map fun p => (keyOf p.2 + c.1 % 2 ^ 19, c.2)
  let pStay := m.lagoonPoison.filter fun l => !(mv.any fun p => p.1 == unitOf (l * 256)) && !gone.contains (unitOf (l * 256))
  let pMoved := m.lagoonPoison.filterMap fun l => (mv.find? fun p => p.1 == unitOf (l * 256)).map fun p => (keyOf p.2 + l * 256 % 2 ^ 19) / 256
  { m with lagoon := moved.foldl (fun a c => Memory.write a c.1 c.2) stay,
           lagoonPoison := pMoved.foldl (fun a l => insNat l a) pStay }

/-- Rebuild the slot maps of isles from what they hold now; contents keep their program addresses. Units that leave an isle are
zeroed before another reads them, and what no isle holds any more is given back. -/
def remapIsles (ks : List Nat) (s : State) : State :=
  let old := ks.flatMap fun k => (s.isle k).lagUnits
  let new := ks.map fun k => (k, unitsHeld s k, if (s.isle k).state = .enabled
    then buildSlotMap (execCores s k) (unitsHeld s k) (hostedCount s) else (s.isle k).slotMap)
  -- a unit moves with its contents only within the isle that keeps it (R151)
  let mv := new.flatMap fun x => (unitMoves (s.isle x.1).slotMap x.2.2).filter fun p => x.2.1.contains p.2
  let held := new.flatMap fun x => x.2.1
  let s := s.mapMems (moveUnits mv (old.filter fun u => !(mv.any fun p => p.1 == u)))
  let s := new.foldl (fun s x => s.mapIsle x.1 fun r => { r with slotMap := x.2.2, lagUnits := x.2.1 }) s
  release (old.filter fun u => !held.contains u) [] [] [] s

def remapIsle (k : Nat) (s : State) : State := remapIsles [k] s

/-- A member leaves the pool with POOL or with its isle: its units go back, the others keep theirs (R131, R374, R376). -/
def leavePool (k : Nat) (s : State) : State :=
  if !poolMember s k then s else
  let left := s.pool.members.map fun m => if m.1 = k then (32, m.2) else m
  { s with pool := { s.pool with members := left } }.mapIsle k fun r => { r with poolUnits := 0 }

/-- Record a remap for the log sessions (R344, R456). -/
def noteRemap (cls idx old now t : Nat) (s : State) : State :=
  { s with remaps := s.remaps ++ [{ cls := cls, idx := idx, old := old, now := now, t := t }] }

/-- A core or pool change of isle k: a REMAP in its session for every core it loses or gains (R396, log 72). -/
def noteCores (k : Nat) (lost gained : List Nat) (t : Nat) (s : State) : State :=
  { s with remaps := s.remaps ++
    (lost.map fun c => { cls := 0, idx := c, old := c, now := 0xFFFF, t := t, isles := [k] }) ++
    gained.map fun c => { cls := 0, idx := c, old := 0xFFFF, now := c, t := t, isles := [k] } }

/-! ## L1 entries and the words of the lookup tables (R170) -/

/-- The first L1 entry of isle k's slice: the slices stand in isle order, one entry per handle of the grant. DESIGN CHOICE (log 110): they
fill the 1 MiB of segment 0 in the control firmware's chip extent 0. -/
def l1Base (s : State) (k : Nat) : Nat := ((List.range k).map fun j => (s.isle j).grant.seqs).sum

/-- The isle and the handle whose L1 entry is entry n. -/
def l1Owner (s : State) (n : Nat) : Option (Nat × Nat) :=
  (List.range 32).findSome? fun k =>
    if l1Base s k ≤ n ∧ n < l1Base s k + (s.isle k).grant.seqs then some (k, n - l1Base s k) else none

/-- The L1 entry of a live sequence (Table 7.5). -/
def SeqTable.l1Entry (t : SeqTable) : Nat := t.count * 2 ^ 100 + t.pageLog2 * 2 ^ 96 + b2n t.managed * 2 ^ 65 + 2 ^ 64 + t.base

/-- Word i of the L2 table (Table 7.6). -/
def SeqTable.l2Entry (t : SeqTable) (i : Nat) : Nat := match aGet t.l2 i with | some a => 2 ^ 63 + a | none => 0

/-- The leaf entry of page i (Tables 7.7, 7.8). -/
def SeqTable.leafEntry (t : SeqTable) (i : Nat) : Nat :=
  match aGet t.entries i with | some e => pageStateCode e.state * 2 ^ 61 + e.addr | none => 0

/-- The descriptor of page i of a managed sequence (Table 7.9). -/
def SeqTable.descriptor (t : SeqTable) (i : Nat) : Nat :=
  match aGet t.entries i with | some e => pageStateCode e.state * 2 ^ 96 + e.page * 2 ^ 64 + e.addr | none => 0

/-- The 16 bytes of L1 entry n; zero where the handle names no live sequence. -/
def l1Bytes (s : State) (n : Nat) : Bytes :=
  natLe 16 (match l1Owner s n with
    | some (k, h) => ((aGet (s.isle k).tables h).map fun t => t.l1Entry).getD 0
    | none => 0)

end Sys2Proof.Machine
end

