-- ==== Sys2Proof/Machine/Tx.lean ====
section
/-! DEFINITION. The transmitters and receivers of the Bornis ports: sub-slots, flits, credits, flows and incarnations (R316, R320 to R325,
R339, R345, R384, R388). -/

namespace Sys2Proof.Machine

/-! ## Sub-slots (R383, R384) -/

/-- Sub-slots owned by isle k, as a mask; an isle that owns one is fixed-share (R383). -/
def ownedSubslots (s : State) (k : Nat) : Nat := natMask ((List.range 16).filter fun i => s.subslots.getD i 255 == k)

def fixedShare (s : State) (k : Nat) : Bool := s.subslots.contains k

/-- The sub-slot of a tide count (R61, R383): its owner and its end. -/
def subslotAt (s : State) : Nat × Nat :=
  let len := s.tide.epochLen / 16
  let i := (s.tide.count - s.tide.base) / len
  (s.subslots.getD (i % 16) 255, s.tide.base + (i + 1) * len)

/-- R384: an arbiter admits a request of isle k now: in a sub-slot of its own, or an elastic isle in an elastic one, and at least 200 ticks
before the sub-slot ends. -/
def admits (s : State) (k : Nat) : Bool :=
  let x := subslotAt s
  (x.1 == k || (x.1 == 255 && !fixedShare s k)) && decide (s.tide.count + 200 ≤ x.2)

/-! ## Ports and peers (R316) -/

/-- R316: the port through which chip i reaches chip j. -/
def portTo (i j : Nat) : Nat := (j + 15 - i) % 16

/-- The chip that port p of this chip reaches (R29). -/
def peerAt (s : State) (p : Nat) : Nat := (chipId s + p + 1) % 16

def myPort (s : State) (j : Nat) : Nat := portTo (chipId s) j

/-- The incarnation recorded for a chip (R325). -/
def incOf (s : State) (c : Nat) : Nat := (aGet s.arch.incs c).getD 0

def otherPresent (s : State) : List Nat := (maskBits s.arch.present 16).filter fun c => c != chipId s

/-! ## Sending (R320 to R324, R339, R344, R347) -/

/-- Flits of a message with a 16-byte header and n data bytes (R324). -/
def flitsOf (n : Nat) : Nat := if n ≤ 224 then 1 else 1 + ceilDiv (n - 224) 240

/-- The port that carries traffic to chip j: its own, or on a detour the port to the intermediate chip. -/
def carrier (s : State) (j : Nat) : Nat :=
  match (s.port (myPort s j)).detour with
  | some k => myPort s k
  | none => myPort s j

/-- The virtual channel of a message (Table 13.3): 0 TM, 1 CT, 2 RP, 3 CO, 4 WW, 5 WR. -/
def channelOf (cls : Nat) (reply : Bool) : Nat :=
  if reply then 2 else match cls with | 0 => 4 | 1 => 5 | 2 => 3 | 3 => 0 | _ => 1

/-- The credit total a flit draws on: its channel's, or on a detour that of the DT buffers of its class group (log 37). -/
def creditOf (ch : Nat) (detour : Bool) : Nat := if !detour then ch else if ch < 2 then 6 else if ch = 2 then 7 else 8

/-- Flits sent whose credit has not come back, modulo 2^16 (R321). -/
def Port.inFlight (r : Port) (i : Nat) : Nat := (r.sent.getD i 0 + 65536 - r.credits.getD i 0) % 65536

/-- R321: a channel holds a credit, dedicated or of the 480 that CO, WW and WR share (Table 13.3). -/
def Port.hasCredit (r : Port) (ch : Nat) (detour : Bool) : Bool :=
  let n := r.inFlight (creditOf ch detour)
  if detour || ch == 2 then decide (n < 64)
  else decide (n < 16) || (decide (3 ≤ ch) && decide ((([3, 4, 5].map fun c => r.inFlight c - 16).sum) < 480))

/-- The message a channel serves next among l, its waiting ones: the one that has begun, else the oldest of the isle whose turn it is among
those admitted (R384, R388). TIDE_MARK and CTRL are exempt from both. -/
def laneNext (s : State) (last : Nat) (l : List TxMsg) : Option TxMsg :=
  match l.find? fun m => m.begun with
  | some m => some m
  | none =>
    match l.find? fun m => decide (m.ch < 2) with
    | some m => some m
    | none => ((List.range 32).map fun i => (last + 1 + i) % 32).findSome? fun k =>
        if admits s k then l.find? fun m => m.isle == k else none

/-- Window requests of this chip outstanding on a port: those whose first flit has left (R339). -/
def reqsOn (s : State) (p : Nat) : Nat := (s.arch.reqs.filter fun r => r.port == p && r.sent).length

/-- The port carries a channel's flits: its link runs, and it is ACTIVE or returning, or takes control messages alone before its return
(Table 13.11 step 2). -/
def Port.carries (r : Port) (ch : Nat) : Bool :=
  r.linkUp && r.probe.isNone && (r.state == .active || r.returning || (r.detour.isNone && decide (ch < 2)))

/-- R321: the message whose flit port p sends next, in the priority order of Table 13.3; the oldest of those of equal priority (log 37). A
request starts only while the port has one of its 256 places free (R339). -/
def pickTx (s : State) (p : Nat) : Option TxMsg :=
  let r := s.port p
  if !r.linkUp || r.probe.isSome || decide (512 ≤ r.replay.length) then none else
  let waits := fun (m : TxMsg) => m.tag.isSome && !m.begun && decide (256 ≤ reqsOn s p)
  let lane := fun ch far =>
    if r.hasCredit ch far then
      laneNext s (r.turns.getD ch 31) (r.txq.filter fun m => m.ch == ch && (m.dest != peerAt s p) == far && !waits m)
    else none
  [[0], [1], [2], [3], [4, 5]].findSome? fun g =>
    let ready := g.flatMap fun ch => (lane ch false).toList ++ (lane ch true).toList
    r.txq.find? fun m => ready.contains m

/-- A request that goes by a detour marks the step that made it (R345, Table 14.7). -/
def markDetour (r : WinReq) (s : State) : State :=
  match (aGet (s.isle r.isle).units r.unit).bind fun x => x.running.find? fun t => t.id == r.task with
  | none => s
  | some t => s.mapIsle r.isle fun x => { x with
      invs := x.invs.map fun i => if i.prog = t.prog ∧ i.num = t.inv then { i with flags := setBit i.flags 4 } else i }

/-- The first flit of a request leaves on port p: it takes one of the port's places. -/
def reqLeaves (p tag : Nat) (s : State) : State :=
  match s.arch.reqs.find? fun r => r.tag == tag with
  | none => s
  | some r =>
    let s := s.mapArch fun a => { a with reqs := a.reqs.map fun q => if q.tag = tag then { q with sent := true, port := p } else q }
    if r.dest = peerAt s p then s else markDetour r s

/-- n credits of a channel are free again at this receiver; the next LCF says so (R321). -/
def freeCredit (p ch n : Nat) (s : State) : State :=
  s.mapPort p fun r => { r with freed := setAt r.freed ch fun x => (x + n) % 65536 }

/-- A detoured flit of a flow that is held for its port's return: it is now the last that goes by the detour (R347). -/
def noteDetoured (p : Nat) (m : TxMsg) (fseq : Nat) (s : State) : State :=
  let d := myPort s m.dest
  if p = d ∨ !(s.port d).returning then s else s.mapPort d fun r => { r with heldFlows := aSet m.cls fseq r.heldFlows }

/-- One flit goes out: the next FSEQ of its flow, the next LSEQ of the port, a place in the replay buffer and a credit. A message leaves
with its last flit. -/
def sendFlit (p : Nat) (m : TxMsg) (s : State) : State :=
  let next := ((pGet s.arch.fseqTx (m.dest, m.cls)).getD 0) % 65536
  let s := if m.again.isSome then s else
    noteDetoured p m next (s.mapArch fun a => { a with fseqTx := pSet (m.dest, m.cls) ((next + 1) % 65536) a.fseqTx })
  let i := creditOf m.ch (m.dest != peerAt s p)
  let s := s.mapPort p fun r => { r with
    txSeq := (r.txSeq + 1) % 65536,
    replay := r.replay ++
      [{ lseq := r.txSeq, ch := m.ch, cls := m.cls, fseq := m.again.getD next, dest := m.dest, isle := m.isle, fwd := m.fwd.isSome }],
    sent := setAt r.sent i fun n => (n + 1) % 65536,
    turns := setAt r.turns m.ch fun _ => m.isle,
    txq := if m.left ≤ 1 then r.txq.erase m else r.txq.replace m { m with left := m.left - 1, begun := true } }
  let s := match m.fwd with | some q => freeCredit q (creditOf m.ch true) 1 s | none => s
  let s := match m.tag with | some t => if m.begun then s else reqLeaves p t s | none => s
  if m.left ≤ 1 then s.emit m.msg else s

/-- Send up to n flits on port p. -/
def pumpTx (p : Nat) : Nat → State → State
  | 0, s => s
  | n + 1, s => match pickTx s p with
    | none => s
    | some m => pumpTx p n (sendFlit p m s)

/-- A port sends what it may (R321, R384). -/
def pumpPort (p : Nat) (s : State) : State := pumpTx p ((s.port p).txq.map fun m => m.left).sum s

/-- Every port sends what it may. -/
def pumpPorts (s : State) : State := (List.range 15).foldl (fun s p => pumpPort p s) s

/-- A message enters the transmitter of port c, which sends what it may. With no link to carry it, it is lost (log 109). -/
def enqueue (c : Nat) (m : TxMsg) (s : State) : State :=
  if !(s.port c).carries m.ch then s else pumpPort c (s.mapPort c fun r => { r with txq := r.txq ++ [m] })

/-- A flow to chip j is held while its port returns (R347). -/
def flowHeld (s : State) (j cls : Nat) : Bool :=
  let r := s.port (myPort s j)
  r.returning && r.heldFlows.any fun h => h.1 == cls

/-- A message to a chip: by its own port, or by the detour; a port that is returning holds those of its held flows (R347). -/
def sendMsg (m : TxMsg) (s : State) : State :=
  let p := myPort s m.dest
  if flowHeld s m.dest m.cls then s.mapPort p fun r => { r with heldMsgs := r.heldMsgs ++ [m] }
  else enqueue (if (s.port p).returning then p else carrier s m.dest) m s

/-- Send a message of isle k and a number of flits to chip j (R323, R324). -/
def sendTo (j cls k : Nat) (reply : Bool) (flits : Nat) (m : OutMsg) (s : State) : State :=
  sendMsg { ch := channelOf cls reply, cls := cls, isle := k, dest := j, left := flits, msg := m } s

/-- What a port still has to send to chip j goes to another port's transmitter (R344, R456). -/
def moveTx (j c d : Nat) (s : State) : State :=
  let l := (s.port c).txq.filter fun m => m.dest == j
  pumpPort d ((s.mapPort c fun r => { r with txq := r.txq.filter fun m => m.dest != j }).mapPort d fun r => { r with txq := r.txq ++ l })

/-- A CTRL message to chip j (class 4). -/
def ctrlTo (j what : Nat) (args : List Nat) (data : Bytes) (s : State) : State := sendTo j 4 0 false (1 + data.length / 240) (.peer j what args data) s

/-- TIDE_MARK messages (class 3) to a number of chips (R58, R64). -/
def tideTo (l : List Nat) (m : Nat → OutMsg) (s : State) : State := l.foldl (fun s j => sendTo j 3 0 false 1 (m j) s) s

/-- A reply to a window message of class cls (R336): isle k answers chip j. -/
def replyTo (j cls k : Nat) (what : Nat) (args : List Nat) (data : Bytes) (s : State) : State :=
  if j = chipId s then s.emit (.peer j what args data) else sendTo j cls k true (flitsOf data.length) (.peer j what args data) s

def ctrlAll (what : Nat) (args : List Nat) (data : Bytes) (s : State) : State :=
  (otherPresent s).foldl (fun s j => ctrlTo j what args data s) s

/-- The arguments of a window request's message. -/
def winMsgArgs (s : State) (k idx tag off n : Nat) (kv : Bool) : List Nat :=
  [chipId s, k, k, s.standby.incarnation, idx, tag, off, n, b2n kv]

/-- A new request: its tag is the next source tag, and it waits for one of the 256 places of its port (R339). -/
def addReq (r : WinReq) (s : State) : State :=
  sendMsg { ch := channelOf r.cls false, cls := r.cls, isle := r.isle, dest := r.dest, left := r.flits, tag := some r.tag, msg := r.msg }
    (s.mapArch fun a => { a with reqs := a.reqs ++ [r], nextTag := (a.nextTag + 1) % 65536 })

/-- Requests that have ended give their places back, and what waits for one goes out (R339). Those that have not left leave the
transmitters too. -/
def endReqs (ended : WinReq → Bool) (s : State) : State :=
  let tags := (s.arch.reqs.filter ended).map fun r => r.tag
  let gone := fun (m : TxMsg) => !m.begun && (m.tag.map fun t => tags.contains t) == some true
  pumpPorts ((s.mapArch fun a => { a with reqs := a.reqs.filter fun r => !ended r }).mapPorts fun r =>
    { r with txq := r.txq.filter fun m => !gone m })

/-! ## Receiving (R321 to R323, R325, R347) -/

/-- The flows between this chip and another begin anew, at FSEQ 0: it has a new incarnation, or has departed (DEDUCED, log 132). -/
def restartFlows (c : Nat) (s : State) : State :=
  (s.mapArch fun a => { a with
    fseqTx := a.fseqTx.filter fun f => f.1.1 != c, fseqRx := a.fseqRx.filter fun f => f.1.1 != c }).mapPorts fun r =>
      { r with rxHeld := r.rxHeld.filter fun m => m.orig != c }

/-- The incarnation of a chip is recorded, at training or from its announcement (R325). A new one has none of the old one's flows, fences
or announcements. -/
def recordInc (c inc : Nat) (s : State) : State :=
  let s := s.mapPort (myPort s c) fun r => { r with peer := (c, inc) }
  if aGet s.arch.incs c = some inc then s else
  restartFlows c (s.mapArch fun a => { a with
    incs := aSet c inc a.incs, fenced := a.fenced.filter fun f => f.1 != c, links := aDel a.links c })

/-- The FSEQ that a chip's flow of a class delivers next (R323). -/
def fseqNext (s : State) (orig cls : Nat) : Nat := (pGet s.arch.fseqRx (orig, cls)).getD 0

/-- CTRL tells chip j which FSEQ of its flow was delivered last (Table 13.11 step 4). While this chip's own CTRL flow is held, the
acknowledgement goes by the detour, as the flow's last (log 133). -/
def ackFlow (j cls : Nat) (s : State) : State :=
  let m : TxMsg := { ch := 1, cls := 4, isle := 0, dest := j, left := 1,
                     msg := .peer j pmDelivered [chipId s, cls, (fseqNext s j cls + 65535) % 65536] [] }
  enqueue (if (s.port (myPort s j)).returning && !flowHeld s j 4 then myPort s j else carrier s j) m s

/-- A message of n flits arrives: what the link, the incarnation and the flow make of it, and whether it is delivered (R321 to R323,
R325). Flits after a link-down marker, out of LSEQ order, stale, or delivered before are discarded; one ahead of its flow waits in the
receive buffers. Flits of the message may have come before: those count once. A message of this chip to itself takes no port (R334). -/
def receive (h : FlitHdr) (cls : Nat) (reply : Bool) (n : Nat) (s : State) : State × Bool :=
  if s.boot.inReset then (s, false) else if h.orig = chipId s then (s, true) else
  let had := ((s.port h.port).rxSeq + 65536 - h.lseq) % 65536
  if !(s.port h.port).linkUp || decide (n ≤ had) then (s, false) else
  let s := s.mapPort h.port fun r => { r with rxSeq := (h.lseq + n) % 65536, rxCount := (r.rxCount + (n - had)) % 65536 }
  let ch := channelOf cls reply
  if incOf s h.orig ≠ h.inc then
    (freeCredit h.port ch (n - had) (s.mapPort h.port fun r => { r with stale := sat32 (r.stale + (n - had)) }), false)
  else
    let before := (fseqNext s h.orig cls + 65536 - h.fseq) % 65536
    if before < n then
      (freeCredit h.port ch (n - had) (s.mapArch fun a => { a with fseqRx := pSet (h.orig, cls) ((h.fseq + n) % 65536) a.fseqRx }), true)
    else if before < 32768 then (freeCredit h.port ch (n - had) s, false)
    else (s.mapPort h.port fun r => { r with
      rxHeld := r.rxHeld ++ [{ orig := h.orig, cls := cls, fseq := h.fseq, ch := ch, left := n - had }] }, false)

/-- A delivered flow of a returning port is acknowledged as long as its flits come by the detour (Table 13.11 step 4). -/
def ackPast (h : FlitHdr) (cls : Nat) (s : State) : State :=
  let p := myPort s h.orig
  if h.orig ≠ chipId s ∧ h.port ≠ p ∧ ((s.port p).returning ∨ (s.port p).state = .active) then ackFlow h.orig cls s else s

/-- A message that is delivered has its effect; another has none. -/
def onMessage (h : FlitHdr) (cls : Nat) (reply : Bool) (n : Nat) (f : State → State) (s : State) : State :=
  match receive h cls reply n s with
  | (s, true) => ackPast h cls (f s)
  | (s, false) => s

/-- A CTRL message of n data bytes (class 4). -/
def onCtrl (h : FlitHdr) (n : Nat) (f : State → State) (s : State) : State := onMessage h 4 false (1 + n / 240) f s

/-- A TIDE_MARK message (class 3). -/
def onTide (h : FlitHdr) (f : State → State) (s : State) : State := onMessage h 3 false 1 f s

/-! ## Announcements (R325, R344) -/

/-- The chips that this chip's ports reach directly, as a mask. -/
def linkMask (s : State) : Nat := natMask (((List.range 15).filter fun p => (s.port p).state == .active && (s.port p).linkUp).map (peerAt s))

/-- A member tells the others its incarnation and the chips that its ports reach (R325; DESIGN CHOICE for the ports, log 36). -/
def announce (s : State) : State := ctrlAll pmIncarnation [chipId s, s.standby.incarnation, linkMask s] [] s

end Sys2Proof.Machine
end

