-- ==== Sys2Proof/Machine/IsleOps.lean ====
section
/-! DEFINITION. The isle state machine: entry into QUIESCING, SCRUBBING, the end of a scrub, and the resets that lead there
(R119, R120, R376 to R380). -/

namespace Sys2Proof.Machine

def elasticExists (l : List Nat) : Bool := l.any fun o => o == 255

/-- R97, R377: VF Enable and NumVFs allow isle k. -/
def vfAllows (s : State) (k : Nat) : Bool := k == 0 || (s.pcie.vfEnable && decide (k ≤ s.pcie.numVFs))

/-- A commands' entry under QUIESCING (Table 15.6): what has not started is returned with E_RETRY, slots still BUSY included. -/
def retryWaiting (fn : Nat) (s : State) : State :=
  let s := (s.func fn).cmds.foldl (fun s c =>
    match c.phase with
    | .held | .boundary | .peer _ => refuseAt (tideNow s) fn c.seq .eRetry 0 s
    | _ => s) s
  let f := s.func fn
  let s := f.doorbells.foldl (fun s sl =>
    let h := slotHdr f sl
    postEntry fn (mkEntry { slot := sl, hdr := h } .eRetry 0 {} (tideNow s)) s) s
  s.mapFunc fn fun f => { f with doorbells := [] }

/-- Cartridge blocks of every image of an isle go to deallocation (R201). -/
def dropImages (k : Nat) (s : State) : State :=
  (s.isle k).seqs.foldl (fun s q =>
    let s := match q.2.image with | some i => deallocBlocks i.slot i.blocks s | none => s
    match q.2.parkImage with
    | some i => (deallocBlocks i.slot i.blocks s).mapCay i.slot fun c => { c with
        buckets := aMod k (fun b => { b with queued := 0 }) c.buckets }   -- no park of the isle is left to be charged (R193)
    | none => s) s

/-- R430: a key's region is zeroed, and its entry freed. -/
def dropKey (k i : Nat) (s : State) : State :=
  match aGet (s.isle k).sealed.keys i with
  | none => s
  | some e =>
    (writeBytes k e.view e.base (List.replicate e.len 0) s).mapIsle k fun r => { r with sealed := { r.sealed with keys := aDel r.sealed.keys i } }

/-- Every registered key of an isle destroyed (R430). -/
def dropKeys (k : Nat) (s : State) : State := (s.isle k).sealed.keys.foldl (fun s e => dropKey k e.1 s) s

/-- Every registered key of the chip destroyed (Table 16.8, R454). -/
def dropAllKeys (s : State) : State := (List.range 32).foldl (fun s k => dropKeys k s) s

/-- Entry into QUIESCING by whatever path (Table 15.6); flr: the function is under a Function Level Reset. -/
def quiesceEnter (k : Nat) (target : IsleState) (flr : Bool) (s : State) : State :=
  let f := tideNow s
  let b1 := boundaryAfter s f
  let s := dropImages k s
  let s := dropKeys k (destroyKeys k s)
  let dur := isleScrubTicks s k
  let s := s.mapIsle k fun r => { r with
    state := .quiescing, target := target, targetCmd := none, quiesceAt := f, scrubEnd := b1 + dur, fenceDue := some (f + 200),
    -- tasks that have issued run to their end, at the latest to b1; no other issues
    units := r.units.map fun u => (u.1, { u.2 with queue := [], later := [] }), invs := r.invs.map fun i => { i with stopped := true },
    windows := [], overrun := none,
    log := r.log.map fun l => { l with ending := some 1 },
    seqs := r.seqs.map fun q => (q.1, { q.2 with
      image := none, parkImage := none, emit := [], moves := [], unparkWanted := false, unparkRead := false, unparkDone := false }) }
  let s := { s with unparkQ := s.unparkQ.filter fun u => u.1 != k }
  let s := endReqs (fun r => r.isle == k) s
  let s := { s with raus := s.raus.map fun r => { r with queue := r.queue.filter fun t => t.isle != k || t.started } }
  let s := if flr then s else retryWaiting k s
  isleStateEvent k .sOk (isleStateCode .quiescing) (tideNow s) s

/-- What boundary b1 does to a QUIESCING isle: everything it ran is gone, pending commands end with E_STATE, SCRUBBING begins. -/
def enterScrubbing (k b : Nat) (s : State) : State :=
  let dur := isleScrubTicks s k
  let s := s.mapIsle k fun r => { r with
    state := .scrubbing, scrubEnd := b + dur, progs := [], invs := [], seqs := [], tables := [], tree := [], taps := List.replicate 8 {},
    pool := none, log := none, replay := none, units := [], released := none, overrun := none, sealed := {}, admitLimits := [] }
  let s := s.mapArch fun a => { a with
    parts := a.parts.filter fun p => p.isle != k, accepts := a.accepts.filter fun p => p.isle != k,
    admissions := a.admissions.filter fun p => p.1 != k, rewinds := a.rewinds.filter fun p => p.1 != k,
    creates := a.creates.filter fun p => p.1 != k,
    early := a.early.filter fun p => p.1 != k }
  let s := { s with raus := s.raus.map fun r => { r with queue := r.queue.filter fun t => t.isle != k } }
  let s := if k = 0 then s else (s.func k).cmds.foldl (fun s c =>
    match c.phase with
    | .final | .working => finishAt b k c.seq .eState 0 {} s
    | _ => s) s
  isleStateEvent k .sOk (isleStateCode .scrubbing) b s

/-- The target command of an isle ends with the scrub (R376). -/
def finishTarget (k : Nat) (st : Status) (s : State) (detail : Nat := 0) : State :=
  match (s.isle k).targetCmd with
  | none => s
  | some c => (finishAt (tideNow s) c.fn c.seq st detail {} s).mapIsle k fun r => { r with targetCmd := none }

/-- The isle is ENABLED with its keys drawn (R377). -/
def becomeEnabled (k : Nat) (s : State) : State :=
  let s := drawKeys k s
  let s := s.mapIsle k fun r => { r with
    state := .enabled, keysHeld := false, slotMap := buildSlotMap (execCores s k) (unitsHeld s k) (hostedCount s),
    lagUnits := unitsHeld s k, pristine := true }
  raiseFloor (isleStateEvent k .sOk (isleStateCode .enabled) (tideNow s) s)

def becomeDisabled (k : Nat) (st : Status) (s : State) : State :=
  isleStateEvent k st (isleStateCode .disabled) (tideNow s)
    (s.mapIsle k fun r => { r with state := .disabled, keysHeld := false })

/-- What an isle keeps when it leaves ABSENT or returns to it: its fault view's counters are not kept, the count of key epochs is. -/
def emptyIsle (s : State) (k : Nat) : Isle := { keys := { drawn := (s.isle k).keys.drawn } }

/-- An isle that returns to ABSENT: its record, and its buckets on the cay slots (R192). -/
def clearIsle (k : Nat) (s : State) : State :=
  let s := leavePool k s
  { s with isles := setAt s.isles k (fun _ => emptyIsle s k),
           cay := s.cay.map fun c => { c with buckets := aDel c.buckets k } }

/-- Target ENABLED at scrub end: VF Enable and NumVFs are checked, for a pending ISLE_ENABLE the elastic sub-slot too, and the keys are
drawn, held or refused (R376, R377). -/
def finishEnabling (k : Nat) (s : State) : State :=
  if !vfAllows s k || ((s.isle k).targetCmd.isSome && !fixedShare s k && !elasticExists s.subslots) then becomeDisabled k .sOk (finishTarget k .eState s)
  else if !epochsLeft s k then becomeDisabled k .eNores (finishTarget k .eNores s) else
  match entAsk 48 (.isleEnd k 48) s with
  | (.got, s) => finishTarget k .sOk (becomeEnabled k s)
  | (.held, s) => s.mapIsle k fun r => { r with keysHeld := true }
  | (.full, s) => becomeDisabled k .eBusy (finishTarget k .eBusy s (holdMs s))
  | (.failed, s) => becomeDisabled k .eRng (finishTarget k .eRng s)

/-- A scrubbed isle goes to its target. -/
def reachTarget (k : Nat) (s : State) : State :=
  let r := s.isle k
  match r.target with
  | .enabled => finishEnabling k s
  | .absent =>
    let s := finishTarget k .sOk s
    isleStateEvent k .sOk 0 (tideNow s) (clearIsle k s)
  | _ =>
    -- a pending ISLE_ENABLE whose target was taken from it ends with E_STATE
    let st := match r.targetCmd with | some c => if c.target == .enabled then Status.eState else .sOk | none => .sOk
    becomeDisabled k .sOk (finishTarget k st s)

/-- The end of an isle's scrub (R376, R379): every byte it holds is zero, its streams are gone, it reaches its target, and its fence on the
members is taken back (log 9). -/
def scrubDone (k : Nat) (s : State) : State :=
  let r := s.isle k
  -- of pool cores, the operand buffers that served the isle last (R150, R392)
  let cores := (execCores s k).filter fun c => r.grant.cores.testBit c || aGet s.pool.obOwner c == some k
  let s := zeroAll (unitsHeld s k) r.extents.flatten (r.frames.flatten ++ r.tableFrames) cores s
  let s := s.mapIsle k fun r => { r with
    streams := [], withheld := (0, 0, 0, 0), t1Corrected := 0, conflicts := 0, stepFlags := 0, timingInvalid := 0, yield := false,
    pressure := [] }
  ctrlAll pmFence [chipId s, k, 0] [] (reachTarget k s)

/-! ## Resets (R119, R120, R380) -/

/-- A function's registers at their reset values, with no translation cached (log 22); its outstanding commands get no completion, and the
isle's log session no further record (R119). -/
def resetFunc (fn : Nat) (hold : Bool) (s : State) : State :=
  ((s.mapIsle (isleOf fn) fun r => { r with log := none }).mapFunc fn fun f => { nextSeq := f.nextSeq, flr := if hold then some s.clk.ticks else none }).mapMems fun m =>
    { m with ats := m.ats.filter fun x => x / 2 ^ 52 != fn }

/-- A reset that lands in QUIESCING or SCRUBBING is coalesced; otherwise an ENABLED isle enters QUIESCING (Table 15.5). -/
def resetIsle (k : Nat) (target : IsleState) (flr : Bool) (s : State) : State :=
  if (s.isle k).state = .enabled then quiesceEnter k target flr s else s

/-- Tenant isles towards DISABLED (Table 15.5): a pending ISLE_DESTROY keeps ABSENT. -/
def disableTenants (s : State) : State :=
  (List.range 32).foldl (fun s k =>
    if k = 0 then s else
    let r := s.isle k
    match r.state with
    | .enabled => quiesceEnter k .disabled true s
    | .quiescing | .scrubbing => if r.target = .absent then s else s.mapIsle k fun r => { r with target := .disabled }
    | _ => s) s

/-- VF Enable cleared (R380): the virtual functions' registers go to their reset values (log 22). -/
def clearVfs (s : State) : State :=
  let s := { s with pcie := { s.pcie with vfEnable := false } }
  disableTenants ((List.range 32).foldl (fun s fn => if fn = 0 then s else resetFunc fn false s) s)

/-- A Function Level Reset of the PF (R120). -/
def pfReset (s : State) : State :=
  let s := resetFunc 0 true s
  let s := { s with tide := { s.tide with agreed := s.tide.agreed.map fun a => { a with cmd := none } }, quiesce := s.quiesce.map fun _ => none }
  let s := resetIsle 0 .enabled true s
  clearVfs s

/-- The firmware must run for a reset to reach the isles; before READY only the registers change (R96, R82). -/
def pfResetNow (s : State) : State :=
  if s.boot.inReset then s
  else if isReady s then pfReset s
  else { resetFunc 0 true s with pcie := { s.pcie with vfEnable := false } }

end Sys2Proof.Machine
end

