-- ==== Sys2Proof/Machine/ArchOps.lean ====
section
/-! DEFINITION. Ports, flows and requests between chips, and the departure of a chip (R316 to R326, R332, R337, R339, R344 to
R347). -/

namespace Sys2Proof.Machine

/-- Chips that host shards of a set: a program's partners (R330). -/
def partnersOf (s : State) (shards : Nat) : List Nat :=
  (List.range 16).filter fun c => (maskBits shards 16).any fun g => shardHost s g == c

def otherPartners (s : State) (shards : Nat) : List Nat := (partnersOf s shards).filter fun c => c != chipId s

def multiPartner (s : State) (shards : Nat) : Bool := decide ((partnersOf s shards).length > 1)

/-- R333: some shard of the set is orphaned. -/
def shardsOrphaned (s : State) (shards : Nat) : Bool := (maskBits shards 16).any fun g => (orphaned s).testBit g

/-! ## Ports (R317, R318) -/

/-- A port that carries traffic to its peer, directly or by a detour. -/
def reaches (p : Port) : Bool := p.state == .active || p.state == .detoured || (p.state == .retired && p.detour.isSome)

/-- The aligned chip with the lowest chip ID (R55, R87): this one, or a peer that has reported itself aligned. -/
def lowestAligned (s : State) : Nat :=
  (s.ports.filter fun p => reaches p && p.peerAligned).foldl (fun m p => min m p.peer.1) (chipId s)

/-- LEADER follows what an aligned chip knows of its peers (R55). -/
def updateLeader (s : State) : State :=
  if s.tide.aligned then s.mapTide fun x => { x with leader := lowestAligned s } else s

/-- A peer's report of its own alignment (R85, R87). -/
def peerReports (p : Nat) (aligned ready : Bool) (s : State) : State :=
  updateLeader (s.mapPort p fun r => { r with peerAligned := aligned, peerReady := ready })

/-- A change of a port's state posts PORT_STATE (type 0x000D). A peer that is out of reach no longer counts as aligned, and the link of a port
that is IDLE or RETIRED does not run. -/
def setPortState (p : Nat) (st : PortState) (s : State) : State :=
  if (s.port p).state = st then s else
  let gone := st == .idle || st == .cut || (st == .retired && (s.port p).detour.isNone)
  let off := st == .idle || st == .retired
  postEvent 0 .sOk 0 0x0D p (portStateCode st) 0 (updateLeader (s.mapPort p fun r =>
    { r with state := st, linkUp := r.linkUp && !off, peerAligned := r.peerAligned && !gone, peerReady := r.peerReady && !gone }))

/-- Isles that use a port: those with a window or a program whose partner lies behind it (Table 18.6). -/
def islesOnPort (s : State) (p : Nat) : List Nat :=
  (List.range 32).filter fun k =>
    (s.isle k).windows.any (fun w => w.2.mask.testBit (peerAt s p)) ||
      (s.isle k).progs.any fun q => (otherPartners s q.2.shards).contains (peerAt s p)

def linkFault (p bit : Nat) (s : State) : State := recordFault dLink p bit { unit := p } (islesOnPort s p) s

/-- A freshly trained port: link counters, replay buffer and credits at their start values (Table 13.11 step 1). -/
def freshLink (r : Port) : Port :=
  { r with txSeq := 0, rxSeq := 0, rxCount := 0, replay := [], wantReplay := false, replayed := (0, 0), lcfFails := 0,
           credits := List.replicate 9 0, sent := List.replicate 9 0, freed := List.replicate 9 0, rxHeld := [], txq := [], probe := none, detour := none }

/-- A port has trained: its link starts afresh, and the peer's incarnation is recorded (R318, R325, Table 13.11 step 1). -/
def linkTrained (r : PortTrain) (s : State) : State :=
  recordInc r.peerChip r.peerInc (s.mapPort r.port fun q => { freshLink q with
    linkUp := true, detour := q.detour, peerAligned := r.peerAligned, peerReady := r.peerReady, latency := r.latency, ackTick := s.clk.ticks })

/-- What training of an IDLE port gives (R318): all four lanes, and a peer that agrees with R316. -/
def trainPort (r : PortTrain) (s : State) : State :=
  let p := r.port
  if !s.boot.archEn || (s.port p).state != .idle || (s.port p).wiring then s else
  let s := setPortState p .training s
  if !r.lanesOk then setPortState p .idle (linkFault p 0 s)
  else if r.peerChip ≠ peerAt s p ∨ r.peerPort ≠ 14 - p then
    setPortState p .idle (linkFault p 1 (s.mapPort p fun q => { q with wiring := true }))
  else
    setPortState p .active (linkTrained r (s.mapPort p fun q => { q with detour := none, retrained := false }))

/-! ## Tasks and invocations that a peer fails (R332, R337) -/

def mapInv (k prog num : Nat) (f : Inv → Inv) (s : State) : State :=
  s.mapIsle k fun r => { r with invs := r.invs.map fun i => if i.prog = prog ∧ i.num = num then f i else i }

def mapProg (k prog : Nat) (f : Prog → Prog) (s : State) : State := s.mapIsle k fun r => { r with progs := aMod prog f r.progs }

/-- STEP_FAIL goes to every other partner (R332). Partners know a program by its digest (R331), and number its invocations alike (R233). -/
def tellFail (k prog num cause : Nat) (s : State) : State :=
  match aGet (s.isle k).progs prog with
  | none => s
  | some p => (otherPartners s p.shards).foldl (fun s j => ctrlTo j pmStepFail [k, p.digest, num, chipId s, cause] [] s) s

/-- A step's failure is told to the other partners once (R332). -/
def failStep (k prog num cause : Nat) (s : State) : State :=
  match (s.isle k).invs.find? fun i => i.prog == prog && i.num == num with
  | none => s
  | some i =>
    if i.collFail ≠ 0 then s else
    tellFail k prog num cause (mapInv k prog num (fun i => { i with collFail := cause }) s)

/-- Every task of a unit that has not completed, those that run first. -/
def TUnit.tasks (x : TUnit) : List Task := x.running ++ (x.queue ++ x.later)

/-- Queue entries of tasks: a nest extension takes one more (R236). -/
def entriesOf (l : List Task) : Nat := (l.map fun t => if t.ext.isEmpty then 1 else 2).sum

/-- Descriptors move from the table frames into a window, in list order, while entries are free. -/
def fillWindow (free : Nat) (queue : List Task) : List Task → List Task × List Task
  | [] => (queue, [])
  | t :: l => if entriesOf [t] ≤ free then fillWindow (free - entriesOf [t]) (queue ++ [t]) l else (queue, t :: l)

/-- R235: the fetcher refills a unit's window; an entry retires when its task completes (log 105). -/
def TUnit.refill (x : TUnit) : TUnit :=
  let r := fillWindow (x.window - entriesOf (x.running ++ x.queue)) x.queue x.later
  { x with queue := r.1, later := r.2 }

/-- Every step of a program in flight, but one, fails at every partner (R241, R332). -/
def failSteps (k prog but : Nat) (s : State) : State :=
  ((s.isle k).invs.filter fun i => i.prog == prog && i.num != but && !i.stopped).foldl (fun s i => failStep k prog i.num 2 s) s

/-- A task takes the fault path (R241): its slot stops, the program is FAULTED, TASK_FAULT is set on its core in the isle's view,
and the event carries the reason. What the slot still holds of the program leaves it; tasks of other programs stay and do not issue. -/
def taskFault (k u : Nat) (t : Task) (reason : Nat) (s : State) : State :=
  let core := (coreOf s k u).getD 0
  let s := s.mapIsle k fun r => { r with
    units := aMod u (fun x => { x with
      stopped := true, running := x.running.filter fun q => q.id != t.id,
      queue := x.queue.filter fun q => q.prog != t.prog, later := x.later.filter fun q => q.prog != t.prog }) r.units,
    progs := aMod t.prog (fun p => { p with state := .faulted }) r.progs,
    invs := r.invs.map fun i => if i.prog = t.prog then { i with faulted := true } else i }
  let s := recordFault dCore core 4 { isle := k, unit := core, info := fieldB t.desc 8 4 } [k] s
  let s := postEvent k .eFault reason 7 t.prog (u % 64 + fieldB t.desc 0 1 * 256 + t.phase * 65536) (fieldB t.desc 8 4) s
  failSteps k t.prog t.inv (failStep k t.prog t.inv 2 s)

/-- A task ends without advancing DONE (R337). -/
def endTaskLost (k u task : Nat) (s : State) : State :=
  s.mapIsle k fun r => { r with units := aMod u (fun x => { x with running := x.running.filter fun t => t.id != task }.refill) r.units }

/-- A page copy of an unpark that its replica chip turned away is sent again at a later boundary (log 102). -/
def copyFailed (r : WinReq) (s : State) : State :=
  s.mapIsle r.isle fun x => { x with seqs := aMod r.handle (fun q => { q with farSent := q.farSent.filter (· != r.dest) }) x.seqs }

/-- R337: an operation ends with E_PEER_LOST: its place is free, the task ends, one PEER_LOST event per program per boundary, the step fails. -/
def peerLost (r : WinReq) (isleOnly : Bool) (cause : Nat) (s : State) : State :=
  let s := endReqs (fun q => q.tag == r.tag) s
  if r.unit = 0xFFFF then copyFailed r s else
  match (aGet (s.isle r.isle).units r.unit).bind fun x => x.running.find? fun t => t.id == r.task with
  | none => s
  | some t =>
    let s := endTaskLost r.isle r.unit t.id s
    let epoch := (tideNow s - s.tide.base) / s.tide.epochLen
    let s := match aGet (s.isle r.isle).progs t.prog with
      | some p =>
        if p.lostB = some epoch then s else
        mapProg r.isle t.prog (fun p => { p with lostB := some epoch })
          (postEvent r.isle .ePeerLost 0 0x0A t.prog (r.dest + r.dstIsle * 256 + (if isleOnly then 65536 else 0)) 0 s)
      | none => s
    failStep r.isle t.prog t.inv cause s

/-! ## Departure (R346) -/

/-- Chip j counts as departed: its flows and operations end, it leaves the present mask, and the next boundary acts on it. -/
def chipDeparts (j : Nat) (s : State) : State :=
  if j = chipId s ∨ !(s.arch.present.testBit j) then s else
  let s := restartFlows j s
  let s := (s.arch.reqs.filter fun r => r.dest == j).foldl (fun s r => peerLost r false 3 s) s
  let s := s.mapIsles fun r => { r with seqs := r.seqs.map fun q => (q.1, { q.2 with   -- what its copies held is gone (R14)
    farHeld := q.2.farHeld.filter (· != j), farDone := q.2.farDone.filter (· != j) }) }
  s.mapArch fun a => { a with
    present := clrBit a.present j, departed := insNat j a.departed, leavers := a.leavers.filter fun c => c != j,
    left := a.left.filter fun c => c != j, links := aDel a.links j,
    accepts := a.accepts.filter fun r => r.chip != j }

/-- The intermediate chip of R344: the member of lowest ID whose ports to this chip and to the peer are ACTIVE, by what the members have
announced; one that has announced nothing counts as joined to every chip (log 36). -/
def intermediate (s : State) (j : Nat) : Option Nat :=
  (maskBits s.arch.present 16).find? fun k =>
    k != j && k != chipId s && (s.port (myPort s k)).state == .active && (s.port (myPort s k)).linkUp &&
      ((aGet s.arch.links k).map fun l => l.testBit j) != some false

/-- The port is CUT and its peer has departed (R344); what was to go to the peer is lost. -/
def portCut (p : Nat) (s : State) : State :=
  let j := peerAt s p
  let s := s.mapPorts fun r => { r with txq := r.txq.filter fun m => m.dest != j }
  let s := setPortState p .cut (s.mapPort p fun r => { r with probe := none, detour := none, replay := [], heldMsgs := [] })
  chipDeparts j (noteRemap 3 p p 0xFFFF (tideNow s) s)

/-- R344: a probe to the port's peer through the intermediate chip, or CUT without one. -/
def probePeer (p : Nat) (s : State) : State :=
  let j := peerAt s p
  match intermediate s j with
  | none => portCut p s
  | some k => ctrlTo k pmProbe [chipId s, j] [] (s.mapPort p fun r => { r with probe := some (k, s.clk.ticks) })

/-- Corner case of R344: the leg to chip k of a detour has gone down. What its replay buffer held for others is lost, and each port that
detours through k probes again. -/
def detoursBreak (p : Nat) (s : State) : State :=
  let k := peerAt s p
  let s := s.mapPort p fun r => { r with replay := r.replay.filter fun f => f.dest == k }
  (List.range 15).foldl (fun s q => if (s.port q).state = .detoured ∧ (s.port q).detour = some k then probePeer q s else s) s

/-- What port p was to forward for other chips is lost, and its DT buffers are free (R345). -/
def loseForwards (p : Nat) (s : State) : State :=
  ((s.port p).txq.filter fun m => m.fwd.isSome).foldl (fun s m =>
    match m.fwd with
    | some q => freeCredit q (creditOf m.ch true) 1 s
    | none => s) (s.mapPort p fun r => { r with txq := r.txq.filter fun m => m.fwd.isNone })

/-- Link-down (R322, R344): the marker, behind which nothing is received, the fault bit, and a probe through the intermediate chip, or CUT
without one. A port that had not yet returned stays as it was, and what it held goes by its detour. -/
def linkDownAt (p : Nat) (s : State) : State :=
  let r := s.port p
  if !r.linkUp then s else
  let s := linkFault p 2 s
  let s := loseForwards p (s.mapPort p fun r => { r with
    linkUp := false, lcfFails := 0, returning := false, heldFlows := [], heldMsgs := [] })
  let s := s.emit (.peer (chipId s) pmMarker [p] [])
  if r.state ≠ .active then r.heldMsgs.foldl (fun s m => sendMsg m s) s else
  let s := s.mapPort p fun r => { r with downTick := s.clk.ticks, retrained := false }
  let j := peerAt s p
  if s.arch.member = 0 || !s.arch.present.testBit j then
    restartFlows j (setPortState p .cut (s.mapPort p fun r => { r with txq := [], replay := [] }))
  else announce (detoursBreak p (probePeer p s))

/-- An unacknowledged flit that goes out again through a detour, with its original FSEQ (R344). -/
def TxFlit.resend (p : Nat) (f : TxFlit) : TxMsg :=
  { ch := f.ch, cls := f.cls, isle := f.isle, dest := f.dest, left := 1, begun := true, again := some f.fseq,
    msg := .peer f.dest pmResend [p, f.fseq] [] }

/-- Port p's traffic goes by chip k from here (R344, R456): its own unacknowledged flits again, then what waited. -/
def goByDetour (p k : Nat) (s : State) : State :=
  let j := peerAt s p
  let c := carrier s j
  let d := myPort s k
  let flits := ((s.port p).replay.filter fun f => !f.fwd).map (TxFlit.resend p)
  let s := s.mapPort p fun r => { r with probe := none, detour := some k, replay := [] }
  let s := s.mapPort d fun r => { r with txq := r.txq ++ flits }
  moveTx j p d (if c = d then s else moveTx j c d s)

/-- At T the port serves its own traffic again (R347): flows that went by the detour are held until their last flit is delivered, and this
chip acknowledges what it has delivered of the peer's. A port whose link has gone down again stays as it is. -/
def portReturns (p t : Nat) (s : State) : State :=
  if !(s.port p).linkUp || (s.port p).state == .active then s else
  let j := peerAt s p
  let c := carrier s j
  let flows := if c = p then [] else
    (s.arch.fseqTx.filter fun f => f.1.1 == j).map fun f => (f.1.2, (f.2 + 65535) % 65536)
  let s := noteRemap 3 p (if c = p then 0xFFFF else c) p t s
  let moves := fun (m : TxMsg) => m.dest == j && m.again.isNone
  let new := if c = p then [] else (s.port c).txq.filter moves
  let s := if c = p then s else s.mapPort c fun r => { r with txq := r.txq.filter fun m => !moves m }
  let s :=
    if flows.isEmpty then
      let s := setPortState p .active (s.mapPort p fun r => { r with returning := false, detour := none, heldFlows := [] })
      announce (pumpPort p (new.foldl (fun s m => sendMsg m s) s))
    else s.mapPort p fun r => { r with returning := true, heldFlows := flows, heldMsgs := new }
  (s.arch.fseqRx.filter fun f => f.1.1 == j).foldl (fun s f => ackFlow j f.1.2 s) s

/-- Every port in electrical idle: what peers see of this chip's reset (R36, R59, R454). -/
def portsIdle (s : State) : State :=
  (List.range 15).foldl (fun s p =>
    let s := s.mapPort p fun r => { freshLink r with linkUp := false, heldMsgs := [] }
    if (s.port p).state = .retired then s else setPortState p .idle s) s

/-- Ask for a link mark on every trained port (R58). -/
def askLinkMark (s : State) : State :=
  let s := s.mapBoot fun b => { b with alignByLink := true, alignTick := s.clk.ticks }
  (List.range 15).foldl (fun s p => if (s.port p).state = .active then tideTo [peerAt s p] (fun _ => .alignRequest p) s else s) s

/-- This chip leaves with the peer-visible effects of a reset, its state kept (R59): it announces its departure, and then its new incarnation,
with which its flows begin anew (R325); requests are lost. -/
def selfDeparts (s : State) : State :=
  let peers := otherPresent s
  let s := ctrlAll pmDepart [chipId s] [] s
  let s := peers.foldl (fun s j => chipDeparts j s) s
  let s := { s with standby := { s.standby with incarnation := (s.standby.incarnation + 1) % 65536 },
                    tide := { s.tide with aligned := false, linkAligned := false } }
  peers.foldl (fun s j => ctrlTo j pmIncarnation [chipId s, s.standby.incarnation, linkMask s] [] (restartFlows j s)) s

end Sys2Proof.Machine
end

