-- ==== Sys2Proof/Machine/Agree.lean ====
section
/-! DEFINITION. Agreed counts (R64): proposals, acknowledgements, confirms, misses and cancels, and the completion of the command
that waits for one. -/

namespace Sys2Proof.Machine

/-- R364: the boundary at which a replay begins for an agreed T, and whether its phase matches. -/
def replayStartAt (s : State) (t b0 : Nat) : Nat × Bool :=
  match (List.range 65).find? fun i => (t + i * s.tide.epochLen) % 64 == b0 % 64 with
  | some i => (t + i * s.tide.epochLen, true)
  | none => (t, false)

/-- What a command that waits for an agreement reports once T is confirmed; none: its entry follows at T or later. -/
def agreedWords (s : State) (a : Agreed) : Option Words :=
  match a.act with
  | .epochLen _ | .fwActivate | .slotTable _ => some (w64 a.t)
  | .archForm m => some { w64 a.t with w2 := popCount m 16 }
  | .replayStart _ b0 _ =>
    let r := replayStartAt s a.t b0
    some { w64 r.1 with w2 := b2n r.2 }
  | _ => none

/-- The waiting command completes S_OK with what it reports (R70, R122, R327, R364, R395): on a chip that agrees alone when it chooses
T, else at T before the action takes effect, since a member's miss can still cancel the change until then (log 84). -/
def agreeDone (tide : Nat) (a : Agreed) (s : State) : State :=
  match a.cmd, agreedWords s a with
  | some (fn, seq), some w => finishAt tide fn seq .sOk 0 w s
  | _, _ => s

/-- The command that waits ends with E_RETRY when a member does not confirm (Tables 3.9, 13.5, 18.8). -/
def agreeFails (a : Agreed) (s : State) : State :=
  match a.cmd with
  | some (fn, seq) => finish fn seq .eRetry 0 {} s
  | none => s

/-- The entry of proposal (T, action) of chip src. -/
def Agreed.is (a : Agreed) (t src : Nat) (act : Action) : Bool := a.t == t && a.src == src && a.act == act

def mapAgreed (t src : Nat) (act : Action) (f : Agreed → Agreed) (s : State) : State :=
  s.mapTide fun x => { x with agreed := x.agreed.map fun a => if a.is t src act then f a else a }

def dropAgreed (t src : Nat) (act : Action) (s : State) : State :=
  s.mapTide fun x => { x with agreed := x.agreed.filter fun a => !a.is t src act }

def findAgreed (s : State) (t src : Nat) (act : Action) : Option Agreed := s.tide.agreed.find? fun a => a.is t src act

/-- The confirm: its order decides the order of application at T (R458). -/
def confirmAgreed (t src : Nat) (act : Action) (s : State) : State :=
  (mapAgreed t src act (fun a => if a.confirmed then a else { a with confirmed := true, order := s.tide.confirms }) s).mapTide fun x =>
    { x with confirms := x.confirms + 1 }

/-- Actions whose T every member agrees; the others are agreed by this chip alone (R389, R374, R138, R166). -/
def chipWide : Action → Bool
  | .epochLen _ | .slotTable _ | .archForm _ | .archLeave _ | .fwActivate | .replayStart _ _ _ | .portReturn _ | .rejoin _
  | .unitRetire _ _ | .unitReturn _ _ => true
  | _ => false

/-- The other end of a port and the intermediate chip of its detour (R347 step 2). -/
def portEnds (s : State) (p : Nat) : List Nat := peerAt s p :: (s.port p).detour.toList

/-- R328: an ARCH_FORM of the current member mask while some member is absent is a rejoin. -/
def rejoins (s : State) (mask : Nat) : Bool := mask == s.arch.member && s.arch.present != mask

/-- Chip j is joined to this one by an ACTIVE port or a detour through a third chip of the mask (Table 13.5). -/
def joined (s : State) (mask j : Nat) : Bool :=
  let r := s.port (myPort s j)
  r.state == .active || (r.state == .detoured && (r.detour.map fun k => mask.testBit k) == some true)

/-- The absent members that a rejoin can restore: those joined to this chip again (R328, log 109). -/
def returning (s : State) : List Nat :=
  (maskBits s.arch.member 16).filter fun j => j != chipId s && !s.arch.present.testBit j && joined s s.arch.member j

/-- The members that must acknowledge: those of the present mask, or the chips of the mask that ARCH_FORM or REPLAY_START names. -/
def agreeMembers (s : State) (act : Action) : List Nat :=
  if !chipWide act then [] else
  match act with
  | .archForm m => if rejoins s m then otherPresent s ++ returning s else (maskBits m 16).filter fun c => c != chipId s
  | .replayStart _ _ m => (maskBits m 16).filter fun c => c != chipId s
  | .rejoin _ => (maskBits s.arch.member 16).filter fun c => c != chipId s && (s.port (myPort s c)).state == .active
  | .portReturn p => portEnds s p
  | .unitReturn 3 p => (portEnds s p).foldl (fun l j => insNat j l) (otherPresent s)
  | _ => otherPresent s

/-- Propose an action at T; alone, the chip chooses and applies T locally. -/
def propose (t : Nat) (act : Action) (cmd : Option (Nat × Nat)) (s : State) : State :=
  let me := chipId s
  let a : Agreed := { t := t, src := me, act := act, proposed := tideNow s, cmd := cmd }
  let s := s.mapTide fun x => { x with agreed := x.agreed ++ [a] }
  if (agreeMembers s act).isEmpty then agreeDone (tideNow s) a (confirmAgreed t me act s)
  else tideTo (agreeMembers s act) (fun j => .propose t j act) s

/-- R64: a member receives a proposal and acknowledges it; of overlapping ARCH_FORMs it confirms only the first. -/
def takeProposal (t src : Nat) (act : Action) (s : State) : State :=
  if !isReady s ∨ src = chipId s ∨ (findAgreed s t src act).isSome then s else
  let rival := match act with
    | .archForm _ => s.tide.agreed.any fun a => match a.act with | .archForm _ => true | _ => false
    | .fwActivate => (match s.fw.staged with | some v => v.1 / 65536 != s.fw.ifVersion / 65536 | none => true)
    | _ => false
  if rival then s else
  tideTo [src] (fun j => .ack t j act)
    (s.mapTide fun x => { x with agreed := x.agreed ++ [{ t := t, src := src, act := act, proposed := tideNow s }] })

/-- R64: the proposer receives an acknowledgement of one proposal; with every one by T − 40,000 it confirms. -/
def takeAck (t member : Nat) (act : Action) (s : State) : State :=
  let me := chipId s
  match findAgreed s t me act with
  | none => s
  | some a =>
    if a.confirmed then s else
    let acks := insNat member a.acks
    let s := mapAgreed t me act (fun a => { a with acks := acks }) s
    if (agreeMembers s act).all (fun c => acks.contains c) ∧ tideNow s + 40000 ≤ t then
      tideTo (agreeMembers s act) (fun j => .confirm t j act) (confirmAgreed t me act s)
    else s

/-- R64: a member receives the confirm. -/
def execAgreedCountConfirm (t : Nat) (h : FlitHdr) (act : Action) (s : State) : Host.Outcome State Fault Refusal :=
  .next (onTide h (fun s =>
    match findAgreed s t h.orig act with
    | some a => if a.confirmed ∨ h.orig = chipId s then s else confirmAgreed t h.orig act s
    | none => s) s)

/-- R64: at T − 20,000 what holds no confirm is discarded; a member reports the miss, a proposer gives up its command. -/
def onConfirmDeadline (t : Nat) (s : State) : State :=
  if !(s.tide.agreed.any fun a => a.t == t && !a.confirmed) then s else
  let s := advanceCount (t - 20000) s
  (s.tide.agreed.filter fun a => a.t == t && !a.confirmed).foldl (fun s a =>
    let s := dropAgreed t a.src a.act s
    if a.src = chipId s then agreeFails a (tideTo (agreeMembers s a.act) (fun j => .cancel t j a.act) s)
    else tideTo [a.src] (fun j => .miss t j a.act) s) s

/-- R64: the proposer receives a miss report and cancels. -/
def takeMiss (t member : Nat) (act : Action) (s : State) : State :=
  match findAgreed s t (chipId s) act with
  | some a =>
    if !(agreeMembers s act).contains member then s
    else agreeFails a (tideTo (agreeMembers s act) (fun j => .cancel t j act) (dropAgreed t (chipId s) act s))
  | none => s

/-- R64: a member receives a cancel. -/
def execAgreedCountCancel (t : Nat) (h : FlitHdr) (act : Action) (s : State) : Host.Outcome State Fault Refusal :=
  .next (onTide h (fun s => if h.orig = chipId s then s else dropAgreed t h.orig act s) s)

end Sys2Proof.Machine
end

