-- ==== Sys2Proof/Machine/Link.lean ====
section
/-! DEFINITION. Chapter 13, the link layer and membership: training, link control flits, link-down, detours, returns, departures
(R317 to R325, R344 to R347, R349). -/

namespace Sys2Proof.Machine

/-- R88: a chip that waits for the cold mark turns to link-mark alignment when a trained peer reports itself aligned. -/
def switchToLink (r : PortTrain) (s : State) : State :=
  if s.tide.coldWait && !s.tide.aligned && r.peerAligned then askLinkMark (s.mapTide fun x => { x with coldWait := false })
  else if s.boot.alignByLink && !s.tide.aligned then tideTo [peerAt s r.port] (fun _ => .alignRequest r.port) s
  else s

/-- R318, R58, R87, R88: an IDLE port trains; a trained port brings what the same peer reports of its boot state since (log 85); the link of a
RETIRED port trains, and the port waits for its return (Table 13.11). A chip that waits for a link mark asks on a port that has trained. -/
def execPortTrainPattern (r : PortTrain) (s : State) : Host.Outcome State Fault Refusal :=
  if s.boot.inReset || !s.boot.fwRunning || s.halt.isSome || s.tide.frozen then .next s
  else if (s.port r.port).state == .active then
    if r.peerChip ≠ (s.port r.port).peer.1 then .next s
    else
      let s := peerReports r.port r.peerAligned r.peerReady s
      .next (if s.tide.coldWait then switchToLink r s else s)
  else if (s.port r.port).state == .retired then
    if !r.lanesOk ∨ r.peerChip ≠ peerAt s r.port ∨ r.peerPort ≠ 14 - r.port then .next s else .next (linkTrained r s)
  else
    let s := trainPort r s
    .next (if (s.port r.port).state == .active then switchToLink r s else s)

/-- a precedes b modulo 2^16 over a window of 32,768 (R323). -/
def seqBefore (a b : Nat) : Bool := decide (0 < (b + 65536 - a) % 65536) && decide ((b + 65536 - a) % 65536 < 32768)

/-- This chip's next LCF: what it has received in order, the replay that it asks for once, and the credits that it has freed (R321). A port
sends one for each that it receives (log 37). -/
def sendLcf (port : Nat) (s : State) : State :=
  let r := s.port port
  if !r.linkUp then s else
  (s.mapPort port fun r => { r with wantReplay := false }).emit
    (.lcf port { crcOk := true, acked := r.rxCount, replay := if r.wantReplay then some r.rxSeq else none, credits := r.freed })

/-- FEC_RATE: more than 10^6 codewords corrected within 1 s (R349, log 82). -/
def countFec (port n : Nat) (s : State) : State :=
  if n = 0 then s else
  let l := (s.clk.ticks, n) :: (s.port port).fecTimes.filter fun x => decide (s.clk.ticks < x.1 + 100000000)
  if 1000000 < (l.map fun x => x.2).sum then linkFault port 4 (s.mapPort port fun r => { r with fecTimes := [] })
  else s.mapPort port fun r => { r with fecTimes := l }

/-- R321, R322, R349: acknowledgements, a replay request and credit totals, after which the port sends what it now may and an LCF of its
own; 8 failed LCFs in a row, or 8 replays of one LSEQ, take the link down. -/
def execLinkControlFlit (port : Nat) (l : Lcf) (s : State) : Host.Outcome State Fault Refusal :=
  if !(s.port port).linkUp then .next s else
  let s := countFec port l.corrected s
  if !l.crcOk then
    let n := (s.port port).lcfFails + 1
    let s := s.mapPort port fun r => { r with lcfFails := n }
    .next (if n ≥ 8 then linkDownAt port s else sendLcf port s)
  else
    let r := s.port port
    let left := r.replay.filter fun f => !seqBefore f.lseq l.acked
    let s := s.mapPort port fun r => { r with
      lcfFails := 0, replay := left, credits := l.credits, ackTick := if left.length < r.replay.length then s.clk.ticks else r.ackTick }
    match l.replay with
    | none => .next (sendLcf port (pumpPort port s))
    | some q =>
      let n := if (s.port port).replayed.1 = q then (s.port port).replayed.2 + 1 else 1
      let s := s.mapPort port fun r => { r with replayed := (q, n), replays := sat32 (r.replays + 1) }
      if n ≥ 8 then .next (linkDownAt port (linkFault port 5 s))
      else .next (sendLcf port (pumpPort port (s.emit (.peer (peerAt s port) pmResend [port, q] []))))

/-- R322: a lane loses lock, or flits stay unacknowledged for 20 µs. -/
def execLinkDown (port : Nat) (s : State) : Host.Outcome State Fault Refusal := .next (linkDownAt port s)

/-- R344: a probe comes in: the peer that is meant answers it, and the intermediate chip passes it on or reports the peer unreachable. Probes
and answers go hop by hop (log 36). -/
def execDetourProbe (h : FlitHdr) (src dest : Nat) (s : State) : Host.Outcome State Fault Refusal :=
  .next (onCtrl h 0 (fun s =>
    if dest = chipId s then ctrlTo h.orig pmProbeAnswer [src, dest] [] s
    else if (s.port (myPort s dest)).state == .active && (s.port (myPort s dest)).linkUp then ctrlTo dest pmProbe [src, dest] [] s
    else ctrlTo src pmUnreachable [dest] [] s) s)

/-- R344: the peer answers within 1 µs: the port is DETOURED, its unacknowledged flits go through k again, and what waited follows them. The
intermediate chip passes the answer on. -/
def execProbeAnswer (h : FlitHdr) (src dest : Nat) (s : State) : Host.Outcome State Fault Refusal :=
  .next (onCtrl h 0 (fun s =>
    if src ≠ chipId s then ctrlTo src pmProbeAnswer [src, dest] [] s else
    let port := myPort s dest
    match (s.port port).probe with
    | none => s
    | some (k, t) =>
      if s.clk.ticks > t + 100 ∨ h.orig ≠ k then s else
      let c := carrier s dest
      let s := noteRemap 3 port c (myPort s k) (tideNow s) (setPortState port .detoured s)
      goByDetour port k s) s)

/-- R344: no answer within 1 µs, or k reports the peer unreachable. -/
def execProbeTimeout (port : Nat) (s : State) : Host.Outcome State Fault Refusal :=
  match (s.port port).probe with
  | none => .next s
  | some _ => .next (portCut port s)

/-- R345: a flit with DETOUR set arrives in LSEQ order for another chip: it waits in its DT buffer for its turn on the port toward DEST. With
that leg down it is lost. -/
def execDetourFlit (h : FlitHdr) (dest : Nat) (flit : Bytes) (s : State) : Host.Outcome State Fault Refusal :=
  let r := s.port h.port
  if s.boot.inReset ∨ !r.linkUp ∨ h.lseq ≠ r.rxSeq then .next s else
  let s := s.mapPort h.port fun r => { r with rxSeq := (r.rxSeq + 1) % 65536, rxCount := (r.rxCount + 1) % 65536 }
  let cls := fieldB flit 0 1 % 8
  let ch := channelOf cls ((fieldB flit 0 1).testBit 6)
  let m : TxMsg := { ch := ch, cls := cls, isle := fieldB flit 1 1 % 32, dest := dest, left := 1, begun := true, again := some h.fseq,
                     fwd := some h.port, msg := .peer dest pmForward [h.orig, dest] flit }
  let d := myPort s dest
  .next (if (s.port d).state == .active && (s.port d).linkUp then enqueue d m s else freeCredit h.port (creditOf ch true) 1 s)

/-- R345, R347: one retrain, 100 ms after the port went down; when it trains, the chip of lower ID proposes its return. -/
def execPortRetrain (port : Nat) (r : PortTrain) (s : State) : Host.Outcome State Fault Refusal :=
  let st := (s.port port).state
  if (st != .detoured && st != .cut) || (s.port port).retrained then .next s else
  let s := advanceTicks ((s.port port).downTick + 10000000) s
  let s := s.mapPort port fun q => { q with retrained := true }
  if !r.lanesOk then .next (linkFault port 0 s)
  else if r.peerChip ≠ peerAt s port ∨ r.peerPort ≠ 14 - port then
    .next (linkFault port 1 (s.mapPort port fun q => { q with wiring := true }))
  else
    let s := linkTrained { r with port := port } s
    if chipId s < peerAt s port then .next (propose (earliestT s (tideNow s)) (.portReturn port) none s) else .next s

/-- A flow is free to go by its own port again: what it held goes out, and with the last flow the port is ACTIVE (Table 13.11 step 5). -/
def releaseFlow (port cls : Nat) (s : State) : State :=
  let held := (s.port port).heldMsgs.filter fun m => m.cls == cls
  let s := s.mapPort port fun r => { r with
    heldFlows := r.heldFlows.filter fun h => h.1 != cls, heldMsgs := r.heldMsgs.filter fun m => m.cls != cls }
  let s := if (s.port port).heldFlows.isEmpty then
      announce (setPortState port .active (s.mapPort port fun r => { r with returning := false, detour := none }))
    else s
  held.foldl (fun s m => sendMsg m s) s

/-- R347 steps 4 and 5: the peer has delivered the flow's last detoured flit. The acknowledgement is a flit of the peer's CTRL flow itself: the
chip of lower ID acknowledges it as long as it comes by the detour, and the other once its own CTRL flow is free (log 133). -/
def execFseqDeliveredAck (h : FlitHdr) (cls fseq : Nat) (s : State) : Host.Outcome State Fault Refusal :=
  match receive h 4 false 1 s with
  | (s, false) => .next s
  | (s, true) =>
    let port := myPort s h.orig
    let mine := (s.port port).returning && (s.port port).heldFlows.contains (cls, fseq)
    let s := if mine then releaseFlow port cls s else s
    .next (if chipId s < h.orig ∨ !flowHeld s h.orig 4 then ackPast h 4 s else s)

/-- R322, R349: a data flit fails its CRC after FEC; it and what follows are discarded until the LSEQ expected arrives, and the next LCF asks
for it. More than 1,000 within 1 s set CRC_RATE. -/
def execFlitCrcFail (port : Nat) (s : State) : Host.Outcome State Fault Refusal :=
  if !(s.port port).linkUp then .next s else
  let ts := s.clk.ticks :: (s.port port).crcTimes.filter fun t => decide (s.clk.ticks < t + 100000000)
  let s := s.mapPort port fun r => { r with wantReplay := true, crcTimes := ts }
  .next (if ts.length > 1000 then linkFault port 3 (s.mapPort port fun r => { r with crcTimes := [] }) else s)

/-- R346, R329: a peer's DEPART announcement. One whose leave is agreed has left in order, and the next boundary acts on it. -/
def execDepart (h : FlitHdr) (s : State) : Host.Outcome State Fault Refusal :=
  .next (onCtrl h 0 (fun s =>
    if h.orig = chipId s then s
    else if s.arch.leavers.contains h.orig then s.mapArch fun a => { a with left := insNat h.orig a.left }
    else chipDeparts h.orig (peerReports (myPort s h.orig) false false s)) s)

/-- R325: a CTRL announcement of a member's incarnation, which its header carries, and of the chips that its ports reach. -/
def execIncarnationAnnounce (h : FlitHdr) (links : Nat) (s : State) : Host.Outcome State Fault Refusal :=
  if s.boot.inReset ∨ h.orig = chipId s ∨ !(s.port h.port).linkUp then .next s
  else .next (onCtrl h 0 (fun s => s.mapArch fun a => { a with links := aSet h.orig links a.links }) (recordInc h.orig h.inc s))

end Sys2Proof.Machine
end

