-- ==== Sys2Proof/Machine/TideEv.lean ====
section
/-! DEFINITION. Chapter 3: the mark protocol, link marks, the reference clock, deadlines and sub-slots (R56 to R68, R72, R384). -/

namespace Sys2Proof.Machine

/-- The first boundary at or after tick t (R61). -/
def boundaryFrom (s : State) (t : Nat) : Nat :=
  if t ≤ s.tide.base then s.tide.base else s.tide.base + ceilDiv (t - s.tide.base) s.tide.epochLen * s.tide.epochLen

/-- The counter is loaded and runs; a chip in ALIGN goes on to HBM_TRAIN (R56, R58, Table 4.1). E and BASE keep what they hold: after a
reset the values of R61, after SYNC_SLIP those of the archipelago, since the chip rejoins with its state kept (Table 13.10, log 86). -/
def alignAt (count : Nat) (byLink : Bool) (s : State) : State :=
  let s := updateLeader <| s.mapTide fun x => { x with
    count := count % 2 ^ 64, aligned := true, linkAligned := byLink, coldWait := false,
    crossReset := some (if byLink then ceilDiv count 64 * 64 % 64 else 0) }
  let s := s.mapTide fun x => { x with nextB := boundaryFrom s s.tide.count, lastCheck := s.tide.count / 10000000 * 10000000 }
  if s.boot.phase = phAlign then s.mapBoot fun b => { b with phase := phHbm, phaseTick := s.clk.ticks } else s

/-- A peer of lower chip ID has reported itself ready for alignment (R87). -/
def lowerPeerReady (s : State) : Bool :=
  s.ports.any fun p => p.state == .active && p.peerReady && decide (p.peer.1 < chipId s)

/-- R56, R87: the line has been high for 100 µs and no peer of lower ID is ready, so this chip drives the mark. -/
def execMarkDrive (s : State) : Host.Outcome State Fault Refusal :=
  if s.boot.phase != phAlign || !s.tide.coldWait || !s.pins.syncHigh || s.pins.syncHold || lowerPeerReady s then .next s else
  let s := advanceTicks (s.pins.syncSince + 10000) s
  .next ((s.mapPins fun p => { p with markSince := some s.clk.ticks, syncHigh := false }).emit (.strobe 0 false))

/-- R56, R59: a mark lasts 100 ticks. -/
def execMarkRelease (s : State) : Host.Outcome State Fault Refusal :=
  match s.pins.markSince with
  | none => .next s
  | some t =>
    let s := advanceTicks (t + 100) s
    .next ((s.mapPins fun p => { p with markSince := none, syncHigh := true, syncSince := s.clk.ticks }).emit (.strobe 0 true))

/-- R59: this chip has slipped: it leaves, and asks every trained port for a link mark (R58). -/
def syncSlip (s : State) : State := askLinkMark (selfDeparts (recordFault dTide 0 2 {} [] s))

/-- R56, R59: a falling edge: at cold alignment the count is 0 there, and every trained peer that was ready aligns to the same edge; at a
check mark, a low of 100 ticks, the count is compared with the multiple of 10,000,000 that is nearest. A low that is no such pulse is
a chip holding the line in reset: it makes check marks fail to come, and no chip compares its count there (corner case, log 87). -/
def execMarkDetect (pulse : Bool) (s : State) : Host.Outcome State Fault Refusal :=
  let s := s.mapPins fun p => { p with syncHigh := false }
  if s.tide.coldWait then
    .next (alignAt 0 false (s.mapPorts fun p => { p with peerAligned := p.peerAligned || (p.state == .active && p.peerReady) }))
  else if counting s && pulse then
    let m := (s.tide.count + 5000000) / 10000000 * 10000000
    let s := s.mapTide fun x => { x with marksSkipped := 0, lastCheck := m }
    if s.tide.count + 1 < m ∨ m + 1 < s.tide.count then .next (syncSlip s) else .next s
  else .next s

/-- R59, R72: the tick of a check mark: driven by the leader, skipped when the line has not been high for 100 µs; 10 skips in a row
set MARK_MISSED, and so do every 10 more (log 88). -/
def execCheckMark (s : State) : Host.Outcome State Fault Refusal :=
  if !counting s then .next s else
  let m := s.tide.lastCheck + 10000000
  let s := advanceCount m s
  let s := s.mapTide fun x => { x with lastCheck := m }
  if s.pins.syncHigh ∧ s.pins.syncSince + 10000 ≤ s.clk.ticks then
    let s := s.mapTide fun x => { x with marksSkipped := 0 }
    if s.tide.leader = chipId s then
      .next ((s.mapPins fun p => { p with markSince := some s.clk.ticks, syncHigh := false }).emit (.strobe 0 false))
    else .next s
  else
    let n := s.tide.marksSkipped + 1
    let s := s.mapTide fun x => { x with marksSkipped := n }
    if n % 10 = 0 then .next (recordFault dTide 0 3 {} [] s) else .next s

/-- TIDE_SYNC rises when no chip holds it (Table 2.13). -/
def execTideSyncRise (s : State) : Host.Outcome State Fault Refusal :=
  if s.pins.syncHold || s.pins.markSince.isSome || s.pins.syncHigh then .next s else
  .next (s.mapPins fun p => { p with syncHigh := true, syncSince := s.clk.ticks })

/-- R60: the counter freezes, the fatal bit is set, ports go down. -/
def execRefclkLost (s : State) : Host.Outcome State Fault Refusal :=
  if s.boot.inReset || !s.tide.refclkOk then .next s else
  let s := recordFault dTide 0 0 {} [] s
  .next (portsIdle (s.mapTide fun x => { x with refclkOk := false, frozen := true }))

/-- R58: the leader answers a joining chip with a TIDE_MARK message, which carries the tick of its departure; the joining chip is an
aligned chip from then on (R55, log 85). -/
def execAlignRequest (h : FlitHdr) (s : State) : Host.Outcome State Fault Refusal :=
  .next (onTide h (fun s =>
    if counting s && s.tide.leader == chipId s && (s.port h.port).state == .active && h.orig == peerAt s h.port then
      peerReports h.port true false (tideTo [h.orig] (fun _ => .tideMark h.port s.tide.count) s)
    else s) s)

/-- R58: the joining chip loads the count carried plus the port's latency, and releases TIDE_SYNC. After SYNC_SLIP it rejoins at an
agreed count (Table 13.10). -/
def execTideMark (h : FlitHdr) (count : Nat) (s : State) : Host.Outcome State Fault Refusal :=
  .next (onTide h (fun s =>
    if s.tide.aligned || (s.port h.port).state != .active || h.orig != peerAt s h.port || !s.boot.alignByLink then s else
    let s := alignAt (count + (s.port h.port).latency) true (s.mapPort h.port fun p => { p with peerAligned := true })
    let s := s.mapPins fun p => { p with syncHold := false }
    if isReady s && s.arch.formed then propose (earliestT s (tideNow s)) (.rejoin (chipId s)) none s else s) s)

/-! ## Overrun (R66 to R68) -/

/-- Work of an isle's release that has not completed. -/
def workLeft (r : Isle) : Bool := r.units.any fun u => !u.2.tasks.isEmpty

/-- PHASES of an image (Table 10.2). -/
def imgPhases (b : Bytes) : Nat := fieldB b 6 1

/-- Tasks of an invocation that have not completed. -/
def invWork (r : Isle) (i : Inv) : Bool :=
  r.units.any fun u => u.2.tasks.any fun t => t.prog == i.prog && t.inv == i.num

/-- The last phase of an invocation has been released. -/
def lastPhase (r : Isle) (i : Inv) : Bool :=
  match aGet r.progs i.prog with
  | some g => decide (imgPhases g.image ≤ i.phase + 1)
  | none => true

/-- The invocation's final epoch has ended by b. -/
def epochsOver (r : Isle) (b : Nat) (i : Inv) : Bool := lastPhase r i && decide (i.finalB ≤ b)

/-- The isle's release is held back: work is left, or a step is deferred (R66). Its tables do not change until the deferred commit
(R173). -/
def heldBack (r : Isle) (b : Nat) : Bool := workLeft r || r.invs.any fun i => epochsOver r b i

/-- The program of an isle whose task is still running, lowest unit first. -/
def lateProg (r : Isle) : Nat :=
  match (r.units.flatMap fun u => u.2.tasks).head? with
  | some t => t.prog
  | none => 0

/-- Invocations in flight with work left at the deadline. -/
def lateInvs (r : Isle) : List (Nat × Nat) :=
  ((r.units.flatMap fun u => u.2.tasks).map fun t => (t.prog, t.inv)).filter fun x =>
    r.invs.any fun i => i.prog == x.1 && i.num == x.2

/-- R67 at the overrun limit: no further task of the isle issues, and its late steps abort at the next boundary. Tasks that run go on to
their end (log 89). -/
def stopTasks (isle : Nat) (late : List (Nat × Nat)) (s : State) : State :=
  let s := s.mapIsle isle fun r => { r with
    units := r.units.map fun u => (u.1, { u.2 with queue := [], later := [] }),
    invs := r.invs.map fun i => if late.contains (i.prog, i.num) then { i with stopped := true } else i }
  late.eraseDups.foldl (fun s i => tellFail isle i.1 i.2 2 s) s

/-- R66, R67, R68: at b + E − 325 of the release, or an epoch later for every epoch overrun so far, counted at the length E that is in force
then (log 90). -/
def execCompletionDeadline (isle : Nat) (s : State) : Host.Outcome State Fault Refusal :=
  let r := s.isle isle
  match r.released with
  | none => .next s
  | some b =>
    if !workLeft r || s.halt.isSome then .next s else
    let n := (match r.overrun with | some o => o.2 | none => 0) + 1
    let s := advanceCount (b + n * s.tide.epochLen - 325) s
    let late := lateInvs r
    let prog := lateProg r
    let s := s.mapIsle isle fun r => { r with
      overrun := some (b, n),
      invs := r.invs.map fun i => if late.contains (i.prog, i.num) then { i with overrun := n, flags := setBit i.flags 0 } else i }
    let s := postEvent isle .eOverrun n 1 prog 0 0 s
    let s := addPressure isle (fun x => { x with late := x.late + 1 }) s
    let s := if r.cls = 2 then s else s.mapIsles fun q => if q.cls = 2 ∧ q.grant.pool then { q with yield := true } else q
    if n < r.overrunLimit then .next s else
    .next (stopTasks isle late s)

/-- R61, R384: the next sub-slot begins; the arbiters admit its owner's waiting requests. -/
def execSubslotStart (s : State) : Host.Outcome State Fault Refusal :=
  if !counting s then .next s else
  let len := s.tide.epochLen / 16
  let here := (s.tide.count - s.tide.base) / len
  if here % 16 ≠ s.tide.subslot then .next (pumpPorts (s.mapTide fun x => { x with subslot := here % 16 }))
  else .next (pumpPorts ((advanceCount (s.tide.base + (here + 1) * len) s).mapTide fun x => { x with subslot := (here + 1) % 16 }))

end Sys2Proof.Machine
end

