-- ==== Sys2Proof/Machine/Start.lean ====
section
/-! DEFINITION. Chapter 4: start-up from FUSES to READY, the loader, and configuration requests (R73 to R95), with the identity
that the boot ROM derives (R400). -/

namespace Sys2Proof.Machine

/-! ## Stops (R79, R95) -/

def enterPhase (p : Nat) (s : State) : State :=
  s.mapBoot fun b => { b with phase := p, phaseTick := s.clk.ticks, phaseDone := false }

/-- FAILED with a code; codes 3 to 6 leave the loader personality (Table 4.12), in which PUSH_STATUS reads idle (log 93) and the ROM has
control again, with the UDS rows as it finds them at a boot (log 113). -/
def bootFails (code : Nat) (s : State) : State :=
  let s := enterPhase phFailed s
  let s := s.mapBoot fun b => { b with
    failCode := code, loader := decide (3 ≤ code) && decide (code ≤ 6), cfgReachable := true, fwRunning := false,
    imageAccepted := false, pushStatus := 0 }
  let s := s.mapSec fun c => { c with udsLocked := false, devLocked := false }
  s.mapPins fun p => { p with alertLow := true }

/-- R75, R79: the life-cycle state and the boot source decide what follows. -/
def execFuses (s : State) : Host.Outcome State Fault Refusal :=
  if s.boot.inReset || s.boot.phase != phFuses then .next s else
  let lc := fusedState s.fuses
  let s := s.mapSec fun c => { c with lc := lc, keyIdx := keyIndex s.fuses }
  let s := s.mapBoot fun b => { b with limbo := tornTarget s.fuses }
  if lc = 5 ∧ s.boot.limbo = none then .next (bootFails 0x0A s)
  else if s.boot.bootSrc = 2 then .next (bootFails 0x01 s)
  else if s.boot.bootSrc = 3 ∧ lc ≠ 0 then .next (bootFails 0x02 s)
  else if s.boot.bootSrc = 1 then
    .next ((enterPhase phPush s).mapBoot fun b => { b with loader := true, cfgReachable := true })
  else .next (enterPhase phRom s)

/-! ## Images (R77, R78, R403) -/

/-- The FAIL_CODE of an image, 0 when it boots: only the entry of the selected slot is evaluated. -/
def imageCode (s : State) (d : ImageDesc) : Nat :=
  let k := s.sec.keyIdx
  if !d.readable then 3
  else if !d.formatOk || d.slotA == d.slotB && d.slotA != 255 || (d.slotA != k && d.slotB != k) then 4
  else if revoked (fusesNow s) k || (s.fuses.slotDigests.getD k none).isNone then 5
  else if (if d.slotA = k then d.validA else d.validB) then 0 else 5

/-- The valid entries of an image, by slot. -/
def imageKeysOf (d : ImageDesc) : List (Nat × Bytes) :=
  (if d.validA && d.slotA != 255 then [(d.slotA, d.keyA)] else []) ++ (if d.validB && d.slotB != 255 then [(d.slotB, d.keyB)] else [])

/-- R403: a signature entry is valid when its slot's fused digest is its key's and its signature verifies. -/
def entryValid (f : Fuses) (hdr : Bytes) (o : Nat) : Bool :=
  let key := sliceB hdr (o + 8) 97
  (match f.slotDigests.getD (fieldB hdr o 1) none with
   | some d => d == beNat (sha384 key)
   | none => false) && ecdsaVerify key (sha384 (sliceB hdr 0 80)) (sliceB hdr (o + 112) 96)

/-- Table 16.5: an image from its 512-byte header, the bytes that follow it, and its length. -/
def parseHeader (f : Fuses) (h body : Bytes) (len : Nat) : ImageDesc :=
  let entryOk := fun (o : Nat) => fieldB h o 1 == 255 || (decide (fieldB h o 1 < 4) && zeroB h (o + 1) 7 && zeroB h (o + 105) 7)
  { readable := true,
    formatOk := fieldB h 0 4 == 0x46574744 && decide (512 + fieldB h 16 4 ≤ len) && zeroB h 20 4 && zeroB h 72 8 && zeroB h 496 16 &&
      entryOk 80 && entryOk 288 && sliceB h 24 48 == sha384 body,
    slotA := fieldB h 80 1, slotB := fieldB h 288 1,
    validA := entryValid f h 80, validB := entryValid f h 288,
    keyA := sliceB h 88 97, keyB := sliceB h 296 97,
    measurement := beNat (sha384 (sliceB h 0 80)), ifVersion := fieldB h 4 4, build := fieldB h 8 8 }

/-- An image read from host memory, at a bus address of the PF. -/
def parseImage (s : State) (addr len : Nat) : ImageDesc :=
  let h := hostRead s 0 addr 512
  parseHeader s.fuses h (hostRead s 0 (addr + 512) (min (fieldB h 16 4) 67108864)) len

/-- An image copy of the boot flash, none where the flash does not answer (R77). -/
def parseCopy (s : State) (copy : Option Bytes) : ImageDesc :=
  match copy with
  | some b => parseHeader s.fuses (b.take 512) ((b.drop 512).take (min (fieldB b 16 4) 67108864)) (min b.length 67108864)
  | none => { parseHeader s.fuses [] [] 0 with readable := false }

/-! ## The layered identity (R400, Table 16.3) -/

def ascii (l : List Nat) : Bytes := l.map fun n => BitVec.ofNat 8 n

/-- The labels of Table 16.3: DOLLOS CDI0, DEVICEID, PAIRING and ALIAS. -/
def labelCdi0 : Bytes := ascii [0x44, 0x4F, 0x4C, 0x4C, 0x4F, 0x53, 0x20, 0x43, 0x44, 0x49, 0x30]
def labelDeviceId : Bytes := ascii [0x44, 0x45, 0x56, 0x49, 0x43, 0x45, 0x49, 0x44]
def labelPairing : Bytes := ascii [0x50, 0x41, 0x49, 0x52, 0x49, 0x4E, 0x47]
def labelAlias : Bytes := ascii [0x41, 0x4C, 0x49, 0x41, 0x53]

def cdi0 (f : Fuses) : Bytes := hmac384 (natBe 32 f.uds) labelCdi0

def deviceKey (f : Fuses) : Nat := deriveScalar (cdi0 f) labelDeviceId

/-- SHA-384 of the DeviceID public key, as a number. -/
def deviceDigest (f : Fuses) : Nat := beNat (sha384 (publicKey (deviceKey f)))

/-- The alias private key: it changes with the measurement, the key index, the state and the stepping. -/
def aliasKeyOf (f : Fuses) (measurement keyIdx lc : Nat) : Nat :=
  deriveScalar (hmac384 (cdi0 f) (natBe 48 measurement ++ natLe 1 keyIdx ++ natLe 1 lc ++ natLe 1 f.stepping)) labelAlias

/-- KP, the first 32 bytes of its MAC. -/
def pairingKey (f : Fuses) : Bytes := (hmac384 (cdi0 f) labelPairing).take 32

/-- R399: the boot ROM reads the UDS rows before it locks them, and never in LIMBO. -/
def udsReadable (s : State) : Bool := !s.sec.udsLocked && s.boot.limbo.isNone

/-- R399: JTAG reads the UDS and the slot digests in UNPROVISIONED and PROVISIONED only; no other path outside the ROM reads them. -/
def jtagSecrets (s : State) : Option (Nat × List (Option Nat)) :=
  if s.boot.limbo.isNone ∧ s.sec.lc ≤ 1 then some (s.fuses.uds, s.fuses.slotDigests) else none

/-- A distinguished name, and the validity of an alias certificate: free bytes in fields of chosen length (log 113). -/
def certName (boot i : Nat) : Bytes := der 0x30 ((List.range 32).map fun j => Config.certByte boot (64 * i + j))
def certDates (boot : Nat) : Bytes :=
  der 0x30 ((List.range 2).flatMap fun i => der 0x17 ((List.range 13).map fun j => Config.certByte boot (64 * (i + 2) + j)))

/-- R400, R401: the alias certificate of a boot: the alias public key and the TcbInfo of what runs, signed with the DeviceID key. -/
def issueAlias (f : Fuses) (boot measurement keyIdx lc : Nat) : Bytes :=
  certificate (deviceKey f) (certName boot 0) (certDates boot) (certName boot 1) (publicKey (aliasKeyOf f measurement keyIdx lc))
    (derTcbInfo (natBe 48 measurement) keyIdx lc f.stepping)

/-- R400: the identity of Table 16.3 goes into the key store (KP not in RETURNED, nor in UNPROVISIONED), with this boot's alias certificate. -/
def layIdentity (measurement : Nat) (s : State) : State :=
  if !udsReadable s then s else
  let c := s.sec
  let s := putKey .deviceId (natBe 48 (deviceKey s.fuses)) s
  let s := putKey .attest (natBe 48 (aliasKeyOf s.fuses measurement c.keyIdx c.lc)) s
  let s := if c.lc != 4 && c.lc != 0 then putKey .pairing (pairingKey s.fuses) s else s
  let s := s.mapSec fun x => { x with aliasCert := issueAlias s.fuses s.clk.freeCtr measurement c.keyIdx c.lc }
  s.mapClk fun x => { x with freeCtr := x.freeCtr + 1 }

/-- R80, R399, R400: the measurement, the identity and its locks; FW_START begins. IMAGE_COPY stays as the flash boot left it when a pushed
image follows (R79; DESIGN CHOICE, log 122). -/
def acceptImage (d : ImageDesc) (s : State) : State :=
  let s := layIdentity d.measurement s
  let s := s.mapSec fun c => { c with measurement := d.measurement, imageKeys := imageKeysOf d, udsLocked := true, devLocked := true }
  let s := s.mapFw fun f => { f with image := (d.ifVersion, d.build) }
  (enterPhase phFw s).mapBoot fun b => { b with imageAccepted := true, loader := false, failCode := 0 }

/-- R406: the manufacturing path writes the UDS, the slot digests, the DeviceID certificate and the rows of PROVISIONED and FIELD. No
image starts, and the next boot is in FIELD (log 25). -/
def manufacture (m : Mfg) (s : State) : State :=
  let f := { s.fuses with uds := m.uds, udsCheck := m.check, certStore := m.certs.take 8192, slotDigests := (List.range 4).map fun i => some (m.slots.getD i 0) }
  let f := { f with deviceId := deviceDigest f }
  let f := [11, 21, 12, 22].foldl (fun f row => setRow row (max (rowCount f row) (rowGoal f row)) f) f
  s.mapFuses fun _ => f

/-- R77: copy 0 first, then copy 1; the code of a failure of both is the later cause of the two (Table 4.3). With BOOT_SRC 0b11 the
manufacturing path runs instead of a boot from flash, a torn transition or not (R79; DESIGN CHOICE, log 122). -/
def execRomLoad (copy0 copy1 : Option Bytes) (mfg : Option Mfg) (s : State) : Host.Outcome State Fault Refusal :=
  if s.boot.inReset || s.boot.phase != phRom then .next s
  else if s.boot.bootSrc = 3 then
    .next (match mfg with | some m => manufacture m s | none => s)
  else if s.boot.bootSrc != 0 then .next s
  else
    let d0 := parseCopy s copy0
    let d1 := parseCopy s copy1
    let c0 := imageCode s d0
    let c1 := imageCode s d1
    if c0 = 0 then .next (acceptImage d0 s)
    else if c1 = 0 then .next ((acceptImage d1 s).mapBoot fun b => { b with imageCopy := 1 })
    else .next (bootFails (max c0 c1) s)

/-! ## FW_START (R76, R80, R82, R418) -/

/-- The service runs: its generator has a fresh seed and its buffer is full. -/
def startService (s : State) : State :=
  fillBuffer ((seedDrbg s).mapEnt fun e => { e with state := .running, testing := false })

/-- The DRBG is instantiated once its known-answer test and a start-up test have passed. -/
def entropyStarts (katOk : Bool) (s : State) : State :=
  if !katOk then
    recordFault dEntropy 0 3 {} [] (recordFault dEntropy 0 4 {} []
      (s.mapEnt fun e => { e with state := .failed, testing := false, kat := false }))
  else
    let s := s.mapEnt fun e => { e with kat := true }
    if s.ent.testing || s.ent.state == .failed || s.ent.state == .restarting then s
    else startService s

/-- FW_START ends: the firmware runs with the configuration record of the flash (R77, log 92), BAR0 is served, configuration space is
reachable; in LIMBO start-up stops here. -/
def execFwStart (katOk : Bool) (cfg : FlashCfg) (s : State) : Host.Outcome State Fault Refusal :=
  if s.boot.inReset || s.boot.phase != phFw || !s.boot.imageAccepted then .next s else
  let s := s.mapBoot fun b => { b with fwRunning := true, cfgReachable := true, cfg := cfg }
  let s := s.mapFw fun f => { f with ifVersion := f.image.1, build := f.image.2 }
  let s := s.mapArch fun a => { a with member := 2 ^ chipId s, present := 2 ^ chipId s }
  let s := entropyStarts katOk s
  if s.boot.limbo.isSome then .next ((enterPhase phLimbo s).mapPins fun p => { p with alertLow := true })
  else .next (enterPhase phMem s)

/-- R79: the 100 ms of FW_START have passed. -/
def execFwStartTimeout (s : State) : Host.Outcome State Fault Refusal :=
  if s.boot.inReset || s.boot.phase != phFw then .next s
  else .next (bootFails 0x06 (advanceTicks (s.boot.phaseTick + 10000000) s))

/-! ## MEM_TEST (R83, R84, R137, Table 4.8) -/

/-- A unit that begins RETIRED at start-up (R458). -/
def retireAtBoot (cls idx : Nat) (s : State) : State :=
  s.mapUnits fun u => { u with recs := pSet (cls, idx) { state := 2, lastT := 0 } u.recs }

/-- Failed data banks of a segment, ascending: fused repairs, banks marked for relocation, and those the march found. -/
def segFailed (s : State) (r : MemTestResult) (g : Nat) : List Nat :=
  (List.range 32).filter fun b => s.fuses.repairs.contains (g, b) || s.units.relocPending.contains (g, b) || r.shelfFailed.contains (g, b)

/-- Spares of a segment that pass their march, and that no failure in service has marked (R138). -/
def segSpares (s : State) (r : MemTestResult) (g : Nat) : List Nat :=
  (List.range 2).filter fun x => !r.shelfFailed.contains (g, 32 + x) && !s.units.relocPending.contains (g, 32 + x)

/-- Failed banks of a segment that no spare covers. -/
def segUncovered (s : State) (r : MemTestResult) (g : Nat) : List Nat := (segFailed s r g).drop (segSpares s r g).length

/-- Step 2: spares over failing banks, relocation of the rest, 8 extents withdrawn for the largest excess. -/
def testShelf (r : MemTestResult) (s0 : State) : State :=
  let segs := List.range 64
  let s := s0.mapUnits fun u => { u with
    spareMap := segs.flatMap fun g => ((segFailed s0 r g).zip (segSpares s0 r g)).map fun p => ((g, p.1), p.2),
    sparesBad := segs.flatMap fun g => ((List.range 2).filter fun x => !(segSpares s0 r g).contains x).map fun x => (g, x),
    relocated := segs.flatMap fun g => (segUncovered s0 r g).map fun b => (g, b),
    relocPending := [],
    withdrawn := 8 * min 4 (segs.foldl (fun m g => max m (segUncovered s0 r g).length) 0) }
  segs.foldl (fun s g =>
    let s := (segUncovered s0 r g).foldl (fun s b =>
      recordFault dShelf 0 0 { unit := g, info := b } [] (retireAtBoot 1 (34 * g + b) s)) s
    if (segUncovered s0 r g).length > 4 then recordFault dShelf 0 1 { unit := g } [] s else s) s

/-- Steps 3 and 4, and the RAUs' self-test (Table 17.9). -/
def testCores (r : MemTestResult) (s : State) : State :=
  let here := fun (c : Nat) => decide (c < 64)
  let s := (r.lagoonFailed.filter here).foldl (fun s c =>
    let s := s.mapUnits fun u => { u with lagoonsOut := insNat c u.lagoonsOut }
    recordFault dCore c 1 { unit := c } [] (if unitState s 0 c = 4 then s else retireAtBoot 0 c s)) s
  let s := (r.coreFailed.filter here).foldl (fun s c =>
    if unitState s 0 c = 4 then s else recordFault dCore c 0 { unit := c } [] (retireAtBoot 0 c s)) s
  r.rauFailed.foldl (fun s u => if u < 4 then recordFault dSeal 0 2 { unit := u } [] (retireAtBoot 5 u s) else s) s

/-- Step 5. -/
def zeroOnChip (s : State) : State :=
  s.mapMems fun m => { m with ob := [], lagoon := [], shelf := [], obPoison := [], lagoonPoison := [], shelfPoison := [] }

def execMemTest (r : MemTestResult) (s : State) : Host.Outcome State Fault Refusal :=
  if s.boot.inReset || s.boot.phase != phMem then .next s
  else if !r.cpOk then .next (bootFails 0x07 s)
  else
    let s := zeroOnChip (testCores r (testShelf r s))
    if (List.range 64).all fun c => unitState s 0 c != 0 then .next (bootFails 0x08 s)
    else .next (enterPhase (if s.boot.archEn then phPort else phAlign) s)

/-! ## PORT_TRAIN and ALIGN (R85, R86, R88, R89) -/

def execPortTrain (ports : List PortTrain) (s : State) : Host.Outcome State Fault Refusal :=
  if s.boot.inReset || s.boot.phase != phPort || !s.boot.archEn then .next s
  else .next (enterPhase phAlign (ports.foldl (fun s r => trainPort r s) s))

/-- R86: alone the counter starts at once; with an aligned peer a link mark is asked for; else TIDE_SYNC is released. -/
def execAlign (s : State) : Host.Outcome State Fault Refusal :=
  if s.boot.inReset || s.boot.phase != phAlign || s.tide.aligned then .next s
  else if !s.boot.archEn then .next ((alignAt 0 false s).mapPins fun p => { p with syncHold := false })
  else if s.ports.any fun p => p.state == .active && p.peerAligned then .next (askLinkMark s)
  else
    .next (((s.mapPins fun p => { p with syncHold := false }).mapTide fun t => { t with coldWait := true }).mapBoot
      fun b => { b with alignTick := s.clk.ticks })

/-- R88: 50 ms without a mark or an answer; a link-mark request is repeated. In a cold wait ALIGN_FAIL is recorded again after every further
50 ms (DESIGN CHOICE, log 123). -/
def execAlignTimeout (s : State) : Host.Outcome State Fault Refusal :=
  if s.boot.inReset || s.tide.aligned || !(s.tide.coldWait || s.boot.alignByLink) then .next s else
  let s := advanceTicks (s.boot.alignTick + 5000000) s
  let s := recordFault dTide 0 1 {} [] s
  if s.boot.alignByLink then .next (askLinkMark s)
  else .next (s.mapBoot fun b => { b with alignTick := s.clk.ticks })

/-- R89: 100 ms after start-up stopped. -/
def execTideSyncReleaseStopped (s : State) : Host.Outcome State Fault Refusal :=
  if s.boot.inReset || s.boot.stoppedReleased || !(s.boot.phase == phPush || s.boot.phase == phLimbo || s.boot.phase == phFailed)
  then .next s
  else
    let s := advanceTicks (s.boot.phaseTick + 10000000) s
    .next ((s.mapPins fun p => { p with syncHold := false }).mapBoot fun b => { b with stoppedReleased := true })

/-! ## HBM (R90, R91) -/

/-- The pseudo-channels that fail at 8.0 Gb/s, and stacks with none left, are retired. -/
def retireHbm (failedStacks failedPcs : List Nat) (s : State) : State :=
  failedStacks.foldl (fun s st =>
    let bad := (List.range 64).filter fun p => failedPcs.contains (64 * st + p)
    let s := bad.foldl (fun s p => retireAtBoot 2 (64 * st + p) s) s
    if bad.length = 64 then
      recordFault dHbm 0 1 { info := st } [] (s.mapUnits fun u => { u with stacksOut := insNat st u.stacksOut })
    else bad.foldl (fun s p => recordFault dHbm 0 0 { unit := 64 * st + p } [] s) s) s

/-- R90: one attempt of all stacks at one bin ends. -/
def execHbmTrain (failedStacks failedPcs : List Nat) (s : State) : Host.Outcome State Fault Refusal :=
  if s.boot.inReset || s.boot.phase != phHbm || s.boot.bin != 0 then .next s else
  let bin := match s.boot.trialBin with | some b => b | none => min s.fuses.binRating s.boot.cfg.binCap
  let failed := (List.range 8).filter fun st => failedStacks.contains st
  if failed.isEmpty then .next (s.mapBoot fun b => { b with bin := bin })
  else if bin > 0x50 then .next (s.mapBoot fun b => { b with trialBin := some (bin - 10) })
  else
    let s := retireHbm failed failedPcs s
    if stacksInService s = 0 then .next (bootFails 0x09 s) else .next (s.mapBoot fun b => { b with bin := bin })

/-- R91: every page reads zero and none as poisoned, those of a stack that had stopped answering included. -/
def execHbmZero (s : State) : Host.Outcome State Fault Refusal :=
  if s.boot.inReset || s.boot.phase != phHbm || s.boot.bin == 0 then .next s
  else .next ((s.mapMems fun m => { m with hbm := [], hbmPoison := [], stackFail := [] }).mapBoot fun b => { b with phaseDone := true })

/-! ## READY (R92, R93, R373, R414) -/

/-- R186: a slot changes state: a CART_SLOT event to the PF and to every isle with quota on the slot. -/
def setCayState (i : Nat) (st : CayState) (s : State) : State :=
  if (s.caySlot i).state = st then s else
  let s := s.mapCay i fun c => { c with state := st }
  let s := postEvent 0 .sOk 0 6 i (cayStateCode st) 0 s
  (List.range 32).foldl (fun s k =>
    if k ≠ 0 ∧ (s.isle k).grant.cay.getD i 0 ≠ 0 then postEvent k .sOk 0 6 i (cayStateCode st) 0 s else s) s

/-- Bring-up step 1 of Table 4.10: a cartridge is seated; the 100 ms count from now. -/
def startBringup (i : Nat) (s : State) : State :=
  setCayState i .bringup (s.mapCay i fun c => { c with step := 1, stepTick := s.clk.ticks, authOnly := false })

/-- CAY_PWR_EN of a slot, and its reference clock with it (R45, Table 4.10 step 2). -/
def cayPower (i : Nat) (on : Bool) (s : State) : State :=
  s.mapPins fun p => { p with cayPwr := setAt p.cayPwr i fun _ => on, cayRefclk := setAt p.cayRefclk i fun _ => on }

/-- CAY_PERST_N of a slot goes low, and its power with it. -/
def cayDown (i : Nat) (s : State) : State := cayPower i false (s.mapPins fun p => { p with cayPerst := setAt p.cayPerst i fun _ => false })

/-- Isle 0's first keys: at READY, or later when the service is not able to give them. RETURNED draws none (Table 16.6). -/
def isle0Keys (s : State) : State :=
  if s.sec.lc = 4 then s else
  match entAsk 48 (.isle0Keys 48) s with
  | (.got, s) => drawKeys 0 s
  | (_, s) => s

/-- R92: at the end of HBM_TRAIN. -/
def execReady (s : State) : Host.Outcome State Fault Refusal :=
  if s.boot.inReset || s.boot.phase != phHbm || !s.boot.phaseDone then .next s else
  let s := enterPhase phReady s
  let s := s.mapPins fun p => { p with readyLow := !(anyFatal s || s.halt.isSome) }
  let s := s.mapEnt fun e => { e with restarts := 0 }
  let s := isle0Keys (s.mapIsle 0 fun r => { r with state := .enabled, target := .enabled })
  let s := raiseFloor (isleStateEvent 0 .sOk (isleStateCode .enabled) (tideNow s) s)
  .next ((List.range 2).foldl (fun s i => if s.pins.cayPrsnt.getD i true then s else startBringup i s) s)

/-! ## The loader (R79) -/

/-- R79: the pushed image has been read, or the host read failed. -/
def execPushTransferDone (readOk : Bool) (s : State) : Host.Outcome State Fault Refusal :=
  if s.boot.inReset || !s.boot.loader || s.boot.pushStatus != 1 then .next s
  else .next (s.mapBoot fun b => { b with pushStatus := if readOk then 2 else 0x11 })

/-- R79: accepted and FW_START begins, or rejected with IMAGE_FORMAT or SIGNATURE and the loader stays. -/
def execPushVerifyDone (s : State) : Host.Outcome State Fault Refusal :=
  if s.boot.inReset || !s.boot.loader || s.boot.pushStatus != 2 then .next s else
  let s := hostTouch 0 s.boot.push.1 s.boot.push.2 s
  let img := parseImage s s.boot.push.1 s.boot.push.2
  let c := imageCode s img
  if c = 0 then .next ((acceptImage img s).mapBoot fun b => { b with pushStatus := 3 })
  else .next (s.mapBoot fun b => { b with pushStatus := 0x12, failCode := c })

/-- Table 4.6: a doorbell for slot 0 of the loader starts the command that the slot holds. -/
def loaderCommand (h : Hdr) (payload : Bytes) (s : State) : State :=
  if s.boot.pushStatus = 1 ∨ s.boot.pushStatus = 2 then s
  else if h.opcode ≠ 0x0C00 then s.mapBoot fun b => { b with pushStatus := 0x13 }
  else
    let a := fieldB payload 0 8
    let n := fieldB payload 8 4
    if a % 4096 ≠ 0 ∨ n = 0 ∨ n > 67108864 ∨ fieldB payload 12 4 ≠ 0 ∨ h.flags / 4 ≠ 0 ∨ h.res0 ≠ 0 ∨ h.res1 ≠ 0 then s.mapBoot fun b => { b with pushStatus := 0x10 }
    else s.mapBoot fun b => { b with pushStatus := 1, push := (a, n) }

/-- The mailbox command's own row: the loader alone accepts it; running firmware knows no such opcode (Table 4.6). -/
def loaderServes (s : State) (fn slot : Nat) : Bool := s.boot.loader && !s.boot.inReset && fn == 0 && slot == 0

/-! ## Configuration requests (R81, R97) -/

/-- The double word at an offset of the PF's standard header: the identifiers of Table 5.1, BAR0 as 64-bit memory of 1 MiB, and no other
BAR; the Interrupt Pin is 0, as there is no INTx. What the others read is PCI Express's, a free value here (log 22). -/
def cfgRead (off : Nat) (s : State) : Nat × State :=
  match off with
  | 0x00 => (0x0D011D7A, s)
  | 0x08 => (0x12000000 + s.fuses.stepping, s)
  | 0x10 => (s.pcie.bar0 % 2 ^ 32 + 4, s)
  | 0x14 => (s.pcie.bar0 / 2 ^ 32, s)
  | 0x18 | 0x1C | 0x20 | 0x24 => (0, s)
  | 0x3C => let (v, s) := drawNat s; (v % 2 ^ 8 + v / 2 ^ 16 % 2 ^ 16 * 2 ^ 16, s)
  | _ => let (v, s) := drawNat s; (v % 2 ^ 32, s)

/-- The same of a VF, which shares the PF's Vendor ID, revision and class (Table 5.1). -/
def cfgReadVf (fn off : Nat) (s : State) : Nat × State :=
  let there := s.pcie.vfEnable && decide (0 < fn) && decide (fn ≤ s.pcie.numVFs)
  match there, off with
  | true, 0x00 => (0x0D021D7A, s)
  | true, 0x08 => (0x12000000 + s.fuses.stepping, s)
  | _, _ => let (v, s) := drawNat s; (v % 2 ^ 32, s)

/-- BAR0 takes a base aligned to its size, half by half. -/
def cfgWrite (off v : Nat) (p : Pcie) : Pcie :=
  match off with
  | 0x10 => { p with bar0 := p.bar0 / 2 ^ 32 * 2 ^ 32 + v % 2 ^ 32 / 2 ^ 20 * 2 ^ 20 }
  | 0x14 => { p with bar0 := v % 2 ^ 32 * 2 ^ 32 + p.bar0 % 2 ^ 32 }
  | _ => p

/-- Table 5.1: what a capability's field tells; the link's are its greatest rate in GT/s and its width, and 0 stands for a feature that is
not supported. -/
def cfgReg (s : State) : CfgReg → Nat
  | .totalVFs => 31 | .firstVfOffset => 1 | .vfStride => 1 | .vfDeviceId => 0x0D02
  | .numVFs => s.pcie.numVFs | .vfEnable => s.pcie.vfEnable.toNat
  | .bar0Size => 0x100000 | .vfBar0Size => 0x100000 | .pfVectors => 256 | .vfVectors => 64
  | .maxPayload => 512 | .maxReadRequest => 4096 | .tagBits => 10 | .atsEnable fn => (s.func fn).atsEnable.toNat
  | .linkSpeed => 64 | .linkWidth => 16 | .flitMode => 1 | .errorReporting => 1
  | .msi => 0 | .intx => 0 | .pri => 0 | .pasid => 0

/-- R81: a request shows the link trained; Retry Status until configuration space is reachable. NumVFs takes no write while VF Enable is
set (SR-IOV). -/
def execConfigRequest (req : CfgReq) (s : State) : Host.Outcome State Fault Refusal :=
  if s.boot.inReset then .next s else
  let s := { s with pcie := { s.pcie with linkUp := true } }
  if !s.boot.cfgReachable then .next (s.emit (.config none))
  else match req with
    | .read off => .next ((cfgRead off s).2.emit (.config (some (cfgRead off s).1)))
    | .readVf fn off => .next ((cfgReadVf fn off s).2.emit (.config (some (cfgReadVf fn off s).1)))
    | .write off v => .next ({ s with pcie := cfgWrite off v s.pcie }.emit (.config (some 0)))
    | .register r => .next (s.emit (.config (some (cfgReg s r))))
    | .setNumVFs n => .next ({ s with pcie := if s.pcie.vfEnable || n > 31 then s.pcie else { s.pcie with numVFs := n } }.emit (.config (some 0)))
    | .setVfEnable on =>
      if on then .next ({ s with pcie := { s.pcie with vfEnable := true } }.emit (.config (some 0)))
      else .next ((if s.pcie.vfEnable then clearVfs s else s).emit (.config (some 0)))
    | .setAts fn on => .next ((s.mapFunc fn fun f => { f with atsEnable := on }).emit (.config (some 0)))

end Sys2Proof.Machine
end

