-- ==== Sys2Proof/Machine/HostReg.lean ====
section
/-! DEFINITION. Chapter 5: writes to BAR0, interrupts, resets of functions, host faults, the end of scrubs, streams and firmware
images (R96 to R123, R471, R472, R483). -/

namespace Sys2Proof.Machine

/-! ## BAR0 writes (R99, R101, R483) -/

/-- A function whose BAR0 takes writes from running firmware. -/
def barLive (s : State) (fn : Nat) : Bool := fnAlive s fn

/-- The bits of the bytes lo to lo + n - 1 of v, a value placed at byte lo, over the old number. -/
def mergeBytes (old lo n v : Nat) : Nat :=
  let m := 2 ^ (8 * lo)
  old % m + v % 2 ^ (8 * n) * m + old / (m * 2 ^ (8 * n)) * (m * 2 ^ (8 * n))

/-- MBX_CQ_BASE: ADDR holds while ENABLE is 1; setting ENABLE resets HEAD and TAIL and lets what is held be written (R105). -/
def writeCqBase (fn lo n v : Nat) (s : State) : State :=
  let f := s.func fn
  let w := mergeBytes (cqBaseReg f) lo n v
  let on := w.testBit 0
  let s := s.mapFunc fn fun f => { f with
    cqBase := if f.cqEnable then f.cqBase else w % 2 ^ 64 / 4096 * 4096, cqEnable := on,
    head := if on && !f.cqEnable then 0 else f.head, tail := if on && !f.cqEnable then 0 else f.tail,
    unread := if on && !f.cqEnable then 0 else f.unread }
  if on && !f.cqEnable then drainEnabled fn s else s

def writeCqShadow (fn lo n v : Nat) (s : State) : State :=
  s.mapFunc fn fun f =>
    let w := mergeBytes (cqShadowReg f) lo n v
    { f with cqShadow := if f.shadowEnable then f.cqShadow else w % 2 ^ 64 / 8 * 8, shadowEnable := w.testBit 0 }

/-- MBX_CQ_HEAD: beyond TAIL it sets HOST_ACCESS and the ring counts as empty there; else entries are released and those that wait
are written (R103, R105). -/
def writeHead (fn v : Nat) (s : State) : State :=
  let f := s.func fn
  let v := v % 256
  let n := (v + 256 - f.head) % 256
  let beyond := decide (f.unread < n)
  let s := if beyond then recordFault dHost 0 0 {} [isleOf fn] s else s
  drainRing 256 fn (s.mapFunc fn fun f => { f with head := v, unread := if beyond then 0 else f.unread - n })

/-- IRQ_CAUSE, write 1 to clear; CQ_HELD sets again at once while entries wait (R105, R117). -/
def clearCause (fn bits : Nat) (s : State) : State :=
  let s := s.mapFunc fn fun f => { f with irqCause := natMask ((List.range 6).filter fun b => f.irqCause.testBit b && !bits.testBit b) }
  let f := s.func fn
  if bits.testBit 1 && !(f.heldComps.isEmpty && f.heldEvents.isEmpty) then setCause fn 1 s else s

/-- IRQ_MASK: a cause unmasked while set raises its message (R117). -/
def writeMask (fn v : Nat) (s : State) : State :=
  let f := s.func fn
  let v := v % 64
  let raised := (List.range 6).filter fun b => f.irqCause.testBit b && f.irqMask.testBit b && !v.testBit b
  raised.foldl (fun s b => sendVector fn (causeVector b) s) (s.mapFunc fn fun f => { f with irqMask := v })

/-- Messages of pending vectors that are no longer masked (R117). -/
def flushVectors (fn : Nat) (s : State) : State :=
  let f := s.func fn
  if f.msixFnMask then s else
  let due := f.msixPending.filter fun v => f.msixUnmasked.contains v
  due.foldl (fun s v => s.emit (.msix fn v)) (s.mapFunc fn fun f => { f with msixPending := f.msixPending.filter fun v => !due.contains v })

def setVectorMask (fn v : Nat) (mask : Bool) (s : State) : State :=
  flushVectors fn (s.mapFunc fn fun f => { f with
    msixUnmasked := if mask then f.msixUnmasked.filter (· != v) else insNat v f.msixUnmasked })

/-- n bytes (1 to 4, within one 4-byte register) at an offset; wide says that the access writes the whole register. -/
def regPut (fn off n v : Nat) (wide : Bool) (s : State) : State :=
  let f := s.func fn
  let lo := off % 4
  let w := off - lo
  if 0x1000 ≤ w ∧ w < 0x2000 then
    if f.doorbells.contains ((off - 0x1000) / 256) then s
    else s.mapFunc fn fun f => { f with slots := Memory.writeN f.slots (off - 0x1000) (natLe n v) }
  else if 0x6000 ≤ w ∧ w < 0x6000 + 16 * vectors fn then
    if w % 16 = 12 then (if lo = 0 then setVectorMask fn ((w - 0x6000) / 16) (v.testBit 0) s else s)
    else s.mapFunc fn fun f => { f with msixTable := Memory.writeN f.msixTable (off - 0x6000) (natLe n v) }
  else match w with
  | 0x2000 => if wide then ringDoorbell fn (v % 16) s else s
  | 0x2008 => s.mapFunc fn fun f => { f with
      mbxErr := natMask ((List.range 2).filter fun b => f.mbxErr.testBit b && !(v * 2 ^ (8 * lo)).testBit b) }
  | 0x2010 => writeCqBase fn lo n v s
  | 0x2014 => writeCqBase fn (4 + lo) n v s
  | 0x2018 => writeCqShadow fn lo n v s
  | 0x201C => writeCqShadow fn (4 + lo) n v s
  | 0x2020 => if lo = 0 then writeHead fn v s else s
  | 0x3000 => if lo = 0 then clearCause fn (v % 256) s else s
  | 0x3004 => if lo = 0 then writeMask fn v s else s
  | _ => s

/-- A stopped start-up's loader takes slot 0 and MBX_DOORBELL alone (R79). -/
def loaderPut (off size v : Nat) (s : State) : State :=
  if 0x1000 ≤ off ∧ off < 0x1100 then
    s.mapFunc 0 fun f => { f with slots := Memory.writeN f.slots (off - 0x1000) (natLe size v) }
  else if off = 0x2000 ∧ 4 ≤ size ∧ v % 2 ^ 32 = 0 then
    let h := slotHdr (s.func 0) 0
    loaderCommand h (slotBytes (s.func 0) 0 32 16) s
  else s

/-- R483: a write of 1, 2, 4 or 8 bytes at a multiple of its size. The stream doorbells are DB_STREAM's (R472). The two halves of
MBX_CQ_BASE and of MBX_CQ_SHADOW are one register: 8 bytes write it at once. -/
def barWrite (fn off size v : Nat) (s : State) : State :=
  if ¬ (size = 1 ∨ size = 2 ∨ size = 4 ∨ size = 8) ∨ off % size ≠ 0 then s
  else if s.boot.loader && !s.boot.fwRunning then (if fn = 0 ∧ !s.boot.inReset then loaderPut off size v s else s)
  else if !barLive s fn then s
  else if size < 8 then regPut fn off size v (size == 4) s
  else match off with
    | 0x2010 => writeCqBase fn 0 8 v s
    | 0x2018 => writeCqShadow fn 0 8 v s
    | _ => regPut fn (off + 4) 4 (v / 2 ^ 32) true (regPut fn off 4 (v % 2 ^ 32) true s)

/-- A write of MBX_CQ_BASE that the host makes to enable the ring (R105). -/
def execCqEnable (fn value : Nat) (s : State) : Host.Outcome State Fault Refusal := .next (barWrite fn 0x2010 8 value s)

def execCqHeadWrite (fn value : Nat) (s : State) : Host.Outcome State Fault Refusal := .next (barWrite fn 0x2020 4 value s)

def execIrqCauseClear (fn value : Nat) (s : State) : Host.Outcome State Fault Refusal := .next (barWrite fn 0x3000 4 value s)

def execIrqMaskWrite (fn value : Nat) (s : State) : Host.Outcome State Fault Refusal := .next (barWrite fn 0x3004 4 value s)

/-- A function whose BAR0 answers reads: the PF once configuration space is reachable, a VF that is enabled. -/
def barReadable (s : State) (fn : Nat) : Bool :=
  !s.boot.inReset && s.boot.cfgReachable &&
    (fn == 0 || (fn < 32 && s.boot.fwRunning && s.pcie.vfEnable && decide (fn ≤ s.pcie.numVFs)))

/-- R55: a 4-byte read of TIDE_COUNT_LO fills the function's shadow, unless a reset holds its registers (R119). -/
def execTideCountLoRead (fn : Nat) (s : State) : Host.Outcome State Fault Refusal :=
  if !barReadable s fn then .next s
  else if (s.func fn).flr.isSome then .next (s.emit (.regRead fn (barRead s fn 0x4000 4)))
  else .next ((s.mapFunc fn fun f => { f with tideShadow := highHalf s.tide.count }).emit (.regRead fn (barRead s fn 0x4000 4)))

/-- R117: MSI-X masks change; what was pending and is unmasked now is sent. A function in reset takes no write (R119). -/
def execMsixMaskChange (fn vector : Nat) (mask functionMask : Bool) (s : State) : Host.Outcome State Fault Refusal :=
  if !barReadable s fn || (s.func fn).flr.isSome then .next s
  else .next (setVectorMask fn vector mask (s.mapFunc fn fun f => { f with msixFnMask := functionMask }))

/-! ## Resets (R96, R119, R120, R380, R445) -/

/-- R119; before READY nothing beyond the function changes (R82). -/
def execFlrVf (vf : Nat) (s : State) : Host.Outcome State Fault Refusal :=
  if s.boot.inReset || !s.boot.fwRunning || vf == 0 || !vfAllows s vf then .next s else
  let s := resetFunc vf true s
  .next (if isReady s then resetIsle vf .enabled true s else s)

/-- R119: at most 100 ms after the reset arrived. -/
def execFlrComplete (fn : Nat) (s : State) : Host.Outcome State Fault Refusal :=
  .next (s.mapFunc fn fun f => { f with flr := none })

def execFlrPf (s : State) : Host.Outcome State Fault Refusal := .next (pfResetNow s)

/-- R96: as a PF Function Level Reset. -/
def execHotReset (s : State) : Host.Outcome State Fault Refusal := .next (pfResetNow s)

def execSurpriseDown (s : State) : Host.Outcome State Fault Refusal :=
  if s.boot.inReset || !s.boot.fwRunning || !s.pcie.linkUp then .next s else
  let s := { s with pcie := { s.pcie with linkUp := false } }
  .next (pfResetNow (recordFault dHost 0 2 {} [0] s))

def execVfEnableClear (s : State) : Host.Outcome State Fault Refusal :=
  if s.pcie.vfEnable && !s.boot.inReset then .next (clearVfs s) else .next s

/-! ## Host faults (R98, R445, Table 5.13) -/

def mapStream (k h : Nat) (f : Stream → Stream) (s : State) : State := s.mapIsle k fun r => { r with streams := aMod h f r.streams }

/-- A STREAM event (type 4), with its reason kept for STREAM_QUERY. -/
def streamEvent (k h reason : Nat) (st : Status) (count tide : Nat) (s : State) : State :=
  postEventAt tide k st reason 4 h count 0 (mapStream k h (fun x => { x with reasons := setBit x.reasons reason }) s)

/-- A host access for a stream failed: reason 4, and the stream stops until it is destroyed. -/
def streamStops (fn h : Nat) (s : State) : State :=
  match aGet (s.isle fn).streams h with
  | none => s
  | some x => streamEvent fn h 4 .eFault (if x.dirOut then x.producer else x.consumer) (tideNow s)
      (mapStream fn h (fun x => { x with stopped := true }) s)

/-- A failed access of an object of a function: HOST_ACCESS, and a stream stops. For the completion ring and the tail shadow the spec
names no further error (log 95). -/
def hostFault (fn : Nat) (objs : List HostObj) (s : State) : State :=
  objs.foldl (fun s o => match o with | .stream h => streamStops fn h s | _ => s) (recordFault dHost 0 0 {} [isleOf fn] s)

/-- The access of a command fails when the command executes (withHost). -/
def commandFault (fn tag : Nat) (s : State) : State := s.mapFunc fn fun f => { f with failTags := insNat tag f.failTags }

def execHostAccessFail (fn : Nat) (obj : HostObj) (s : State) : Host.Outcome State Fault Refusal :=
  if s.boot.inReset || !s.boot.fwRunning then .next s else .next (match obj with
    | .command tag => commandFault fn tag s
    | _ => hostFault fn [obj] s)

/-- Page p lies among n bytes from bus address a. -/
def pageOf (p a n : Nat) : Bool := decide (a / 4096 ≤ p) && decide (p ≤ (a + n - 1) / 4096)

/-- The objects of a function that use a page of its bus addresses. -/
def pageUsers (s : State) (fn p : Nat) : List HostObj :=
  let f := s.func fn
  (((s.isle fn).streams.filter fun x => pageOf p x.2.ring (x.2.entries * 2 ^ x.2.slotLog2) || pageOf p x.2.shadow 8).map fun x => .stream x.1) ++
    (if f.cqEnable && pageOf p f.cqBase 8192 then [.ring] else []) ++ (if f.shadowEnable && pageOf p f.cqShadow 4 then [.shadow] else [])

/-- R98: the translation is dropped; an object that still uses the page re-requests it, and a refused request is a failed access. -/
def execAtsInvalidate (fn page : Nat) (reRequestOk : Bool) (s : State) : Host.Outcome State Fault Refusal :=
  if s.boot.inReset || !s.boot.fwRunning || !(s.func fn).atsEnable then .next s else
  let u := s.mapMems fun m => { m with ats := m.ats.filter fun x => x != fn * 2 ^ 52 + page }
  if (pageUsers s fn page).isEmpty then .next u
  else if reRequestOk then .next (hostTouch fn (page * 4096) 4096 u)
  else .next (hostFault fn (pageUsers s fn page) u)

def execTlpError (s : State) : Host.Outcome State Fault Refusal :=
  if s.boot.inReset || !s.boot.fwRunning then .next s else .next (recordFault dHost 0 1 {} [] s)

/-! ## The end of scrubs (R151, R379) -/

/-- Units whose scrub has ended are free to allocate. -/
def dropScrubs (s : State) : State :=
  s.mapUnits fun u => { u with scrubs := u.scrubs.filter fun j => tideNow s < j.endTick }

/-- A SCRUBBING isle reaches its target at s; otherwise the scrub that ends next has ended. -/
def execScrubEnd (isle : Nat) (s : State) : Host.Outcome State Fault Refusal :=
  if !counting s || s.halt.isSome then .next s
  else if (s.isle isle).state = .scrubbing then
    let s := advanceCount (s.isle isle).scrubEnd s
    if (s.isle isle).keysHeld then .next (dropScrubs s) else .next (dropScrubs (scrubDone isle s))
  else match (scrubbing s).map fun j => j.endTick with
    | [] => .next s
    | t :: ts => .next (dropScrubs (advanceCount (ts.foldl min t) s))

/-! ## Streams (R113, Table 5.11) -/

def vectorOk (fn v : Nat) : Bool := v == 0xFFFF || (decide (2 ≤ v) && decide (v < vectors fn))

def powerOfTwo (n : Nat) : Bool := (List.range 64).any fun i => n == 2 ^ i

def streamArgs (_ : State) (fn : Nat) (c : Cmd) : Bool :=
  let p := c.payload
  let n := fieldB p 16 4
  fieldB p 0 8 % 4096 == 0 && fieldB p 8 8 % 8 == 0 && decide (64 ≤ n) && decide (n ≤ 65536) && powerOfTwo n &&
  decide (fieldB p 20 1 ≤ 1) && decide (7 ≤ fieldB p 21 1) && decide (fieldB p 21 1 ≤ 12) && vectorOk fn (fieldB p 22 2) &&
  decide (fieldB p 24 1 ≤ 1) && !(fieldB p 20 1 == 1 && fieldB p 24 1 == 1) && zeroB p 25 7

def runStreamCreate (fn : Nat) (c : Cmd) (tide : Nat) (s : State) : State :=
  let k := isleOf fn
  let p := c.payload
  match aFree (s.isle k).streams (s.isle k).grant.streams with
  | none => finishAt tide fn c.seq .eNores 0 {} s
  | some h =>
    let x : Stream := { ring := fieldB p 0 8, shadow := fieldB p 8 8, entries := fieldB p 16 4, dirOut := fieldB p 20 1 == 1,
                        slotLog2 := fieldB p 21 1, vector := fieldB p 22 2, irqOnConsume := fieldB p 24 1 == 1 }
    finishAt tide fn c.seq .sOk 0 { w0 := h } (s.mapIsle k fun r => { r with streams := aSet h x r.streams })

def specStreamCreate : CmdSpec :=
  { opcode := 0x0480, plen := plenIs 32, args := streamArgs, memUse := true, run := runStreamCreate }

/-- A live stream handle in bytes 3:0. -/
def streamAuth (s : State) (fn : Nat) (c : Cmd) : Bool := (aGet (s.isle (isleOf fn)).streams (fieldB c.payload 0 4)).isSome

def streamOf (s : State) (fn : Nat) (c : Cmd) : Stream := (aGet (s.isle (isleOf fn)).streams (fieldB c.payload 0 4)).getD {}

def runStreamDestroy (fn : Nat) (c : Cmd) (tide : Nat) (s : State) : State :=
  finishAt tide fn c.seq .sOk 0 {} (s.mapIsle (isleOf fn) fun r => { r with streams := aDel r.streams (fieldB c.payload 0 4) })

def specStreamDestroy : CmdSpec :=
  { opcode := 0x0481, plen := plenIs 8, auth := streamAuth, args := fun _ _ c => zeroB c.payload 4 4, memUse := true, boundary := true,
    pre := fun s fn c => if (streamOf s fn c).bound.isSome then some (.eState, 0) else none,
    handle := fun p => some (4, fieldB p 0 4), run := runStreamDestroy }

def runStreamQuery (fn : Nat) (c : Cmd) (tide : Nat) (s : State) : State :=
  let x := streamOf s fn c
  finishAt tide fn c.seq .sOk 0
    { w0 := x.producer, w1 := x.consumer, w2 := x.bound.getD 0xFFFFFFFF, w3 := x.reasons } s

def specStreamQuery : CmdSpec :=
  { opcode := 0x0482, plen := plenIs 8, auth := streamAuth, args := fun _ _ c => zeroB c.payload 4 4,
    handle := fun p => some (4, fieldB p 0 4), run := runStreamQuery }

/-! ## Firmware (R121 to R123) -/

/-- The image is read from host memory: S_PENDING, then its verification ends the command. That the entry S_PENDING comes first is the
model's choice (log 95). -/
def runFwStage (fn : Nat) (c : Cmd) (tide : Nat) (s : State) : State := pendAt tide fn c.seq s

/-- The transfer of a staged image has ended (R122, R403). -/
def fwStageDone (fn : Nat) (c : Cmd) (ok : Bool) (s : State) : State :=
  if !ok then finish fn c.seq .eFault 0 {} (recordFault dHost 0 0 {} [isleOf fn] s) else
  let s := hostTouch fn (fieldB c.payload 0 8) (fieldB c.payload 8 4) s
  let d := parseImage s (fieldB c.payload 0 8) (fieldB c.payload 8 4)
  if imageCode s d ≠ 0 then finish fn c.seq .eDenied 0 {} s else
  let s := s.mapFw fun f => { f with staged := some (d.ifVersion, d.build, d.measurement), stagedKeys := imageKeysOf d }
  finish fn c.seq .sOk 0 { w0 := d.ifVersion, w1 := lowHalf d.build, w2 := highHalf d.build } s

def specFwStage : CmdSpec :=
  { opcode := 0x0C01, pfOnly := true, plen := plenIs 16,
    args := fun _ _ c => fieldB c.payload 0 8 % 4096 == 0 && decide (1 ≤ fieldB c.payload 8 4) &&
      decide (fieldB c.payload 8 4 ≤ 67108864) && zeroB c.payload 12 4,
    run := runFwStage }

/-- This chip is a member too: without a staged image it does not confirm (R122). -/
def runFwActivate (fn : Nat) (c : Cmd) (tide : Nat) (s : State) : State :=
  match s.fw.staged, chooseT s (fieldB c.payload 0 8) with
  | some _, some t => propose t .fwActivate (some (fn, c.seq)) s
  | none, _ => finishAt tide fn c.seq .eRetry 0 {} s
  | _, none => finishAt tide fn c.seq .eBadarg 0 {} s

def specFwActivate : CmdSpec :=
  { opcode := 0x0C02, pfOnly := true, plen := plenIs 8,
    args := fun s _ c => (chooseT s (fieldB c.payload 0 8)).isSome,
    pre := fun s _ _ => match s.fw.staged with
      | some v => if v.1 / 65536 ≠ s.fw.ifVersion / 65536 then some (.eState, 0) else none
      | none => none,
    run := runFwActivate }

/-- Table 5.18 at T: commands doorbelled and not started are returned, the versions change, every function is told. Descriptor emission
pauses for the whole 200,000 ticks that R123 allows at most (DESIGN CHOICE, log 124). -/
def applyFwActivate (t : Nat) (s : State) : State :=
  match s.fw.staged with
  | none => s
  | some v =>
    let s := (List.range 32).foldl (fun s fn => retryWaiting fn s) s
    let s := s.mapSec fun x => { x with imageKeys := s.fw.stagedKeys }
    let s := s.mapFw fun f => { f with
      ifVersion := v.1, build := v.2.1, image := (v.1, v.2.1), staged := none, stagedKeys := [], emitPauseUntil := t + 200000 }
    (List.range 32).foldl (fun s fn =>
      if fn ≠ 0 ∧ !fnAlive s fn then s else
      setCause fn 5 (postEventAt t fn .sOk 0 3 v.1 (lowHalf v.2.1) (highHalf v.2.1) s)) s

end Sys2Proof.Machine
end

