-- ==== Sys2Proof/Machine/Service.lean ====
section
/-! DEFINITION. Chapter 18: retiring and returning units, the patrols and their thresholds (with R138, R163 to R167), the fatal
sequence, and the fault commands (R444 to R463). -/

namespace Sys2Proof.Machine

/-! ## Units and the isles that use them -/

/-- Isles whose work runs on a core: its owner, or the members of the pool that holds it. -/
def islesOnCore (s : State) (c : Nat) : List Nat :=
  (List.range 32).filter fun k => (s.isle k).grant.cores.testBit c || (s.pool.cores.testBit c && poolMember s k) ||
    (s.isle k).extraLagoons.contains c

/-- Isles that hold frames on a pseudo-channel. -/
def islesOnPc (s : State) (p : Nat) : List Nat :=
  (List.range 32).filter fun k => ((s.isle k).frames.flatten ++ (s.isle k).tableFrames).any fun f => f % 512 == p

/-- Isles that hold shelf extents: every extent spans every segment. -/
def islesOnShelf (s : State) : List Nat := (List.range 32).filter fun k => !(s.isle k).extents.flatten.isEmpty

/-- A free spare of a segment: it passed its march, is in service, and replaces no bank nor is about to. -/
def freeSpare (s : State) (seg : Nat) : Option Nat :=
  (List.range 2).find? fun x => !s.units.sparesBad.contains (seg, x) && unitState s 1 (34 * seg + 32 + x) == 0 &&
    !(s.units.spareMap.any fun e => e.1.1 == seg && e.2 == x) &&
    !s.units.jobs.any fun j => j.cls == 1 && j.idx / 34 == seg && j.targets.any fun t => t.2 == x

def mapJob (cls idx : Nat) (f : UnitJob → UnitJob) (s : State) : State :=
  s.mapUnits fun u => { u with jobs := u.jobs.map fun j => if j.cls = cls ∧ j.idx = idx then f j else j }

def findJob (s : State) (cls idx : Nat) : Option UnitJob := s.units.jobs.find? fun j => j.cls == cls && j.idx == idx

def dropJob (cls idx : Nat) (s : State) : State :=
  s.mapUnits fun u => { u with jobs := u.jobs.filter fun j => !(j.cls == cls && j.idx == idx) }

/-- Final completion of the command that asked for a retirement or return. -/
def jobEnds (j : UnitJob) (tide : Nat) (st : Status) (detail : Nat) (w : Words) (s : State) : State :=
  match j.cmd with
  | some (fn, seq) => finishAt tide fn seq st detail w s
  | none => s

/-- Agree T for a job: the requested one while it is still far enough away, else the earliest. -/
def agreeJob (j : UnitJob) (s : State) : State :=
  let t := max j.reqT (earliestT s (tideNow s))
  let s := mapJob j.cls j.idx (fun j => { j with t := some t }) s
  propose t (if j.ret then .unitReturn j.cls j.idx else .unitRetire j.cls j.idx) j.cmd s

/-! ## Starting a retirement (R456, Table 7.4) -/

/-- Free frames of the retirement reserve: rows 382 and 383, ascending, then what refilled it (R158, R167). -/
def reserveFree (s : State) : List Nat :=
  let taken := framesTaken s
  (((List.range 1024).map fun i => 382 * 512 + i) ++ s.units.reserveExtra).filter fun f => pcAllocates s (f % 512) && !taken.contains f

/-- Target frames for n frames: the retirement reserve's, then free ones (Table 7.4). -/
def targetFrames (s : State) (n : Nat) : List Nat :=
  let l := (reserveFree s).take n
  l ++ ((placeFrames s (n - l.length) 0 (framesBusy s)).getD [])

/-- The in-use frames of a pseudo-channel: the isles', those that await their scrub, and the firmware's own (R158, Table 7.4). -/
def framesOn (s : State) (p : Nat) : List Nat :=
  (framesHeld s ++ ((scrubbing s).flatMap fun j => j.frames) ++ (List.range 512).map fun f => rowZeroAt s f).filter fun f => f % 512 == p

/-- The retirement of a unit begins; none of the same class is in progress. -/
def startRetire (cls idx reqT : Nat) (cmd : Option (Nat × Nat)) (s : State) : State :=
  let j : UnitJob := { cls := cls, idx := idx, since := tideNow s, reqT := reqT, cmd := cmd }
  let add := fun (j : UnitJob) (s : State) => s.mapUnits fun u => { u with jobs := u.jobs ++ [j] }
  if cls = 2 then
    let s1 := setUnitState 2 idx 1 (tideNow s) s
    let mine := framesOn s idx
    let tg := targetFrames s1 mine.length
    if tg.length < mine.length then
      let s := setUnitState 2 idx 0 (tideNow s) s1
      jobEnds j (tideNow s) .eState 0 {} (recordFault dHbm 0 4 { unit := idx } (islesOnPc s idx) s)
    else add { j with targets := mine.zip tg } s1
  else if cls = 1 then
    let seg := idx / 34
    let s := setUnitState 1 idx 1 (tideNow s) s
    match freeSpare s seg with
    | some x => add { j with targets := [(idx % 34, x)] } s
    | none => agreeJob j (add j s)
  else
    agreeJob j (add j (setUnitState cls idx 1 (tideNow s) s))

/-- The firmware retires a unit by itself; a pseudo-channel waits for the retirement in progress (chapter 7's corner cases). -/
def autoRetire (cls idx : Nat) (s : State) : State :=
  if unitState s cls idx ≠ 0 then s
  else if cls = 2 ∧ s.units.jobs.any fun j => j.cls == 2 then s.mapUnits fun u => { u with pcQueue := insNat idx u.pcQueue }
  else startRetire cls idx 0 none s

/-- A pseudo-channel that waits for the retirement in progress is retired once that has ended. -/
def nextPcRetire (s : State) : State :=
  s.units.pcQueue.foldl (fun s p =>
    if s.units.jobs.any fun j => j.cls == 2 then s
    else autoRetire 2 p (s.mapUnits fun u => { u with pcQueue := u.pcQueue.filter (· != p) })) s

/-! ## What changes at T (Table 18.7) -/

def moveFrames (mv : List (Nat × Nat)) (m : Mems) : Mems :=
  let hit := fun (a : Nat) => mv.find? fun p => p.1 == a / 2 ^ 21
  let moved := m.hbm.filterMap fun c => (hit c.1).map fun p => (p.2 * 2 ^ 21 + c.1 % 2 ^ 21, c.2)
  let pm := m.hbmPoison.filterMap fun u => (hit (u * 64)).map fun p => (p.2 * 2 ^ 21 + u * 64 % 2 ^ 21) / 64
  { m with hbm := moved.foldl (fun a c => Memory.write a c.1 c.2) (m.hbm.filter fun c => (hit c.1).isNone),
           hbmPoison := pm.foldl (fun a u => insNat u a) (m.hbmPoison.filter fun u => (hit (u * 64)).isNone) }

/-- The addresses of a table follow the frames that hold it. -/
def moveTable (sub : Nat → Nat) (t : SeqTable) : SeqTable :=
  let go := fun (a : Nat) => sub (a / 2 ^ 21) * 2 ^ 21 + a % 2 ^ 21
  { t with base := go t.base, l2 := t.l2.map fun e => (e.1, go e.2) }

/-- R166 at T: the frames still in use on p move to their targets, which isle frame tables, L1 and L2 entries, the scrub engine and the
firmware's pointers name from now on. Frames of an isle in its scrub are zeroed on the target instead of copied (Table 7.4). DESIGN CHOICE
(log 126): the tables switch at T although a commit of the isle is deferred. -/
def switchFrames (p : Nat) (mv : List (Nat × Nat)) (s : State) : State :=
  let live := mv.filter fun x => (framesOn s p).contains x.1
  let hold := islesOnPc s p
  let rows := (List.range 512).map fun f => (f, rowZeroAt s f)
  let scrubbed := (s.isles.filter fun r => r.state == .scrubbing).flatMap fun r => r.frames.flatten ++ r.tableFrames
  let s := zeroAll [] [] ((live.filter fun x => scrubbed.contains x.1).map fun x => x.2) [] (s.mapMems (moveFrames live))
  let sub := fun (f : Nat) => match live.find? fun x => x.1 == f with | some x => x.2 | none => f
  let s := s.mapIsles fun r => { r with
    frames := r.frames.map fun l => l.map sub, tableFrames := r.tableFrames.map sub,
    tables := r.tables.map fun t => (t.1, moveTable sub t.2) }
  let s := hold.foldl (fun s k => s.mapIsle k fun r => { r with stepFlags := setBit r.stepFlags 2 }) s
  let s := s.mapUnits fun u => { u with
    scrubs := u.scrubs.map fun j => { j with frames := j.frames.map sub },
    rowZero := rows.filterMap fun x => if sub x.2 = x.1 then none else some (x.1, sub x.2),
    reserveExtra := u.reserveExtra.filter fun f => !(live.map fun x => x.2).contains f }
  mapJob 2 p (fun j => { j with hold := hold, targets := [] }) s

/-- R456 at T: a retirement takes effect. A core that no longer served only loses its failed lagoon (R2). The tasks that an RAU has begun
end there: all jobs of one task run on one RAU (R425). The new index in a pseudo-channel's REMAP is that of the first target frame, 0xFFFF
without one (DESIGN CHOICE, log 99). -/
def applyRetire (cls idx t : Nat) (s : State) : State :=
  let j := (findJob s cls idx).getD { cls := cls, idx := idx, since := t, reqT := t }
  let done := fun s => jobEnds j t .sOk 0 (w64 t) (dropJob cls idx s)
  match cls with
  | 0 =>
    let touched := islesOnCore s idx
    let served := unitState s 0 idx == 1
    let s := noteRemap 0 idx idx 0xFFFF t s
    let s := if served then recordFault dCore idx 7 { unit := idx } touched (setUnitState 0 idx 2 t s) else s
    done (remapIsles touched s)
  | 1 =>
    match j.targets with
    | (b, x) :: _ =>
      let seg := idx / 34
      let s := s.mapUnits fun u => { u with
        spareMap := if b < 32 then pSet (seg, b) x u.spareMap
          else u.spareMap.map fun e => if e.1.1 = seg ∧ e.2 = b - 32 then (e.1, x) else e,
        sparesBad := if b < 32 then u.sparesBad else (seg, b - 32) :: u.sparesBad }
      let s := setUnitState 1 idx 2 t (noteRemap 1 idx idx (34 * seg + 32 + x) t s)
      done (recordFault dShelf 0 4 { unit := seg, info := b } (islesOnShelf s) s)
    | [] =>
      let seg := idx / 34
      let b := idx % 34
      let stood := (s.units.spareMap.filter fun e => e.1.1 == seg && decide (32 ≤ b) && e.2 == b - 32).map fun e => e.1
      let s := s.mapUnits fun u => { u with relocPending := (seg, b) :: stood ++ u.relocPending }
      done (setUnitState 1 idx 0 t (recordFault dShelf 0 5 { unit := idx / 34, info := idx % 34 } (islesOnShelf s) s))
  | 2 =>
    let touched := islesOnPc s idx
    let s := switchFrames idx j.targets s
    let s := setUnitState 2 idx 2 t (noteRemap 2 idx idx (match j.targets with | x :: _ => x.2 % 512 | [] => 0xFFFF) t s)
    let s := jobEnds j t .sOk 0 (w64 t) (recordFault dHbm 0 0 { unit := idx } touched s)
    if touched.isEmpty then dropJob 2 idx s else mapJob 2 idx (fun j => { j with cmd := none }) s
  | 3 =>
    -- both ends agree T: nothing is on its way any more but by the detour
    let far := intermediate s (peerAt s idx)
    let s := noteRemap 3 idx idx (match far with | some k => myPort s k | none => 0xFFFF) t s
    let s := match far with | some k => goByDetour idx k s | none => s
    done (setUnitState 3 idx 2 t (announce (setPortState idx .retired (loseForwards idx s))))
  | 4 =>
    -- EJECTED, REFUSED and FAILED are left by a removal alone (R187)
    let st := (s.caySlot idx).state
    let stays := st == .empty || st == .ejected || st == .refused || st == .failed
    let s := cayDown idx (s.mapCay idx fun c => { c with retired := true, step := 0 })
    done (setUnitState 4 idx 2 t (noteRemap 4 idx idx 0xFFFF t (if stays then s else setCayState idx .ejected s)))
  | _ =>
    let (stay, go) := (s.rau idx).queue.partition fun x => x.started
    let s := setUnitState 5 idx 2 t s
    let s := match nextRau s idx with
      | some r => (s.mapRau idx fun x => { x with queue := stay }).mapRau r fun x => { x with queue := x.queue ++ go }
      | none => s
    done (recordFault dSeal 0 1 { unit := idx } [] (noteRemap 5 idx idx ((nextRau s idx).getD 0xFFFF) t s))

/-- What the scrub of a returning unit zeroes: a core's operand buffers, and its lagoon when it was out of service or no isle holds it; a
pseudo-channel whole (R167, Table 18.7, log 97). -/
def scrubReturned (cls idx : Nat) (s : State) : State :=
  match cls with
  | 0 =>
    let held := s.isles.any fun r => r.lagUnits.any fun u => u / 32 == idx
    zeroAll (if held && lagoonServes s idx then [] else wholeLagoon idx) [] [] [idx] s
  | 2 => zeroAll [] [] ((List.range 384).map fun r => r * 512 + idx) [] s
  | _ => s

/-- A lagoon that outlived its core and failed leaves the slot maps of the isles that hold it, at an agreed count of its own (R2). -/
def dropLagoon (c : Nat) (s : State) : State :=
  if (islesOnCore s c).isEmpty then s else
  let j : UnitJob := { cls := 0, idx := c, since := tideNow s }
  agreeJob j (s.mapUnits fun u => { u with jobs := u.jobs ++ [j] })

/-- The return of a core whose lagoon is out fails (R457): the core stays RETIRED, and the lagoon leaves the slot maps. -/
def coreReturnFails (j : UnitJob) (tide : Nat) (s : State) : State :=
  dropLagoon j.idx (jobEnds j tide .eFault 0 {} (setUnitState 0 j.idx 2 tide (dropJob 0 j.idx s)))

/-- R456 at T: a returned unit is in service; a pseudo-channel's frames first bring the retirement reserve back to 1,024 (R158, R167). -/
def applyReturn (cls idx t : Nat) (s : State) : State :=
  let j := (findJob s cls idx).getD { cls := cls, idx := idx, since := t, reqT := t }
  if j.lagoon then coreReturnFails j t s else
  let s := setUnitState cls idx 0 t (noteRemap cls idx 0xFFFF idx t (scrubReturned cls idx s))
  let s := match cls with
    | 0 =>
      let s := s.mapUnits fun u => { u with lagoonsOut := u.lagoonsOut.filter (· != idx) }
      remapIsles (islesOnCore s idx) s
    | 1 => s.mapUnits fun u => { u with
        spareMap := pDel u.spareMap (idx / 34, idx % 34), sparesBad := u.sparesBad.filter fun x => !(x.1 == idx / 34 && x.2 + 32 == idx % 34) }
    | 2 =>
      let free := ((List.range 381).map fun i => (i + 1) * 512 + idx).filter fun f => !(framesBusy s).contains f
      let n := (reserveFree s).length
      s.mapUnits fun u => { u with reserveExtra := u.reserveExtra ++ free.take (1024 - n) }
    | 3 => portReturns idx t s
    | 4 => s.mapCay idx fun c => { c with retired := false }
    | _ => s
  jobEnds j t .sOk 0 (w64 t) (dropJob cls idx s)

/-- Jobs whose agreed count a member did not confirm: the unit stays as it was. Then the next pseudo-channel's turn comes. -/
def settleJobs (s : State) : State :=
  nextPcRetire (s.units.jobs.foldl (fun s j =>
    match j.t with
    | none => s
    | some t =>
      let held := s.tide.agreed.any fun a => a.t == t && (match a.act with
        | .unitRetire c i => !j.ret && c == j.cls && i == j.idx
        | .unitReturn c i => j.ret && c == j.cls && i == j.idx
        | _ => false)
      if held ∨ !j.hold.isEmpty then s
      else
        let s := dropJob j.cls j.idx s
        if unitState s j.cls j.idx = (if j.ret then 3 else 1) then setUnitState j.cls j.idx (if j.ret then 2 else 0) (tideNow s) s else s) s)

/-! ## Events of a retirement -/

/-- R138: the copy into the spare is complete; T is agreed. -/
def execSpareCopyDone (seg bank : Nat) (s : State) : Host.Outcome State Fault Refusal :=
  match findJob s 1 (34 * seg + bank) with
  | some j => if j.t.isSome ∨ j.ret ∨ !counting s then .next s else .next (agreeJob j s)
  | none => .next s

/-- R166: every in-use frame has been copied; T is agreed. -/
def execRetireCopyDone (pc : Nat) (s : State) : Host.Outcome State Fault Refusal :=
  match findJob s 2 pc with
  | some j => if j.t.isSome ∨ j.ret ∨ !counting s then .next s else .next (agreeJob j s)
  | none => .next s

/-- R166: the dirty chunks are copied; the isles are released again from the next boundary, and the next retirement can start. -/
def execDirtyCopyDone (pc : Nat) (s : State) : Host.Outcome State Fault Refusal :=
  match findJob s 2 pc with
  | some j =>
    if j.hold.isEmpty then .next s else .next (nextPcRetire (dropJob 2 pc s))
  | none => .next s

/-- The failure bit of a unit whose self-test fails at return (Table 18.8). -/
def returnFailure (cls idx : Nat) (s : State) : State :=
  match cls with
  | 0 => recordFault dCore idx 0 { unit := idx } [] s
  | 1 => recordFault dShelf 0 0 { unit := idx / 34, info := idx % 34 } [] s
  | 2 => recordFault dHbm 0 0 { unit := idx } [] s
  | 3 => linkFault idx 0 s
  | 4 => recordFault dCay idx (if (s.caySlot idx).step ≤ 3 then 0 else 1) { unit := idx } [] s
  | _ => recordFault dSeal 0 2 { unit := idx } [] s

/-- UNIT_RETURN trains the port (R318, Table 18.7): its link starts afresh with the peer and the latency known, and the port waits for T
(Table 13.11; DEDUCED, log 129). -/
def retrainedPort (idx : Nat) (s : State) : State :=
  let r := s.port idx
  linkTrained { port := idx, lanesOk := true, peerChip := peerAt s idx, peerPort := 14 - idx, peerInc := incOf s (peerAt s idx),
                peerAligned := r.peerAligned, peerReady := r.peerReady, latency := r.latency } s

/-- R456, R457: the self-test and scrub of a returning unit has ended; a port's is its training. -/
def execUnitSelftestDone (cls idx : Nat) (ok : Bool) (s : State) : Host.Outcome State Fault Refusal :=
  match findJob s cls idx with
  | some j =>
    if !j.ret || j.t.isSome then .next s
    else if ok then .next (agreeJob j (if cls = 3 then retrainedPort idx s else s))
    else .next (nextPcRetire (jobEnds j (tideNow s) .eFault 0 {}
      (returnFailure cls idx (setUnitState cls idx 2 (tideNow s) (dropJob cls idx s)))))
  | none => .next s

/-! ## Patrols (R163, R165, R445, R450) -/

def hourTicks : Nat := 360000000000
def dayTicks : Nat := 8640000000000

/-- A corrected word of a unit, keyed by (domain, unit): the count within the last hour. -/
def noteCe (d u : Nat) (s : State) : Nat × State :=
  let now := s.clk.ticks
  let l := now :: ((pGet s.units.ceTimes (d, u)).getD []).filter fun t => now < t + hourTicks
  (l.length, s.mapUnits fun x => { x with ceTimes := pSet (d, u) l x.ceTimes })

/-- An uncorrectable word w of a pseudo-channel or of a lagoon bank: whether another word came within the day before. -/
def noteUe (d u w : Nat) (s : State) : Bool × State :=
  let now := s.clk.ticks
  let l := ((pGet s.units.ueTimes (d, u)).getD []).filter fun x => decide (now < x.1 + dayTicks)
  (l.any fun x => x.2 != w,
    s.mapUnits fun x => { x with ueTimes := pSet (d, u) (if l.any fun x => x.2 == w then l else (now, w) :: l) x.ueTimes })

/-- The isle that holds a chip frame, with the isle frame address: 0 for a table frame, which no program can address (R172). -/
def frameOwner (s : State) (f : Nat) : Option (Nat × Nat) :=
  (List.range 32).findSome? fun k =>
    if (s.isle k).tableFrames.contains f then some (k, 0)
    else (s.isle k).frames.findSome? fun l => (l.findIdx? fun x => x == f).map fun i => (k, 4 * 2 ^ 44 + i * 2 ^ 21)

/-! ## Uncorrectable words in the firmware's structures (R455) -/

/-- A sequence's pages become LOST at the next boundary. -/
def loseDue (k h : Nat) (s : State) : State :=
  s.mapIsle k fun r => { r with seqs := aMod h (fun q => { q with lossDue := q.lossDue.or (some .ePoison) }) r.seqs }

/-- Bytes of an L2 table, or of a page list. -/
def rootBytes (t : SeqTable) : Nat := ceilDiv ((if t.managed then 16 else 8) * t.count) 64 * 64

/-- The sequences whose tables hold tier-one address a of isle k's table frames. -/
def tablesAt (s : State) (k a : Nat) : List Nat :=
  ((s.isle k).tables.filter fun t =>
    ((t.2.base, rootBytes t.2) :: t.2.l2.map fun e => (e.2, 512)).any fun p => decide (p.1 ≤ a) && decide (a < p.1 + p.2)).map fun t => t.1

/-- The live sequences whose L1 entries lie in the line of the firmware's shelf extents that holds byte o of segment seg (R170). -/
def l1Line (s : State) (o : Nat) : List (Nat × Nat) :=
  ((List.range 8).filterMap fun i => l1Owner s (o / 128 * 8 + i)).filter fun x => (s.isle x.1).seqs.any fun q => q.1 == x.2

/-- A line of the firmware extents beyond the L1 entries, or of a row-0 frame: it holds descriptors or staging of eight neighbouring handles
of one isle, or other structures, which are rebuilt; the spec places none of them, and the isle and the handles are free (log 110). -/
def firmwareUe (s : State) : List (Nat × Nat) × State :=
  let (v, s) := drawNat s
  let (w, s) := drawNat s
  let k := v % 33
  (if k = 32 then [] else ((s.isle k).seqs.filter fun q => q.1 / 8 == w % 8192).map fun q => (k, q.1), s)

/-- R163, R165: a unit of an in-service pseudo-channel has been read, by the patrol, a task or a DMA, and its code judged: a corrected one
counts, an uncorrectable one is poisoned. What found it reads it after this row (log 96). -/
def execTierOnePatrol (addr : Nat) (r : EccResult) (s : State) : Host.Outcome State Fault Refusal :=
  let f := addr / 2 ^ 21
  let p := f % 512
  if !isReady s || addr ≥ 384 * 2 ^ 30 || !unitServes s 2 p || s.mems.stackFail.contains (p / 64) then .next s else
  let owner := frameOwner s f
  let touched := match owner with | some o => [o.1] | none => []
  match r with
  | .clean => .next s
  | .corrected =>
    let (n, s) := noteCe dHbm p s
    let s := match owner with
      | some o => s.mapIsle o.1 fun x => { x with t1Corrected := sat32 (x.t1Corrected + 1) }
      | none => s
    if n > 1000 then .next (autoRetire 2 p (recordFault dHbm 0 2 { unit := p } (islesOnPc s p) s)) else .next s
  | .uncorrectable =>
    let (hurt, s) := match owner with
      | some (k, 0) => ((tablesAt s k addr).map fun h => (k, h), s)
      | some _ => ([], s)
      | none => if ((List.range 512).map fun g => rowZeroAt s g).contains f then firmwareUe s else ([], s)
    let touched := touched ++ (hurt.map fun x => x.1).eraseDups.filter fun k => !touched.contains k
    let s := hurt.foldl (fun s x => loseDue x.1 x.2 s) s
    let at' : FaultAt := { unit := p, phys := physAddr (.hbm addr), isle := match owner with | some o => o.1 | none => 0xFF,
                           prog := match owner with | some o => if o.2 = 0 then 0 else o.2 + addr % 2 ^ 21 | none => 0 }
    let s := recordFault dHbm 0 3 at' touched (s.mapMems fun m => physMark m (.hbm addr))
    let (again, s) := noteUe dHbm p (addr / 64) s
    .next (if again then autoRetire 2 p s else s)

/-- The isle and program address of a lagoon unit, and of a shelf extent. -/
def lagoonOwner (s : State) (u : Nat) : Option (Nat × Nat) :=
  (List.range 32).findSome? fun k => (s.isle k).slotMap.findSome? fun v => (List.range 64).findSome? fun sl =>
    ((v.getD sl []).findIdx? fun x => x == u).map fun i => (k, 2 ^ 44 + sl * 2 ^ 38 + i * 2 ^ 19)

def extentOwner (s : State) (e : Nat) : Option (Nat × Nat) :=
  (List.range 32).findSome? fun k => (s.isle k).extents.findSome? fun l => (l.findIdx? fun x => x == e).map fun i => (k, i)

/-- R445, R2: LAGOON_FAIL in service: the lagoon is out, and its core is retired with it; a lagoon that outlived its core leaves the slot
maps at an agreed count of its own. A core that is on its way back fails its return (DESIGN CHOICE, log 120). -/
def lagoonFails (c : Nat) (s : State) : State :=
  let touched := islesOnCore s c
  let s := recordFault dCore c 1 { unit := c } touched (s.mapUnits fun u => { u with lagoonsOut := insNat c u.lagoonsOut })
  match findJob s 0 c with
  | some j =>
    if !j.ret then s
    else if j.t.isSome then mapJob 0 c (fun j => { j with lagoon := true }) s
    else coreReturnFails j (tideNow s) s
  | none => if touched.isEmpty || unitServes s 0 c then autoRetire 0 c s else dropLagoon c s

/-- Physical bank of a shelf address (R136), after the spare map. -/
def shelfBank (s : State) (seg off : Nat) : Nat :=
  let l := off / 128
  let b := (l % 32) ^^^ (l / 32 % 32)
  match pGet s.units.spareMap (seg, b) with | some x => 32 + x | none => b

/-- The isle that an operand buffer serves: its core's owner, or the pool member that used it last (R150). -/
def obUser (s : State) (c : Nat) : Option Nat :=
  ((List.range 32).find? fun k => (s.isle k).grant.cores.testBit c).or (if s.pool.cores.testBit c then aGet s.pool.obOwner c else none)

/-- R445, R450: space 0 lagoon (core × 2^24 + offset), 1 shelf (segment × 2^28 + offset), 2 CP memory and key store, 3 operand buffer (core ×
2^20 + offset), which no patrol reads: a task's read finds its words, as it may those of the others (log 96). -/
def execOnChipPatrol (space addr : Nat) (r : EccResult) (s : State) : Host.Outcome State Fault Refusal :=
  if !isReady s then .next s else
  match r, space with
  | .clean, _ => .next s
  | .corrected, 0 =>
    let c := addr / 2 ^ 24 % 64
    let o := addr % 2 ^ 24
    let bank := (o / 256 % 32) ^^^ (o / 8192 % 32)
    let (n, s) := noteCe dCore (c * 32 + bank) s
    .next (if n > 1000 then recordFault dCore c 5 { unit := c, info := bank } (islesOnCore s c) s else s)
  | .corrected, 1 =>
    let seg := addr / 2 ^ 28 % 64
    let bank := shelfBank s seg (addr % 2 ^ 28)
    let (n, s) := noteCe dShelf (seg * 34 + bank) s
    .next (if n > 1000 then autoRetire 1 (seg * 34 + bank) (recordFault dShelf 0 2 { unit := seg, info := bank } [] s) else s)
  | .corrected, 3 =>
    let c := addr / 2 ^ 20 % 64
    let (n, s) := noteCe dCore (64 * 32 + c) s
    .next (if n > 1000 then recordFault dCore c 5 { unit := c } (islesOnCore s c) s else s)
  | .corrected, _ =>
    let (n, s) := noteCe dCp 0 s
    .next (if n > 100 then recordFault dCp 0 2 {} [] s else s)
  | .uncorrectable, 0 =>
    let c := addr / 2 ^ 24 % 64
    let o := addr % 2 ^ 24
    let owner := lagoonOwner s (c * 32 + o / 2 ^ 19)
    let at' : FaultAt := { unit := c, phys := physAddr (.lagoon addr), isle := match owner with | some x => x.1 | none => 0xFF,
                           prog := match owner with | some x => x.2 + o % 2 ^ 19 | none => 0, info := (o / 256 % 32) ^^^ (o / 8192 % 32) }
    let s := recordFault dCore c 6 at' (match owner with | some x => [x.1] | none => []) (s.mapMems fun m => physMark m (.lagoon addr))
    let (again, s) := noteUe dCore (c * 32 + at'.info) (addr / 8) s
    .next (if again then lagoonFails c s else s)
  | .uncorrectable, 1 =>
    let seg := addr / 2 ^ 28 % 64
    let o := addr % 2 ^ 28
    let owner := extentOwner s (o / 2 ^ 20)
    let (hurt, s) := if seg = 0 ∧ o < 2 ^ 20 then (l1Line s o, s) else if o / 2 ^ 20 < 2 then firmwareUe s else ([], s)
    let s := hurt.foldl (fun s x => loseDue x.1 x.2 s) s
    let at' : FaultAt := { unit := seg, phys := physAddr (.shelf addr), isle := match owner with | some x => x.1 | none => 0xFF,
                           prog := match owner with | some x => 2 * 2 ^ 44 + seg * 2 ^ 38 + x.2 * 2 ^ 20 + o % 2 ^ 20 | none => 0,
                           info := shelfBank s seg o }
    .next (recordFault dShelf 0 3 at' (match owner with | some x => [x.1] | none => (hurt.map fun x => x.1).eraseDups) (s.mapMems fun m => physMark m (.shelf addr)))
  | .uncorrectable, 3 =>
    let c := addr / 2 ^ 20 % 64
    let a := addr % 2 ^ 26
    let owner := obUser s c
    let at' : FaultAt := { unit := c, phys := physAddr (.ob a), isle := owner.getD 0xFF, prog := addr % 2 ^ 20 }
    .next (recordFault dCore c 6 at' owner.toList (s.mapMems fun m => physMark m (.ob a)))
  | .uncorrectable, _ => .next (recordFault dCp 0 1 {} [] s)

/-! ## The fatal sequence (R454) -/

/-- Every key store entry destroyed (R412). -/
def destroyAllKeys (s : State) : State :=
  let s := (List.range 32).foldl (fun s k => destroyKeys k s) s
  let s := s.mapIsles fun r => { r with sealed := { r.sealed with keys := [] } }
  dropEntries (fun _ => true) s

/-- f + 100: READY_N released, keys destroyed; firmware that still runs ends the outstanding commands. -/
def execFatalKeyDestroy (s : State) : Host.Outcome State Fault Refusal :=
  match s.halt with
  | none => .next s
  | some f =>
    let s := advanceTicks (f + 100) s
    let s := destroyAllKeys (s.mapPins fun p => { p with readyLow := false })
    .next ((List.range 32).foldl (fun s fn => (s.func fn).cmds.foldl (fun s c => finish fn c.seq .eFault 0 {} s) s) s)

/-- f + 200: every port idle; peers see a departure. -/
def execFatalPortsIdle (s : State) : Host.Outcome State Fault Refusal :=
  match s.halt with
  | none => .next s
  | some f =>
    .next (portsIdle (ctrlAll pmDepart [chipId s] [] (advanceTicks (f + 200) s)))

/-! ## FAULT_QUERY, FAULT_CLEAR (R446 to R449, R463) -/

def fDomain (c : Cmd) : Nat := fieldB c.payload 0 1
def fInst (c : Cmd) : Nat := fieldB c.payload 1 1
def fView (c : Cmd) : Nat := fieldB c.payload 2 1

/-- The view a fault command names. -/
def faultView (s : State) (fn view : Nat) : FaultView :=
  if fn = 0 then (if view = 0 then s.faults else (s.isle 0).faults) else (s.isle fn).faults

/-- Check 4: from a VF no other view, and no instance beyond its own. -/
def faultAuth (s : State) (fn : Nat) (c : Cmd) : Bool :=
  let d := fDomain c
  let r := s.isle fn
  fn == 0 || (fView c == 0 && (decide (d > 10) ||
    decide (fInst c < if d = dCore then (dedicated r).length + r.extraLagoons.length else domCount d)))

/-- Check 6: domain, view and instance. -/
def faultArgs (all : Bool) (fn : Nat) (c : Cmd) : Bool :=
  let d := fDomain c
  (decide (d ≤ 10) || (all && d == 0xFF && fInst c == 0)) &&
  (fn != 0 || (decide (fView c ≤ 1) && (d == 0xFF || decide (fInst c < domCount d))))

/-- Table 18.3. -/
def captureBytes (c : Capture) : Bytes :=
  natLe 1 c.bit ++ natLe 1 c.isle ++ natLe 2 c.unit ++ natLe 8 c.tide ++ natLe 8 c.addr ++ natLe 4 c.info ++ natLe 4 c.later ++ natLe 4 0

def instOf (v : FaultView) (d i : Nat) : FaultInst := (pGet v.insts (d, i)).getD {}

def runFaultQuery (fn : Nat) (c : Cmd) (tide : Nat) (s : State) : State :=
  let v := faultView s fn (fView c)
  if fDomain c = 0xFF then
    finishAt tide fn c.seq .sOk 0 { w0 := fltSummary v, w1 := v.seq, w2 := lowHalf (fltCore v), w3 := highHalf (fltCore v) } s
  else
    let i := instOf v (fDomain c) (fInst c)
    let a := fieldB c.payload 8 8
    let words : Words := { w0 := i.word, w1 := i.gen, w2 := i.cap.bit, w3 := lowHalf i.cap.tide }
    if a = 0 then finishAt tide fn c.seq .sOk 0 words s
    else withHost fn c tide (fun s => finishAt tide fn c.seq .sOk 0 words (hostWrite fn a (captureBytes i.cap) s)) s

def specFaultQuery : CmdSpec :=
  { opcode := 0x0B00, early := true, plen := plenIs 16, auth := faultAuth,
    args := fun _ fn c => faultArgs true fn c && zeroB c.payload 3 5, run := runFaultQuery }

/-- The masked bits cleared, class F bits apart. -/
def clearBits (d word mask : Nat) : Nat :=
  natMask ((List.range 32).filter fun b => word.testBit b && (!mask.testBit b || fatalBit d b))

def clearInst (d i mask : Nat) (v : FaultView) : FaultView :=
  let x := instOf v d i
  { v with insts := pSet (d, i) { x with word := clearBits d x.word mask } v.insts }

def runFaultClear (fn : Nat) (c : Cmd) (tide : Nat) (s : State) : State :=
  let d := fDomain c
  let i := fInst c
  let x := instOf (faultView s fn (fView c)) d i
  if x.gen ≠ fieldB c.payload 8 4 then finishAt tide fn c.seq .eState 0 { w0 := x.word, w1 := x.gen } s
  else
    let f := clearInst d i (fieldB c.payload 4 4)
    let s := if fn = 0 ∧ fView c = 0 then s.mapFaults f else s.mapIsle (isleOf fn) fun r => { r with faults := f r.faults }
    finishAt tide fn c.seq .sOk 0 { w0 := (instOf (faultView s fn (fView c)) d i).word, w1 := x.gen } s

def specFaultClear : CmdSpec :=
  { opcode := 0x0B01, early := true, plen := plenIs 16, auth := faultAuth,
    args := fun _ fn c => faultArgs false fn c && zeroB c.payload 3 1 && zeroB c.payload 12 4, run := runFaultClear }

/-! ## UNIT_RETIRE, UNIT_RETURN, UNIT_QUERY, ALERT_ACK (R456 to R460) -/

def uCls (c : Cmd) : Nat := fieldB c.payload 0 1
def uIdx (c : Cmd) : Nat := fieldB c.payload 2 2

/-- Units of a class (Table 18.7). -/
def classCount (cls : Nat) : Nat :=
  match cls with | 0 => 64 | 1 => 2176 | 2 => 512 | 3 => 15 | 4 => 2 | 5 => 4 | _ => 0

def unitArgs (s : State) (_ : Nat) (c : Cmd) : Bool :=
  zeroB c.payload 1 1 && zeroB c.payload 4 4 && decide (uIdx c < classCount (uCls c)) && unitState s (uCls c) (uIdx c) != 4 &&
    (chooseT s (fieldB c.payload 8 8)).isSome

/-- The lowest isle with an image on a slot. -/
def imageIsle (s : State) (slot : Nat) : Option Nat :=
  (List.range 32).find? fun k => (s.isle k).seqs.any fun q =>
    (match q.2.image with | some i => i.slot == slot | none => false) || (match q.2.parkImage with | some i => i.slot == slot | none => false)

/-- An estimate of the time a job in progress still takes: a value of the device's own making. -/
def jobMs (s : State) : Nat := 1 + Config.freeNat s.clk.freeCtr % 65535

/-- Table 18.8, the conditions of RETIRE. -/
def retirePre (s : State) (_ : Nat) (c : Cmd) : Option (Status × Nat) :=
  let cls := uCls c
  let idx := uIdx c
  if unitState s cls idx ≠ 0 then some (.eState, 0)
  else if s.units.jobs.any fun j => j.cls == cls then some (.eBusy, jobMs s)
  else if cls = 0 then
    ((List.range 32).find? fun k => execCores s k == [idx] && (s.isle k).progs.any fun p => p.2.state == .running).map fun k => (.eState, k)
  else if cls = 4 then (imageIsle s idx).map fun k => (.eState, k)
  else if cls = 3 then (if (intermediate s (peerAt s idx)).isNone then some (.eState, peerAt s idx) else none)
  else none

def runUnitRetire (fn : Nat) (c : Cmd) (tide : Nat) (s : State) : State :=
  startRetire (uCls c) (uIdx c) (fieldB c.payload 8 8) (some (fn, c.seq)) (pendAt tide fn c.seq s)

def specUnitRetire : CmdSpec :=
  { opcode := 0x0B02, pfOnly := true, early := true, plen := plenIs 16, args := unitArgs, pre := retirePre, run := runUnitRetire }

/-- The self-test of the unit begins; a cay slot is brought up (R187). -/
def runUnitReturn (fn : Nat) (c : Cmd) (tide : Nat) (s : State) : State :=
  let s := setUnitState (uCls c) (uIdx c) 3 (tideNow s) (pendAt tide fn c.seq s)
  let s := s.mapUnits fun u => { u with jobs := u.jobs ++
    [{ cls := uCls c, idx := uIdx c, ret := true, since := tideNow s, reqT := fieldB c.payload 8 8, cmd := some (fn, c.seq) }] }
  let st := (s.caySlot (uIdx c)).state
  if uCls c = 4 ∧ !(s.pins.cayPrsnt.getD (uIdx c) true) ∧ (st = .empty ∨ st = .ejected) then startBringup (uIdx c) s else s

def specUnitReturn : CmdSpec :=
  { opcode := 0x0B03, pfOnly := true, early := true, plen := plenIs 16, args := unitArgs,
    pre := fun s _ c =>
      if unitState s (uCls c) (uIdx c) ≠ 2 then some (.eState, 0)
      else if s.units.jobs.any fun j => j.cls == uCls c then some (.eBusy, jobMs s) else none,
    run := runUnitReturn }

def runUnitQuery (fn : Nat) (c : Cmd) (tide : Nat) (s : State) : State :=
  let t := match pGet s.units.recs (uCls c, uIdx c) with | some r => r.lastT | none => 0
  finishAt tide fn c.seq .sOk 0 { w0 := unitState s (uCls c) (uIdx c), w1 := lowHalf t, w2 := highHalf t } s

def specUnitQuery : CmdSpec :=
  { opcode := 0x0B04, pfOnly := true, early := true, plen := plenIs 8,
    args := fun _ _ c => zeroB c.payload 1 1 && zeroB c.payload 4 4 && decide (uIdx c < classCount (uCls c)), run := runUnitQuery }

/-- ALERT_N stays low whatever is acknowledged (R460). -/
def alertHeld (s : State) : Bool := decide (1000 ≤ s.power.hottest) || !s.standby.railsMargin.isEmpty

/-- R460: an acknowledgement that carries the FLT_SEQ in force releases ALERT_N. -/
def ackAlert (seq : Nat) (s : State) : State :=
  if seq = s.faults.seq then s.mapPins fun p => { p with alertLow := alertHeld s } else s

def runAlertAck (fn : Nat) (c : Cmd) (tide : Nat) (s : State) : State :=
  let seq := fieldB c.payload 0 4
  finishAt tide fn c.seq (if seq = s.faults.seq then .sOk else .eState) 0 { w0 := s.faults.seq } (ackAlert seq s)

def specAlertAck : CmdSpec :=
  { opcode := 0x0B05, pfOnly := true, early := true, plen := plenIs 8, args := fun _ _ c => zeroB c.payload 4 4, run := runAlertAck }

end Sys2Proof.Machine
end

