-- ==== Sys2Proof/Machine/Kv.lean ====
section
/-! DEFINITION. Chapter 12, the paged KV cache: places, page states, shoal slots, the prefix tree, rewinds, losses, and the release
of what a sequence holds (R282 to R293, R299 to R306, R313, R169 to R172). -/

namespace Sys2Proof.Machine

/-! ## Geometry (R282 to R284) -/

def pageTok (p : KvPool) : Nat := 2 ^ p.pageLog2
def vecBytes (p : KvPool) : Nat := p.layers * p.heads * p.vec
def tokRec (p : KvPool) : Nat := ceilDiv (vecBytes p) 256 * 256
def pageBytes (p : KvPool) : Nat := pageTok p * vecBytes p
def slotsPerUnit (p : KvPool) : Nat := 2 ^ 19 / tokRec p
/-- Shoal slots of the pool of one logical core slot. -/
def shoalCount (p : KvPool) : Nat := p.shoalUnits * slotsPerUnit p
def shelfPlaces (p : KvPool) : Nat := p.shelfLen / pageBytes p
def t1Places (p : KvPool) : Nat := p.t1Len / pageBytes p

/-- Program address of shoal slot n of an owner slot's pool. -/
def shoalAddr (p : KvPool) (owner n : Nat) : Nat :=
  2 ^ 44 + owner * 2 ^ 38 + (p.shoalFirst + n / slotsPerUnit p) * 2 ^ 19 + n % slotsPerUnit p * tokRec p

/-- R283: the vector of layer l, head h, position t (within its page) of a page at a. -/
def pageVec (p : KvPool) (a l h t : Nat) : Nat := a + ((l * p.heads + h) * pageTok p + t % pageTok p) * p.vec

/-- The vector of layer l and head h in a shoal slot. -/
def slotVec (p : KvPool) (owner n l h : Nat) : Nat := shoalAddr p owner n + (l * p.heads + h) * p.vec

/-- The layers and heads of the geometry. -/
def lanes (p : KvPool) : List (Nat × Nat) := (List.range p.layers).flatMap fun l => (List.range p.heads).map fun h => (l, h)

def poolOf (s : State) (k : Nat) : KvPool := (((s.isle k).pool).map fun x => x.1).getD {}
def poolView (s : State) (k : Nat) : Nat := (((s.isle k).pool).map fun x => x.2).getD 0

def seqOf (s : State) (k h : Nat) : Option Seq := aGet (s.isle k).seqs h
def mapSeq (k h : Nat) (f : Seq → Seq) (s : State) : State := s.mapIsle k fun r => { r with seqs := aMod h f r.seqs }

/-- A step of the sequence is in flight. -/
def inFlight (r : Isle) (h : Nat) : Bool := r.invs.any fun i => i.entries.any fun e => e.seq == h

/-- Copy n bytes, poison with them (R451). -/
def copyProg (k v src dst n : Nat) (s : State) : State :=
  match readProg s k v none src n with
  | some bs => writeProg k v none dst bs s
  | none => s

/-- A SEQ_STATE event (type 0x0009, R311, R313). -/
def seqEvent (k h : Nat) (st : Status) (code w3 tide : Nat) (s : State) : State := postEventAt tide k st 0 9 h code w3 s

/-! ## Lookup tables and table space (R168 to R173, R175, R178) -/

/-- COUNT of an L1 entry: L2 entries, or the page list's descriptors (R169, R175). -/
def tableCount (p : KvPool) (q : Seq) : Nat := if q.managed then q.lmax / pageTok p else ceilDiv q.lmax (64 * pageTok p)

/-- What has a fixed place in an isle's table frames: its address and bytes. -/
def tableParts (r : Isle) : List (Nat × Nat) := r.tables.flatMap fun t => (t.2.base, rootBytes t.2) :: t.2.l2.map fun e => (e.2, 512)

/-- Bytes of the token lists of the pages that a sequence holds alone. -/
def listBytes (p : KvPool) (q : Seq) : Nat := 4 * pageTok p * (q.pages.filter fun x => x.state != .free && x.node.isNone).length

/-- Bytes in use in an isle's table frames: lookup tables, token lists of the sequences and the tree, and program images (R231). -/
def tableUsed (s : State) (k : Nat) : Nat :=
  let r := s.isle k
  let p := poolOf s k
  ((tableParts r).map fun x => x.2).sum + (r.seqs.map fun q => listBytes p q.2).sum + 4 * pageTok p * r.tree.length +
    (r.progs.map fun g => g.2.image.length).sum

def tableRoom (s : State) (k extra : Nat) : Bool := decide (tableUsed s k + extra ≤ (s.isle k).tableFrames.length * 2 ^ 21)

/-- The lowest gap of n bytes, aligned, in the first table frame that has one; token lists and images take what is left (log 101). -/
def tableGap (r : Isle) (n al : Nat) : Option Nat :=
  let ps := tableParts r
  r.tableFrames.findSome? fun f =>
    let lo := f * 2 ^ 21
    ((lo :: ps.map fun p => ceilDiv (p.1 + p.2) al * al).filter fun a =>
      decide (lo ≤ a) && decide (a + n ≤ lo + 2 ^ 21) && !ps.any fun p => decide (p.1 < a + n) && decide (a < p.1 + p.2)).min?

/-- A place for n bytes of tables. -/
def tablePlace (s : State) (k n al : Nat) : Option Nat := if tableRoom s k n then tableGap (s.isle k) n al else none

def mapTable (k h : Nat) (f : SeqTable → SeqTable) (s : State) : State := s.mapIsle k fun r => { r with tables := aMod h f r.tables }

/-- R306: the page that only the tree refers to and that was adopted least recently is freed. -/
def evictOne (k : Nat) (s : State) : Option State :=
  match (s.isle k).tree.filter fun n => n.inTree && n.refs == 0 with
  | [] => none
  | n :: ns =>
    let v := ns.foldl (fun (m : TreeNode) x => if x.lastUse < m.lastUse then x else m) n
    some (s.mapIsle k fun r => { r with tree := r.tree.filter fun x => x.id != v.id })

/-- R306: tree pages are freed while table space for n bytes is short. -/
def makeRoom (k n : Nat) : Nat → State → State
  | 0, s => s
  | m + 1, s =>
    if tableRoom s k n then s else
    match evictOne k s with
    | some s => makeRoom k n m s
    | none => s

/-- The L1 entry of a new sequence, with its L2 table or page list, tree pages freed first where space is short; none where the table
frames are full (R172, R315). -/
def openTable (k h : Nat) (s : State) : Option State :=
  match seqOf s k h with
  | none => none
  | some q =>
    let t : SeqTable := { managed := q.managed, pageLog2 := (poolOf s k).pageLog2, count := tableCount (poolOf s k) q }
    let s := makeRoom k (rootBytes t) (s.isle k).tree.length s
    (tablePlace s k (rootBytes t) 64).map fun a => s.mapIsle k fun r => { r with tables := aSet h { t with base := a } r.tables }

/-- Page index i needs a leaf table that its 64-page span does not have yet. -/
def needsLeaf (s : State) (k h i : Nat) : Bool :=
  match aGet (s.isle k).tables h with
  | none => false
  | some t => !t.managed && (aGet t.l2 (i / 64)).isNone

/-- R172: a leaf table is allocated when the first page of its span is created. -/
def leafFor (k h i : Nat) (s : State) : Option State :=
  if !needsLeaf s k h i then some s else
  (tablePlace s k 512 512).map fun a => mapTable k h (fun t => { t with l2 := aSet (i / 64) a t.l2 }) s

/-- R172: a leaf table is freed when its 64 entries are FREE. -/
def freeLeaves (k h : Nat) (s : State) : State :=
  match seqOf s k h with
  | none => s
  | some q => mapTable k h (fun t => { t with
      l2 := t.l2.filter fun e => ((q.pages.drop (64 * e.1)).take 64).any fun x => x.state != .free }) s

/-- What the tables say of page index i: its state, place and index; nothing for a FREE page (R170, R175). -/
def tabEntry (q : Seq) (i : Nat) : Option TabEntry :=
  match q.pages[i]? with
  | some x => if x.state = .free then none else some { state := x.state, addr := x.addr, page := i }
  | none => none

/-- The descriptor of page index i is written (R176). -/
def writeDesc (k h i : Nat) (s : State) : State :=
  match seqOf s k h with
  | none => s
  | some q =>
    mapSeq k h (fun q => { q with emit := q.emit.filter (· != i) }) (mapTable k h (fun t => { t with
      entries := match tabEntry q i with | some e => aSet i e t.entries | none => aDel t.entries i }) s)

/-- The entries of a direct sequence's leaf tables as its pages are. -/
def leafEntries (r : Isle) (h : Nat) (t : SeqTable) : SeqTable :=
  match aGet r.seqs h with
  | none => t
  | some q => if q.managed then t else
      { t with entries := (List.range q.pages.length).filterMap fun i => (tabEntry q i).map fun e => (i, e) }

/-- The leaf entries of an isle's direct sequences are what their pages are (R173). -/
def writeLeaves (k : Nat) (s : State) : State :=
  s.mapIsle k fun r => { r with tables := r.tables.map fun t => (t.1, leafEntries r t.1 t.2) }

/-- R171, R175: the place of page index i of a sequence as its tables give it; none performs no access, reason 1. -/
def tableWalk (s : State) (k h i : Nat) : Option Nat :=
  match aGet (s.isle k).tables h with
  | none => none
  | some t =>
    let there := if t.managed then decide (i < t.count) else decide (i < 64 * t.count) && (aGet t.l2 (i / 64)).isSome
    match aGet t.entries i with
    | none => none
    | some e =>
      if there && e.page == i && (e.state == .committed || e.state == .shared) &&
          rangeOk s k (poolView s k) none e.addr (pageBytes (poolOf s k)) then some e.addr else none

/-- The slice's cache entry of a page (R168). -/
def stuFind (s : State) (core k h i : Nat) : Option Nat :=
  (((aGet s.stu core).getD []).find? fun e => e.isle == k && e.handle == h && e.page == i).map fun e => e.addr

/-- A slice keeps a translation, for the oldest of 1,024 where it is full (R168, log 101). -/
def stuPut (core k h i a : Nat) (s : State) : State :=
  if (stuFind s core k h i).isSome then s else
  let l := (aGet s.stu core).getD [] ++ [{ isle := k, handle := h, page := i, addr := a }]
  { s with stu := aSet core (l.drop (l.length - 1024)) s.stu }

/-- R168: the translation of a page by a slice: a direct sequence's from its cache where it holds the page, else by a walk. -/
def stuWalk (s : State) (core k h i : Nat) : Option Nat :=
  match seqOf s k h with
  | none => none
  | some q => if q.managed then tableWalk s k h i else (stuFind s core k h i).or (tableWalk s k h i)

/-! ## Places (R284, R286, R306) -/

/-- Places of a pool: the shelf pool's or the tier-one pool's. -/
def placesOf (p : KvPool) (shelf : Bool) : List Nat :=
  if shelf then (List.range (shelfPlaces p)).map fun j => p.shelfBase + j * pageBytes p
  else (List.range (t1Places p)).map fun j => p.t1Base + j * pageBytes p

def placesHeld (r : Isle) : List Nat :=
  (r.seqs.flatMap fun q => q.2.pages.filterMap fun x => if x.addr = 0 then none else some x.addr) ++ r.tree.map fun n => n.addr

/-- The pools in which a sequence's pages are placed, first choice first. -/
def placeOrder (q : Seq) : List Bool := if q.managed then [false] else if q.place = 1 then [true, false] else [false, true]

/-- The lowest free place of the first pool that has one. -/
def freePlace (s : State) (k : Nat) (order : List Bool) : Option Nat :=
  let held := placesHeld (s.isle k)
  order.findSome? fun b => (placesOf (poolOf s k) b).find? fun a => !held.contains a

/-- Tree entries that neither the tree nor a sequence refers to are gone (R304). -/
def pruneTree (k : Nat) (s : State) : State :=
  s.mapIsle k fun r => { r with tree := r.tree.filter fun n => n.inTree || n.refs != 0 }

/-- A place for a page, tree pages freed first where none is free. -/
def takePlace (k : Nat) (order : List Bool) : Nat → State → Option Nat × State
  | 0, s => (freePlace s k order, s)
  | n + 1, s =>
    match freePlace s k order with
    | some a => (some a, s)
    | none =>
      match evictOne k s with
      | some s => takePlace k order n s
      | none => (none, s)

/-! ## Pages of a sequence -/

/-- Set page index i, the list made long enough. -/
def setPage (i : Nat) (x : Page) (l : List Page) : List Page :=
  let l := l ++ List.replicate (i + 1 - l.length) ({} : Page)
  List.set l i x

def pageAt (q : Seq) (i : Nat) : Page := q.pages.getD i {}

/-- Drop one reference of a tree entry. -/
def dropRef (k id : Nat) (s : State) : State :=
  pruneTree k (s.mapIsle k fun r => { r with tree := r.tree.map fun n => if n.id = id then { n with refs := n.refs - 1 } else n })

/-- Page i of a sequence becomes FREE: its place is free, or its reference dropped. -/
def dropPage (k h i : Nat) (s : State) : State :=
  match seqOf s k h with
  | none => s
  | some q =>
    let x := pageAt q i
    let s := mapSeq k h (fun q => { q with
      pages := if i < q.pages.length then q.pages.set i ({} : Page) else q.pages,
      emit := q.emit.filter (· != i), moves := q.moves.filter (· != i), moved := q.moved.filter (· != i) }) s
    match x.node with
    | some id => dropRef k id s
    | none => s

/-- Pages lo and above become FREE; their leaf tables stay for the moment. -/
def clearPages (k h lo : Nat) (s : State) : State :=
  match seqOf s k h with
  | none => s
  | some q => ((List.range q.pages.length).drop lo).foldl (fun s i => dropPage k h i s) s

def dropPages (k h lo : Nat) (s : State) : State := freeLeaves k h (clearPages k h lo s)

/-- An entry that is not FREE has its leaf table, where table space can be had (R172, log 116). -/
def holdLeaf (k h i : Nat) (s : State) : State :=
  if !needsLeaf s k h i then s else (leafFor k h i (makeRoom k 512 (s.isle k).tree.length s)).getD s

/-- Page indices that a RESIDENT sequence holds STAGING (R290); none beyond LMAX. -/
def stagingRange (p : KvPool) (q : Seq) : List Nat :=
  (List.range (min (q.c / pageTok p + 1) (q.lmax / pageTok p))).drop (q.f / pageTok p)

/-- Page index i of a sequence takes its token list, its leaf table and a place, and becomes x there; false where one is missing
(R172, R306). -/
def takePage (k h i : Nat) (x : Page) (s : State) : Bool × State :=
  match seqOf s k h with
  | none => (false, s)
  | some q =>
    let n := 4 * pageTok (poolOf s k) + (if needsLeaf s k h i then 512 else 0)
    let s := makeRoom k n (s.isle k).tree.length s
    if !tableRoom s k n then (false, s) else
    match leafFor k h i s with
    | none => (false, s)
    | some u =>
      match takePlace k (placeOrder q) (u.isle k).tree.length u with
      | (some a, u) => (true, mapSeq k h (fun q => { q with pages := setPage i { x with addr := a } q.pages }) u)
      | (none, u) => (false, freeLeaves k h u)

/-- Allocate what is missing of R290's range; false where a place or table space is missing. A STAGING page has no descriptor of its
own: the one of its flush is the first (R176, R299). -/
def allocStaging (k h : Nat) (s : State) : Bool × State :=
  match seqOf s k h with
  | none => (false, s)
  | some q =>
    (stagingRange (poolOf s k) q).foldl (fun (acc : Bool × State) i =>
      match seqOf acc.2 k h with
      | none => (false, acc.2)
      | some q =>
        if (pageAt q i).state ≠ .free then acc else
        let (ok, s) := takePage k h i { state := .staging } acc.2
        (acc.1 && ok, s)) (true, s)

/-- Every STAGING page that R290 requires is held. -/
def stagingHeld (p : KvPool) (q : Seq) : Bool := (stagingRange p q).all fun i => (pageAt q i).state == .staging

/-- What allocation could not give at an earlier boundary, for every RESIDENT sequence of an isle (R293, R306). -/
def retryStaging (k : Nat) (s : State) : State :=
  (s.isle k).seqs.foldl (fun s x =>
    let s := if (aGet (s.isle k).tables x.1).isNone then (openTable k x.1 s).getD s else s
    if x.2.state = .resident ∧ !stagingHeld (poolOf s k) x.2 then (allocStaging k x.1 s).2 else s) s

/-- Pages 0 to F / P - 1 are where the sequence's steps read them (R14). -/
def pagesReady (p : KvPool) (q : Seq) : Bool :=
  (List.range (q.f / pageTok p)).all fun i => (pageAt q i).state == .committed || (pageAt q i).state == .shared

/-- LOST page indices. -/
def lostPages (q : Seq) : List Nat := (List.range q.pages.length).filter fun i => (pageAt q i).state == .lost

/-! ## Shoal slots (R292, R293) -/

def slotsHeld (r : Isle) (owner : Nat) : List Nat :=
  r.seqs.flatMap fun q => if q.2.owner = owner then (q.2.shoal ++ q.2.prov).map fun x => x.slot else []

def freeSlots (s : State) (k owner : Nat) : List Nat :=
  let held := slotsHeld (s.isle k) owner
  (List.range (shoalCount (poolOf s k))).filter fun n => !held.contains n

/-- Zero a slot. -/
def zeroSlot (k owner n : Nat) (s : State) : State :=
  let p := poolOf s k
  writeBytes k (poolView s k) (shoalAddr p owner n) (List.replicate (tokRec p) 0) s

/-! ## Chain hashes and the prefix tree (R303, R304) -/

/-- h_0. -/
def chainStart (key domain : Nat) (p : KvPool) : Nat :=
  sipHash key (natLe 8 domain ++ natLe 1 p.pageLog2 ++ natLe 2 p.layers ++ natLe 2 p.heads ++ natLe 2 p.vec)

def chainStep (key h : Nat) (toks : List Nat) : Nat := sipHash key (natLe 8 h ++ toks.flatMap (natLe 4))

/-- h_i of a sequence: over the tokens of its pages 0 to i - 1. -/
def chainOf (key : Nat) (p : KvPool) (q : Seq) (i : Nat) : Nat :=
  (q.pages.take i).foldl (fun h x => chainStep key h x.tokens) (chainStart key q.domain p)

/-- The next use number of a tree. -/
def nextUse (r : Isle) : Nat := r.tree.foldl (fun m n => max m (n.lastUse + 1)) 1
def nextNode (r : Isle) : Nat := r.tree.foldl (fun m n => max m (n.id + 1)) 0

def findNode (r : Isle) (hash : Nat) (toks : List Nat) : Option TreeNode :=
  r.tree.find? fun n => n.inTree && n.hash == hash && n.tokens == toks

/-- A sequence refers to a tree entry in place of page i. -/
def adoptNode (k h i : Nat) (n : TreeNode) (s : State) : State :=
  let u := nextUse (s.isle k)
  let s := s.mapIsle k fun r => { r with tree := r.tree.map fun x => if x.id = n.id then { x with refs := x.refs + 1, lastUse := u } else x }
  mapSeq k h (fun q => { q with
    pages := setPage i { state := .shared, addr := n.addr, tokens := n.tokens, node := some n.id } q.pages,
    emit := if q.managed then insNat i q.emit else q.emit }) s

/-- A completed page of a sequence created with SHARE (R304): the tree's page, or a new entry. -/
def sharePage (k h i : Nat) (s : State) : State :=
  match sipKey s k, seqOf s k h with
  | some key, some q =>
    if !q.share then s else
    let p := poolOf s k
    let x := pageAt q i
    let hash := chainOf key p q (i + 1)
    match findNode (s.isle k) hash x.tokens with
    | some n => adoptNode k h i n s
    | none =>
      let id := nextNode (s.isle k)
      let n : TreeNode := { id := id, hash := hash, domain := q.domain, addr := x.addr, tokens := x.tokens, refs := 1,
                            lastUse := nextUse (s.isle k) }
      mapSeq k h (fun q => { q with pages := q.pages.set i { x with state := .shared, node := some id } })
        (s.mapIsle k fun r => { r with tree := r.tree ++ [n] })
  | _, _ => s

/-- R299 at commit: F advances over the completed pages that start at F. -/
def completeFlush (k h : Nat) : Nat → State → State
  | 0, s => s
  | n + 1, s =>
    match seqOf s k h with
    | none => s
    | some q =>
      let p := poolOf s k
      let i := q.f / pageTok p
      let x := pageAt q i
      if x.state ≠ .staging ∨ q.c < q.f + pageTok p ∨ !((List.range p.layers).all fun l => x.copied.contains l) then s else
      let toks := (q.shoal.take (pageTok p)).map fun y => y.token
      let s := mapSeq k h (fun q => { q with
        pages := q.pages.set i { state := .committed, addr := x.addr, tokens := toks },
        shoal := q.shoal.drop (pageTok p), f := q.f + pageTok p,
        emit := if q.managed then insNat i q.emit else q.emit }) s
      completeFlush k h n (sharePage k h i s)

/-- R305: adopt the longest run of tree pages that match the tokens, at most n pages. -/
def adoptRun (k h : Nat) (toks : List Nat) : Nat → Nat → State → State
  | 0, _, s => s
  | n + 1, i, s =>
    match sipKey s k, seqOf s k h with
    | some key, some q =>
      let p := poolOf s k
      let page := (toks.drop (i * pageTok p)).take (pageTok p)
      if page.length < pageTok p ∨ q.lmax ≤ i * pageTok p then s else
      match findNode (s.isle k) (chainStep key (chainOf key p q i) page) page with
      | none => s
      | some node =>
        match leafFor k h i s with
        | none => s
        | some s => adoptRun k h toks n (i + 1) (adoptNode k h i node s)
    | _, _ => s

/-! ## Losses (R312, R313, R453) -/

/-- The home chip of a sequence (R288). -/
def homeChip (s : State) (q : Seq) : Nat := shardHost s ((maskBits q.replicas 16).headD 0)

/-- What a replica chip tells the home chip of a sequence: 7 pages lost, 8 places taken for an unpark, 10 every page restored. -/
def tellHome (k h kind : Nat) (data : Bytes) (s : State) : State :=
  match seqOf s k h with
  | none => s
  | some q => if q.home then s else ctrlTo (homeChip s q) pmCreate [k, h, kind, chipId s] data s

/-- Pages of a sequence become LOST; below C they make it BROKEN, with a SEQ_STATE event when it becomes so. A replica chip tells the
home chip, where the same pages are then LOST (log 102). -/
def losePages (k h : Nat) (idx : List Nat) (st : Status) (tide : Nat) (s : State) : State :=
  match seqOf s k h with
  | none => s
  | some q =>
    let p := poolOf s k
    -- a parked sequence has no shoal slots: with it goes what its partial pages hold
    let idx := if q.state = .parked then idx ++ ((List.range (ceilDiv q.c (pageTok p))).drop (q.f / pageTok p)) else idx
    let s := idx.foldl (fun s i => mapSeq k h (fun q => { q with pages := setPage i { state := .lost } q.pages }) (dropPage k h i (holdLeaf k h i s))) s
    let s := tellHome k h 7 (idx.flatMap (natLe 4)) s
    match seqOf s k h with
    | none => s
    | some q =>
      match (lostPages q).filter fun i => decide (i * pageTok p < q.c) with
      | [] => s
      | low :: _ => if q.state = .broken then s else seqEvent k h st (seqStateCode .broken) low tide
          ({ mapSeq k h (fun q => { q with state := .broken, eligibleSince := none }) s with unparkQ := s.unparkQ.filter fun u => !(u.1 == k && u.2 == h) })

/-- Every page of a sequence whose image is gone (R313). -/
def loseAll (k h : Nat) (st : Status) (tide : Nat) (s : State) : State :=
  match seqOf s k h with
  | none => s
  | some q =>
    let p := poolOf s k
    let s := match q.image with | some i => deallocBlocks i.slot i.blocks s | none => s
    let s := clearPages k h 0 (mapSeq k h (fun q => { q with
      image := none, content := none, unparkEnd := none, lossDue := none, unparkRead := false, unparkDone := false, unparkWanted := false,
      rewindTo := none, shoal := [], prov := [], farPlaces := [], farSent := [], farDone := [], state := if q.state = .broken then .broken else .resident, fresh := true }) s)
    freeLeaves k h (losePages k h (List.range (ceilDiv q.c (pageTok p))) st tide s)

/-- R453: the pages that hold the program addresses, or of their shoal positions, in every sequence that holds them; a SHARED page
leaves the tree. -/
def loseAddrs (k : Nat) (as : List Nat) (st : Status) (tide : Nat) (s : State) : State :=
  let p := poolOf s k
  let hit := fun b => decide (b ≠ 0) && as.any fun a => decide (b ≤ a) && decide (a < b + pageBytes p)
  let s := (s.isle k).seqs.foldl (fun s q =>
    let byPage := (List.range q.2.pages.length).filter fun i => hit (pageAt q.2 i).addr && (pageAt q.2 i).state != .lost
    let bySlot := (List.range q.2.shoal.length).filterMap fun j =>
      let b := shoalAddr p q.2.owner ((q.2.shoal[j]?.map fun x => x.slot).getD 0)
      if as.any (fun a => decide (b ≤ a) && decide (a < b + tokRec p)) then some ((q.2.f + j) / pageTok p) else none
    let idx := (byPage ++ bySlot).foldl (fun l i => insNat i l) []
    if idx.isEmpty then s else losePages k q.1 idx st tide s) s
  pruneTree k (s.mapIsle k fun r => { r with tree := r.tree.map fun n => if hit n.addr then { n with inTree := false, poisoned := true } else n })

/-- An address that lies in the pools. -/
def poolAddr (s : State) (k a : Nat) : Bool := inPool (s.isle k) (poolView s k) a 1

/-! ## Rewind (R301, Table 12.7) -/

/-- Tap rows at positions L and above become uncaptured again (R279). -/
def untap (k h l : Nat) (s : State) : State :=
  s.mapIsle k fun r => { r with taps := r.taps.map fun t =>
    if t.state = .armed ∧ t.seq = h then { t with captured := t.captured.filter (fun q => q < l), missed := t.missed.filter fun q => q < l } else t }

/-- Positions jP to L - 1 copied from page j into free shoal slots with their tokens (step 5). -/
def copyBack (k h j l : Nat) (s : State) : Option State :=
  match seqOf s k h with
  | none => none
  | some q =>
    let p := poolOf s k
    let v := poolView s k
    let n := l - j * pageTok p
    let slots := (freeSlots s k q.owner).take n
    if slots.length < n then none else
    let x := pageAt q j
    let s := (List.range n).foldl (fun s t => (lanes p).foldl (fun s lh =>
      copyProg k v (pageVec p x.addr lh.1 lh.2 t) (slotVec p q.owner (slots.getD t 0) lh.1 lh.2) p.vec s) s) s
    some (mapSeq k h (fun q => { q with
      shoal := (List.range n).map fun t => { slot := slots.getD t 0, token := x.tokens.getD t 0 } }) s)

/-- What follows every effective rewind: C, the marks of Table 12.4 and R19, staging pages, taps, the shadow image. -/
def rewound (k h l : Nat) (s : State) : State :=
  let s := match seqOf s k h with
    | some q => (match q.image with | some i => deallocBlocks i.slot i.blocks s | none => s)
    | none => s
  let s := mapSeq k h (fun q => { q with
    c := l, state := .resident, rewound := true, needInput := true, cont := false, image := none, rewindTo := none, rewindHold := false, eligibleSince := none,
    pages := q.pages.map fun x => if x.state = .parked then { x with state := if x.node.isSome then .shared else .committed } else x }) s
  untap k h l (allocStaging k h (freeLeaves k h s)).2

/-- Steps 1 to 5 and 8 of Table 12.7 on a RESIDENT or BROKEN sequence. -/
def rewindSeq (k h l : Nat) (s : State) : Status × State :=
  match seqOf s k h with
  | none => (.eDenied, s)
  | some q =>
    let p := poolOf s k
    let pt := pageTok p
    let j := l / pt
    if q.c < l then (.eBadarg, s)
    else if q.state == .broken && (match (lostPages q).head? with | some i => decide (pt * i < l) | none => false) then (.eState, s)
    else if l = q.c ∧ q.state ≠ .broken then (.sOk, s)
    else if q.f ≤ l then
      -- a page that loses positions which its copies hold is copied again (R299)
      let s := mapSeq k h (fun q => { q with
        shoal := q.shoal.take (l - q.f),
        pages := q.pages.mapIdx fun i x => if x.state = .staging ∧ l < (i + 1) * pt then { x with copied := [] } else x }) s
      let s := dropPages k h (j + 1) s
      -- a page LOST with its shoal positions leaves with them (step 8; log 34)
      (.sOk, rewound k h l (if (pageAt q j).state = .lost then dropPage k h j s else s))
    else
      let s1 := mapSeq k h (fun q => { q with shoal := [] }) (dropPages k h (j + 1) s)
      if l = j * pt then (.sOk, rewound k h l (mapSeq k h (fun q => { q with f := l }) (dropPage k h j s1)))
      else match copyBack k h j l s1 with
        | none => (.eNores, s)
        | some s2 => (.sOk, rewound k h l (mapSeq k h (fun q => { q with f := j * pt }) (dropPage k h j s2)))

/-! ## Destroying a sequence (R315) -/

/-- A tap becomes DONE and says so (R279). -/
def tapDone (k id tide : Nat) (s : State) : State :=
  let t := (s.isle k).taps.getD id {}
  postEventAt tide k .sOk 0 8 id t.captured.length t.missed.length
    (s.mapIsle k fun r => { r with taps := setAt r.taps id fun t => { t with state := .done } })

/-- Taps armed for a sequence become DONE with the rows counted so far. -/
def tapsEnd (k h tide : Nat) (s : State) : State :=
  ((List.range 8).filter fun i => ((s.isle k).taps.getD i {}).state == .armed && ((s.isle k).taps.getD i {}).seq == h).foldl
    (fun s i => tapDone k i tide s) s

/-- A sequence counts as active for its program (R467). -/
def isActive (q : Seq) (g : Nat) : Bool := q.prog == some g && q.home && q.state != .parked

def activeCount (r : Isle) (g : Nat) : Nat := (r.seqs.filter fun q => isActive q.2 g).length

/-- A sequence leaves the active count of its program (R468). -/
def noteLeft (k h : Nat) (s : State) : State :=
  match seqOf s k h with
  | some q =>
    match q.prog with
    | some g => if isActive q g then addPressure k (fun x => { x with gone := aSet g ((aGet x.gone g).getD 0 + 1) x.gone }) s else s
    | none => s
  | none => s

def unbindStream (k h : Nat) (x : Option Nat) (s : State) : State :=
  match x with
  | some st => mapStream k st (fun y => if y.bound = some h then { y with bound := none } else y) s
  | none => s

/-- Everything a sequence holds is freed. -/
def freeSeq (k h tide : Nat) (s : State) : State :=
  match seqOf s k h with
  | none => s
  | some q =>
    let s := noteLeft k h s
    let s := tapsEnd k h tide s
    let s := match q.image with | some i => deallocBlocks i.slot i.blocks s | none => s
    let s := match q.parkImage with | some i => deallocBlocks i.slot i.blocks s | none => s
    let s := dropPages k h 0 s
    let s := unbindStream k h q.outStream (unbindStream k h q.inStream s)
    let s := { s with unparkQ := s.unparkQ.filter fun u => !(u.1 == k && u.2 == h) }
    s.mapIsle k fun r => { r with seqs := aDel r.seqs h, tables := aDel r.tables h }

/-! ## A stack that stops answering (R165, R313) -/

/-- A page whose bytes lie in part in frames of a stack. -/
def pageInStack (s : State) (k v a n stack : Nat) : Bool :=
  a != 0 && (List.range (ceilDiv (a % 2 ^ 21 + n) (2 ^ 21))).any fun i =>
    match translate s k v none (if i = 0 then a else a - a % 2 ^ 21 + i * 2 ^ 21) with
    | some (.hbm x) => x / 2 ^ 21 % 512 / 64 == stack
    | _ => false

/-- R165: the fatal bit, and units that read as poisoned. -/
def execStackFail (stack : Nat) (s : State) : Host.Outcome State Fault Refusal :=
  if !isReady s || s.mems.stackFail.contains stack then .next s else
  .next (recordFault dHbm 0 5 { unit := stack } [] (s.mapMems fun m => { m with stackFail := insNat stack m.stackFail }))

/-- R313, at a boundary (R291): pages and tree entries in the frames of stacks that do not answer are LOST. -/
def loseStackPages (b : Nat) (s : State) : State :=
  s.mems.stackFail.foldl (fun s stack => (List.range 32).foldl (fun s k =>
    if (s.isle k).pool.isNone then s else
    let n := pageBytes (poolOf s k)
    let v := poolView s k
    let s := (s.isle k).seqs.foldl (fun s q =>
      let idx := (List.range q.2.pages.length).filter fun i => pageInStack s k v (pageAt q.2 i).addr n stack
      if idx.isEmpty then s else losePages k q.1 idx .ePoison b s) s
    pruneTree k (s.mapIsle k fun r => { r with
      tree := r.tree.map fun x => if pageInStack s k v x.addr n stack then { x with inTree := false, poisoned := true } else x })) s) s

end Sys2Proof.Machine
end

