-- ==== Sys2Proof/Machine/Park.lean ====
section
/-! DEFINITION. Parking and unparking (R12 to R14, R20, R192, R193, R307 to R312, R416), the moves of tiering (R287), replicas of a
sequence (R288), and the stream doorbell that wakes one (R114, R472). -/

namespace Sys2Proof.Machine

/-! ## The life governor's buckets (R192, R193) -/

/-- Write share of an isle on a slot, in bytes per second. -/
def isleRate (s : State) (slot k : Nat) : Nat := (s.isle k).grant.share.getD slot 0 * (s.caySlot slot).rg / 1000

def bucketDepth (s : State) (slot k : Nat) : Nat := 3600 * isleRate s slot k

/-- The bucket with its accrual up to now; a bucket that does not exist yet is full. -/
def bucketNow (s : State) (slot k : Nat) : Bucket :=
  match aGet (s.caySlot slot).buckets k with
  | none => { credit := bucketDepth s slot k, tick := tideNow s }
  | some b =>
    let c := min (bucketDepth s slot k : Int) (b.credit + (isleRate s slot k * (tideNow s - b.tick) / 100000000 : Nat))
    { b with credit := c, tick := tideNow s, debt := b.debt && decide (c ≤ 0) }

/-- A bucket that went negative admits no park until it is above zero again (R196). -/
def setBucket (slot k : Nat) (f : Bucket → Bucket) (s : State) : State :=
  let b := f (bucketNow s slot k)
  let b := { b with debt := b.debt || decide (b.credit < 0) }
  s.mapCay slot fun c => { c with buckets := aSet k b c.buckets }

/-- Buckets brought up to now, before the rate or a share changes (R192). -/
def accrueBuckets (i : Nat) (s : State) : State :=
  (s.caySlot i).buckets.foldl (fun s b => setBucket i b.1 (fun x => x) s) s

/-- Milliseconds until the credit covers what is queued and a charge; none when it never does. -/
def creditWait (s : State) (slot k charge : Nat) : Option Nat :=
  let b := bucketNow s slot k
  let need := (b.queued + charge : Int) - b.credit
  if need ≤ 0 then some 0
  else if isleRate s slot k = 0 then none
  else some (ceilDiv (need.toNat * 1000) (isleRate s slot k))

/-! ## Blocks of a cartridge (R188, R189) -/

def totalBlocks (s : State) (slot : Nat) : Nat := (s.caySlot slot).info.capacityGiB * 512 - 1

/-- Images of an isle on a slot that hold blocks: parked or shadow, being written, and migrated ones that wait for their switch. -/
def imagesOf (s : State) (k slot : Nat) : List Image :=
  ((s.isle k).seqs.flatMap fun q => (q.2.image.toList ++ q.2.parkImage.toList).filter fun i => i.slot == slot && !i.blocks.isEmpty) ++
    ((s.caySlot slot).migrated.filter fun m => m.1.1 == k).map fun m => m.2

def imageBlocks (bytes : Nat) : Nat := ceilDiv bytes (2 ^ 21)

/-- An isle's quota use on a slot, with the parks that are admitted and have no run of blocks yet. -/
def isleBlocks (s : State) (k slot : Nat) : Nat :=
  ((imagesOf s k slot).map fun i => i.blocks.length).sum + ((s.isle k).seqs.map fun q => match q.2.parkImage with
    | some i => if i.slot = slot ∧ i.blocks.isEmpty then imageBlocks i.bytes else 0
    | none => 0).sum

def busyBlocks (s : State) (slot : Nat) : List Nat :=
  ((List.range 32).flatMap fun k => (imagesOf s k slot).flatMap fun i => i.blocks) ++ (s.caySlot slot).dealloc

/-- The lowest run of n of a slot's blocks that are not busy. -/
def lowestRun (s : State) (slot n : Nat) (busy : List Nat) : Option (List Nat) :=
  let starts := 0 :: busy.map (· + 1)
  let ok := starts.filter fun a => decide (a + n ≤ totalBlocks s slot) && !busy.any fun b => decide (a ≤ b) && decide (b < a + n)
  match ok with
  | [] => none
  | a :: l => let lo := l.foldl min a; some ((List.range n).map fun i => lo + i)

/-- The lowest run of n free blocks; none while the deallocation of a bring-up goes on. -/
def freeRun (s : State) (slot n : Nat) : Option (List Nat) :=
  if (s.caySlot slot).wipe then none else lowestRun s slot n (busyBlocks s slot)

/-- A run that deallocations in progress will free (15_isles.md, corner cases). -/
def freedLater (s : State) (slot n : Nat) : Bool :=
  (lowestRun s slot n ((busyBlocks s slot).filter fun b => !(s.caySlot slot).dealloc.contains b)).isSome

/-- Free quota of an isle on a slot, in blocks. -/
def freeQuota (s : State) (k slot : Nat) : Nat := (s.isle k).grant.cay.getD slot 0 * 512 - isleBlocks s k slot

/-- A slot to which parks are written (R193): ONLINE, in service, with no retirement or quiesce in progress (R187, R198). -/
def takesParks (s : State) (slot : Nat) : Bool :=
  (s.caySlot slot).state == .online && !(s.caySlot slot).retired && unitState s 4 slot == 0 && s.quiesce.isNone

/-- A slot from which images are read (Table 8.4, R198). -/
def servesReads (s : State) (slot : Nat) : Bool :=
  let st := (s.caySlot slot).state
  (st == .online || st == .readOnly || st == .ejecting) && s.quiesce.isNone

/-- R193: of the slots with free quota, the one with more credit, the lower on a tie. -/
def chooseSlot (s : State) (k need : Nat) : Option Nat :=
  match (List.range 2).filter fun i => takesParks s i && decide (need ≤ freeQuota s k i) with
  | [] => none
  | [i] => some i
  | i :: j :: _ => if (bucketNow s i k).credit < (bucketNow s j k).credit then some j else some i

/-! ## The image (R309, R416) -/

/-- Bytes of an image before compression. -/
def rawBytes (p : KvPool) (q : Seq) : Nat := q.f / pageTok p * pageBytes p + (q.c - q.f) * vecBytes p + 4 * q.c

/-- The contents of pages and shoal positions, and whether a poisoned line was read. -/
def captureImage (s : State) (k : Nat) (q : Seq) : List (Bytes × List Nat) × List (Bytes × Nat) × Bool :=
  let p := poolOf s k
  let v := poolView s k
  let pages := (List.range (q.f / pageTok p)).map fun i =>
    ((readProg s k v none (pageAt q i).addr (pageBytes p)).getD [], (pageAt q i).tokens)
  let slots := q.shoal.map fun x => ((readProg s k v none (shoalAddr p q.owner x.slot) (vecBytes p)).getD [], x.token)
  let bad := (pages.any fun x => x.1.any fun b => b.2) || slots.any fun x => x.1.any fun b => b.2
  (pages.map fun x => (x.1.map fun b => b.1, x.2), slots.map fun x => (x.1.map fun b => b.1, x.2), bad)

/-- Table 12.11. -/
def imageHeader (h : Nat) (p : KvPool) (i : Image) : Bytes :=
  natLe 4 0x4B565031 ++ natLe 4 1 ++ natLe 4 i.epoch ++ natLe 4 h ++ natLe 4 i.c ++ natLe 4 i.f ++ natLe 4 i.step ++
  natLe 2 p.pageLog2 ++ natLe 2 p.layers ++ natLe 2 p.heads ++ natLe 2 p.vec ++ natLe 4 0 ++ natLe 8 (i.bytes - 144) ++
  natLe 8 i.seed ++ natLe 8 i.domain ++ natLe 8 i.chain ++ natLe 12 i.nonce ++ List.replicate 44 0

/-- The image as it is written: header, body and tag under the key of its epoch (R309, R416). The body is a compression that is the
device's own, free bytes here (log 3). -/
def sealImage (s : State) (h : Nat) (p : KvPool) (i : Image) : Bytes :=
  let hd := imageHeader h p i
  let x := gcmSeal ((keyOf s (.epoch i.epoch)).getD []) (natLe 12 i.nonce) hd ((List.range (i.bytes - 144)).map (Config.imageByte s.clk.freeCtr))
  hd ++ x.1 ++ x.2

/-- What the cartridge delivered for an image is one that the key of the epoch in its header opens (R312, R416); the device tries no other. -/
def openImage (s : State) (k : Nat) (i : Image) (b : Bytes) : Bool :=
  let e := fieldB b 8 4
  decide (b.length = i.bytes) && decide (144 ≤ i.bytes) && epochLive s k e &&
    (match keyOf s (.epoch e) with
     | some key => (gcmOpen key (sliceB b 72 12) (b.take 128) (sliceB b 128 (i.bytes - 144)) (b.drop (i.bytes - 16))).isSome
     | none => false)

/-- Why a PARKED sequence's image cannot be read now (R185, R198): its slot is being quiesced, or is REFUSED. -/
def imageStop (s : State) (q : Seq) : Option Status :=
  if q.state ≠ .parked ∨ q.tierOnePark then none else
  match q.image with
  | none => none
  | some i =>
    let c := s.caySlot i.slot
    if c.state = .quiesced ∨ s.quiesce.isSome then some .eState
    else if c.state = .refused then some (if c.authOnly then .eCartAuth else .eCart)
    else none

/-! ## Queueing an unpark (R13, R308, R311) -/

def queueUnpark (k h : Nat) (s : State) : State :=
  if s.unparkQ.contains (k, h) then s else { s with unparkQ := s.unparkQ ++ [(k, h)] }

/-- A wake: a PARKED sequence is queued for its unpark; a park without its final flush is abandoned, a later one is followed by an
unpark; a sequence in another state is not affected. DESIGN CHOICE (log 100): on a replica chip that is not the home chip a wake has no
effect; the image and the queue are the home chip's. -/
def wakeSeq (k h : Nat) (s : State) : State :=
  match seqOf s k h with
  | none => s
  | some q =>
    match q.state with
    | .parked => if q.home then queueUnpark k h s else s
    | .parking =>
      if q.parkFlush then mapSeq k h (fun q => { q with unparkWanted := true }) s
      else mapSeq k h (fun q => { q with abandon := q.abandon.or (some .eRetry) }) s
    | _ => s

/-- Accepted SEQ_REWINDs of an isle that have not executed, by handle. -/
def waitingRewinds (s : State) (k : Nat) : List (Nat × Nat) :=
  ((s.func k).cmds.filter fun c => c.hdr.opcode == 0x0506 && c.phase == .boundary).map fun c => (fieldB c.payload 0 4, fieldB c.payload 4 4)

/-- A rewind to l starts an unpark of pages 0 to j, or abandons a park (Table 12.7, steps 6 and 7). One that finds the sequence away from
its working tier is applied before any input is consumed. -/
def wakeForRewind (k h l : Nat) (s : State) : State :=
  match seqOf s k h with
  | none => s
  | some q =>
    let s := if q.state = .parked ∧ q.rewindTo.isNone then mapSeq k h (fun q => { q with rewindTo := some l }) s else s
    let s := if q.state = .parked ∨ q.state = .unparking then mapSeq k h (fun q => { q with rewindHold := true }) s else s
    wakeSeq k h s

/-- Rewinds that wait; one whose image cannot be read ends at this boundary (imagePre). -/
def serveRewinds (k : Nat) (s : State) : State :=
  (waitingRewinds s k).foldl (fun s w =>
    match seqOf s k w.1 with
    | none => s
    | some q => if (imageStop s q).isSome then s else wakeForRewind k w.1 w.2 s) s

/-! ## Parking (R307, R310) -/

/-- Pages, slots and the sequence as a finished park to a cartridge leaves them. -/
def parkFree (k h : Nat) (s : State) : State :=
  let s := noteLeft k h s
  mapSeq k h (fun q => { q with
    state := .parked, shoal := [], prov := [], pages := [], moves := [], moved := [], emit := [], eligibleSince := none })
    (dropPages k h 0 s)

/-- Other chips that hold a copy of a sequence. -/
def replicaChips (s : State) (q : Seq) : List Nat := if q.home then otherPartners s q.replicas else []

/-- The replica chips that are present. -/
def presentReplicas (s : State) (q : Seq) : List Nat := (replicaChips s q).filter fun j => s.arch.present.testBit j

/-- A message of the home chip to every replica chip about a sequence (R12, R288, R307, R311): kind 0 create, 1 destroy, 2 a park is
complete, 3 an unpark begins, 4 park to tier one, 5 unpark from it, 9 every page has been copied. -/
def tellReplicas (k h kind : Nat) (data : Bytes) (s : State) : State :=
  match seqOf s k h with
  | none => s
  | some q => (replicaChips s q).foldl (fun s j => ctrlTo j pmCreate [k, h, kind, chipId s] data s) s

/-- Page i of a sequence moves to a place, contents and poison with it; every sequence that refers to the same SHARED page finds it
there. -/
def movePageTo (k h i a : Nat) (s : State) : State :=
  match seqOf s k h with
  | none => s
  | some q =>
    let p := poolOf s k
    let x := pageAt q i
    let s := copyProg k (poolView s k) x.addr a (pageBytes p) s
    match x.node with
    | none => mapSeq k h (fun q => { q with
        pages := q.pages.set i { x with addr := a }, emit := if q.managed then insNat i q.emit else q.emit }) s
    | some id => s.mapIsle k fun r => { r with
        tree := r.tree.map (fun n => if n.id = id then { n with addr := a } else n),
        seqs := r.seqs.map fun q => (q.1, { q.2 with
          pages := q.2.pages.map fun y => if y.node = some id then { y with addr := a } else y,
          emit := if q.2.managed then (List.range q.2.pages.length).foldl (fun l j =>
            if (pageAt q.2 j).node = some id then insNat j l else l) q.2.emit else q.2.emit }) }

/-- Whether an address lies in the shelf pool. -/
def onShelf (p : KvPool) (a : Nat) : Bool := decide (p.shelfLen ≠ 0) && decide (p.shelfBase ≤ a) && decide (a < p.shelfBase + p.shelfLen)

/-- R307, target 1: shelf pages, SHARED ones too, go to the tier-one pool, the shoal into the STAGING pages, everything becomes
PARKED. -/
def parkTierOne (k h : Nat) (s0 : State) : Status × State :=
  match seqOf s0 k h with
  | none => (.eDenied, s0)
  | some q =>
    let p := poolOf s0 k
    let v := poolView s0 k
    let (ok, s) := allocStaging k h s0
    if !ok then (.eNores, s0) else
    let there := fun (q : Seq) (i : Nat) => (pageAt q i).state != .free && onShelf p (pageAt q i).addr
    let moved := ((List.range ((seqOf s k h).getD q).pages.length).filter fun i => there ((seqOf s k h).getD q) i).foldl
      (fun (acc : Option State) i => acc.bind fun s =>
        match takePlace k [false] (s.isle k).tree.length s with
        | (some a, s) => some (movePageTo k h i a s)
        | (none, _) => none) (some s)
    match moved with
    | none => (.eNores, s0)
    | some s =>
      let q := (seqOf s k h).getD q
      let bad := (List.range q.pages.length).any (fun i => (pageAt q i).node.isNone && (pageAt q i).addr != 0 &&
          !(poisonedLines s k v none (pageAt q i).addr (pageBytes p)).isEmpty && (pageAt q i).state == .committed) ||
        q.shoal.any fun x => !(poisonedLines s k v none (shoalAddr p q.owner x.slot) (vecBytes p)).isEmpty
      if bad then (.ePoison, losePages k h (List.range (ceilDiv q.c (pageTok p))) .ePoison (tideNow s0) s0) else
      let s := (List.range q.shoal.length).foldl (fun s j =>
        let t := q.f + j
        (lanes p).foldl (fun s lh => copyProg k v (slotVec p q.owner ((q.shoal[j]?.map fun x => x.slot).getD 0) lh.1 lh.2)
          (pageVec p (pageAt q (t / pageTok p)).addr lh.1 lh.2 t) p.vec s) s) s
      let toks := q.shoal.map fun x => x.token
      let s := noteLeft k h s
      (.sOk, mapSeq k h (fun q => { q with
        state := .parked, tierOnePark := true, shoal := [], prov := [], moves := [], moved := [], emit := [], eligibleSince := none,
        pages := q.pages.mapIdx fun i x =>
          if x.state = .free then x
          else if x.state = .staging then { x with state := .parked, tokens := (toks.drop (i * pageTok p - q.f)).take (pageTok p) }
          else { x with state := .parked } }) s)

def pauseParkCmd (k h : Nat) (c : Cmd) (s : State) : State := mapSeq k h (fun q => { q with parkCmd := some c.seq }) s

/-- The words of a finished park: the image in KiB and its key epoch. -/
def parkWords (i : Image) : Words := { w0 := ceilDiv i.bytes 1024, w1 := i.epoch }

/-- A migrated image that will not be switched: its blocks on the target slot are deallocated (R197, R201). -/
def dropMigration (target k h : Nat) (s : State) : State :=
  match (s.caySlot target).migrated.find? fun m => m.1.1 == k && m.1.2 == h with
  | none => s
  | some m => deallocBlocks target m.2.blocks
      (s.mapCay target fun x => { x with migrated := x.migrated.filter fun m => !(m.1.1 == k && m.1.2 == h) })

/-- R307, target 0, at its boundary: R310, R193, or the beginning of the image. DESIGN CHOICE (log 117): a park that quota and credit admit
waits for its run of blocks where the slot's free blocks hold none and no deallocation will make one (R202). -/
def parkCart (fn : Nat) (c : Cmd) (k h tide : Nat) (s : State) : State :=
  match seqOf s k h with
  | none => finishAt tide fn c.seq .eDenied 0 {} s
  | some q =>
    -- an image that leaves its slot is not written again there, but to the other slot (R197)
    let shadow := match q.image with
      | some i => if epochLive s k i.epoch && (s.caySlot i.slot).eject.isNone then some i else none
      | none => none
    match shadow, (s.isle k).keys.current with
    | some i, _ => finishAt tide fn c.seq .sOk 0 (parkWords i) (parkFree k h (tellReplicas k h 2 [] s))
    | none, none => finishAt tide fn c.seq .eState 0 {} s
    | none, some e =>
      if !((List.range 2).any fun i => takesParks s i) then finishAt tide fn c.seq .eCart 0 {} s else
      let (v, s) := drawNat s
      let bytes := 144 + v % (rawBytes (poolOf s k) q + 1)
      match chooseSlot s k (imageBlocks bytes) with
      | none => finishAt tide fn c.seq .eNores 0 {} s
      | some slot =>
        match creditWait s slot k bytes with
        | none => finishAt tide fn c.seq .eNores 65535 {} s
        | some ms =>
          let run := freeRun s slot (imageBlocks bytes)
          if (s.isle k).grant.parkWait < ms ∨ (bucketNow s slot k).debt then finishAt tide fn c.seq .eNores (min 65535 ms) {} s
          else if run.isNone ∧ freedLater s slot (imageBlocks bytes) then finishAt tide fn c.seq .eBusy (jobMs s) {} s else
          let bl := run.getD []
          let key := (sipKey s k).getD 0
          let img : Image := { slot := slot, blocks := bl, bytes := bytes, epoch := e, c := q.c, f := q.f, step := q.step, seed := q.seed,
                               domain := q.domain, chain := chainOf key (poolOf s k) q (q.f / pageTok (poolOf s k)) }
          let s := (List.range 2).foldl (fun s i => dropMigration i k h s) s
          let s := setBucket slot k (fun b => { b with queued := b.queued + bytes }) s
          pauseParkCmd k h c (pendAt tide fn c.seq (mapSeq k h (fun q => { q with
            state := .parking, parkImage := some img, parkStart := none, parkFlush := false, abandon := none, eligibleSince := none,
            pages := q.pages.map fun x => if x.state = .free then x else { x with state := .inFlight } }) s))

/-- Pages of an abandoned park are again what they were. -/
def unfly (p : KvPool) (q : Seq) : List Page :=
  q.pages.mapIdx fun i x =>
    if x.state != .inFlight then x
    else if decide (q.f / pageTok p ≤ i) then { x with state := .staging }
    else { x with state := if x.node.isSome then .shared else .committed }

/-- The command that waits for a park ends. -/
def endParkCmd (k h : Nat) (st : Status) (w : Words) (tide : Nat) (s : State) : State :=
  match (seqOf s k h).bind fun q => q.parkCmd with
  | some seq => finishAt tide k seq st 0 w (mapSeq k h (fun q => { q with parkCmd := none }) s)
  | none => s

/-- Written bytes of a cartridge (R190). -/
def writtenBytes (c : CaySlot) : Nat := c.smart.duWritten * 512000 + c.sinceRead

/-- R194: the slot serves no more parks. -/
def wearOut (slot : Nat) (s : State) : State :=
  if (s.caySlot slot).state ≠ .online then s
  else setCayState slot .readOnly (recordFault dCay slot 8 { unit := slot } [] (s.mapCay slot fun c => { c with wornOut := true }))

/-- R194: W has reached the rated write life. -/
def checkWear (slot : Nat) (s : State) : State :=
  let c := s.caySlot slot
  if c.info.rated * 1000000000000 ≤ writtenBytes c then wearOut slot s else s

/-- R308: a park is abandoned; its blocks are deallocated, what it has written stays charged. -/
def abandonPark (k h : Nat) (st : Status) (tide : Nat) (s : State) : State :=
  match seqOf s k h with
  | none => s
  | some q =>
    let s := match q.parkImage with
      | some i =>
        let s := if q.parkStart.isNone then setBucket i.slot k (fun b => { b with queued := b.queued - i.bytes }) s else s
        if q.parkStart.isNone then s else checkWear i.slot (deallocBlocks i.slot i.blocks s)
      | none => s
    let s := mapSeq k h (fun q => { q with
      state := .resident, parkImage := none, parkStart := none, parkFlush := false, abandon := none, pages := unfly (poolOf s k) q }) s
    endParkCmd k h st {} tide s

/-- A park that is written and flushed (R307, R12): at the boundary its pages become FREE on every replica. -/
def completePark (k h tide : Nat) (s : State) : State :=
  match seqOf s k h with
  | none => s
  | some q =>
    let s := tellReplicas k h 2 [] s
    let s := match q.image with | some i => deallocBlocks i.slot i.blocks s | none => s
    let s := mapSeq k h (fun q => { q with image := q.parkImage, parkImage := none, parkStart := none, parkFlush := false }) (parkFree k h s)
    let s := endParkCmd k h .sOk (match q.parkImage with | some i => parkWords i | none => {}) tide s
    if q.unparkWanted then queueUnpark k h (mapSeq k h (fun q => { q with unparkWanted := false }) s) else s

/-- R193, R309, R416: the credit covers the charge, the image has its run of blocks, and is written; a poisoned page ends the park
(R453). -/
def execParkWriteStart (isle handle : Nat) (s : State) : Host.Outcome State Fault Refusal :=
  match seqOf s isle handle with
  | none => .next s
  | some q =>
    match q.parkImage with
    | none => .next s
    | some i =>
      if q.state ≠ .parking ∨ q.parkStart.isSome ∨ q.abandon.isSome ∨ q.lossDue.isSome then .next s else
      let b := bucketNow s i.slot isle
      let need := (i.bytes : Int) - b.credit
      if 0 < need ∧ isleRate s i.slot isle = 0 then .next s else
      match if i.blocks.isEmpty then freeRun s i.slot (imageBlocks i.bytes) else some i.blocks with
      | none => .next s
      | some bl =>
      let s := if need ≤ 0 then s else advanceCount (tideNow s + ceilDiv (need.toNat * 100000000) (isleRate s i.slot isle)) s
      let s := setBucket i.slot isle (fun b => { b with
        credit := b.credit - i.bytes, queued := b.queued - i.bytes, written := b.written + i.bytes }) s
      let s := s.mapCay i.slot fun x => { x with sinceRead := x.sinceRead + i.bytes }
      let n := (aGet (s.isle isle).keys.images i.epoch).getD 0
      let s := s.mapIsle isle fun r => { r with keys := { r.keys with images := aSet i.epoch (n + 1) r.keys.images } }
      let (pages, shoal, bad) := captureImage s isle q
      let i := { i with blocks := bl, nonce := n, pages := pages, shoal := shoal }
      let i := { i with sealed := sealImage s handle (poolOf s isle) i }
      let s := s.mapClk fun c => { c with freeCtr := c.freeCtr + 1 }
      let s := checkWear i.slot (mapSeq isle handle (fun q => { q with parkStart := some s.clk.ticks, parkImage := some i }) s)
      if bad then .next (endParkCmd isle handle .ePoison {} (tideNow s) (mapSeq isle handle (fun q => { q with lossDue := some .ePoison }) s))
      else .next s

/-- R307: the image is written and flushed; page effects follow at the next boundary (R291). -/
def execParkWriteDone (isle handle : Nat) (s : State) : Host.Outcome State Fault Refusal :=
  match seqOf s isle handle with
  | none => .next s
  | some q =>
    if q.state ≠ .parking ∨ q.parkStart.isNone ∨ q.parkFlush ∨ q.abandon.isSome ∨ q.lossDue.isSome then .next s else
    let s := mapSeq isle handle (fun q => { q with parkFlush := true }) s
    .next (match q.parkImage with | some i => checkWear i.slot s | none => s)

/-! ## Unparking (R311, R312) -/

/-- Another unpark is being read from the slot. -/
def slotReading (s : State) (slot : Nat) : Bool :=
  s.isles.any fun r => r.seqs.any fun q => q.2.state == .unparking && !q.2.unparkRead &&
    (match q.2.image with | some i => i.slot == slot | none => false)

/-- R467: the program's active count leaves no room for one more sequence. -/
def admissionFull (r : Isle) (g : Option Nat) : Bool :=
  match g with
  | none => false
  | some g => match aGet r.admitLimits g with | some m => decide (m ≠ 0) && decide (m ≤ activeCount r g) | none => false

def countQueued (k : Nat) (s : State) : State :=
  s.mapIsle k fun r => { r with withheld := (r.withheld.1, r.withheld.2.1, r.withheld.2.2.1, sat32 (r.withheld.2.2.2 + 1)) }

/-- The sequence is RESIDENT again (R311 step 5); a managed one's whole list of descriptors is emitted (R176). -/
def becomeResident (k h tide : Nat) (s : State) : State :=
  let s := mapSeq k h (fun q => { q with
    state := .resident, fresh := true, tierOnePark := false, unparkRead := false, unparkDone := false, content := none, unparkEnd := none,
    farHeld := q.farDone, farPlaces := [], farSent := [], farDone := [] }) s
  let s := mapSeq k h (fun q => { q with emit := if q.managed then List.range q.pages.length else [] }) (allocStaging k h s).2
  seqEvent k h .sOk (seqStateCode .resident) 0 tide s

/-- Every replica chip has said that it holds every page (R311 step 5); one that is absent holds none. -/
def replicasDone (s : State) (q : Seq) : Bool := (replicaChips s q).all fun j => q.farDone.contains j

/-- Send a message to the present replica chips that have not had it yet. -/
def tellOnce (k h kind : Nat) (data : Bytes) (s : State) : State :=
  match seqOf s k h with
  | none => s
  | some q =>
    let l := (presentReplicas s q).filter fun j => !q.farSent.contains j
    l.foldl (fun s j => ctrlTo j pmCreate [k, h, kind, chipId s] data s) (mapSeq k h (fun q => { q with farSent := q.farSent ++ l }) s)

/-- An unpark from tier one on this chip; none while shoal slots are short. -/
def restoreTierOne (k h tide : Nat) (s : State) : Option State :=
  match seqOf s k h with
  | none => none
  | some q =>
    let p := poolOf s k
    let v := poolView s k
    let n := q.c - q.f
    let slots := (freeSlots s k q.owner).take n
    if slots.length < n then none else
    let bad := (List.range n).any fun j => (lanes p).any fun lh =>
      !(poisonedLines s k v none (pageVec p (pageAt q ((q.f + j) / pageTok p)).addr lh.1 lh.2 (q.f + j)) p.vec).isEmpty
    if bad then some (losePages k h (List.range (ceilDiv q.c (pageTok p))) .ePoison tide s) else
    let s := (List.range n).foldl (fun s j => (lanes p).foldl (fun s lh =>
      copyProg k v (pageVec p (pageAt q ((q.f + j) / pageTok p)).addr lh.1 lh.2 (q.f + j))
        (slotVec p q.owner (slots.getD j 0) lh.1 lh.2) p.vec s) s) s
    let s := mapSeq k h (fun q => { q with
      shoal := (List.range n).map (fun j =>
        { slot := slots.getD j 0, token := (pageAt q ((q.f + j) / pageTok p)).tokens.getD ((q.f + j) % pageTok p) 0 }),
      pages := q.pages.mapIdx fun i x =>
        if x.state != .parked then x
        else if decide (q.f / pageTok p ≤ i) then { state := .staging, addr := x.addr }
        else { x with state := if x.node.isSome then .shared else .committed } }) s
    some (becomeResident k h tide s)

/-- An unpark from tier one of a home sequence: its replica chips restore their copies first (R311 step 5, log 102). -/
def unparkTierOne (k h tide : Nat) (s : State) : Option State :=
  match seqOf s k h with
  | none => none
  | some q => if replicasDone s q then restoreTierOne k h tide s else some (tellOnce k h 5 [] s)

/-- Places for n pages, one after the other. -/
def takePlaces (k h : Nat) : Nat → Nat → State → Option State
  | 0, _, s => some s
  | n + 1, i, s =>
    match takePage k h i { state := .inFlight } s with
    | (true, s) => takePlaces k h n (i + 1) s
    | (false, _) => none

/-- The STAGING places of a sequence, where all of them can be had. -/
def takeStaging (k h : Nat) (s : State) : Option State := if (allocStaging k h s).1 then some (allocStaging k h s).2 else none

/-- Places for n pages, slots for m positions, and the STAGING places of a whole unpark of an UNPARKING sequence; none while one is
short (R311). -/
def takeUnpark (k h n m : Nat) (s : State) : Option State :=
  match seqOf s k h with
  | none => none
  | some q =>
    let slots := (freeSlots s k q.owner).take m
    if slots.length < m then none else
    ((takePlaces k h n 0 (mapSeq k h (fun q => { q with pages := [] }) s)).bind fun s =>
      if n < q.f / pageTok (poolOf s k) then some s else takeStaging k h s).map (mapSeq k h fun q => { q with
        state := .unparking, unparkRead := false, unparkDone := false, content := none, unparkEnd := none,
        farPlaces := [], farSent := [], farDone := [], shoal := slots.map fun x => { slot := x, token := 0 } })

/-- An unpark from an image begins: places and shoal slots are taken, here and on every replica chip, and the slot reads (R311). None
while it has to wait. -/
def beginUnpark (k h tide : Nat) (s : State) : Option State :=
  match seqOf s k h with
  | none => some s
  | some q =>
    match q.image with
    | none => some s
    | some i =>
      if !epochLive s k i.epoch then some (loseAll k h .eDenied tide s) else
      if slotReading s i.slot || !servesReads s i.slot then none else
      let whole := q.f / pageTok (poolOf s k)
      let n := match q.rewindTo with | some l => min whole (l / pageTok (poolOf s k) + 1) | none => whole
      let m := if n < whole then 0 else q.c - q.f
      (takeUnpark k h n m s).map (tellReplicas k h 3 (natLe 4 n ++ natLe 4 m))

/-- Serve the unpark queue at a boundary: real-time isles first, then acceptance order (R311, R467); an isle whose tables may not
change yet waits (R173). -/
def startUnparks (tide : Nat) (s : State) : State :=
  let q := s.unparkQ
  let order := (q.filter fun u => (s.isle u.1).cls == 0) ++ q.filter fun u => (s.isle u.1).cls != 0
  order.foldl (fun s u =>
    let k := u.1
    let h := u.2
    let drop := fun (s : State) => { s with unparkQ := s.unparkQ.filter fun x => x != u }
    match seqOf s k h with
    | none => drop s
    | some x =>
      if x.state ≠ .parked then drop s
      else if heldBack (s.isle k) tide then s
      else if x.home && (imageStop s x).isSome then
        -- DESIGN CHOICE (log 118): an unpark that was queued and can no longer be read ends with an event
        seqEvent k h ((imageStop s x).getD .eState) (seqStateCode .parked) 0 tide (drop (mapSeq k h (fun q => { q with rewindTo := none }) s))
      else if x.home && admissionFull (s.isle k) x.prog then s
      else match (if x.tierOnePark then unparkTierOne k h tide s else beginUnpark k h tide s) with
        | some s => if x.tierOnePark && (match seqOf s k h with | some y => y.state == .parked | none => false) then s else drop s
        | none => mapSeq k h (fun q => { q with waited := true }) (countQueued k s)) s

/-- The words that tell a replica chip that its pages have been copied: lengths, every page's tokens, each position's token and data. -/
def unparkWords (q : Seq) (i : Image) : Bytes :=
  natLe 4 q.c ++ natLe 4 q.f ++ (q.pages.flatMap fun x => x.tokens.flatMap (natLe 4)) ++
    if q.shoal.isEmpty then [] else i.shoal.flatMap fun x => natLe 4 x.2 ++ x.1

/-- One window write of a page's bytes at a replica chip, at most 4,096 bytes of it (R324, R343). -/
def sendChunk (k h j win off : Nat) (bs : Bytes) (s : State) : State :=
  let tag := s.arch.nextTag
  addReq { tag := tag, dest := j, port := myPort s j, isle := k, dstIsle := k, unit := 0xFFFF, task := 0, flits := flitsOf bs.length,
           handle := h, msg := .peer j pmWindowWrite (winMsgArgs s k win tag off bs.length true) bs } s

/-- An UNPARKING sequence is PARKED again, with everything taken for the unpark freed, here and on the replica chips. -/
def backToParked (k h : Nat) (s : State) : State :=
  mapSeq k h (fun q => { q with
    state := .parked, rewindTo := none, unparkRead := false, unparkDone := false, content := none, unparkEnd := none, pages := [], shoal := [] })
    (dropPages k h 0 (tellReplicas k h 2 [] s))

/-- R311 step 4: the pages that have been read go to the places that each replica chip has named, through its KV window. -/
def sendCopies (k h : Nat) (s : State) : State :=
  match seqOf s k h with
  | none => s
  | some q =>
    match q.content with
    | none => s
    | some i =>
      if q.state ≠ .unparking ∨ !q.unparkRead then s else
      ((presentReplicas s q).filter fun j => !q.farSent.contains j).foldl (fun s j =>
        match aGet q.farPlaces j with
        | none => s
        | some offs =>
          ((List.range offs.length).foldl (fun s n =>
            let bs := ((i.pages[n]?).map fun x => x.1).getD []
            (List.range (ceilDiv bs.length 4096)).foldl (fun s c =>
              sendChunk k h j ((aGet q.kvWins j).getD 0) (offs.getD n 0 + 4096 * c) ((bs.drop (4096 * c)).take 4096) s) s) s) |>
            mapSeq k h fun q => { q with farSent := insNat j q.farSent }) s

/-- Page copies of a sequence that have not been acknowledged. -/
def copiesOut (s : State) (k h : Nat) : Bool := s.arch.reqs.any fun r => r.isle == k && r.unit == 0xFFFF && r.handle == h

/-- R311 steps 1 to 4: the image is read and its tag verified, and its contents are written to their places; a failed tag loses
every page (R200, R312), seen at the next boundary. -/
def execUnparkReadDone (isle handle : Nat) (read : Bytes) (s : State) : Host.Outcome State Fault Refusal :=
  match seqOf s isle handle with
  | none => .next s
  | some q =>
    match q.image with
    | none => .next s
    | some i =>
      if q.state ≠ .unparking ∨ q.unparkRead ∨ q.lossDue.isSome ∨ q.unparkEnd.isSome then .next s else
      if !openImage s isle i read then
        .next (mapSeq isle handle (fun q => { q with lossDue := some .eDenied }) (recordFault dCay i.slot 7 { unit := i.slot } [] s))
      else
      let p := poolOf s isle
      let v := poolView s isle
      let s := (List.range q.pages.length).foldl (fun s j =>
        writeBytes isle v (pageAt q j).addr (((i.pages[j]?).map fun x => x.1).getD []) s) s
      let s := (List.range q.shoal.length).foldl (fun s j =>
        writeBytes isle v (shoalAddr p q.owner ((q.shoal[j]?.map fun x => x.slot).getD 0)) (((i.shoal[j]?).map fun x => x.1).getD []) s) s
      let s := mapSeq isle handle (fun q => { q with
        unparkRead := true, unparkDone := (replicaChips s q).isEmpty, content := some i,
        pages := q.pages.mapIdx (fun j x => { x with tokens := ((i.pages[j]?).map fun y => y.2).getD [] }),
        shoal := q.shoal.mapIdx fun j x => { x with token := ((i.shoal[j]?).map fun y => y.2).getD 0 } }) s
      .next (sendCopies isle handle s)

/-- R311 steps 4 and 5: the copies to every replica chip have been acknowledged. Each chip learns what its pages hold and says at its
next boundary that they are COMMITTED; then the sequence becomes RESIDENT. -/
def execReplicaCopyDone (isle handle : Nat) (s : State) : Host.Outcome State Fault Refusal :=
  match seqOf s isle handle with
  | none => .next s
  | some q =>
    match q.content with
    | none => .next s
    | some i =>
      if q.state ≠ .unparking ∨ !q.unparkRead ∨ q.unparkDone ∨ copiesOut s isle handle ∨
          !(replicaChips s q).all (fun j => q.farSent.contains j) then .next s
      else .next (tellReplicas isle handle 9 (unparkWords q i) (mapSeq isle handle (fun q => { q with unparkDone := true }) s))

/-- A finished unpark at its boundary. An unpark of pages 0 to j alone serves the rewind that asked for it; without that rewind it
is begun again as a whole. -/
def completeUnpark (k h tide : Nat) (s : State) : State :=
  match seqOf s k h with
  | none => s
  | some q =>
    let p := poolOf s k
    if q.pages.length < q.f / pageTok p ∧ !((waitingRewinds s k).any fun w => w.1 == h && decide (w.2 / pageTok p < q.pages.length)) then
      queueUnpark k h (backToParked k h s)
    else
      becomeResident k h tide (mapSeq k h (fun q => { q with
        rewindTo := none, pages := q.pages.map fun x => if x.state = .inFlight then { x with state := .committed } else x }) s)

/-! ## Tiering (R287) -/

/-- Free places of a pool. -/
def freeCount (s : State) (k : Nat) (shelf : Bool) : Nat :=
  let held := placesHeld (s.isle k)
  ((placesOf (poolOf s k) shelf).filter fun a => !held.contains a).length

/-- COMMITTED pages of a sequence in one of the pools. -/
def pagesIn (p : KvPool) (q : Seq) (shelf : Bool) : List Nat :=
  (List.range q.pages.length).filter fun i => (pageAt q i).state == .committed && onShelf p (pageAt q i).addr == shelf

/-- The managed sequence to move out: oldest END_OF_TURN, no step in flight, pages on the shelf. -/
def moveOutVictim (s : State) (k h : Nat) : Option Nat :=
  let r := s.isle k
  let c := r.seqs.filter fun q => q.1 != h && q.2.managed && q.2.state == .resident && !inFlight r q.1 &&
    !(pagesIn (poolOf s k) q.2 true).isEmpty && q.2.moves.isEmpty
  match c with
  | [] => none
  | q :: qs => some (qs.foldl (fun (m : Nat × Seq) x => if x.2.lastEot < m.2.lastEot then x else m) q).1

/-- A managed sequence consumed a frame with END_OF_TURN: its pages are scheduled for the shelf, others for tier one if places are
short. -/
def scheduleMoves (k h : Nat) (s : State) : State :=
  match seqOf s k h with
  | none => s
  | some q =>
    if !q.managed then s else
    let p := poolOf s k
    let want := pagesIn p q false
    let s := if freeCount s k true < want.length then
        (match moveOutVictim s k h with
         | some v => mapSeq k v (fun x => { x with moves := pagesIn p x true }) s
         | none => s)
      else s
    mapSeq k h (fun q => { q with moves := want }) s

/-- R287: a page has been copied; its descriptor is rewritten at the next boundary. -/
def execPageMoveDone (isle handle page : Nat) (s : State) : Host.Outcome State Fault Refusal :=
  .next (mapSeq isle handle (fun q => if q.moves.contains page then { q with moved := insNat page q.moved } else q) s)

/-- The copied pages of a sequence switch to the other pool, each with its descriptor, while places are free and descriptors are left of
the boundary's number; no step that is in flight loses its page (R176, R287). -/
def switchMoves (k h left : Nat) (s : State) : Nat × State :=
  match seqOf s k h with
  | none => (left, s)
  | some q =>
    q.moved.foldl (fun (a : Nat × State) i =>
      let done := mapSeq k h fun q => { q with moves := q.moves.filter (· != i), moved := q.moved.filter (· != i) }
      match seqOf a.2 k h with
      | none => a
      | some q =>
        if inFlight (a.2.isle k) h then a
        else if (pageAt q i).state ≠ .committed then (a.1, done a.2)
        else if a.1 = 0 then a
        else match freePlace a.2 k [!onShelf (poolOf a.2 k) (pageAt q i).addr] with
          | none => a
          | some x => (a.1 - 1, writeDesc k h i (done (movePageTo k h i x a.2)))) (left, s)

/-! ## Page changes of a boundary (R173, R291) -/

/-- What waits for a boundary in one sequence. -/
def settleSeq (k h tide : Nat) (s : State) : State :=
  match seqOf s k h with
  | none => s
  | some q =>
    match q.lossDue with
    | some st =>
      if q.state = .parking then loseAll k h st tide (abandonPark k h st tide (mapSeq k h (fun q => { q with lossDue := none }) s))
      else loseAll k h st tide s
    | none =>
      match q.abandon with
      | some st => if q.state = .parking then abandonPark k h st tide s else mapSeq k h (fun q => { q with abandon := none }) s
      | none =>
        if q.state = .parking ∧ q.parkFlush then completePark k h tide s
        else if q.state = .unparking ∧ q.unparkEnd.isSome then
          seqEvent k h (q.unparkEnd.getD .eCart) (seqStateCode .parked) 0 tide (backToParked k h s)
        else if q.state = .unparking ∧ q.home then
          if q.unparkDone && replicasDone s q then completeUnpark k h tide s else sendCopies k h s
        else s

/-! ## Replica chips (R288, R302) -/

/-- The fields of Table 12.8's SEQ_CREATE. -/
def createSeq (p : Bytes) (home : Bool) : Seq :=
  { managed := (fieldB p 0 1).testBit 0, share := (fieldB p 0 1).testBit 1, place := fieldB p 1 1, owner := fieldB p 2 2,
    lmax := fieldB p 4 4, replicas := fieldB p 8 2, home := home, seed := fieldB p 16 8, domain := fieldB p 24 8 }

/-- The tokens of a prefix, as bytes. -/
def tokensOf (b : Bytes) : List Nat := (List.range (b.length / 4)).map fun i => fieldB b (4 * i) 4

/-- The offset of a program address in the KV window over the pools (log 8). -/
def kvOffset (p : KvPool) (a : Nat) : Nat := if onShelf p a then a - p.shelfBase else p.shelfLen + (a - p.t1Base)

/-- Pages, lengths and positions as the home chip tells of them once the pages have been copied (unparkWords). -/
def replicaUnpark (k h b : Nat) (w : Bytes) (s : State) : State :=
  match seqOf s k h with
  | none => s
  | some q =>
    let p := poolOf s k
    let base := 8 + (q.pages.countP fun x => x.state == .inFlight) * (4 * pageTok p)
    let one := 4 + vecBytes p
    let s := (List.range q.shoal.length).foldl (fun s j =>
      writeBytes k (poolView s k) (shoalAddr p q.owner ((q.shoal[j]?.map fun x => x.slot).getD 0)) (sliceB w (base + j * one + 4) (vecBytes p)) s) s
    becomeResident k h b (mapSeq k h (fun q => { q with
      c := fieldB w 0 4, f := fieldB w 4 4,
      pages := q.pages.mapIdx (fun i x => if x.state ≠ .inFlight then x else
        { x with state := .committed, tokens := tokensOf (sliceB w (8 + i * (4 * pageTok p)) (4 * pageTok p)) }),
      shoal := q.shoal.mapIdx fun j x => { x with token := fieldB w (base + j * one) 4 } }) s)

/-- A create on a replica chip: Table 12.8's payload and the adopted tokens. What this chip's tree does not hold of the adopted pages is
LOST here (log 102). -/
def replicaCreate (k h b : Nat) (w : Bytes) (s : State) : State :=
  let s := s.mapIsle k fun r => { r with seqs := aSet h (createSeq w false) r.seqs }
  let s := (openTable k h s).getD s
  let n := (w.drop 48).length / (4 * pageTok (poolOf s k))
  let s := adoptRun k h (tokensOf (w.drop 48)) n 0 s
  let len := n * pageTok (poolOf s k)
  let s := (allocStaging k h (mapSeq k h (fun q => { q with c := len, f := len }) s)).2
  match seqOf s k h with
  | none => s
  | some q => if pagesReady (poolOf s k) q then s else
      losePages k h ((List.range n).filter fun i => (pageAt q i).state == .free) .eState b s

/-- One message about a sequence at boundary b; none while it has to wait. On a replica chip the home chip's order; on the home chip the
loss of pages at a replica chip. -/
def applyTold (k h kind b : Nat) (w : Bytes) (s : State) : Option State :=
  match seqOf s k h with
  | none => some (if kind = 0 then replicaCreate k h b w s else s)
  | some q =>
    if kind = 7 then
      some (if q.home then losePages k h ((tokensOf w).filter fun i => (pageAt q i).state != .lost) .ePoison b s else s)
    else if q.home then some s
    else match kind with
      | 1 => some (freeSeq k h b s)
      | 2 => some (parkFree k h s)
      | 3 => (takeUnpark k h (fieldB w 0 4) (fieldB w 4 4) s).map fun s =>
          match seqOf s k h with
          | some q => tellHome k h 8 (q.pages.flatMap fun x => natLe 8 (kvOffset (poolOf s k) x.addr)) s
          | none => s
      | 4 => some (parkTierOne k h s).2
      | 5 => if q.state = .parked then (restoreTierOne k h b s).map (tellHome k h 10 []) else some (tellHome k h 10 [] s)
      | 9 => some (tellHome k h 10 [] (if q.state = .unparking then replicaUnpark k h b w s else s))
      | _ => some s

/-- What waits of an isle's messages about its sequences (R288, R291), in the order of arrival; one that has to wait stays, and what
follows it of the same sequence with it. -/
def applyTolds (k b : Nat) (s : State) : State :=
  let mine := s.arch.creates.filter fun x => x.1 == k
  let s := s.mapArch fun a => { a with creates := a.creates.filter fun x => x.1 != k }
  mine.foldl (fun s x =>
    let keep := s.mapArch fun a => { a with creates := a.creates ++ [x] }
    if s.arch.creates.any fun y => y.1 == k && y.2.1 == x.2.1 then keep
    else (applyTold k x.2.1 x.2.2.1 b x.2.2.2 s).getD keep) s

/-- Between steps 2 and 3: messages about replicas, parks, unparks and losses of every isle whose tables may change now (R173), then the
unpark queue. -/
def settleKv (tide : Nat) (s : State) : State :=
  startUnparks tide ((List.range 32).foldl (fun s k =>
    if (s.isle k).state ≠ .enabled ∨ heldBack (s.isle k) tide then s
    else
      let s := applyTolds k tide s
      serveRewinds k ((s.isle k).seqs.foldl (fun s q => settleSeq k q.1 tide s) s)) s)

/-- The window of lowest index over this chip's pools of an isle that is open for a home chip (R288, R343). -/
def kvWindow (s : State) (k j : Nat) : Option Nat :=
  ((s.isle k).windows.find? fun w => w.2.mask.testBit j && w.2.peerIsle == k && w.2.rights.testBit 0 && w.2.rights.testBit 2 &&
    aGet w.2.incs j == some (incOf s j)).map fun w => w.1

/-- Pages of this chip's tree that match tokens from page 0 on (R305). -/
def matchRun (r : Isle) (key : Nat) (pt : Nat) : Nat → Nat → List Nat → Nat
  | 0, _, _ => 0
  | n + 1, h, toks =>
    if toks.length < pt then 0 else
    match findNode r (chainStep key h (toks.take pt)) (toks.take pt) with
    | none => 0
    | some x => matchRun r key pt n x.hash (toks.drop pt) + 1

/-- The run of tree pages that a create would adopt here. -/
def adoptable (s : State) (k : Nat) (w : Bytes) : Nat :=
  let p := poolOf s k
  match sipKey s k with
  | none => 0
  | some key =>
    let n := (w.drop 48).length / (4 * pageTok p)
    matchRun (s.isle k) key (pageTok p) n (chainStart key (fieldB w 24 8) p) (tokensOf (w.drop 48))

/-- R288, R305: a home chip asks before a create. The answer: E_STATE without an open window over this chip's pools, else S_OK with the
length of the run found and the window. -/
def answerCreate (k h : Nat) (w : Bytes) (s : State) : State :=
  let home := shardHost s ((maskBits (fieldB w 8 2) 16).headD 0)
  match kvWindow s k home with
  | none => ctrlTo home pmCreate [k, h, 6, chipId s, statusCode .eState] [] s
  | some x => ctrlTo home pmCreate [k, h, 6, chipId s, statusCode .sOk, adoptable s k w, x] [] s

/-- Messages between the chips of a replicated sequence (R12, R288, R305, R307, R311). A home chip's question before a create (6) is answered
at once, and so is noted what a replica chip says of an unpark: its places (8), the pages restored (10). Everything else changes pages,
and waits for the next boundary (R291). -/
def execReplicaCreate (h : FlitHdr) (isle handle kind : Nat) (payload : Bytes) (s : State) : Host.Outcome State Fault Refusal :=
  .next (onCtrl h payload.length (fun s =>
    if (s.isle isle).state ≠ .enabled ∨ (s.isle isle).pool.isNone then s
    else if kind = 6 then answerCreate isle handle payload s
    else if kind = 8 then
      sendCopies isle handle (mapSeq isle handle (fun q => if q.home && q.state == .unparking then
        { q with farPlaces := aSet h.orig ((List.range (payload.length / 8)).map fun n => fieldB payload (8 * n) 8) q.farPlaces } else q) s)
    else if kind = 10 then mapSeq isle handle (fun q => if q.home then { q with farDone := insNat h.orig q.farDone } else q) s
    else s.mapArch fun a => { a with creates := a.creates ++ [(isle, handle, kind, payload)] }) s)

/-! ## Stream doorbells (R114, R472) -/

/-- A difference of counts modulo 2^32. -/
def cdiff (a b : Nat) : Nat := (a + 2 ^ 32 - b % 2 ^ 32) % 2 ^ 32

/-- A count that moves backward or lies out of range. -/
def badCount (x : Stream) (n : Nat) : Bool :=
  decide (2 ^ 31 ≤ cdiff n x.lastDb) ||
    (if x.dirOut then decide (2 ^ 31 ≤ cdiff x.producer n) else decide (x.entries < cdiff n x.consumer))

/-- R114: an accepted input doorbell announces frames and wakes the bound sequence (R13); an output doorbell gives room. -/
def ringStream (fn h n : Nat) (s : State) : State :=
  match aGet (s.isle (isleOf fn)).streams h with
  | none => s
  | some x =>
    let k := isleOf fn
    if badCount x n then streamEvent k h 2 .eBadarg n (tideNow s) s
    else if x.dirOut then mapStream k h (fun x => { x with lastDb := n, consumer := n }) s
    else
      let s := mapStream k h (fun x => { x with lastDb := n, producer := n, dbTicks := x.dbTicks ++ [(n, tideNow s)] }) s
      match x.bound with
      | some q => wakeSeq k q s
      | none => s

/-- R472: a 4-byte write at +0, or an 8-byte write whose upper half is zero; every other write is discarded. -/
def streamPut (fn handle offset size value : Nat) (s : State) : State :=
  if !barLive s fn || offset != 0 then s
  else if size = 4 ∨ (size = 8 ∧ value < 2 ^ 32) then ringStream fn handle (value % 2 ^ 32) s
  else s

def execDbStream (fn handle offset size value : Nat) (s : State) : Host.Outcome State Fault Refusal :=
  .next (streamPut fn handle offset size value s)

/-- A BAR0 write of any kind: the stream doorbells, or another register (R472, R483). -/
def execRegisterWrite (fn offset size value : Nat) (s : State) : Host.Outcome State Fault Refusal :=
  if 0x10000 ≤ offset then
    if 0x90000 ≤ offset ∨ offset % size ≠ 0 then .next s
    else .next (streamPut fn ((offset - 0x10000) / 64) ((offset - 0x10000) % 64) size value s)
  else .next (barWrite fn offset size value s)

end Sys2Proof.Machine
end

