-- ==== Sys2Proof/Machine/IsleCmd.lean ====
section
/-! DEFINITION. Chapter 15: granting and resizing, the isle commands, classes, sub-slots and the shared pool (R369 to R396). -/

namespace Sys2Proof.Machine

def byteAt (p : Bytes) (i : Nat) : Nat := fieldB p i 1

/-! ## The resource record (Table 15.2) -/

def recIsle (p : Bytes) : Nat := byteAt p 0

/-- The record as a grant; PARK_WAIT 0xFFFF takes the given value. -/
def recGrant (p : Bytes) (wait : Nat) : Grant :=
  { pool := (byteAt p 2).testBit 0, lagoons := byteAt p 3, cores := fieldB p 4 8, shelf := fieldB p 12 2, frames := fieldB p 16 4,
    table := fieldB p 20 2, streams := fieldB p 22 2, seqs := fieldB p 24 4, windows := fieldB p 28 2,
    cay := [fieldB p 32 2, fieldB p 34 2], share := [fieldB p 36 2, fieldB p 38 2],
    parkWait := if fieldB p 40 2 = 0xFFFF then wait else fieldB p 40 2 }

/-- Field ranges, reserved bytes, cores that exist in service (Table 15.4, first row). -/
def recArgs (s : State) (_ : Nat) (c : Cmd) : Bool :=
  let p := c.payload
  let g := recGrant p 0
  zeroB p 1 1 && decide (byteAt p 2 < 2) && zeroB p 14 2 && zeroB p 30 2 && zeroB p 42 6 && decide (recIsle p < 32) &&
  decide (g.lagoons ≤ 16) && decide (g.shelf ≤ 238) && decide (g.frames ≤ 195072) && decide (1 ≤ g.table) &&
  decide (g.table ≤ 4096) && decide (g.streams ≤ 8192) && decide (g.seqs ≤ 65536) && decide (g.windows ≤ 256) &&
  g.share.all (fun w => decide (w ≤ 1000)) && (decide (g.parkWait ≤ 60000)) && !(g.pool && g.cores != 0) &&
  (maskBits g.cores 64).all fun i => unitServes s 0 i

/-- GiB that isles can hold on a slot: capacity less the pairing area (R369, R188). -/
def slotQuota (s : State) (i : Nat) : Nat :=
  let c := s.caySlot i
  if c.info.capacityGiB = 0 then 0 else c.info.capacityGiB - 1

def othersSum (s : State) (k : Nat) (f : Isle → Nat) : Nat :=
  ((List.range 32).map fun j => if j = k then 0 else f (s.isle j)).sum

/-- Frames by which a grant of isle k grows: those of every view and the table frames (R162, R172). -/
def frameGrowth (s : State) (k : Nat) (g : Grant) : Nat :=
  let r := s.isle k
  ((List.range (hostedCount s)).map fun i => g.frames - (r.frames.getD i []).length).sum + (g.table - r.tableFrames.length)

def poolCores (p : Bytes) : Nat := fieldB p 0 8
def poolCount (p : Bytes) : Nat := byteAt p 16
def poolMembers (p : Bytes) : List (Nat × Nat) :=
  (List.range (poolCount p)).map fun i => (byteAt p (20 + 4 * i), fieldB p (22 + 4 * i) 2)

/-- The agreed changes of this chip that have not reached their T. -/
def ownChanges (s : State) : List Action := (s.tide.agreed.filter fun a => a.src == chipId s).map fun a => a.act

/-- A core that an agreed change still to come gives to another isle than k, or to the pool: it is granted only once (R369). -/
def claimedCore (s : State) (k c : Nat) : Bool :=
  (ownChanges s).any fun a => match a with
    | .coreChange j r => j != k && (recGrant r 0).cores.testBit c
    | .pool p => k != 32 && (poolCores p).testBit c
    | _ => false

/-- Extra lagoons that agreed changes still to come give to other isles than k (R369). -/
def claimedLagoons (s : State) (k : Nat) : Nat :=
  ((ownChanges s).map fun a => match a with
    | .coreChange j r => if j = k then 0 else (recGrant r 0).lagoons - (s.isle j).extraLagoons.length
    | _ => 0).sum

/-- The resource of which the chip is short for a new grant of isle k, by its code (Table 15.4). -/
def shortOf (s : State) (k : Nat) (g : Grant) : Option Nat :=
  let h := hostedCount s
  let r := s.isle k
  let coreTaken := (maskBits g.cores 64).any fun c =>
    s.pool.cores.testBit c || claimedCore s k c || (List.range 32).any fun j => (j != k && (s.isle j).grant.cores.testBit c) || (s.isle j).extraLagoons.contains c
  let coreScrub := (maskBits g.cores 64).any fun c =>
    !r.grant.cores.testBit c && (scrubbing s).any fun j => j.cores.contains c || j.lagoonUnits.any fun u => u / 32 == c
  if coreTaken || coreScrub then some 1
  else if g.lagoons + claimedLagoons s k > (spareLagoons s).length + r.extraLagoons.length then some 2
  else if h * g.shelf > (freeExtents s).length + r.extents.flatten.length then some 3
  else if frameGrowth s k g > framesFree s then some 4
  else if (List.range 2).any fun i => decide (g.cay.getD i 0 + (othersSum s k fun q => q.grant.cay.getD i 0) > slotQuota s i) && g.cay.getD i 0 != 0
    then some 5
  else if (List.range 2).any fun i => decide (g.share.getD i 0 + (othersSum s k fun q => q.grant.share.getD i 0) > 1000) then some 6
  else if g.seqs + (othersSum s k fun q => q.grant.seqs) > 65536 then some 7
  else if g.streams + (othersSum s k fun q => q.grant.streams) > 8192 then some 8
  else if g.windows + (othersSum s k fun q => q.grant.windows) > 4096 then some 9
  else none

/-- The outcome of Table 15.4 for a chip that is short: E_STATE with the resource that is short though every scrub in progress has ended, or
E_BUSY with the time until it is not. -/
def shortage (s : State) (k : Nat) (g : Grant) : Option (Status × Nat) :=
  match shortOf s k g with
  | none => none
  | some code =>
    match scrubsMs s fun u => (shortOf u k g).isNone with
    | some ms => some (.eBusy, ms)
    | none => some (.eState, (shortOf (settledBy s ((scrubEnds s).foldl max 0)) k g).getD code)

/-- The E_BUSY of Table 15.4: short now, not short once scrubs in progress have ended. -/
def busyShort (s : State) (k : Nat) (g : Grant) : Option (Status × Nat) :=
  match shortage s k g with
  | some (.eBusy, ms) => some (.eBusy, ms)
  | _ => none

/-- Grow a list of frames by n under R162. -/
def growFrames (s : State) (chain : List Nat) (n : Nat) (busy : List Nat) : List Nat :=
  chain ++ ((placeFrames s n (nextPc chain) (busy ++ chain)).getD [])

/-- Bring one table of every view to length n: what is cut off is returned as the second part. -/
def resizeViews (h n : Nat) (old : List (List Nat)) (grow : List Nat → Nat → List Nat → List Nat) (busy : List Nat) :
    List (List Nat) × List Nat :=
  (List.range h).foldl (fun (acc : List (List Nat) × List Nat) i =>
    let l := old.getD i []
    let l' := if l.length < n then grow l (n - l.length) (busy ++ acc.1.flatten ++ (old.drop i).flatten) else l.take n
    (acc.1 ++ [l'], acc.2 ++ l.drop n)) ([], (old.drop h).flatten)

/-- Give isle k the memory of a grant: extents and frames of every view, table frames and extra lagoons. Cores are set by the caller. -/
def regrant (k : Nat) (g : Grant) (s : State) : State :=
  -- the buckets accrue at the shares that held until now (R192)
  let s := accrueBuckets 1 (accrueBuckets 0 s)
  let s := if g.pool then s else leavePool k s
  let h := hostedCount s
  let r := s.isle k
  let (ex, exGone) := resizeViews h g.shelf r.extents (fun l n busy =>
    l ++ ((freeExtents s).filter fun e => !busy.contains e).take n) []
  let (fr, frGone) := resizeViews h g.frames r.frames (fun l n busy => growFrames s l n (framesBusy s ++ busy)) []
  let tb := if r.tableFrames.length < g.table
    then growFrames s r.tableFrames (g.table - r.tableFrames.length) (framesBusy s ++ fr.flatten) else r.tableFrames.take g.table
  let lag := if r.extraLagoons.length ≤ g.lagoons
    then (r.extraLagoons ++ (spareLagoons s).take (g.lagoons - r.extraLagoons.length)).foldl (fun a c => insNat c a) []
    else r.extraLagoons.take g.lagoons
  let s := s.mapIsle k fun r => { r with
    grant := g, extents := ex, frames := fr, tableFrames := tb, extraLagoons := lag }
  release [] exGone (frGone ++ r.tableFrames.drop g.table) [] s

/-- Lagoon units and slot map follow the cores; before ENABLED only the units are set (R132). -/
def setUnits (k : Nat) (s : State) : State := remapIsle k s

/-! ## ISLE_CREATE, ISLE_RESIZE (R374, R375) -/

def runIsleCreate (fn : Nat) (c : Cmd) (tide : Nat) (s : State) : State :=
  let k := recIsle c.payload
  let g := recGrant c.payload 2000
  match shortage s k g with
  | some (st, detail) => finishAt tide fn c.seq st detail {} s
  | none =>
    let s := s.mapIsle k fun r => { r with state := .created, target := .absent, cls := 1, overrunLimit := 4, pristine := true }
    let s := setUnits k (regrant k g s)
    finishAt tide fn c.seq .sOk 0 {} (isleStateEvent k .sOk (isleStateCode .created) (tideNow s) s)

def specIsleCreate : CmdSpec :=
  { opcode := 0x0200, pfOnly := true, plen := plenIs 48, args := recArgs,
    pre := fun s _ c =>
      let k := recIsle c.payload
      if k = 0 ∨ (s.isle k).state ≠ .absent then some (.eState, 0) else busyShort s k (recGrant c.payload 2000),
    run := runIsleCreate }

/-- The isle's state allows the change (Table 15.3): in ENABLED only growth, handle grants not below a live handle, POOL unchanged. -/
def resizeAllowed (r : Isle) (g : Grant) : Bool :=
  if r.state == .created || r.state == .disabled then true else
  r.state == .enabled && (g.pool == r.grant.pool) && decide (r.grant.shelf ≤ g.shelf) && decide (r.grant.frames ≤ g.frames) &&
  decide (r.grant.table ≤ g.table) && r.streams.all (fun x => decide (x.1 < g.streams)) &&
  r.seqs.all (fun x => decide (x.1 < g.seqs)) && r.windows.all fun x => decide (x.1 < g.windows)

def runIsleResize (fn : Nat) (c : Cmd) (tide : Nat) (s : State) : State :=
  let k := recIsle c.payload
  let r := s.isle k
  let g := recGrant c.payload r.grant.parkWait
  if !resizeAllowed r g then finishAt tide fn c.seq .eState 0 {} s else
  match shortage s k g with
  | some (st, detail) => finishAt tide fn c.seq st detail {} s
  | none =>
    let coreChange := r.state = .enabled ∧ (g.cores ≠ r.grant.cores ∨ g.lagoons ≠ r.grant.lagoons)
    if coreChange then
      -- CORES and LAGOONS change at an agreed count; the rest of the record at this boundary
      let s := regrant k { g with cores := r.grant.cores, lagoons := r.grant.lagoons } s
      let s := pendAt tide fn c.seq s
      propose (earliestT s tide) (.coreChange k c.payload) (some (fn, c.seq)) s
    else
      let s' := setUnits k (regrant k g s)
      -- an isle that is not running holds zeroed units: what it gives back needs no scrub (R376)
      finishAt tide fn c.seq .sOk 0 {} (if r.state = .enabled then s' else { s' with units := { s'.units with scrubs := s.units.scrubs } })

/-- R374 at T: cores and extra lagoons of the record, the slot map rebuilt; E_FAULT when a core or a lagoon of the record has been retired
meanwhile, E_STATE when the isle is gone (DESIGN CHOICE, log 130). -/
def applyCoreChange (k : Nat) (p : Bytes) (cmd : Option (Nat × Nat)) (t : Nat) (s : State) : State :=
  let r := s.isle k
  let g := recGrant p r.grant.parkWait
  let final := fun st w s => match cmd with | some (fn, seq) => finishAt t fn seq st 0 w s | none => s
  if r.state = .absent then final .eState {} s
  else if ((maskBits g.cores 64).any fun c => !unitServes s 0 c) || decide ((spareLagoons s).length + r.extraLagoons.length < g.lagoons)
  then final .eFault {} s else
  let s := regrant k { r.grant with lagoons := g.lagoons } s
  let gone := (maskBits r.grant.cores 64).filter fun c => !g.cores.testBit c
  let got := (maskBits g.cores 64).filter fun c => !r.grant.cores.testBit c
  let s := s.mapIsle k fun r => { r with grant := { r.grant with cores := g.cores } }
  let s := noteCores k gone got t s
  let s := remapIsle k s
  final .sOk (w64 t) (release [] [] [] gone s)

def specIsleResize : CmdSpec :=
  { opcode := 0x0201, pfOnly := true, plen := plenIs 48, args := recArgs, boundary := true,
    pre := fun s _ c =>
      let r := s.isle (recIsle c.payload)
      if !resizeAllowed r (recGrant c.payload r.grant.parkWait) then some (.eState, 0)
      else busyShort s (recIsle c.payload) (recGrant c.payload r.grant.parkWait),
    run := runIsleResize }

/-! ## ISLE_DESTROY, ENABLE, DISABLE, RESET (R376 to R378, R396) -/

/-- Byte 0 an isle, the rest reserved. -/
def isleArg (_ : State) (_ : Nat) (c : Cmd) : Bool := decide (byteAt c.payload 0 < 32) && zeroB c.payload 1 7

def argIsle (c : Cmd) : Nat := byteAt c.payload 0

/-- A target command of a QUIESCING or SCRUBBING isle: S_PENDING, or E_BUSY while another is pending (Table 15.5). -/
def targetCommand (target : IsleState) (fn : Nat) (c : Cmd) (tide : Nat) (s : State) : State :=
  let k := argIsle c
  if (s.isle k).targetCmd.isSome then finishAt tide fn c.seq .eBusy (max 1 (scrubMs s k)) {} s
  else pendAt tide fn c.seq (s.mapIsle k fun r => { r with target := target, targetCmd := some { fn := fn, seq := c.seq, target := target } })

def busyIsle (r : Isle) : Bool := r.state == .quiescing || r.state == .scrubbing

/-- A pending target command is judged as check 7 would (R110). -/
def targetBusy (s : State) (k : Nat) : Option (Status × Nat) :=
  if busyIsle (s.isle k) && (s.isle k).targetCmd.isSome then some (.eBusy, max 1 (scrubMs s k)) else none

def runIsleDestroy (fn : Nat) (c : Cmd) (tide : Nat) (s : State) : State :=
  let k := argIsle c
  if busyIsle (s.isle k) then targetCommand .absent fn c tide s
  else
    let s := clearIsle k s
    finishAt tide fn c.seq .sOk 0 {} (isleStateEvent k .sOk 0 (tideNow s) s)

def specIsleDestroy : CmdSpec :=
  { opcode := 0x0202, pfOnly := true, plen := plenIs 8, args := isleArg,
    pre := fun s _ c =>
      let k := argIsle c
      if k = 0 ∨ (s.isle k).state = .absent ∨ (s.isle k).state = .enabled then some (.eState, 0) else targetBusy s k,
    run := runIsleDestroy }

/-- An isle enabled on a command: the keys drawn, held by the service, or refused (R377). A refusal of a failed service is the
command's own refusal, at its Q (R419). -/
def runIsleEnable (fn : Nat) (c : Cmd) (tide : Nat) (s : State) : State :=
  let k := argIsle c
  if busyIsle (s.isle k) then targetCommand .enabled fn c tide s
  else if !epochsLeft s k then finishAt tide fn c.seq .eNores 0 {} s else
  match entAsk 48 (.cmd fn c.seq 48) s with
  | (.got, s) => finishAt tide fn c.seq .sOk 0 {} (becomeEnabled k s)
  | (.held, s) => pendAt tide fn c.seq s
  | (.full, s) => finishAt tide fn c.seq .eBusy (holdMs s) {} s
  | (.failed, s) => refuse fn c.seq c false .eRng 0 s

def specIsleEnable : CmdSpec :=
  { opcode := 0x0203, pfOnly := true, plen := plenIs 8, args := isleArg,
    pre := fun s _ c =>
      let k := argIsle c
      let r := s.isle k
      if r.state = .absent ∨ r.state = .enabled ∨ s.sec.lc = 4 ∨ s.sec.unlocked.isSome ∨ !vfAllows s k ∨ (!fixedShare s k && !elasticExists s.subslots) then some (.eState, 0)
      else targetBusy s k,
    run := runIsleEnable }

def runIsleDisable (fn : Nat) (c : Cmd) (tide : Nat) (s : State) : State :=
  let k := argIsle c
  if busyIsle (s.isle k) then targetCommand .disabled fn c tide s
  else finishAt tide fn c.seq .sOk 0 {} (quiesceEnter k .disabled false s)

def specIsleDisable : CmdSpec :=
  { opcode := 0x0204, pfOnly := true, plen := plenIs 8, args := isleArg, boundary := true,
    pre := fun s _ c =>
      let k := argIsle c
      let st := (s.isle k).state
      if k = 0 ∨ st = .absent ∨ st = .created ∨ st = .disabled then some (.eState, 0) else targetBusy s k,
    run := runIsleDisable }

/-- R396: in QUIESCING or SCRUBBING the reset completes S_OK and is coalesced. -/
def runIsleReset (fn : Nat) (c : Cmd) (tide : Nat) (s : State) : State :=
  let k := argIsle c
  if busyIsle (s.isle k) then finishAt tide fn c.seq .sOk 0 {} s
  else finishAt tide fn c.seq .sOk 0 {} (quiesceEnter k .enabled false s)

def specIsleReset : CmdSpec :=
  { opcode := 0x0205, pfOnly := true, plen := plenIs 8, boundary := true,
    args := fun s fn c => isleArg s fn c && decide (1 ≤ argIsle c),
    pre := fun s _ c =>
      let st := (s.isle (argIsle c)).state
      if st = .absent ∨ st = .created ∨ st = .disabled then some (.eState, 0) else none,
    run := runIsleReset }

/-! ## ISLE_QOS_SET, ISLE_QUERY (R381, R382, Table 15.11) -/

def runIsleQosSet (fn : Nat) (c : Cmd) (tide : Nat) (s : State) : State :=
  let k := argIsle c
  let lim := byteAt c.payload 2
  let s := s.mapIsle k fun r => { r with cls := byteAt c.payload 1, overrunLimit := if lim = 0 then r.overrunLimit else lim }
  finishAt tide fn c.seq .sOk 0 {} (raiseFloor s)

def specIsleQosSet : CmdSpec :=
  { opcode := 0x0206, pfOnly := true, plen := plenIs 8, boundary := true,
    args := fun _ _ c => decide (argIsle c < 32) && decide (byteAt c.payload 1 ≤ 2) && decide (byteAt c.payload 2 ≤ 16) && zeroB c.payload 3 5,
    pre := fun s _ c => if (s.isle (argIsle c)).state = .absent then some (.eState, 0) else none,
    run := runIsleQosSet }

/-- Table 15.11. -/
def isleWords (s : State) (k sel : Nat) : Words :=
  let r := s.isle k
  if sel = 0 then
    { w0 := isleStateCode r.state + r.cls * 2 ^ 8 + b2n (fixedShare s k) * 2 ^ 10 + b2n (poolMember s k) * 2 ^ 11 +
        b2n r.targetCmd.isSome * 2 ^ 12 + (execCores s k).length * 2 ^ 16 +
        (if busyIsle r then isleStateCode r.target else isleStateCode r.state) * 2 ^ 24,
      w1 := r.grant.shelf, w2 := r.grant.frames, w3 := scrubMs s k }
  else
    { w0 := r.grant.seqs, w1 := r.grant.streams + r.grant.windows * 65536,
      w2 := ownedSubslots s k + r.overrunLimit * 65536, w3 := (unitsHeld s k).length }

def runIsleQuery (fn : Nat) (c : Cmd) (tide : Nat) (s : State) : State :=
  finishAt tide fn c.seq .sOk 0 (isleWords s (argIsle c) (byteAt c.payload 1)) s

def specIsleQuery : CmdSpec :=
  { opcode := 0x0207, plen := plenIs 8, auth := fun _ fn c => fn == 0 || argIsle c == fn,
    args := fun _ _ c => decide (argIsle c < 32) && decide (byteAt c.payload 1 ≤ 1) && zeroB c.payload 2 6,
    run := runIsleQuery }

/-! ## SLOT_TABLE_SET (R383) -/

def slotOwners (p : Bytes) : List Nat := (List.range 16).map fun i => byteAt p i

/-- Some elastic isle is ENABLED and the new table leaves no elastic sub-slot. -/
def tableStrands (s : State) (l : List Nat) : Bool :=
  !elasticExists l && (List.range 32).any fun k => (s.isle k).state == .enabled && !l.contains k

def runSlotTableSet (fn : Nat) (c : Cmd) (tide : Nat) (s : State) : State :=
  match chooseT s (fieldB c.payload 16 8) with
  | none => finishAt tide fn c.seq .eBadarg 0 {} s
  | some t => propose t (.slotTable (slotOwners c.payload)) (some (fn, c.seq)) s

def specSlotTableSet : CmdSpec :=
  { opcode := 0x0209, pfOnly := true, plen := plenIs 24,
    args := fun s _ c => (slotOwners c.payload).all (fun o => decide (o < 32) || o == 255) && (chooseT s (fieldB c.payload 16 8)).isSome,
    pre := fun s _ c => if tableStrands s (slotOwners c.payload) then some (.eState, chipId s) else none,
    peerMark := true, peer := fun s _ _ => !(otherPresent s).isEmpty,
    run := runSlotTableSet }

/-! ## POOL_SET (R389 to R391) -/

/-- A core that the pool may take: in service, and neither dedicated, nor to become so, nor held through LAGOONS (R372, R389). -/
def poolMayTake (s : State) (i : Nat) : Bool :=
  unitServes s 0 i && !claimedCore s 32 i && (List.range 32).all fun k =>
    !(s.isle k).grant.cores.testBit i && !(s.isle k).extraLagoons.contains i

def poolArgs (s : State) (_ : Nat) (c : Cmd) : Bool :=
  let p := c.payload
  zeroB p 17 3 && decide (poolCount p ≤ 31) && (List.range (poolCount p)).all (fun i => zeroB p (21 + 4 * i) 1) &&
  (poolMembers p).all (fun m => decide (m.1 < 32)) && (chooseT s (fieldB p 8 8)).isSome && (maskBits (poolCores p) 64).all (poolMayTake s)

/-- R152: neither a core that joins the pool nor a unit that a member receives is being scrubbed. -/
def poolScrub (s : State) (p : Bytes) : Bool :=
  let cores := maskBits (poolCores p) 64
  let units := (poolMembers p).flatMap fun m => poolUnitsOf cores (poolMembers p) m.1
  (scrubbing s).any fun j => (cores.any fun i => j.cores.contains i || (!s.pool.cores.testBit i && j.lagoonUnits.any fun u => u / 32 == i)) ||
    units.any fun u => j.lagoonUnits.contains u

/-- A program of the isle is RUNNING. -/
def someRunning (r : Isle) : Bool := r.progs.any fun p => p.2.state == .running

/-- R389: members hold no dedicated cores, have POOL set, appear once, and their units fit; no removed member runs. -/
def poolFits (s : State) (p : Bytes) : Bool :=
  let ms := poolMembers p
  ms.all (fun m => (s.isle m.1).grant.pool && (s.isle m.1).grant.cores == 0 && decide ((ms.filter fun x => x.1 == m.1).length = 1)) &&
  decide ((ms.map fun m => m.2).sum ≤ 32 * popCount (poolCores p) 64) &&
  (poolIsles s).all (fun k => ms.any (fun x => x.1 == k) || !someRunning (s.isle k))

end Sys2Proof.Machine
end

