-- ==== Sys2Proof/Machine/ArchCmd.lean ====
section
/-! DEFINITION. Chapter 13, the commands of Table 13.12, and formation and leave at T (R326 to R329, R334, R335, R348). -/

namespace Sys2Proof.Machine

/-- Functions that exist: the PF, and VFs while VF Enable and NumVFs give them (R97). -/
def liveFns (s : State) : List Nat := 0 :: (if s.pcie.vfEnable then (List.range s.pcie.numVFs).map (· + 1) else [])

def memberMask (s : State) : Nat := if s.arch.member = 0 then 2 ^ chipId s else s.arch.member
def presentMask (s : State) : Nat := if s.arch.member = 0 then 2 ^ chipId s else s.arch.present

/-- ARCH_STATE (type 0x000C) on every function (R327). -/
def archStateEvent (tide : Nat) (s : State) : State :=
  (liveFns s).foldl (fun s fn => postEventAt tide fn .sOk 0 0x0C (memberMask s) (presentMask s) (orphaned s) s) s

/-- The lowest hosted shard, which a function's selected view returns to (R356). -/
def lowestShard (s : State) : Nat := (hostedShards s).headD 0

/-! ## ARCH_QUERY, PORT_QUERY -/

def archWords (s : State) : Words :=
  { w0 := memberMask s + presentMask s * 65536, w1 := chipId s + popCount (memberMask s) 16 * 16 + b2n s.arch.formed * 512,
    w2 := orphaned s, w3 := natMask (hostedShards s) }

def runArchQuery (fn : Nat) (c : Cmd) (tide : Nat) (s : State) : State := finishAt tide fn c.seq .sOk 0 (archWords s) s

def specArchQuery : CmdSpec := { opcode := 0x0600, plen := plenIs 0, run := runArchQuery }

def runPortQuery (fn : Nat) (c : Cmd) (tide : Nat) (s : State) : State :=
  let p := byteAt c.payload 0
  let r := s.port p
  let w : Words := { w0 := portStateCode r.state + r.peer.1 * 16 + r.peer.2 * 256, w1 := r.latency, w2 := r.replays, w3 := r.stale }
  finishAt tide fn c.seq .sOk 0 w (s.mapPort p fun r => { r with replays := 0, stale := 0 })

def specPortQuery : CmdSpec :=
  { opcode := 0x0603, pfOnly := true, plen := plenIs 8,
    args := fun _ _ c => decide (byteAt c.payload 0 < 15) && zeroB c.payload 1 7, run := runPortQuery }

/-! ## ARCH_FORM (R327, R328) -/

def formMask (c : Cmd) : Nat := fieldB c.payload 0 2

/-- An isle has a program RUNNING or an invocation in flight. -/
def isleBusy (r : Isle) : Bool := someRunning r || !r.invs.isEmpty

/-- Chip j is wired to this one (R29): it is one of the board's chips. A port that has trained shows that its peer is, and with it every chip
of a lower ID (DEDUCED, log 135). -/
def wired (s : State) (j : Nat) : Bool :=
  let known := ((List.range 15).filter fun p => (s.port p).state != .idle || (aGet s.arch.incs (peerAt s p)).isSome).map (peerAt s)
  decide (j ≤ known.foldl max (chipId s)) || decide (j < Config.boardChips)

/-- What this chip can judge of Table 13.5: a wired chip whose port does not train has ARCH_EN = 0 or is not READY. The other chips of the
mask judge their own part (R111). A rejoin asks nothing of a member that is absent: it restores those that meet the table (R328). -/
def formCheck (s : State) (mask : Nat) : Option (Status × Nat) :=
  let me := chipId s
  if !s.boot.archEn || !s.tide.aligned || !isReady s then some (.eState, me) else
  let need := (maskBits (if rejoins s mask then s.arch.present else mask) 16).filter fun j => j != me
  match need.find? fun j => (s.port (myPort s j)).state == .idle || (s.port (myPort s j)).state == .training with
  | some j => some (.eState, j)
  | none =>
  match need.find? fun j => !joined s mask j with
  | some j => some (.eState, min me j)
  | none => if mask ≠ memberMask s ∧ s.isles.any isleBusy then some (.eState, me) else none

def runArchForm (fn : Nat) (c : Cmd) (tide : Nat) (s : State) : State :=
  match chooseT s (fieldB c.payload 8 8) with
  | none => finishAt tide fn c.seq .eBadarg 0 {} s
  | some t => propose t (.archForm (formMask c)) (some (fn, c.seq)) s

def specArchForm : CmdSpec :=
  { opcode := 0x0601, pfOnly := true, plen := plenIs 16,
    args := fun s _ c =>
      zeroB c.payload 2 6 && (formMask c).testBit (chipId s) && (chooseT s (fieldB c.payload 8 8)).isSome &&
      (maskBits (formMask c) 16).all (wired s),
    pre := fun s _ c => formCheck s (formMask c),
    peerMark := true, peer := fun s _ p => !((maskBits (fieldB p 0 2) 16).filter fun j => j != chipId s).isEmpty,
    peerData := fun s _ b => b ++ natLe 4 s.fw.ifVersion ++ natLe 4 s.tide.epochLen, data := fun _ => true, run := runArchForm }

/-- The views of every isle follow the number of shards hosted (R353, R371). -/
def refitViews (s : State) : State :=
  (List.range 32).foldl (fun s k =>
    let r := s.isle k
    if r.state = .absent then s else setUnits k (regrant k r.grant s)) s

/-- The members of the mask that are present from T: this chip and those joined to it, and in a rejoin those present before (R328). -/
def formPresent (s : State) (mask : Nat) : Nat :=
  natMask ((maskBits mask 16).filter fun j =>
    j == chipId s || joined s mask j || (mask == s.arch.member && s.arch.present.testBit j))

/-- R327, R328 at T: members adopt the mask and the map; a rejoin keeps the map and restores the absent that are joined again. -/
def applyArchForm (mask t : Nat) (s : State) : State :=
  let rejoin := mask = s.arch.member
  let old := hostedCount s
  let on := formPresent s mask
  let s := s.mapArch fun a => { a with
    member := mask, present := on, formed := true, departed := a.departed.filter fun c => !on.testBit c,
    leavers := a.leavers.filter fun c => !on.testBit c, left := a.left.filter fun c => !on.testBit c }
  let s := if rejoin then s else
    let s := noteRemap 6 0 old (hostedCount s) t s
    let s := refitViews s
    { s with funcs := s.funcs.map fun f => { f with view := lowestShard s } }
  archStateEvent t s

/-! ## ARCH_LEAVE (R329) -/

def runArchLeave (fn : Nat) (c : Cmd) (tide : Nat) (s : State) : State :=
  let s := pendAt tide fn c.seq s
  propose (earliestT s (tideNow s)) (.archLeave (chipId s)) (some (fn, c.seq)) s

def specArchLeave : CmdSpec :=
  { opcode := 0x0602, pfOnly := true, plen := plenIs 0, peerMark := true, peer := fun s _ _ => !(otherPresent s).isEmpty, data := fun _ => true,
    run := runArchLeave }

/-- R329 at T: no program with the leaver's shards releases a new invocation. -/
def applyArchLeave (chip : Nat) (cmd : Option (Nat × Nat)) (s : State) : State :=
  s.mapArch fun a => { a with
    leavers := insNat chip a.leavers, leaving := if chip = chipId s then (cmd.map fun c => c.2).or a.leaving else a.leaving }

/-- Shards that a chip hosts. -/
def shardsOf (s : State) (chip : Nat) : Nat := natMask ((List.range 16).filter fun g => shardHost s g == chip)

/-- An invocation in flight of a program whose shard set includes the chip's shards. -/
def leaverBusy (s : State) (chip : Nat) : Bool :=
  s.isles.any fun r => r.invs.any fun i =>
    match aGet r.progs i.prog with
    | some p => (maskBits p.shards 16).any fun g => (shardsOf s chip).testBit g
    | none => false

/-- R329: the first boundary at which nothing of the leaver's is in flight: it announces its departure, and leaves the present mask and the
windows' peers. -/
def leaveNow (b chip : Nat) (s : State) : State :=
  let s := s.mapArch fun a => { a with leavers := a.leavers.filter fun c => c != chip, left := a.left.filter fun c => c != chip }
  if chip = chipId s then
    let s := ctrlAll pmDepart [chipId s] [] s
    let old := hostedCount s
    let s := match s.arch.leaving with
      | some seq => finishAt b 0 seq .sOk 0 (w64 b) s
      | none => s
    let s := s.mapArch fun a => { a with member := 0, present := 0, formed := false, leaving := none, departed := [] }
    let s := noteRemap 6 0 old (hostedCount s) b s
    let s := refitViews s
    archStateEvent b { s with funcs := s.funcs.map fun f => { f with view := lowestShard s } }
  else
    let s := s.mapIsles fun r => { r with windows := r.windows.map fun w => (w.1, { w.2 with mask := clrBit w.2.mask chip }) }
    archStateEvent b (s.mapArch fun a => { a with present := clrBit a.present chip })

/-! ## Windows (R334, R335, R386) -/

def winIndex (c : Cmd) : Nat := byteAt c.payload 0

/-- The entry a WIN_OPEN asks for (Table 13.7). -/
def winFields (s : State) (c : Cmd) : Window :=
  let p := c.payload
  let mask := fieldB p 2 2
  { peerIsle := byteAt p 1, mask := mask, rights := byteAt p 4, base := fieldB p 8 8, len := fieldB p 16 4,
    view := (shardRank s c.view).getD 0, incs := (maskBits mask 16).map fun j => (j, if j = chipId s then s.standby.incarnation else incOf s j) }

/-- Equal but for the incarnations and the counters. -/
def sameWindow (a b : Window) : Bool :=
  a.peerIsle == b.peerIsle && a.mask == b.mask && a.rights == b.rights && a.base == b.base && a.len == b.len && a.view == b.view

/-- R335, R285, R430: the region lies in the isle's allocation, and names neither a sealed key region nor a KV pool. -/
def winAuth (s : State) (fn : Nat) (c : Cmd) : Bool :=
  let w := winFields s c
  decide (winIndex c < (s.isle fn).grant.windows) && (w.rights.testBit 2 ||
    (rangeOk s fn w.view (some 0) w.base w.len && !inSealed s fn w.view w.base w.len && !inPool (s.isle fn) w.view w.base w.len))

def winArgs (s : State) (_ : Nat) (c : Cmd) : Bool :=
  let w := winFields s c
  decide (w.peerIsle < 32) && w.mask != 0 && (maskBits w.mask 16).all (fun j => (memberMask s).testBit j) && decide (w.rights < 8) &&
  zeroB c.payload 5 3 && zeroB c.payload 20 12 &&
  (if w.rights.testBit 2 then w.base == 0 && w.len == 0
   else decide (1 ≤ spaceOf w.base) && decide (spaceOf w.base ≤ 3) && w.len % 64 == 0 && w.len != 0)

def winPre (s : State) (fn : Nat) (c : Cmd) : Option (Status × Nat) :=
  let w := winFields s c
  let r := s.isle fn
  let own := w.peerIsle == fn
  let kv := w.rights.testBit 2
  let bad := (!kv && !isResident r w.view w.base w.len) ||
    (match aGet r.windows (winIndex c) with | some v => !sameWindow v w | none => false) ||
    (maskBits w.mask 16).any (fun j => !(presentMask s).testBit j) ||
    (kv && (!own || r.pool.isNone)) ||
    (if fixedShare s fn then !own else fixedShare s w.peerIsle)
  if bad then some (.eState, 0) else none

/-- An open names its peers anew: their incarnations are recorded. -/
def runWinOpen (fn : Nat) (c : Cmd) (tide : Nat) (s : State) : State :=
  let w := winFields s c
  let old := (aGet (s.isle fn).windows (winIndex c)).getD {}
  let s := s.mapIsle fn fun r => { r with
    windows := aSet (winIndex c) { w with refusals := old.refusals, bytes := old.bytes } r.windows }
  finishAt tide fn c.seq .sOk 0 {} s

def specWinOpen : CmdSpec :=
  { opcode := 0x0610, plen := plenIs 32, auth := winAuth, args := winArgs, pre := winPre, memUse := true, boundary := true,
    data := fun _ => true, handle := fun p => some (6, byteAt p 0), run := runWinOpen }

def winHandle (s : State) (fn : Nat) (c : Cmd) : Bool := decide (winIndex c < (s.isle fn).grant.windows)

def runWinClose (fn : Nat) (c : Cmd) (tide : Nat) (s : State) : State :=
  finishAt tide fn c.seq .sOk 0 {} (s.mapIsle fn fun r => { r with windows := aDel r.windows (winIndex c) })

def specWinClose : CmdSpec :=
  { opcode := 0x0611, plen := plenIs 8, auth := winHandle, args := fun _ _ c => zeroB c.payload 1 7, boundary := true,
    data := fun _ => true, handle := fun p => some (6, byteAt p 0), run := runWinClose }

def runWinQuery (fn : Nat) (c : Cmd) (tide : Nat) (s : State) : State :=
  match aGet (s.isle fn).windows (winIndex c) with
  | none => finishAt tide fn c.seq .sOk 0 {} s
  | some w =>
    let words : Words := { w0 := 1 + w.rights * 2 + w.peerIsle * 256 + w.mask * 65536, w1 := w.len, w2 := w.refusals, w3 := w.bytes / 1024 }
    finishAt tide fn c.seq .sOk 0 words (s.mapIsle fn fun r => { r with
      windows := aMod (winIndex c) (fun w => { w with refusals := 0, bytes := 0 }) r.windows })

def specWinQuery : CmdSpec :=
  { opcode := 0x0612, plen := plenIs 8, auth := winHandle, args := fun _ _ c => zeroB c.payload 1 7,
    handle := fun p => some (6, byteAt p 0), run := runWinQuery }

end Sys2Proof.Machine
end

