-- ==== Sys2Proof/Machine/MemCmd.lean ====
section
/-! DEFINITION. Chapter 6's commands: queries, residency, loads and stores, and the conflict mode (R149, R153 to R156). -/

namespace Sys2Proof.Machine

/-- The view of a command: the shard selected for its function at acceptance (R356). -/
def cmdView (s : State) (c : Cmd) : Nat := (shardRank s c.view).getD 0

/-! ## MEM_QUERY, MEM_MODE_SET -/

def runMemQuery (fn : Nat) (c : Cmd) (tide : Nat) (s : State) : State :=
  let k := isleOf fn
  let r := s.isle k
  let w : Words := {
    w0 := (unitsHeld s k).length, w1 := (r.extents.getD 0 []).length,
    w2 := b2n r.strict + r.resident.length * 2 ^ 8 + (if fn = 0 then s.units.withdrawn * 2 ^ 16 else 0), w3 := r.conflicts }
  finishAt tide fn c.seq .sOk 0 w (s.mapIsle k fun r => { r with conflicts := 0 })

def specMemQuery : CmdSpec := { opcode := 0x0300, plen := plenIs 0, run := runMemQuery }

def runMemModeSet (fn : Nat) (c : Cmd) (tide : Nat) (s : State) : State :=
  finishAt tide fn c.seq .sOk 0 {} (s.mapIsle (isleOf fn) fun r => { r with strict := fieldB c.payload 0 1 == 1 })

def specMemModeSet : CmdSpec :=
  { opcode := 0x0304, plen := plenIs 8, args := fun _ _ c => decide (fieldB c.payload 0 1 ≤ 1) && zeroB c.payload 1 7,
    memUse := true, boundary := true, data := fun _ => true, run := runMemModeSet }

/-! ## MEM_RESIDENT_SET (R149, R154) -/

/-- Declare a range: with what it meets or touches it becomes one. -/
def declare (l : List (Nat × Nat × Nat)) (h a len : Nat) : List (Nat × Nat × Nat) :=
  let near := l.filter fun r => r.1 == h && decide (r.2.1 ≤ a + len) && decide (a ≤ r.2.1 + r.2.2)
  let lo := near.foldl (fun m r => min m r.2.1) a
  let hi := near.foldl (fun m r => max m (r.2.1 + r.2.2)) (a + len)
  (l.filter fun r => !near.contains r) ++ [(h, lo, hi - lo)]

/-- Clear a range: what lies before and after it in each declaration stays. -/
def undeclare (l : List (Nat × Nat × Nat)) (h a len : Nat) : List (Nat × Nat × Nat) :=
  l.flatMap fun r =>
    if r.1 != h || !meets r.2.1 r.2.2 a len then [r]
    else (if r.2.1 < a then [(h, r.2.1, a - r.2.1)] else []) ++
      (if a + len < r.2.1 + r.2.2 then [(h, a + len, r.2.1 + r.2.2 - (a + len))] else [])

def residentSet (c : Cmd) : Bool := fieldB c.payload 16 1 == 1

def runMemResidentSet (fn : Nat) (c : Cmd) (tide : Nat) (s : State) : State :=
  let k := isleOf fn
  let h := cmdView s c
  let l := (s.isle k).resident
  let l' := if residentSet c then declare l h (fieldB c.payload 0 8) (fieldB c.payload 8 8)
    else undeclare l h (fieldB c.payload 0 8) (fieldB c.payload 8 8)
  if l'.length > 64 then finishAt tide fn c.seq .eNores 0 {} s
  else finishAt tide fn c.seq .sOk 0 {} (s.mapIsle k fun r => { r with resident := l' })

/-- A range that the isle holds (R129). An operand-buffer address is judged by its form alone: the argument check refuses its space. -/
def memAuth (s : State) (fn : Nat) (c : Cmd) (a len : Nat) : Bool := rangeOk s (isleOf fn) (cmdView s c) (some 0) a len

/-- The space of an address is one that the command takes (Table 6.8). -/
def spaceArg (a : Nat) : Bool := decide (1 ≤ spaceOf a) && decide (spaceOf a ≤ 3)

/-- The region of an armed tap meets a range (R276). -/
def tapMeets (s : State) (k h a n : Nat) : Bool :=
  (s.isle k).taps.any fun t => t.state == .armed && t.view == h && regionMeets a n t.base ((t.qn + 17) * (4 * t.kn + 8))

/-- A clear meets an open window (R148), a KV pool (R284), an armed tap's region (R276) or a sealed region (R430). -/
def residentPre (s : State) (fn : Nat) (c : Cmd) : Option (Status × Nat) :=
  let k := isleOf fn
  let h := cmdView s c
  let a := fieldB c.payload 0 8
  let n := fieldB c.payload 8 8
  if residentSet c then none
  else if (s.isle k).windows.any (fun w => w.2.view == h && !w.2.rights.testBit 2 && regionMeets a n w.2.base w.2.len) ||
    inPool (s.isle k) h a n || tapMeets s k h a n || inSealed s k h a n then some (.eState, 0) else none

def specMemResidentSet : CmdSpec :=
  { opcode := 0x0301, plen := plenIs 24,
    auth := fun s fn c => memAuth s fn c (fieldB c.payload 0 8) (fieldB c.payload 8 8),
    args := fun _ _ c => fieldB c.payload 0 8 % 4096 == 0 && fieldB c.payload 8 8 % 4096 == 0 && decide (1 ≤ fieldB c.payload 8 8) &&
      decide (fieldB c.payload 16 1 ≤ 1) && zeroB c.payload 17 7 && spaceArg (fieldB c.payload 0 8),
    pre := residentPre, memUse := true, boundary := true, data := fun _ => true, run := runMemResidentSet }

/-! ## MEM_LOAD, MEM_STORE (R155) -/

def memAddr (c : Cmd) : Nat := fieldB c.payload 8 8
def memLen (c : Cmd) : Nat := fieldB c.payload 16 4

def transferAuth (s : State) (fn : Nat) (c : Cmd) : Bool :=
  memAuth s fn c (memAddr c) (memLen c) && !inPool (s.isle (isleOf fn)) (cmdView s c) (memAddr c) (memLen c) &&
  !inSealed s (isleOf fn) (cmdView s c) (memAddr c) (memLen c)

def transferArgs (_ : State) (_ : Nat) (c : Cmd) : Bool :=
  fieldB c.payload 0 8 % 64 == 0 && memAddr c % 64 == 0 && memLen c % 64 == 0 && decide (64 ≤ memLen c) &&
  decide (memLen c ≤ 67108864) && zeroB c.payload 20 4 && spaceArg (memAddr c)

/-- R155: an operand region of a program that runs or has invocations in flight. -/
def operandBusy (s : State) (k h a len : Nat) : Bool :=
  (s.isle k).progs.any fun p =>
    (p.2.state == .running || (s.isle k).invs.any fun i => i.prog == p.1) &&
      p.2.regions.any fun r => r.1 == h && regionMeets a len r.2.1 r.2.2

def transferPre (s : State) (fn : Nat) (c : Cmd) : Option (Status × Nat) :=
  if operandBusy s (isleOf fn) (cmdView s c) (memAddr c) (memLen c) then some (.eState, 0) else none

/-- The transfer begins: S_PENDING. -/
def runTransfer (fn : Nat) (c : Cmd) (tide : Nat) (s : State) : State := pendAt tide fn c.seq s

def specMemLoad : CmdSpec :=
  { opcode := 0x0302, plen := plenIs 24, auth := transferAuth, args := transferArgs, pre := transferPre, memUse := true,
    data := fun _ => true, run := runTransfer }

def specMemStore : CmdSpec :=
  { opcode := 0x0303, plen := plenIs 24, auth := transferAuth, args := transferArgs, pre := transferPre, memUse := true,
    run := runTransfer }

/-- The last byte of a MEM_LOAD has reached its bank. -/
def memLoadDone (fn : Nat) (c : Cmd) (ok : Bool) (s : State) : State :=
  if !ok then hostFails fn c s else
  finish fn c.seq .sOk 0 {} (writeBytes (isleOf fn) (cmdView s c) (memAddr c) (hostRead s fn (fieldB c.payload 0 8) (memLen c))
    (hostTouch fn (fieldB c.payload 0 8) (memLen c) s))

/-- The last byte of a MEM_STORE has been written: bytes of poisoned lines arrive as zero. -/
def memStoreDone (fn : Nat) (c : Cmd) (ok : Bool) (s : State) : State :=
  if !ok then hostFails fn c s else
  match readProg s (isleOf fn) (cmdView s c) none (memAddr c) (memLen c) with
  | none => finish fn c.seq .eDenied 0 {} s
  | some bs =>
    let s := hostWrite fn (fieldB c.payload 0 8) (bs.map fun x => if x.2 then 0 else x.1) s
    match bs.findIdx? fun x => x.2 with
    | some i => finish fn c.seq .ePoison 0 { w0 := i } s
    | none => finish fn c.seq .sOk 0 {} s

end Sys2Proof.Machine
end

