-- ==== Sys2Proof/Machine/Float.lean ====
section
/-! DEFINITION. Number formats and exact arithmetic: the formats of Table 9.1, binary32 with round to nearest even (R212, R214),
output conversion (Table 9.7, R222), EXP2 (R269), the activation functions (Table 9.6), and the reduction trees (R212, R245). -/

namespace Sys2Proof.Machine

/-! ## Values and formats -/

/-- The value of a floating-point code: NaN, an infinity, or (-1)^neg * m * 2^e. -/
inductive Fv where
  | nan
  | inf (neg : Bool)
  | fin (neg : Bool) (m : Nat) (e : Int)
  deriving DecidableEq, Repr

/-- Exponent bits, fraction bits and bias of a format code of Table 9.1. -/
def fmtShape (f : Nat) : Nat × Nat × Nat :=
  match f with
  | 0 => (4, 3, 7)
  | 1 => (5, 2, 15)
  | 3 => (8, 7, 127)
  | 4 => (5, 10, 15)
  | _ => (8, 23, 127)

/-- Bytes of an element. -/
def fmtBytes (f : Nat) : Nat := if f ≤ 2 then 1 else if f ≤ 4 then 2 else 4

/-- The value of a code of a format (Table 9.1); format 2 is two's complement. -/
def decodeF (f code : Nat) : Fv :=
  if f = 2 then
    (if code < 128 then .fin false code 0 else .fin true (256 - code) 0)
  else
    let (eb, mb, bias) := fmtShape f
    let neg := code.testBit (eb + mb)
    let ex := bitsOf code mb eb
    let fr := bitsOf code 0 mb
    if f = 0 ∧ ex = 15 ∧ fr = 7 then .nan
    else if f ≠ 0 ∧ ex = 2 ^ eb - 1 then (if fr = 0 then .inf neg else .nan)
    else if ex = 0 then .fin neg fr (1 - (bias : Int) - mb)
    else .fin neg (fr + 2 ^ mb) ((ex : Int) - bias - mb)

/-- m / 2^sh rounded to nearest, ties to even. -/
def shiftRne (m sh : Nat) : Nat :=
  let d := m / 2 ^ sh
  let r := m % 2 ^ sh
  if sh = 0 then m
  else if 2 ^ (sh - 1) < r ∨ (r = 2 ^ (sh - 1) ∧ d % 2 = 1) then d + 1 else d

/-- m * 2^e rounded to an integer. -/
def roundInt (m : Nat) (e : Int) : Nat := if 0 ≤ e then m * 2 ^ e.toNat else shiftRne m (-e).toNat

/-- The magnitude code of m * 2^e in a format with an unbounded exponent, rounded once with subnormals kept. -/
def encodeMag (f m : Nat) (e : Int) : Nat :=
  let (_, mb, bias) := fmtShape f
  let qmin : Int := 1 - (bias : Int) - mb
  if m = 0 then 0 else
  let q := max ((Nat.log2 m : Int) + e - mb) qmin
  let d := roundInt m (e - q)
  let (d, q) := if d = 2 ^ (mb + 1) then (2 ^ mb, q + 1) else (d, q)
  if d < 2 ^ mb then d else (q - qmin + 1).toNat * 2 ^ mb + (d - 2 ^ mb)

def nanF : F32 := 0x7FC00000
def signBit (neg : Bool) : Nat := if neg then 2 ^ 31 else 0
def infF (neg : Bool) : F32 := BitVec.ofNat 32 (signBit neg + 0x7F800000)

def unpack (x : F32) : Fv := decodeF 6 x.toNat

/-- One rounding to binary32; every NaN is canonical (R214). -/
def pack (v : Fv) : F32 :=
  match v with
  | .nan => nanF
  | .inf n => infF n
  | .fin n m e =>
    let c := encodeMag 6 m e
    if c ≥ 0x7F800000 then infF n else BitVec.ofNat 32 (signBit n + c)

/-- A code of a format as binary32, exactly. -/
def toF32 (f code : Nat) : F32 := if f = 6 then BitVec.ofNat 32 code else pack (decodeF f code)

def ofInt (i : Int) : F32 := pack (.fin (decide (i < 0)) i.natAbs 0)
def ofNatF (n : Nat) : F32 := pack (.fin false n 0)

/-! ## Operations of binary32, each rounded once -/

def isNanF (x : F32) : Bool := unpack x == .nan
def negF (x : F32) : F32 := if isNanF x then nanF else x ^^^ 0x80000000

def signedM (neg : Bool) (m : Nat) : Int := if neg then -(m : Int) else m

def addF (x y : F32) : F32 :=
  match unpack x, unpack y with
  | .nan, _ => nanF
  | _, .nan => nanF
  | .inf a, .inf b => if a = b then infF a else nanF
  | .inf a, _ => infF a
  | _, .inf b => infF b
  | .fin a m e, .fin b n g =>
    let lo := min e g
    let s := signedM a (m * 2 ^ (e - lo).toNat) + signedM b (n * 2 ^ (g - lo).toNat)
    if s = 0 then pack (.fin (a && b) 0 0) else pack (.fin (decide (s < 0)) s.natAbs lo)

def subF (x y : F32) : F32 := addF x (negF y)

def mulF (x y : F32) : F32 :=
  match unpack x, unpack y with
  | .nan, _ => nanF
  | _, .nan => nanF
  | .inf a, .inf b => infF (a != b)
  | .inf a, .fin b n _ => if n = 0 then nanF else infF (a != b)
  | .fin a m _, .inf b => if m = 0 then nanF else infF (a != b)
  | .fin a m e, .fin b n g => pack (.fin (a != b) (m * n) (e + g))

def divF (x y : F32) : F32 :=
  match unpack x, unpack y with
  | .nan, _ => nanF
  | _, .nan => nanF
  | .inf _, .inf _ => nanF
  | .inf a, .fin b _ _ => infF (a != b)
  | .fin a _ _, .inf b => pack (.fin (a != b) 0 0)
  | .fin a m e, .fin b n g =>
    if n = 0 then (if m = 0 then nanF else infF (a != b)) else
    let k := 64 + Nat.log2 n
    let q := m * 2 ^ k / n
    let r := m * 2 ^ k % n
    pack (.fin (a != b) (2 * q + if r = 0 then 0 else 1) (e - g - k - 1))

/-- The integer square root, bit by bit. -/
def isqrt (n : Nat) : Nat :=
  let w := Nat.log2 n / 2 + 1
  (List.range w).foldl (fun r i => let c := r + 2 ^ (w - 1 - i); if c * c ≤ n then c else r) 0

def sqrtF (x : F32) : F32 :=
  match unpack x with
  | .nan => nanF
  | .inf n => if n then nanF else infF false
  | .fin n m e =>
    if m = 0 then x else if n then nanF else
    let o : Nat := if e % 2 = 0 then 0 else 1
    let v := m * 2 ^ (80 + o)
    let r := isqrt v
    pack (.fin false (2 * r + if r * r = v then 0 else 1) ((e - o - 80) / 2 - 1))

/-- Order of binary32 values that are not NaN, with +0 above -0. -/
def orderKey (x : F32) : Int := if x.toNat < 2 ^ 31 then (x.toNat : Int) else -((x.toNat - 2 ^ 31 : Nat) : Int) - 1

/-- The MAX rule of R223: NaN if either is, +0 above -0. -/
def maxF (x y : F32) : F32 := if isNanF x || isNanF y then nanF else if orderKey x < orderKey y then y else x
def minF (x y : F32) : F32 := if isNanF x || isNanF y then nanF else if orderKey y < orderKey x then y else x

/-- x * 2^k as one multiplication. -/
def scaleF (x : F32) (k : Int) : F32 :=
  match unpack x with
  | .fin n m e => pack (.fin n m (e + k))
  | v => pack v

/-! ## Trees -/

/-- One level of the pairwise tree: neighbours added, lower index on the left, an odd last entry passed up (R245). -/
def pairUp {α : Type} (f : α → α → α) : List α → List α
  | a :: b :: l => f a b :: pairUp f l
  | l => l

def treeLevels {α : Type} (f : α → α → α) : Nat → List α → List α
  | 0, l => l
  | n + 1, l => treeLevels f n (pairUp f l)

/-- The pairwise tree over a list; z for an empty one. -/
def treeOf {α : Type} (f : α → α → α) (z : α) (l : List α) : α := (treeLevels f (Nat.log2 l.length + 1) l).headD z

def padTo {α : Type} (n : Nat) (z : α) (l : List α) : List α := l ++ List.replicate (n - l.length) z

/-- Chunks of n elements. -/
def chunksOf {α : Type} (n : Nat) (l : List α) : List (List α) :=
  (List.range (ceilDiv l.length n)).map fun i => (l.drop (i * n)).take n

/-- Levels 1 to 5 of Table 9.3 over one block of at most 32 values, missing ones +0. -/
def blockSum (l : List F32) : F32 := treeOf addF 0 (padTo 32 0 l)

/-- The tree of Table 9.3 levels 1 to 7 without the scale step, over at most 128 values. -/
def sum128 (l : List F32) : F32 := treeOf addF 0 (padTo 128 0 l)

/-- R266's dot product: blocks of 32, then the pairwise tree over the block sums. -/
def dotF (q k : List F32) : F32 := treeOf addF 0 ((chunksOf 32 (List.zipWith mulF q k)).map blockSum)

/-- The next power of two at or above n, at least 1. -/
def pow2Up (n : Nat) : Nat := if n ≤ 1 then 1 else 2 ^ (Nat.log2 (n - 1) + 1)

/-! ## Output conversion (Tables 9.7, R222) -/

/-- Largest finite magnitude code, overflow code without SAT, and NaN code, by format. -/
def outCodes (f : Nat) : Nat × Nat × Nat :=
  match f with
  | 0 => (0x7E, 0x7F, 0x7F)
  | 1 => (0x7B, 0x7C, 0x7E)
  | 3 => (0x7F7F, 0x7F80, 0x7FC0)
  | _ => (0x7BFF, 0x7C00, 0x7E00)

/-- The sign bit of a format's code. -/
def outSign (f : Nat) (neg : Bool) : Nat := if neg then 2 ^ (8 * fmtBytes f - 1) else 0

/-- Table 9.7. An E4M3 overflow without SAT is the one NaN code 0x7F. -/
def convOut (f : Nat) (sat : Bool) (x : F32) : Nat :=
  if f = 6 then (if isNanF x then 0x7FC00000 else x.toNat) else
  if f = 2 then
    match unpack x with
    | .nan => 0
    | .inf n => if n then 0x80 else 0x7F
    | .fin n m e =>
      let v := roundInt m e
      if n then (256 - min v 128) % 256 else min v 127
  else
    let (top, ovf, nan) := outCodes f
    let big := fun n => if sat then outSign f n + top else if f = 0 then nan else outSign f n + ovf
    match unpack x with
    | .nan => nan
    | .inf n => big n
    | .fin n m e => let c := encodeMag f m e; if top < c then big n else outSign f n + c

/-- floor(log2) of a finite nonzero magnitude. -/
def floorLog2 (x : F32) : Option Int :=
  match unpack x with
  | .fin _ m e => if m = 0 then none else some ((Nat.log2 m : Int) + e)
  | _ => none

/-- One block of R222: the shared exponent byte and the element codes, saturated or not (Table 9.7). -/
def mxBlock (f : Nat) (sat : Bool) (l : List F32) : Nat × List Nat :=
  let nanCode := if f = 0 then 0x7F else if f = 1 then 0x7E else 0
  if l.any isNanF then (0xFF, l.map fun _ => nanCode) else
  let e0 : Int := if f = 0 then 8 else if f = 1 then 15 else 0
  let lg := l.filterMap floorLog2
  let x : Int := (match lg with
    | [] => -127
    | a :: as => max (-127) (min 127 (as.foldl max a - e0)))
  ((x + 127).toNat, l.map fun v => convOut f sat (scaleF v (if f = 2 then 6 - x else -x)))

/-! ## EXP2 and the activation functions -/

def exp2Coeffs : List F32 := [0x39218510, 0x3AAEC3FF, 0x3C1D955B, 0x3D635847, 0x3E75FDF0, 0x3F317218, 0x3F800000]

/-- R269. -/
def exp2F (x : F32) : F32 :=
  match unpack x with
  | .nan => nanF
  | .inf n => if n then 0 else infF false
  | .fin neg m e =>
    -- 128 or more; below -150
    if !neg ∧ orderKey 0x43000000 ≤ orderKey x then infF false
    else if neg ∧ orderKey x < orderKey 0xC3160000 then 0
    else
      let k := roundInt m e
      let n : Int := if neg then -(k : Int) else k
      let f := subF x (ofInt n)
      let p := match exp2Coeffs with
        | [] => 0
        | c :: cs => cs.foldl (fun p c => addF (mulF p f) c) c
      scaleF p n

def oneF : F32 := 0x3F800000
def lLog2e : F32 := 0x3FB8AA3B

/-- RN(1 / x). -/
def rcpF (x : F32) : F32 := divF oneF x

def tanhF (x : F32) : F32 :=
  let e := exp2F (mulF (addF x x) lLog2e)
  subF oneF (divF 0x40000000 (addF oneF e))

/-- Table 9.6. -/
def actF (fn : Nat) (x : F32) : F32 :=
  match fn with
  | 0 => if isNanF x then nanF else if orderKey x ≤ 0 then 0 else x
  | 1 => divF x (addF oneF (exp2F (negF (mulF x lLog2e))))
  | 2 =>
    let u := mulF (mulF x 0x3F4C422A) (addF oneF (mulF 0x3D37273A (mulF x x)))
    mulF (mulF 0x3F000000 x) (addF oneF (tanhF u))
  | 3 => rcpF (addF oneF (exp2F (negF (mulF x lLog2e))))
  | _ => tanhF x

/-- A statistics record (R223). -/
structure Stats where
  sum   : F32 := 0
  sumsq : F32 := 0
  max   : F32 := 0xFF800000
  count : Nat := 0
  deriving DecidableEq, Repr

def statsBytes (s : Stats) : Bytes := natLe 4 s.sum.toNat ++ natLe 4 s.sumsq.toNat ++ natLe 4 s.max.toNat ++ natLe 4 s.count

def statsOf (b : Bytes) : Stats :=
  { sum := BitVec.ofNat 32 (fieldB b 0 4), sumsq := BitVec.ofNat 32 (fieldB b 4 4), max := BitVec.ofNat 32 (fieldB b 8 4), count := fieldB b 12 4 }

/-- R224: two records joined. -/
def joinStats (a b : Stats) : Stats :=
  { sum := addF a.sum b.sum, sumsq := addF a.sumsq b.sumsq, max := maxF a.max b.max, count := (a.count + b.count) % 2 ^ 32 }

/-- The record of a row: 128-column groups, then the pairwise tree over the groups (R223, R246). -/
def rowStats (l : List F32) : Stats :=
  treeOf joinStats {} ((chunksOf 128 l).map fun g =>
    { sum := sum128 g, sumsq := sum128 (g.map fun x => mulF x x),
      max := treeOf maxF 0xFF800000 g, count := g.length })

end Sys2Proof.Machine
end

