-- ==== Sys2Proof/Machine/ProgImg.lean ====
section
/-! DEFINITION. Program images and descriptors (R229 to R237, R242 to R248, R251 to R255, R258, R298, R299, R340, R432): fields, the
memory ranges a descriptor names (R232), and the load checks of Tables 9.8 and 10.3. -/

namespace Sys2Proof.Machine

/-! ## The image (Table 10.1) -/

def imgCounters (b : Bytes) : Nat := fieldB b 7 1
def imgBin (b : Bytes) : Nat := fieldB b 8 1
def imgOutMax (b : Bytes) : Nat := fieldB b 9 1
def imgFootprint (b : Bytes) (sl : Nat) : Nat := fieldB b (0x40 + sl) 1
/-- BUDGET entry for d executing cores; 0xFFFF_FFFF for none. -/
def imgBudget (b : Bytes) (d : Nat) : Nat := if d = 0 ∨ 64 < d then 0xFFFFFFFF else fieldB b (0x80 + 4 * (d - 1)) 4
/-- Offset and descriptor count of slot sl's list for phase p. -/
def imgList (b : Bytes) (p sl : Nat) : Nat × Nat := (fieldB b (0x180 + 512 * p + 8 * sl) 4, fieldB b (0x184 + 512 * p + 8 * sl) 4)

/-- A descriptor as a list holds it, with its nest extension. -/
structure Desc where
  phase : Nat
  slot  : Nat
  index : Nat
  d     : Bytes
  ext   : Bytes := []

def hasExt (d : Bytes) : Bool := (fieldB d 1 1).testBit 2 && fieldB d 0 1 == 2

/-- n descriptors from an offset; an extension follows its descriptor and is not counted (log 30). -/
def readList (b : Bytes) (p sl : Nat) : Nat → Nat → Nat → List Desc
  | 0, _, _ => []
  | n + 1, i, o =>
    let d := sliceB b o 128
    if hasExt d then { phase := p, slot := sl, index := i, d := d, ext := sliceB b (o + 128) 128 } :: readList b p sl n (i + 1) (o + 256)
    else { phase := p, slot := sl, index := i, d := d } :: readList b p sl n (i + 1) (o + 128)

def slotDescs (b : Bytes) (p sl : Nat) : List Desc := readList b p sl (imgList b p sl).2 0 (imgList b p sl).1

/-- Every descriptor, by phase, slot and index. -/
def imgDescs (b : Bytes) : List Desc :=
  (List.range (imgPhases b)).flatMap fun p => (List.range 64).flatMap fun sl => slotDescs b p sl

/-! ## The header (Table 10.4) -/

def dClass (d : Bytes) : Nat := fieldB d 0 1
def dFence (d : Bytes) : Bool := (fieldB d 1 1).testBit 0
def dDone (d : Bytes) : Bool := (fieldB d 1 1).testBit 1
def dDoneSlot (d : Bytes) : Nat := bitsOf (fieldB d 2 2) 6 6
def dDoneCtr (d : Bytes) : Nat := bitsOf (fieldB d 2 2) 0 6
def dDoneInc (d : Bytes) : Nat := fieldB d 4 2
def dTaskId (d : Bytes) : Nat := fieldB d 8 4

/-! ## MOVE (Table 10.7) -/

structure MoveD where
  src : Nat
  dst : Nat
  srs : Nat
  scs : Nat
  drs : Nat
  dcs : Nat
  rows : Nat
  cols : Nat
  esz : Nat
  transpose : Bool
  rep : Nat
  sstep : Int
  dstep : Int
  wrap : Nat
  perCtr : Nat
  perEn : Bool

def moveOf (d : Bytes) : MoveD :=
  { src := fieldB d 16 8, dst := fieldB d 24 8, srs := fieldB d 32 3, scs := fieldB d 35 3, drs := fieldB d 38 3, dcs := fieldB d 41 3,
    rows := fieldB d 44 1, cols := fieldB d 45 1, esz := 2 ^ bitsOf (fieldB d 46 1) 0 2, transpose := (fieldB d 46 1).testBit 2,
    rep := fieldB d 48 2, sstep := signedOf 32 (fieldB d 52 4), dstep := signedOf 32 (fieldB d 56 4), wrap := fieldB d 60 2,
    perCtr := bitsOf (fieldB d 62 1) 0 6, perEn := (fieldB d 62 1).testBit 7 }

/-- The address of a base moved by a signed number of elements; one below 0 lies outside the isle: an address of a reserved space
stands for it (R129). -/
def stepBase (base : Nat) (i : Int) (esz : Nat) : Nat :=
  match (base : Int) + i * esz with
  | .ofNat a => a
  | .negSucc _ => 15 * 2 ^ 44

/-- A block side in an operand buffer is packed by rows, whatever the descriptor's strides (R142). -/
def Block.packed (b : Block) : Block := if spaceOf b.base = 0 then { b with rs := b.cols, cs := 1 } else b

def MoveD.srcBlock (m : MoveD) (i : Nat) : Block := Block.packed
  { base := stepBase m.src (i * m.sstep) m.esz, esz := m.esz, rows := m.rows, cols := m.cols, rs := m.srs, cs := m.scs }

/-- The destination block of repeat i; with TRANSPOSE it has the source's columns as rows (R242). -/
def MoveD.dstBlock (m : MoveD) (i : Nat) : Block := Block.packed
  { base := stepBase m.dst ((if m.wrap = 0 then i else i % m.wrap : Nat) * m.dstep) m.esz, esz := m.esz,
    rows := if m.transpose then m.cols else m.rows, cols := if m.transpose then m.rows else m.cols, rs := m.drs, cs := m.dcs }

/-- First address and length from the first to the last element. -/
def Block.span (b : Block) : Nat × Nat := (b.base, (b.rows - 1) * b.rs * b.esz + (b.cols - 1) * b.cs * b.esz + b.esz)

/-! ## MATMUL (Table 10.8) -/

structure MatD where
  rows : Nat
  k : Nat
  n : Nat
  afmt : Nat
  wfmt : Nat
  psrc : Nat
  pro : Nat
  smode : Bool
  amx : Bool
  wmx : Bool
  accInit : Bool
  ring : Bool
  aOff : Nat
  asOff : Nat
  bOff : Nat
  bsOff : Nat
  accOff : Nat
  outOff : Nat
  recOff : Nat
  gb : Nat
  eps : Nat
  ra : Nat
  rc : Nat
  aFull : Nat
  aFree : Nat
  cFull : Nat
  cFree : Nat
  loadSig : Nat
  loadEn : Bool

def matOf (d : Bytes) : MatD :=
  let f := fieldB d 64 4
  { rows := fieldB d 16 2, k := fieldB d 18 2, n := fieldB d 20 1, afmt := bitsOf (fieldB d 21 1) 0 4, wfmt := bitsOf (fieldB d 21 1) 4 4,
    psrc := bitsOf (fieldB d 22 1) 0 4, pro := bitsOf (fieldB d 22 1) 4 3, smode := (fieldB d 22 1).testBit 7,
    amx := (fieldB d 23 1).testBit 0, wmx := (fieldB d 23 1).testBit 1, accInit := (fieldB d 23 1).testBit 2, ring := (fieldB d 23 1).testBit 3,
    aOff := fieldB d 24 4, asOff := fieldB d 28 4, bOff := fieldB d 32 4, bsOff := fieldB d 36 4, accOff := fieldB d 40 4,
    outOff := fieldB d 44 4, recOff := fieldB d 48 4, gb := fieldB d 52 2, eps := fieldB d 56 4, ra := fieldB d 60 2, rc := fieldB d 62 2,
    aFull := bitsOf f 0 6, aFree := bitsOf f 6 6, cFull := bitsOf f 12 6, cFree := bitsOf f 18 6, loadSig := bitsOf f 24 6, loadEn := f.testBit 30 }

def up512 (n : Nat) : Nat := ceilDiv n 512 * 512

/-- The activation transform of a PRO code: none, RMS, LN or ROWSCALE (Table 9.4); and whether the weights go through DQ4. -/
def proAct (p : Nat) : Nat := match p with | 2 | 4 => 1 | 3 | 5 => 2 | 6 | 7 => 3 | _ => 0
def proDq (p : Nat) : Bool := p == 1 || p == 4 || p == 5 || p == 7

def MatD.passes (m : MatD) : Nat := ceilDiv m.k 128
/-- The format in which weights meet the cells (R211). -/
def MatD.wcell (m : MatD) : Nat := if m.wfmt = 5 then (if m.afmt = 3 then 3 else 0) else m.wfmt
/-- Bytes of a weight tile of kt rows. -/
def MatD.tileBytes (m : MatD) (kt : Nat) : Nat := if m.wfmt = 5 then ceilDiv kt 2 * m.n else kt * m.n * fmtBytes m.wfmt
/-- Distance of the tiles of successive K-chunks. -/
def MatD.tileStep (m : MatD) : Nat := up512 (m.tileBytes 128)
def MatD.needsAcc (m : MatD) : Bool := m.accInit || decide (1 < m.passes)

/-! ## The nest extension (Table 10.12) -/

structure NestD where
  m : Nat
  n : Nat
  k : Nat
  a : Nat
  b : Nat
  c : Nat
  ars : Nat
  brs : Nat
  crs : Nat
  m1 : Nat
  n1 : Nat
  k1 : Nat
  m2 : Nat
  n2 : Nat
  k2 : Nat
  m3 : Nat
  n3 : Nat
  k3 : Nat
  o1 : Nat
  o2 : Nat
  o3 : Nat
  la : Nat
  lb : Nat
  lc : Nat

def nestOf (e : Bytes) : NestD :=
  { m := fieldB e 0 2, n := fieldB e 2 2, k := fieldB e 4 2, a := fieldB e 16 8, b := fieldB e 24 8, c := fieldB e 32 8,
    ars := fieldB e 40 4, brs := fieldB e 44 4, crs := fieldB e 48 4, m1 := fieldB e 52 2, n1 := fieldB e 54 2, k1 := fieldB e 56 2,
    m2 := fieldB e 58 2, n2 := fieldB e 60 2, k2 := fieldB e 62 2, m3 := fieldB e 64 2, n3 := fieldB e 66 2, k3 := fieldB e 68 2,
    o1 := bitsOf (fieldB e 70 1) 0 3, o2 := bitsOf (fieldB e 70 1) 3 3, o3 := bitsOf (fieldB e 71 1) 0 3,
    la := fieldB e 72 8, lb := fieldB e 80 8, lc := fieldB e 88 8 }

/-! ## Stages (Table 9.5) -/

def stageWords (d : Bytes) : List Nat := (List.range 8).map fun i => fieldB d (96 + 4 * i) 4
def stOp (w : Nat) : Nat := bitsOf w 28 4
/-- The list up to END. -/
def stages (d : Bytes) : List Nat := (stageWords d).takeWhile fun w => stOp w != 0
/-- The QUANT word, none without one. -/
def quantOf (l : List Nat) : Option Nat := l.find? fun w => stOp w == 9
def quantFmt (w : Nat) : Nat := bitsOf w 0 4
def quantMx (w : Nat) : Bool := w.testBit 4
def quantSat (w : Nat) : Bool := w.testBit 5
/-- Bytes of an output row of n columns. -/
def outRow (l : List Nat) (n : Nat) : Nat :=
  match quantOf l with
  | none => 4 * n
  | some w => n * fmtBytes (quantFmt w) + if quantMx w then ceilDiv n 32 else 0

/-- Format of an output row, 15 for block-scaled codes. -/
def outFmt (l : List Nat) : Nat :=
  match quantOf l with
  | none => 6
  | some w => if quantMx w then 15 else quantFmt w

/-- Bits that a stage word must hold zero, as a mask (Table 9.5). -/
def stReserved (w : Nat) : Nat :=
  match stOp w with
  | 0 => 2 ^ 28 - 1
  | 1 => 2 ^ 28 - 2 ^ 9
  | 2 => if w.testBit 27 then 2 ^ 27 - 2 ^ 16 else 2 ^ 27 - 2 ^ 9
  | 3 => 2 ^ 28 - 2 ^ 3
  | 4 | 5 => 2 ^ 28 - 2 ^ 12
  | 6 => 2 ^ 28 - 2 ^ 16
  | 7 => 2 ^ 28 - 2 ^ 16
  | 8 => 2 ^ 28 - 2 ^ 9
  | _ => 2 ^ 28 - 2 ^ 6

/-- Reason 1 of Table 9.8 on one word. -/
def stBad1 (w : Nat) : Bool :=
  decide (9 < stOp w) || (w &&& stReserved w) != 0 || (stOp w == 3 && decide (4 < bitsOf w 0 3)) ||
  ((stOp w == 4 || stOp w == 5) && bitsOf w 9 3 != 3 && bitsOf w 9 3 != 6) ||
  (stOp w == 9 && (quantFmt w == 5 || decide (6 < quantFmt w) || (quantMx w && decide (2 < quantFmt w))))

/-- A region of the fusion checks: buffer, base, size, and what it is. -/
structure StRegion where
  buf  : Nat
  base : Nat
  size : Nat
  /-- 0 accumulator, 1 output, 2 consumed records, 3 read-only stage operand, 4 written records, 5 ADD or MUL operand -/
  kind : Nat
  fmt  : Nat := 0

/-- Operand regions of a stage list on rows of n columns (R219, R246). -/
def stRegions (l : List Nat) (rows n : Nat) : List StRegion :=
  l.filterMap fun w =>
    let line := bitsOf w 0 9 * 512
    match stOp w with
    | 1 => some { buf := 1, base := line, size := ceilDiv n 128 * 512, kind := 3 }
    | 2 => if w.testBit 27 then none else some { buf := 1, base := line, size := ceilDiv n 128 * 512, kind := 3 }
    | 4 | 5 => some { buf := 2, base := line, size := rows * n * fmtBytes (bitsOf w 9 3), kind := 5, fmt := bitsOf w 9 3 }
    | 6 => some { buf := 2, base := line, size := rows * 512, kind := 3 }
    | 8 => some { buf := 2, base := line, size := rows * 16, kind := 4 }
    | _ => none

/-- Two regions that may not lie together (reason 6). -/
def stClash (a b : StRegion) : Bool :=
  if a.buf != b.buf || !meets a.base a.size b.base b.size then false
  else if a.kind == 4 || b.kind == 4 then true
  else if (a.kind == 5 && b.kind == 1) || (a.kind == 1 && b.kind == 5) then !(a.base == b.base && a.fmt == b.fmt)
  else if decide (3 ≤ a.kind) && decide (3 ≤ b.kind) then !(a.base == b.base && a.size == b.size)
  else decide (3 ≤ a.kind) || decide (3 ≤ b.kind)

def pairsAny {α : Type} (f : α → α → Bool) : List α → Bool
  | [] => false
  | a :: l => l.any (f a) || pairsAny f l

/-- Reasons 1 to 6 and 11 of Table 9.8 for a stage list on rows of n columns beside other regions; A1 steppings refuse MX without
SAT. A word after END that is no legal word gives reason 1, not reason 2 (R226; DESIGN CHOICE, log 127). -/
def stageReasons (a1 : Bool) (d : Bytes) (rows n : Nat) (fixed : List StRegion) : List Nat :=
  let l := stages d
  let rs := stRegions l rows n
  (if (stageWords d).any stBad1 then [1] else []) ++
  (if ((stageWords d).dropWhile fun w => stOp w != 0).any fun w => w != 0 then [2] else []) ++
  (if (l.dropLast.any fun w => stOp w == 9) then [3] else []) ++
  (if (l.filter fun w => stOp w == 8).length > 2 then [4] else []) ++
  (if l.any fun w => stOp w == 6 && (bitsOf w 9 7 % 2 == 1 || bitsOf w 9 7 == 0 || decide (64 < bitsOf w 9 7) || decide (n < bitsOf w 9 7))
    then [5] else []) ++
  (if (rs.any fun r => decide (2 ^ 18 < r.base + r.size)) || pairsAny stClash (fixed ++ rs) then [6] else []) ++
  (if a1 && l.any fun w => stOp w == 9 && quantMx w && !quantSat w then [11] else [])

/-! ## Buffers of a nest (R252, R254) -/

/-- A dimension cut into tiles of at most t, from a start. -/
def cutBy (t start len : Nat) : List (Nat × Nat) :=
  (List.range (ceilDiv len (max 1 t))).map fun i => (start + i * t, min t (len - i * t))

/-- The three levels of tiles, the last in each dimension holding the remainder. -/
def cut3 (d3 d2 d1 len : Nat) : List (Nat × Nat) :=
  (cutBy d3 0 len).flatMap fun a => (cutBy d2 a.1 a.2).flatMap fun b => cutBy d1 b.1 b.2

/-- Bytes of an element of the product. -/
def nestOut (l : List Nat) : Nat := match quantOf l with | some w => fmtBytes (quantFmt w) | none => 4

/-- Output tiles of a nest take more than one pass, and so an accumulator (R208). -/
def nestAcc (e : NestD) : Bool := decide (128 < e.k) || decide (e.k1 < e.k)

/-- Level-1 buffers: A, B, accumulator and output sizes. -/
structure NestBufs where
  a : Nat
  b : Nat
  acc : Nat
  out : Nat

def nestBufs (m : MatD) (e : NestD) (l : List Nat) : NestBufs :=
  -- a tile of 128 rows of weights starts at a multiple of 512 B; the last holds the rows that are left (R254)
  { a := up512 (e.m1 * e.k1 * fmtBytes m.afmt),
    b := up512 ((ceilDiv e.k1 128 - 1) * up512 (128 * e.n1 * fmtBytes m.wfmt) + (e.k1 - 128 * (ceilDiv e.k1 128 - 1)) * e.n1 * fmtBytes m.wfmt),
    acc := if nestAcc e then up512 (e.m1 * e.n1 * 4) else 0, out := up512 (e.m1 * outRow l e.n1) }

/-- The other regions of a MATMUL in OB-C; those of a nest are both buffers of each. -/
def matFixed (q : Desc) : List StRegion :=
  let m := matOf q.d
  let l := stages q.d
  let b := nestBufs m (nestOf q.ext) l
  let acc := if hasExt q.d then 2 * b.acc else if m.needsAcc then m.rows * m.n * 4 else 0
  let out := if hasExt q.d then 2 * b.out else (if m.ring then m.rc else m.rows) * outRow l m.n
  (if acc = 0 then [] else [{ buf := 2, base := m.accOff, size := acc, kind := 0 }]) ++
  [{ buf := 2, base := m.outOff, size := out, kind := 1, fmt := outFmt l }] ++
  (if proAct m.pro = 0 then [] else [{ buf := 2, base := m.recOff, size := m.rows * 16, kind := 2 }])

def isFp8 (f : Nat) : Bool := f == 0 || f == 1

/-- Table 9.2. -/
def pairLegal (a w : Nat) : Bool :=
  (isFp8 a && isFp8 w) || (a == 2 && w == 2) || (a == 3 && w == 3) || (a == 4 && w == 4) || (isFp8 a && w == 5) || (a == 3 && w == 5)

/-- Reason 8. -/
def pairBad (m : MatD) : Bool :=
  !pairLegal m.afmt m.wfmt || (m.amx && decide (2 < m.afmt)) || (m.wmx && decide (2 < m.wfmt)) ||
  (if proAct m.pro = 0 then m.psrc != m.afmt else !(m.psrc == 3 || m.psrc == 4 || m.psrc == 6 || m.psrc == m.afmt))

/-- Reason 10. -/
def matBad10 (q : Desc) : Bool :=
  let m := matOf q.d
  if hasExt q.d then m.rows != 0 || m.k != 0 || m.n != 0 || (m.ring && (nestAcc (nestOf q.ext) || m.accInit))
  else m.rows == 0 || m.k == 0 || decide (2048 < m.k) || m.n == 0 || decide (128 < m.n) ||
    (m.needsAcc && decide (2 ^ 18 < m.accOff + m.rows * m.n * 4)) || (m.ring && m.needsAcc)

/-- Table 9.8 for a MATMUL; in a nest the stages work on level-1 tiles. split: its output is a partial of a COMBINE (log 31). -/
def matReasons (a1 split : Bool) (q : Desc) : List Nat :=
  let m := matOf q.d
  let e := nestOf q.ext
  stageReasons a1 q.d (if hasExt q.d then e.m1 else m.rows) (if hasExt q.d then e.n1 else m.n) (matFixed q) ++
  (if split && !(stages q.d).isEmpty then [7] else []) ++ (if pairBad m then [8] else []) ++
  (if proDq m.pro != (m.wfmt == 5) || (proAct m.pro != 0 && decide (2 ^ 18 < m.recOff + m.rows * 16)) then [9] else []) ++
  (if matBad10 q then [10] else [])

/-- Fields of a MATMUL that are out of range in either mode: OB offsets of 18 bits, and own-slot counters; c is COUNTERS. -/
def matBadField (c : Nat) (m : MatD) : Bool :=
  ([m.aOff, m.asOff, m.bOff, m.bsOff, m.accOff, m.outOff, m.recOff].any fun x => decide (2 ^ 18 ≤ x)) || decide (512 ≤ m.gb) ||
  (m.ring && (m.ra == 0 || m.rc == 0 || decide (c ≤ m.aFull) || decide (c ≤ m.aFree) || decide (c ≤ m.cFull) || decide (c ≤ m.cFree))) ||
  (m.loadEn && decide (c ≤ m.loadSig))

/-- R243: the output lies on the accumulator only as that same binary32 region, without stages. -/
def accClash (m : MatD) (l : List Nat) (acc out : Nat) : Bool :=
  acc != 0 && meets m.accOff acc m.outOff out && !(m.accOff == m.outOff && l.isEmpty)

/-- Every OB region of a MATMUL in inner mode lies in its buffer, and the output lies on the accumulator only where R243 lets it. -/
def matBad14 (c : Nat) (d : Bytes) : Bool :=
  let m := matOf d
  let l := stages d
  let rowsIn := if m.ring then m.ra else m.rows
  matBadField c m || decide (2 ^ 18 < m.aOff + rowsIn * m.k * fmtBytes m.psrc) ||
  decide (2 ^ 18 < m.bOff + (m.passes - 1) * m.tileStep + m.tileBytes (m.k - (m.passes - 1) * 128)) ||
  decide (2 ^ 18 < m.outOff + (if m.ring then m.rc else m.rows) * outRow l m.n) ||
  (m.amx && decide (2 ^ 18 < m.asOff + rowsIn * ceilDiv m.k 32)) || (m.wmx && decide (2 ^ 18 < m.bsOff + m.passes * 512)) ||
  (proDq m.pro && decide (2 ^ 18 < m.bsOff + m.passes * up512 (10 * m.n))) ||
  (decide (1 ≤ proAct m.pro) && decide (proAct m.pro ≤ 2) && decide (512 < m.gb + m.passes * proAct m.pro)) ||
  accClash m l (if m.needsAcc then m.rows * m.n * 4 else 0) (m.rows * outRow l m.n)

/-! ## Nested tiling (R252 to R255) -/

/-- Fields of a nested MATMUL out of range; sources and C_DST lie in memory that the nest's own moves reach without a window
(log 106). -/
def nestBad14 (c : Nat) (d x : Bytes) : Bool :=
  let m := matOf d
  let e := nestOf x
  let b := nestBufs m e (stages d)
  matBadField c m || e.m == 0 || e.n == 0 || e.k == 0 || decide (5 < e.o1) || decide (5 < e.o2) || decide (5 < e.o3) ||
  ([e.a, e.b, e.c].any fun a => decide (4 < spaceOf a)) || ([e.la, e.lb, e.lc].any fun a => a != 0 && spaceOf a != 1) ||
  accClash m (stages d) (2 * b.acc) (2 * b.out)

/-- R254: three tile levels of one dimension, of a problem that may be smaller than every level-1 tile. -/
def tilesBad (small : Bool) (t1 t2 t3 len : Nat) : Bool :=
  t1 == 0 || decide (t2 < t1) || decide (t3 < t2) || (!small && decide (len < t3))

/-- Both buffers of a lagoon staging region lie within the slot's units. -/
def stagingBad (s : State) (k slot size a : Nat) : Bool :=
  a != 0 && !((List.range (hostedCount s)).all fun h =>
    a % 2 ^ 44 / 2 ^ 38 == slot && decide (a % 2 ^ 24 + 2 * size ≤ (((s.isle k).slotMap.getD h []).getD slot []).length * 2 ^ 19))

/-- Reason 15: R254 and R255. ACC_INIT and RING have no meaning in a nest, whose engine begins and spills accumulators itself
(log 107). -/
def nestBad (s : State) (k : Nat) (d x : Bytes) (slot : Nat) : Bool :=
  let m := matOf d
  let e := nestOf x
  let l := stages d
  let b := nestBufs m e l
  let small := decide (e.m < e.m1) && decide (e.n < e.n1) && decide (e.k < e.k1)
  m.pro != 0 || m.amx || m.wmx || m.wfmt == 5 || m.ring || m.accInit ||
  (l.any fun w => !(stOp w == 1 || stOp w == 2 || stOp w == 3 || stOp w == 7 || stOp w == 9)) ||
  tilesBad small e.m1 e.m2 e.m3 e.m || tilesBad small e.n1 e.n2 e.n3 e.n || tilesBad small e.k1 e.k2 e.k3 e.k ||
  decide (128 < e.n1) || decide (2048 < e.k1) || decide (2 ^ 18 < m.aOff + 2 * b.a) || decide (2 ^ 18 < m.bOff + 2 * b.b) ||
  (nestAcc e && decide (2 ^ 18 < m.accOff + 2 * b.acc)) || decide (2 ^ 18 < m.outOff + 2 * b.out) ||
  stagingBad s k slot (e.m2 * e.k2 * fmtBytes m.afmt) e.la || stagingBad s k slot (e.k2 * e.n2 * fmtBytes m.wfmt) e.lb ||
  stagingBad s k slot (e.m2 * e.n2 * 4) e.lc

/-- Columns of the level-1 tiles of the product, in order. -/
def nestCols (e : NestD) : List Nat := (cut3 e.n3 e.n2 e.n1 e.n).map fun x => x.2

/-- Bytes of a row of C: its elements, then with MX one scale per block of each tile (R243, log 106). -/
def nestRow (l : List Nat) (e : NestD) : Nat :=
  e.n * nestOut l + if (quantOf l).any quantMx then ((nestCols e).map fun n => ceilDiv n 32).sum else 0

/-! ## ATTEND, COLLECT and the other classes -/

structure AttD where
  subop : Nat
  causal : Bool
  prefixLm : Bool
  tree : Bool
  expand : Bool
  tapEn : Bool
  sat : Bool
  qfmt : Nat
  kvfmt : Nat
  ofmt : Nat
  g : Nat
  dk : Nat
  dv : Nat
  vOff : Nat
  dc : Nat
  layer : Nat
  kvHead : Nat
  head0 : Nat
  scale2 : F32
  entries : Nat
  window : Nat
  globals : Nat
  tapRows : Nat
  tapKeys : Nat
  bmStride : Nat
  rlt : Nat
  q : Nat
  out : Nat
  bm : Nat
  gl : Nat
  tok : Nat
  y : Nat
  acc : Nat
  expOb : Nat

def attOf (d : Bytes) : AttD :=
  let f := fieldB d 16 1
  { subop := bitsOf f 0 2, causal := f.testBit 2, prefixLm := f.testBit 3, tree := f.testBit 4, expand := f.testBit 5,
    tapEn := f.testBit 6, sat := f.testBit 7, qfmt := bitsOf (fieldB d 17 1) 0 4, kvfmt := bitsOf (fieldB d 17 1) 4 4,
    ofmt := bitsOf (fieldB d 18 1) 0 4, g := fieldB d 19 1, dk := fieldB d 20 2, dv := fieldB d 22 2, vOff := fieldB d 24 2,
    dc := fieldB d 26 2, layer := fieldB d 28 1, kvHead := fieldB d 29 1, head0 := fieldB d 30 2,
    scale2 := BitVec.ofNat 32 (fieldB d 32 4), entries := fieldB d 36 2, window := fieldB d 38 2, globals := fieldB d 40 1,
    tapRows := fieldB d 41 1, tapKeys := fieldB d 42 2, bmStride := fieldB d 44 4, rlt := fieldB d 48 8, q := fieldB d 56 8,
    out := fieldB d 64 8, bm := fieldB d 72 8, gl := fieldB d 80 8, tok := fieldB d 96 8, y := fieldB d 104 8, acc := fieldB d 112 8,
    expOb := fieldB d 120 4 }

/-- Tiles of R271. -/
def expandTiles (a : AttD) : Nat := ceilDiv a.dc 128 * (ceilDiv a.dk 128 + ceilDiv a.dv 128)

/-- Fields out of range, and R259. What the engine reads and writes beside KV lies in operand buffers, lagoons or the shelf (R258, Table 6.5);
windows are reached by MOVE and COLLECT alone (R336). -/
def attBad14 (a : AttD) : Bool :=
  decide (1 < a.subop) || decide (3 < spaceOf a.rlt) || decide (a.entries = 0) || decide (4096 < a.entries) ||
  (a.subop == 0 && (a.g == 0 || decide (64 < a.g) || a.dk == 0 || decide (1024 < a.dk) || a.dv == 0 || decide (1024 < a.dv) ||
    decide (16384 < a.window) || decide (64 < a.globals) || decide (64 < a.tapRows) || decide (16384 < a.tapKeys) ||
    a.ofmt == 5 || decide (6 < a.ofmt) ||
    !((isFp8 a.qfmt && isFp8 a.kvfmt) || (a.qfmt == 3 && a.kvfmt == 3) || (a.qfmt == 4 && a.kvfmt == 4) || (a.qfmt == 3 && isFp8 a.kvfmt)) ||
    (a.globals != 0 && a.window == 0) || (a.tapEn && (a.tapRows == 0 || a.tapKeys == 0)) ||
    decide (3 < spaceOf a.q) || decide (3 < spaceOf a.out) || decide (3 < spaceOf a.bm) || decide (3 < spaceOf a.gl) ||
    (if a.expand then a.dc == 0 || decide (1024 < a.dc) || decide (2 ^ 18 < a.expOb + expandTiles a * 16384 * fmtBytes a.kvfmt) else a.dc != 0))) ||
  (a.subop == 1 && ([a.tok, a.y, a.acc].any fun x => decide (3 < spaceOf x))) || (a.tree && !a.causal)

/-- Fields that verify does not use must be zero (R259); it uses TREE, and CAUSAL as TREE asks for it. -/
def attBad13 (d : Bytes) : Bool :=
  let a := attOf d
  bitsOf (fieldB d 18 1) 4 4 != 0 || !zeroB d 88 8 || !zeroB d 124 4 ||
  (a.subop == 1 && (a.prefixLm || (a.causal && !a.tree) || a.expand || a.tapEn || a.sat || !zeroB d 17 19 || !zeroB d 38 10 || !zeroB d 56 40 || !zeroB d 120 4))

structure CollD where
  op : Nat
  esize : Nat
  set : Nat
  id : Nat
  win : Nat
  src : Nat
  dst : Nat
  bytes : Nat
  off : Nat

def collOf (d : Bytes) : CollD :=
  { op := fieldB d 16 1, esize := bitsOf (fieldB d 17 1) 0 2, set := fieldB d 18 2, id := fieldB d 20 2, win := fieldB d 22 1,
    src := fieldB d 24 8, dst := fieldB d 32 8, bytes := fieldB d 40 4, off := fieldB d 44 4 }

/-- VCHAIN op words up to END. -/
def chainOps (d : Bytes) : List Nat := ((List.range 16).map fun i => fieldB d (64 + 4 * i) 4).takeWhile fun w => w / 2 ^ 27 != 0
def chainTopk (d : Bytes) : Bool := (chainOps d).any fun w => w / 2 ^ 27 == 12
def chainUsesB (d : Bytes) : Bool := (chainOps d).any fun w => decide (w / 2 ^ 27 ≤ 6) && bitsOf w 25 2 == 1

def vcFmt (f : Nat) : Bool := decide (f ≤ 4) || f == 6

/-- Element bytes of one output row of a VCHAIN. -/
def chainRow (d : Bytes) : Nat :=
  let ob := fmtBytes (bitsOf (fieldB d 21 1) 0 4)
  if chainTopk d then fieldB d 22 1 * (ob + 4) else fieldB d 18 2 * ob

/-! ## Ranges a descriptor can read or write (R232) -/

/-- Ranges a nest reads and writes in its source memory, row by row. -/
def nestRanges (m : MatD) (e : NestD) (l : List Nat) : List (Nat × Nat) :=
  (List.range e.m).map (fun i => (e.a + i * e.ars * fmtBytes m.afmt, e.k * fmtBytes m.afmt)) ++
  (List.range e.k).map (fun i => (e.b + i * e.brs * fmtBytes m.wfmt, e.n * fmtBytes m.wfmt)) ++
  (List.range e.m).map fun i => (e.c + i * e.crs * nestOut l, nestRow l e)

/-- Ranges as (program address, bytes), operand buffers and window addresses included, that a task with the descriptor reaches at least;
the load is judged by them. A SEAL task's addresses are judged when it issues (R432), and rows that a table names at run time when the
task reads it. -/
def descRanges (s : State) (k : Nat) (d x : Bytes) : List (Nat × Nat) :=
  match dClass d with
  | 1 =>
    let m := moveOf d
    (List.range (m.rep + 1)).map (fun i => (m.srcBlock i).span) ++
      (List.range (if m.wrap = 0 then m.rep + 1 else min m.wrap (m.rep + 1))).map fun i => (m.dstBlock i).span
  | 2 =>
    if !hasExt d then [] else
    let m := matOf d
    let e := nestOf x
    let l := stages d
    nestRanges m e l ++
    ([(e.la, e.m2 * e.k2 * fmtBytes m.afmt), (e.lb, e.k2 * e.n2 * fmtBytes m.wfmt), (e.lc, e.m2 * e.n2 * 4)].filter fun r => r.1 != 0).map
      fun r => (r.1, 2 * r.2)
  | 3 =>
    let a := attOf d
    if a.subop = 1 then [(a.rlt, 64 * a.entries), (a.tok, 68 * a.entries), (a.y, 68 * a.entries), (a.acc, 32 * a.entries)]
    else [(a.rlt, 64 * a.entries), (a.q, a.dk * fmtBytes a.qfmt), (a.out, a.dv * fmtBytes a.ofmt)] ++
      (if a.bmStride = 0 then [] else [(a.bm, a.bmStride)]) ++ if a.globals = 0 then [] else [(a.gl, 4 * a.globals)]
  | 4 =>
    let rows := fieldB d 16 2
    let cols := fieldB d 18 2
    let kind1 := (fieldB d 21 1).testBit 0
    ((List.range (fieldB d 20 1)).map fun p => (fieldB d 24 8 + p * fieldB d 32 8, rows * if kind1 then 16 else cols * 4)) ++
    [(fieldB d 40 8, rows * if kind1 then 16 else outRow (stages d) cols)]
  | 5 =>
    let rows := fieldB d 16 2
    let cols := fieldB d 18 2
    [(fieldB d 24 8, rows * cols * fmtBytes (bitsOf (fieldB d 20 1) 0 4)), (fieldB d 40 8, rows * chainRow d)] ++
      if chainUsesB d then [(fieldB d 32 8, rows * cols * fmtBytes (bitsOf (fieldB d 20 1) 4 4))] else []
  | 6 =>
    let c := collOf d
    let n := popCount c.set 16
    [(c.src, c.bytes), (c.dst, if c.op = 0 then n * c.bytes else if c.op = 1 then c.bytes / max 1 n else c.bytes)]
  | 7 => if fieldB d 16 8 = 0 then [] else [(fieldB d 16 8, 32)]
  | 8 =>
    ((List.range (fieldB d 20 2)).map fun i => (fieldB d 24 8 + i * fieldB d 32 4, (poolOf s k).vec)) ++
      if fieldB d 36 8 = 0 then [] else [(fieldB d 36 8, 4 * fieldB d 20 2)]
  | 10 => [(fieldB d 24 8, 64), (fieldB d 32 8, 64), (fieldB d 40 8, 64), (fieldB d 48 8, 16)].filter fun r => r.1 != 0
  | _ => []

/-- Polynomials of an operation's A, B and OUT, the largest that Table 17.6 admits. -/
def sealPolys (op : Nat) : Nat × Nat × Nat :=
  match op with
  | 3 | 4 => (3, 3, 3) | 5 | 6 => (3, 1, 3) | 7 => (3, 0, 3) | 8 => (2, 2, 3) | 9 => (3, 0, 2) | 10 => (2, 0, 2) | 13 => (0, 0, 1) | _ => (3, 0, 3)

/-- Objects of a SEAL task, headers and bodies, by its parameter set; without one in force, by the largest of R426. -/
def sealReach (s : State) (k : Nat) (d : Bytes) : List (Nat × Nat) :=
  let op := fieldB d 16 1
  let p := (aGet (s.isle k).sealed.psets (fieldB d 17 1)).getD { nLog2 := 16, l := 48, k := 0, dnum := 0, primes := [] }
  let body := fun n => 64 + n * p.l * 2 ^ p.nLog2 * 8
  let z := sealPolys op
  (if op = 13 then [] else [(fieldB d 24 8, body z.1)]) ++
  (if op = 7 then [(fieldB d 32 8, 8 * p.l)] else if op = 13 then [(fieldB d 32 8, 4 * fieldB d 22 2)]
    else if z.2.1 = 0 then [] else [(fieldB d 32 8, body z.2.1)]) ++
  [(fieldB d 40 8, body (if op = 13 then 1 else z.2.2)), (fieldB d 48 8, 16)]

/-- The same with every row, record and object that the task can reach (R232): the query, output and bitmap rows of as many positions as
the entries can hold, the accept records of every entry, and whole sealed objects (log 108). -/
def descReach (s : State) (k : Nat) (d x : Bytes) : List (Nat × Nat) :=
  match dClass d with
  | 3 =>
    let a := attOf d
    if a.subop = 1 then descRanges s k d x else
    let pos := a.entries * if a.tree then 17 else 4096
    descRanges s k d x ++ [(a.q, pos * a.g * a.dk * fmtBytes a.qfmt), (a.out, pos * a.g * a.dv * fmtBytes a.ofmt)] ++
      if a.bmStride = 0 then [] else [(a.bm, pos * a.g * a.bmStride)]
  | 7 => if fieldB d 16 8 = 0 then [] else [(fieldB d 16 8, 32 * 4096)]
  | 10 => sealReach s k d
  | _ => descRanges s k d x

/-- A range in a window (SPACE 0x5): the target shard, the index and the offset. -/
def winShard (a : Nat) : Nat := bitsOf a 40 4
def winIdx (a : Nat) : Nat := bitsOf a 32 8
def winOff (a : Nat) : Nat := a % 2 ^ 32

/-- Reason "—" of Table 10.3: memory outside the isle in any view, a window or key that is not valid in it. -/
def descDenied (s : State) (k : Nat) (d x : Bytes) : Bool :=
  let views := List.range (hostedCount s)
  let cls := dClass d
  (cls != 10 && (descRanges s k d x).any fun r =>
    if spaceOf r.1 = 5 then decide ((s.isle k).grant.windows ≤ winIdx r.1) || decide (2 ^ 32 < winOff r.1 + r.2) || r.1 / 2 ^ 48 != 0
    else r.2 != 0 && !(views.all fun h => rangeOk s k h (some 0) r.1 r.2)) ||
  (cls == 6 && decide ((s.isle k).grant.windows ≤ (collOf d).win)) ||
  (cls == 10 && (fieldB d 16 1 == 9 || fieldB d 16 1 == 10) && (aGet (s.isle k).sealed.keys (fieldB d 19 1)).isNone)

/-! ## Reserved fields and ranges (reasons 13 and 14) -/

/-- CLASS reserved, or a reserved bit nonzero in the descriptor or its extension. -/
def descBad13 (d x : Bytes) : Bool :=
  let z := zeroB d
  let cls := dClass d
  cls == 0 || decide (12 < cls) || fieldB d 1 1 / 8 != 0 || ((fieldB d 1 1).testBit 2 && cls != 2) || fieldB d 2 2 / 2 ^ 12 != 0 || !z 6 2 || !z 12 4 ||
  (match cls with
   | 1 => fieldB d 46 1 / 8 != 0 || !z 47 1 || !z 50 2 || (fieldB d 62 1).testBit 6 || !z 63 65
   | 2 => fieldB d 23 1 / 16 != 0 || !z 54 2 || (fieldB d 64 4).testBit 31 || !z 68 28 ||
      (hasExt d && (!zeroB x 6 10 || fieldB x 70 1 / 64 != 0 || fieldB x 71 1 / 8 != 0 || !zeroB x 96 32))
   | 3 => attBad13 d
   | 4 => fieldB d 21 1 / 2 != 0 || !z 22 2 || !z 48 48
   | 5 => fieldB d 21 1 / 32 != 0 || !z 23 1 || ((List.range 16).any fun i => let w := fieldB d (64 + 4 * i) 4; bitsOf w 2 23 != 0) ||
      (chainOps d).any fun w => decide (12 < w / 2 ^ 27) || bitsOf w 25 2 == 3
   | 6 => fieldB d 17 1 / 4 != 0 || !z 23 1 || !z 48 80 || decide (2 < fieldB d 16 1)
   | 7 => !z 24 104
   | 8 => !z 44 84
   | 9 => !z 22 106
   | 10 => fieldB d 18 1 / 4 != 0 || !z 60 68
   | 11 => fieldB d 16 2 / 2 ^ 12 != 0 || !z 20 108
   | _ => fieldB d 16 1 / 64 != 0 || !z 17 3 || !z 24 104)

/-- A side of a MOVE that is neither in the own core's buffers or lagoon nor in shelf or tier one: another slot's lagoon, or a window. -/
def farSide (slot a : Nat) : Bool := spaceOf a == 5 || (spaceOf a == 1 && a % 2 ^ 44 / 2 ^ 38 != slot)

/-- A field out of range; c is COUNTERS. One side of a MOVE is the isle's own (R242); the attention engine and the vector unit reach
operand buffers, lagoons and the shelf (Table 6.5), partials of a COMBINE alone tier one too (Table 10.9). -/
def descBad14 (s : State) (k c : Nat) (q : Desc) : Bool :=
  let d := q.d
  (if dDone d then dDoneInc d == 0 || decide (c ≤ dDoneCtr d) else dDoneInc d != 0) ||
  (match dClass d with
   | 1 =>
     let m := moveOf d
     m.rows == 0 || decide (128 < m.rows) || m.cols == 0 || decide (128 < m.cols) || m.src % m.esz != 0 || m.dst % m.esz != 0 ||
     (m.perEn && decide (c ≤ m.perCtr)) || decide (5 < spaceOf m.src) || decide (5 < spaceOf m.dst) || (farSide q.slot m.src && farSide q.slot m.dst)
   | 2 => if hasExt d then nestBad14 c d q.ext else matBad14 c d
   | 3 => attBad14 (attOf d)
   | 4 =>
     let rows := fieldB d 16 2
     let cols := fieldB d 18 2
     let kind1 := (fieldB d 21 1).testBit 0
     rows == 0 || cols == 0 || decide (4096 < cols) || decide (fieldB d 20 1 < 2) || decide (64 < fieldB d 20 1) ||
     decide (fieldB d 32 8 < rows * (if kind1 then 16 else cols * 4)) || (kind1 && !(stages d).isEmpty) ||
     decide (4 < spaceOf (fieldB d 24 8)) || decide (3 < spaceOf (fieldB d 40 8))
   | 5 =>
     let t := chainOps d
     fieldB d 16 2 == 0 || fieldB d 18 2 == 0 || decide (16384 < fieldB d 18 2) || !vcFmt (bitsOf (fieldB d 20 1) 0 4) ||
     !vcFmt (bitsOf (fieldB d 20 1) 4 4) || !vcFmt (bitsOf (fieldB d 21 1) 0 4) ||
     (if chainTopk d then fieldB d 22 1 == 0 || decide (64 < fieldB d 22 1) else fieldB d 22 1 != 0) ||
     (t.dropLast.any fun w => w / 2 ^ 27 == 12) || (!chainUsesB d && fieldB d 32 8 != 0) ||
     [fieldB d 24 8, fieldB d 32 8, fieldB d 40 8].any fun a => decide (3 < spaceOf a)
   | 6 =>
     let q := collOf d
     let n := popCount q.set 16
     decide (4 < spaceOf q.src) || decide (4 < spaceOf q.dst) || decide (n < 2) || !((hostedShards s).all fun g => q.set.testBit g) || (q.op != 0 && q.esize != 2) || q.bytes == 0 || (q.op != 0 && q.bytes % (4 * n) != 0)
   | 7 => decide (3 < spaceOf (fieldB d 16 8))
   | 8 => decide (4 < spaceOf (fieldB d 24 8)) || decide (4 < spaceOf (fieldB d 36 8)) || fieldB d 20 2 == 0 || decide (4096 < fieldB d 20 2) || decide (fieldB d 32 4 < (poolOf s k).vec)
   | 9 => fieldB d 18 1 == 0 || decide (16 < fieldB d 18 1) || fieldB d 20 2 == 0 || decide (256 < fieldB d 20 2)
   | 10 =>
     let op := fieldB d 16 1
     op == 0 || decide (0x0D < op) || decide (7 < fieldB d 17 1) || decide (63 < fieldB d 19 1) || decide (62 < fieldB d 21 1)
   | 11 => fieldB d 18 2 == 0 || decide (c ≤ bitsOf (fieldB d 16 2) 0 6)
   | 12 => decide (c ≤ bitsOf (fieldB d 16 1) 0 6)
   | _ => false)

/-- A region of a COMBINE in an operand buffer, for the fusion checks. -/
def obRegion (a size kind fmt : Nat) : List StRegion :=
  if spaceOf a = 0 then [{ buf := bitsOf a 18 2, base := a % 2 ^ 18, size := size, kind := kind, fmt := fmt }] else []

/-- Table 9.8 for a COMBINE of either KIND: beside its stage operands lie its partials and its output, which reason 6 counts too (R226;
DESIGN CHOICE, log 127). -/
def combReasons (a1 : Bool) (d : Bytes) : List Nat :=
  let rows := fieldB d 16 2
  let cols := fieldB d 18 2
  let l := stages d
  let kind1 := (fieldB d 21 1).testBit 0
  let part := rows * if kind1 then 16 else cols * 4
  let out := rows * if kind1 then 16 else outRow l cols
  stageReasons a1 d rows cols
    (((List.range (fieldB d 20 1)).flatMap fun p => obRegion (fieldB d 24 8 + p * fieldB d 32 8) part 0 6) ++ obRegion (fieldB d 40 8) out 1 (outFmt l))

/-- Reasons 1 to 11 of a descriptor. -/
def descFusion (a1 split : Bool) (q : Desc) : List Nat :=
  match dClass q.d with
  | 2 => matReasons a1 split q
  | 4 => combReasons a1 q.d
  | _ => []

/-! ## Split-K partials (R225, log 31) -/

/-- Ranges that a task writes: where data of the product chain can lie. -/
def descWrites (s : State) (k : Nat) (q : Desc) : List (Nat × Nat) :=
  let d := q.d
  match dClass d with
  | 1 => let m := moveOf d; (List.range (m.rep + 1)).map fun i => (m.dstBlock i).span
  | 2 =>
    let m := matOf d
    if hasExt d then [(( nestOf q.ext).c, (((nestOf q.ext).m - 1) * (nestOf q.ext).crs) * nestOut (stages d) + nestRow (stages d) (nestOf q.ext))]
    else [(2 * 2 ^ 18 + m.outOff, (if m.ring then m.rc else m.rows) * outRow (stages d) m.n)]
  | 4 | 5 => ((descRanges s k d q.ext).drop 1).take 1
  | 3 => if (attOf d).subop = 0 then [((attOf d).out, (attOf d).dv)] else []
  | 6 => ((descRanges s k d q.ext).drop 1).take 1
  | _ => []

/-- Ranges of two lists meet. -/
def rangesMeet (a b : List (Nat × Nat)) : Bool := a.any fun x => b.any fun y => meets x.1 x.2 y.1 y.2

/-- Partial regions of a COMBINE of sums. -/
def partRanges (d : Bytes) : List (Nat × Nat) :=
  if dClass d != 4 || (fieldB d 21 1).testBit 0 then [] else
  (List.range (fieldB d 20 1)).map fun p => (fieldB d 24 8 + p * fieldB d 32 8, fieldB d 16 2 * fieldB d 18 2 * 4)

/-- A task tells another slot: with DONE, or as a SIGNAL. -/
def tellsSlot (q : Desc) : Bool :=
  (dDone q.d && dDoneSlot q.d != q.slot) || (dClass q.d == 11 && bitsOf (fieldB q.d 16 2) 6 6 != q.slot)

/-- The rest of a list after a task whose output lies in the ranges: none when a COMBINE of the list reads one of them as a partial before
it is written again; else the ranges of lagoon, shelf and tier one in which other lists can find it. A MOVE carries it on. -/
def followOut (s : State) (k : Nat) : List (Nat × Nat) → List (Nat × Nat) → List Desc → Option (List (Nat × Nat))
  | now, seen, [] => some (seen ++ now.filter fun r => spaceOf r.1 != 0)
  | now, seen, q :: l =>
    if rangesMeet now (partRanges q.d) then none else
    let w := descWrites s k q
    let carried := if dClass q.d == 1 && rangesMeet now ((descRanges s k q.d q.ext).take ((moveOf q.d).rep + 1)) then w else []
    let now := (now.filter fun r => !rangesMeet [r] w) ++ carried
    followOut s k now (if tellsSlot q then seen ++ now.filter fun r => spaceOf r.1 != 0 else seen) l

/-- R225: the output of a MATMUL is a split-K partial: a COMBINE of sums reads it, of its own list or of a list that runs beside or
after it. -/
def isSplit (s : State) (k : Nat) (all : List Desc) (q : Desc) : Bool :=
  let own := all.filter fun x => x.phase == q.phase && x.slot == q.slot && decide (q.index < x.index)
  let out := descWrites s k q
  match followOut s k out (if tellsSlot q then out.filter fun r => spaceOf r.1 != 0 else []) own with
  | none => true
  | some far => all.any fun x =>
      (decide (q.phase < x.phase) || (x.phase == q.phase && x.slot != q.slot)) && rangesMeet far (partRanges x.d)

/-! ## The checks of Table 10.3 -/

/-- Reason 12. -/
def imgBad (s : State) (b : Bytes) : Bool :=
  fieldB b 0 4 != 0x47504550 || fieldB b 4 2 != s.fw.ifVersion / 65536 || imgPhases b == 0 || decide (16 < imgPhases b) ||
  imgCounters b == 0 || decide (64 < imgCounters b) || !zeroB b 10 6 || imgDigest b != sha384 (b.drop 0x40) ||
  !((List.range 64).all fun sl => decide (imgFootprint b sl ≤ 32)) ||
  (List.range (imgPhases b)).any fun p => (List.range 64).any fun sl =>
    let l := imgList b p sl
    l.1 % 128 != 0 || decide (65535 < l.2) ||
      decide (b.length < l.1 + 128 * (l.2 + ((slotDescs b p sl).filter fun d => hasExt d.d).length))

/-- Executing cores for R354: d_eff, an isle without a core being judged as one (log 32). -/
def dNow (s : State) (k : Nat) : Nat := max 1 (dEff (execCores s k).length (hostedCount s))

/-- Slots per core (R235, R354). -/
def slotsPerCore (s : State) (k : Nat) : Nat := unitsPerCore (execCores s k).length (hostedCount s)

/-- Reason 16: the entry for the current d exceeds W or is none. -/
def budgetBad (s : State) (k : Nat) (b : Bytes) : Bool :=
  let e := imgBudget b (dNow s k)
  e == 0xFFFFFFFF || decide (workWindow s.tide.epochLen < e)

/-- Reason 17: the declared bin is faster than the one in force; a lower code is a slower bin (R160). -/
def binBad (s : State) (b : Bytes) : Bool := imgBin b != 0 && decide (s.boot.bin < imgBin b)

/-- Reason 18. -/
def countersBad (s : State) (k : Nat) (b : Bytes) : Bool := decide (64 < imgCounters b * slotsPerCore s k)

/-- Reason 19. -/
def footprintBad (s : State) (k : Nat) (b : Bytes) : Bool :=
  (List.range 64).any fun sl => (List.range (hostedCount s)).any fun h =>
    decide ((((s.isle k).slotMap.getD h []).getD sl []).length < imgFootprint b sl)

/-- Where a load is refused: status, detail, and the phase, slot and index of a descriptor. -/
def descWords (q : Desc) : Words := { w0 := q.phase, w1 := q.slot, w2 := q.index }

/-- The first failure of Table 10.3, in its order. -/
def loadCheck (s : State) (k : Nat) (b : Bytes) : Option (Status × Nat × Words) :=
  let l := imgDescs b
  let a1 := s.fuses.stepping = 0xA1
  if !decide (0x180 + 512 * imgPhases b ≤ b.length) then some (.eBadarg, 12, {}) else
  if l.any fun q => descDenied s k q.d q.ext then some (.eDenied, 0, {}) else
  let fus := (List.range 12).findSome? fun r => (l.find? fun q =>
    (descFusion a1 (dClass q.d == 2 && isSplit s k l q) q).contains r).map fun q => (Status.eBadarg, r, descWords q)
  match fus with
  | some e => some e
  | none =>
  if imgBad s b then some (.eBadarg, 12, {}) else
  match l.find? fun q => descBad13 q.d q.ext with
  | some q => some (.eBadarg, 13, descWords q)
  | none =>
  match l.find? fun q => descBad14 s k (imgCounters b) q with
  | some q => some (.eBadarg, 14, descWords q)
  | none =>
  match l.find? fun q => hasExt q.d && nestBad s k q.d q.ext q.slot with
  | some q => some (.eBadarg, 15, descWords q)
  | none =>
  if budgetBad s k b then some (.eState, 16, {})
  else if binBad s b then some (.eState, 17, {})
  else if countersBad s k b then some (.eState, 18, {})
  else if footprintBad s k b then some (.eNores, 19, {})
  else if (aFree (s.isle k).progs 16).isNone || !tableRoom s k b.length then some (.eNores, 20, {})
  else none

/-! ## Operand regions and shard set (R232, R330) -/

/-- A range ends with its space, and in the segment view with its slice (R143). -/
def clipSpace (r : Nat × Nat) : Nat × Nat := let lim := (pieceOf r.1).2; (r.1, min r.2 (lim - r.1 % lim))

/-- A range rounded out to 4 KiB. -/
def round4k (r : Nat × Nat) : Nat × Nat := (r.1 / 4096 * 4096, ceilDiv (r.1 + r.2) 4096 * 4096 - r.1 / 4096 * 4096)

/-- The operand regions of a program in every view. -/
def progRegions (s : State) (k : Nat) (b : Bytes) : List (Nat × Nat × Nat) :=
  let rs := ((imgDescs b).flatMap fun q => (descReach s k q.d q.ext).map clipSpace).filter fun r => decide (1 ≤ spaceOf r.1) && decide (spaceOf r.1 ≤ 4) && r.2 != 0
  (List.range (hostedCount s)).flatMap fun h => (rs.map round4k).map fun r => (h, r.1, r.2)

/-- R330: the shards hosted here, those a COLLECT names, and those that SPACE 0x5 addresses target. -/
def progShards (s : State) (k : Nat) (b : Bytes) : Nat :=
  let hosted := natMask (hostedShards s)
  (imgDescs b).foldl (fun m q =>
    let m := if dClass q.d = 6 then m ||| (collOf q.d).set else m
    (descRanges s k q.d q.ext).foldl (fun m r => if spaceOf r.1 = 5 then setBit m (winShard r.1) else m) m) hosted

end Sys2Proof.Machine
end

