-- ==== Sys2Proof/Machine/ProgCmd.lean ====
section
/-! DEFINITION. Chapter 10, the program commands (R230 to R233), the budgets they and POOL_SET check (R256, R358, R391), and what a
change of executing cores does to loaded programs (R256). -/

namespace Sys2Proof.Machine

def handleArg (c : Cmd) : Nat := fieldB c.payload 0 4

def progOf (s : State) (fn : Nat) (c : Cmd) : Prog := (aGet (s.isle (isleOf fn)).progs (handleArg c)).getD {}

/-- The handle names a loaded program of the isle (R112). -/
def progAuth (s : State) (fn : Nat) (c : Cmd) : Bool := (aGet (s.isle (isleOf fn)).progs (handleArg c)).isSome

/-! ## PROG_LOAD (R231) -/

def loadLen (c : Cmd) : Nat := fieldB c.payload 8 4

def runProgLoad (fn : Nat) (c : Cmd) (tide : Nat) (s : State) : State := pendAt tide fn c.seq s

def setNote (fn seq : Nat) (b : Bytes) (s : State) : State :=
  s.mapFunc fn fun f => { f with cmds := f.cmds.map fun c => if c.seq = seq then { c with note := b } else c }

/-- The image has been copied: it is loaded, or its refusal is written at the tick that R231 gives. -/
def progLoadDone (fn : Nat) (c : Cmd) (ok : Bool) (s : State) : State :=
  if !ok then hostFails fn c s else
  let k := isleOf fn
  let s := hostTouch fn (fieldB c.payload 0 8) (loadLen c) s
  let b := hostRead s fn (fieldB c.payload 0 8) (loadLen c)
  let s := setNote fn c.seq (imgDigest b) s
  match loadCheck s k b, aFree (s.isle k).progs 16 with
  | some (st, detail, w), _ =>
    setPhase fn c.seq (.refusal ((c.d / 6400 + 2 + ceilDiv (loadLen c) 4194304) * 6400) st detail) (setAux fn c.seq [w.w0, w.w1, w.w2] s)
  | none, none => finish fn c.seq .eNores 20 {} s
  | none, some h =>
    let g : Prog := { image := b, regions := progRegions s k b, shards := progShards s k b }
    finish fn c.seq .sOk 0 { w0 := h } (s.mapIsle k fun r => { r with progs := aSet h g r.progs })

def specProgLoad : CmdSpec :=
  { opcode := 0x0400, plen := plenIs 16,
    args := fun _ _ c => fieldB c.payload 0 8 % 4096 == 0 && loadLen c % 128 == 0 && decide (512 ≤ loadLen c) &&
      decide (loadLen c ≤ 67108864) && zeroB c.payload 12 4,
    memUse := true, data := fun _ => true, run := runProgLoad }

/-! ## PROG_UNLOAD -/

def hasInvs (r : Isle) (g : Nat) : Bool := r.invs.any fun i => i.prog == g

/-- The program is gone; nothing is bound to its handle any more. -/
def runProgUnload (fn : Nat) (c : Cmd) (tide : Nat) (s : State) : State :=
  let k := isleOf fn
  let g := handleArg c
  let s := ((s.isle k).seqs.filter fun q => q.2.prog == some g).foldl (fun s q => noteLeft k q.1 s) s
  finishAt tide fn c.seq .sOk 0 {} (s.mapIsle k fun r => { r with
    progs := aDel r.progs g, admitLimits := aDel r.admitLimits g,
    pressure := r.pressure.map fun x => { x with gone := aDel x.gone g },
    seqs := r.seqs.map fun q => if q.2.prog == some g then (q.1, { q.2 with prog := none, eligibleSince := none }) else q })

def specProgUnload : CmdSpec :=
  { opcode := 0x0401, plen := plenIs 8, auth := progAuth, args := fun _ _ c => zeroB c.payload 4 4,
    pre := fun s fn c => if (progOf s fn c).state == .running || hasInvs (s.isle (isleOf fn)) (handleArg c) then some (.eState, 0) else none,
    boundary := true, data := fun _ => true, handle := fun p => some (1, fieldB p 0 4), run := runProgUnload }

/-! ## Budgets -/

/-- Ticks of a program's draw-table fill (R358): blocks over d cores, 12 row-steps a tick. -/
def drawTicks (g : Prog) (d : Nat) : Nat :=
  match g.draw, g.batch with
  | some w, some b => ceilDiv (ceilDiv (b.eCap * w.nodes * w.draws) (max 1 d)) 12
  | _, _ => 0

/-- What one program asks of an epoch on d executing cores of a chip that hosts h shards. -/
def progTicks (g : Prog) (d h : Nat) : Nat := imgBudget g.image (max 1 (dEff d h)) + drawTicks g d

/-- The running programs of an isle, with one more. -/
def runningWith (r : Isle) (extra : Option Nat) : List Prog :=
  (r.progs.filter fun p => p.2.state == .running || some p.1 == extra).map fun p => p.2

/-- R233: the running programs of an isle with dedicated cores exceed W. -/
def isleOver (s : State) (k : Nat) (extra : Option Nat) : Bool :=
  let d := (execCores s k).length
  decide (workWindow s.tide.epochLen < ((runningWith (s.isle k) extra).map fun g => progTicks g d (hostedCount s)).sum)

/-- R391: the real-time and standard members of a pool of n cores exceed W. -/
def poolOver (s : State) (n : Nat) (members : List Nat) (isle : Nat) (extra : Option Nat) : Bool :=
  let l := members.filter fun k => (s.isle k).cls != 2
  let t := l.map fun k => ((runningWith (s.isle k) (if k = isle then extra else none)).map fun g => progTicks g n (hostedCount s)).sum
  decide (workWindow s.tide.epochLen < t.sum + 43 * l.length)

/-- What PROG_RUN checks: an isle without an executing core runs nothing (R389); a real-time or standard member of the pool answers for the
members together, a bulk member for nothing (R391), and another isle for its own programs (R233). -/
def budgetBroken (s : State) (k g : Nat) : Bool :=
  if (execCores s k).isEmpty then true
  else if poolMember s k && (dedicated (s.isle k)).isEmpty then
    (s.isle k).cls != 2 && poolOver s (execCores s k).length (poolIsles s) k (some g)
  else isleOver s k (some g)

/-! ## PROG_RUN (R233, R331) -/

def runMode (c : Cmd) : Nat := fieldB c.payload 4 1

def runAccepts (s : State) (k g : Nat) (mode : Nat) : List RunAccept :=
  let dg := match aGet (s.isle k).progs g with | some p => p.digest | none => 0
  s.arch.accepts.filter fun a => a.isle == k && a.digest == dg && a.mode == mode

/-- R331: at doorbell acceptance the partners are told, and this chip's own acceptance is kept with theirs. -/
def acceptRun (fn : Nat) (c : Cmd) (s : State) : State :=
  let k := isleOf fn
  match aGet (s.isle k).progs (handleArg c) with
  | none => s
  | some g =>
    if !multiPartner s g.shards then s else
    let dg := g.digest
    let me := chipId s
    let s := s.mapArch fun a => { a with
      accepts := (a.accepts.filter fun r => !(r.isle == k && r.chip == me && r.digest == dg)) ++
        [{ isle := k, chip := me, digest := dg, mode := runMode c, tick := tideNow s }] }
    (otherPartners s g.shards).foldl (fun s j => ctrlTo j pmRunAccept [k, me, dg, runMode c, tideNow s] [] s) s

/-- R331: every partner has accepted a matching PROG_RUN at least 5,000 ticks before b. -/
def runAgreed (s : State) (k g mode b : Nat) : Bool :=
  match aGet (s.isle k).progs g with
  | none => true
  | some p =>
    !multiPartner s p.shards || (partnersOf s p.shards).all fun j => (runAccepts s k g mode).any fun a => a.chip == j && decide (a.tick + 5000 ≤ b)

/-- The run takes effect: MODE 0 stops, 1 runs continuously, 2 starts one invocation; batch tables begin at 0 (R294). A FAULTED program
stays so under MODE 0. -/
def runProgRun (fn : Nat) (c : Cmd) (tide : Nat) (s : State) : State :=
  let k := isleOf fn
  let g := handleArg c
  let m := runMode c
  let dg := (progOf s fn c).digest
  let s := s.mapArch fun a => { a with accepts := a.accepts.filter fun r => !(r.isle == k && r.digest == dg) }
  let s := mapProg k g (fun p => { p with
    mode := m, oneShot := m == 2, table := if m = 0 then p.table else 0, withheldB := none,
    invCtr := if m ≠ 0 ∧ multiPartner s p.shards ∧ !hasInvs (s.isle k) g then 0 else p.invCtr,
    state := if m = 0 then (if p.state == .faulted then .faulted else .loaded) else .running }) s
  finishAt tide fn c.seq .sOk 0 {} s

def specProgRun : CmdSpec :=
  { opcode := 0x0402, plen := plenIs 8, auth := progAuth, args := fun _ _ c => decide (runMode c ≤ 2) && zeroB c.payload 5 3,
    pre := fun s fn c => if runMode c != 0 && budgetBroken s (isleOf fn) (handleArg c) then some (.eState, 16) else none,
    memUse := true, boundary := true, data := fun _ => true, handle := fun p => some (1, fieldB p 0 4), accepted := acceptRun,
    run := runProgRun }

/-- R331: a PROG_RUN whose match is missing 1 s after acceptance completes with E_RETRY. -/
def runTimeout (k g : Nat) (s : State) : State :=
  match (s.func k).cmds.find? fun c => c.hdr.opcode == 0x0402 && c.phase == .boundary && handleArg c == g with
  | none => s
  | some c =>
    if runAgreed s k g (runMode c) (tideNow s + 2 ^ 63) then s else
    let s := advanceQuant (c.d + 100000000) s
    let dg := ((aGet (s.isle k).progs g).getD {}).digest
    let s := s.mapArch fun a => { a with accepts := a.accepts.filter fun r => !(r.isle == k && r.digest == dg && r.chip == chipId s) }
    refuseAt (tideNow s) k c.seq .eRetry 0 s

/-! ## PROG_QUERY -/

def progStateCode : ProgState → Nat
  | .loaded => 0 | .running => 1 | .faulted => 2

def runProgQuery (fn : Nat) (c : Cmd) (tide : Nat) (s : State) : State :=
  let g := progOf s fn c
  finishAt tide fn c.seq .sOk 0
    { w0 := progStateCode g.state, w1 := imgBudget g.image (dNow s (isleOf fn)), w2 := sat32 g.committed, w3 := sat32 g.aborted } s

def specProgQuery : CmdSpec :=
  { opcode := 0x0403, plen := plenIs 8, auth := progAuth, args := fun _ _ c => zeroB c.payload 4 4,
    handle := fun p => some (1, fieldB p 0 4), run := runProgQuery }

/-! ## POOL_SET (R389, R391) -/

/-- What no longer lets an agreed pool change take effect at its T: a core retired meanwhile, or a check of R389, R391 or R152 that no
longer holds. DESIGN CHOICE (log 130): the command ends as ISLE_RESIZE does then, or with the check's own status, and nothing changes. -/
def poolLate (s : State) (p : Bytes) : Option (Status × Nat) :=
  if (maskBits (poolCores p) 64).any fun i => !unitServes s 0 i then some (.eFault, 0)
  else if !((maskBits (poolCores p) 64).all (poolMayTake s)) || !poolFits s p ||
      poolOver s (popCount (poolCores p) 64) ((poolMembers p).map fun m => m.1) 32 none then some (.eState, 16)
  else if poolScrub s p then some (.eBusy, (scrubsMs s fun u => !poolScrub u p).getD 1)
  else none

/-- R389 at T: the units of the members in list order; units that leave a member are zeroed. -/
def applyPool (p : Bytes) (cmd : Option (Nat × Nat)) (t : Nat) (s : State) : State :=
  let ended := fun st detail w s => match cmd with | some (fn, seq) => finishAt t fn seq st detail w s | none => s
  match poolLate s p with
  | some (st, detail) => ended st detail {} s
  | none =>
  let old := poolIsles s
  let ms := poolMembers p
  let touched := (old ++ ms.map fun m => m.1).foldl (fun a k => insNat k a) []
  let gone := (maskBits s.pool.cores 64).filter fun c => !(poolCores p).testBit c
  let s0 := s
  let s := { s with pool := { s.pool with
    cores := poolCores p, members := ms, obOwner := s.pool.obOwner.filter fun x => (poolCores p).testBit x.1 } }
  let s := touched.foldl (fun s k =>
    (noteCores k ((execCores s0 k).filter fun c => !(execCores s k).contains c) ((execCores s k).filter fun c => !(execCores s0 k).contains c)
      t s).mapIsle k fun r => { r with poolUnits := ((ms.find? fun m => m.1 == k).map fun m => m.2).getD 0 }) s
  ended .sOk 0 (w64 t) (release [] [] [] gone (remapIsles touched s))

def runPoolSet (fn : Nat) (c : Cmd) (tide : Nat) (s : State) : State :=
  match chooseT s (fieldB c.payload 8 8) with
  | none => finishAt tide fn c.seq .eBadarg 0 {} s
  | some t => propose t (.pool c.payload) (some (fn, c.seq)) (pendAt tide fn c.seq s)

def specPoolSet : CmdSpec :=
  { opcode := 0x0208, pfOnly := true, plen := fun p n => n == 20 + 4 * poolCount p, args := poolArgs,
    pre := fun s _ c =>
      if !poolFits s c.payload || poolOver s (popCount (poolCores c.payload) 64) ((poolMembers c.payload).map fun m => m.1) 32 none
      then some (.eState, 16)
      else if poolScrub s c.payload then (scrubsMs s fun u => !poolScrub u c.payload).map fun ms => (.eBusy, ms)
      else none,
    run := runPoolSet }

/-! ## Remaps (R256, R358) -/

/-- A loaded program's check after a change of cores or slot map: judged in the order the rule names them:
7 for the budget, 8 for C * k, 6 for FOOTPRINT. -/
def remapReason (s : State) (k : Nat) (g : Prog) : Option Nat :=
  if budgetBad s k g.image || decide (workWindow s.tide.epochLen < progTicks g (execCores s k).length (hostedCount s)) then some 7
  else if countersBad s k g.image then some 8
  else if footprintBad s k g.image then some 6
  else none

/-- R256, R241: a loaded program that fails a check is FAULTED, its in-flight invocations abort at the next boundary, and
TASK_FAULT says why (DEDUCED, log 33: "stopped" with a TASK_FAULT event is the state R241 gives that event). -/
def stopProg (tide k h slot reason : Nat) (s : State) : State :=
  postEventAt tide k .eFault reason 7 h slot 0
    (s.mapIsle k fun r => { r with
      progs := aMod h (fun p => { p with state := .faulted }) r.progs,
      invs := r.invs.map fun i => if i.prog = h then { i with faulted := true } else i })

/-- R256: every loaded program of isle k is judged anew. -/
def recheckProgs (k tide : Nat) (s : State) : State :=
  (s.isle k).progs.foldl (fun s p =>
    match remapReason s k p.2 with
    | none => s
    | some r =>
      let slot := ((List.range 64).find? fun sl => (List.range (hostedCount s)).any fun h =>
        decide ((((s.isle k).slotMap.getD h []).getD sl []).length < imgFootprint p.2.image sl)).getD 0
      stopProg tide k p.1 (if r = 6 then slot else 0) r s) s

/-- The check of R256 is due: d, the hosted shards or the slot map changed between two states. -/
def mappingChanged (k : Nat) (s t : State) : Bool :=
  decide ((execCores s k).length ≠ (execCores t k).length) || decide (hostedCount s ≠ hostedCount t) ||
    decide ((s.isle k).slotMap ≠ (t.isle k).slotMap)

end Sys2Proof.Machine
end

