-- ==== Sys2Proof/Machine/SeqCmd.lean ====
section
/-! DEFINITION. Chapter 12's commands and the admission limit (R282 to R289, R301 to R315, R467, R468), and T1_QUERY (R178). -/

namespace Sys2Proof.Machine

def seqHandle (c : Cmd) : Nat := fieldB c.payload 0 4

/-- The handle names a live sequence of the isle (R314). -/
def seqAuth (s : State) (fn : Nat) (c : Cmd) : Bool := (seqOf s (isleOf fn) (seqHandle c)).isSome

def namesSeq (p : Bytes) : Option (Nat × Nat) := some (5, fieldB p 0 4)

/-! ## SEQ_POOL_SET (R282, R284) -/

/-- The geometry and pools of a payload (Table 12.8). -/
def poolRec (b : Bytes) : KvPool :=
  { pageLog2 := fieldB b 0 1, shoalFirst := fieldB b 1 1, shoalUnits := fieldB b 2 1, layers := fieldB b 4 2, heads := fieldB b 6 2,
    vec := fieldB b 8 2, shelfBase := fieldB b 16 8, shelfLen := fieldB b 24 8, t1Base := fieldB b 32 8, t1Len := fieldB b 40 8 }

def poolSetArgs (_ : State) (_ : Nat) (c : Cmd) : Bool :=
  let p := poolRec c.payload
  decide (4 ≤ p.pageLog2) && decide (p.pageLog2 ≤ 8) && zeroB c.payload 3 1 && zeroB c.payload 10 6 && decide (1 ≤ p.shoalUnits) &&
  decide (p.shoalFirst + p.shoalUnits ≤ 32) && decide (1 ≤ p.layers) && decide (p.layers ≤ 256) && decide (1 ≤ p.heads) &&
  decide (p.heads ≤ 256) && decide (64 ≤ p.vec) && decide (p.vec ≤ 4096) && p.vec % 64 == 0 &&
  (if p.shelfBase = 0 then p.shelfLen == 0 else spaceOf p.shelfBase == 3) && (if p.t1Base = 0 then p.t1Len == 0 else spaceOf p.t1Base == 4)

/-- The shoal pool of one slot, as a range. -/
def shoalRange (p : KvPool) (slot : Nat) : Nat × Nat := (2 ^ 44 + slot * 2 ^ 38 + p.shoalFirst * 2 ^ 19, p.shoalUnits * 2 ^ 19)

/-- Check 4 of the pools' regions; shoal units that no segment has are left to check 6 (Table 12.8's range of SHOAL_UNITS). -/
def poolSetAuth (s : State) (fn : Nat) (c : Cmd) : Bool :=
  let p := poolRec c.payload
  let h := cmdView s c
  (p.shelfBase == 0 || (rangeOk s (isleOf fn) h (some 0) p.shelfBase p.shelfLen && !inSealed s (isleOf fn) h p.shelfBase p.shelfLen)) &&
  (p.t1Base == 0 || rangeOk s (isleOf fn) h (some 0) p.t1Base p.t1Len) &&
  (decide (32 < p.shoalFirst + p.shoalUnits) ||
    (List.range 64).all fun sl => rangeOk s (isleOf fn) h none (shoalRange p sl).1 (shoalRange p sl).2)

/-- E_STATE: a sequence exists, a pool region is not resident, or a shoal unit lies in a running program's FOOTPRINT. Tier one has no
residency to declare (R149). -/
def poolSetPre (s : State) (fn : Nat) (c : Cmd) : Option (Status × Nat) :=
  let r := s.isle (isleOf fn)
  let p := poolRec c.payload
  let h := cmdView s c
  if !r.seqs.isEmpty || !(p.shelfLen == 0 || isResident r h p.shelfBase p.shelfLen) ||
      !((List.range 64).all fun sl => isResident r h (shoalRange p sl).1 (shoalRange p sl).2) ||
      r.progs.any (fun g => g.2.state == .running && (List.range 64).any fun sl => decide (p.shoalFirst < imgFootprint g.2.image sl))
    then some (.eState, 0) else none

/-- The geometry and pools are set; a tree of the old geometry goes. -/
def runSeqPoolSet (fn : Nat) (c : Cmd) (tide : Nat) (s : State) : State :=
  let p := poolRec c.payload
  finishAt tide fn c.seq .sOk 0 { w0 := pageBytes p / 256, w1 := shelfPlaces p, w2 := t1Places p, w3 := shoalCount p }
    (s.mapIsle (isleOf fn) fun r => { r with pool := some (p, cmdView s c), tree := [] })

def specSeqPoolSet : CmdSpec :=
  { opcode := 0x0500, plen := plenIs 48, auth := poolSetAuth, args := poolSetArgs, pre := poolSetPre, memUse := true, boundary := true,
    data := fun _ => true, run := runSeqPoolSet }

/-! ## SEQ_BATCH_SET (R294) -/

def batchRec (b : Bytes) : Batch :=
  { eCap := fieldB b 4 2, aDec := fieldB b 6 1, featPos := fieldB b 7 1, rltBase := fieldB b 8 8, recBase := fieldB b 16 8,
    outBase := fieldB b 24 8, inBase := fieldB b 32 8, inBytes := fieldB b 40 4 }

/-- The four regions of a batch binding for PHASES tables. -/
def batchRegions (b : Batch) (phases : Nat) : List (Nat × Nat) :=
  [(b.rltBase, phases * b.eCap * 64), (b.recBase, phases * b.eCap * 64), (b.outBase, phases * b.eCap * 128), (b.inBase, phases * b.inBytes)]

def batchArgs (_ : State) (_ : Nat) (c : Cmd) : Bool :=
  let b := batchRec c.payload
  decide (1 ≤ b.eCap) && decide (b.eCap ≤ 4096) && decide (1 ≤ b.aDec) && decide (b.aDec ≤ 17) && decide (b.featPos ≤ 64) &&
  b.inBytes % 64 == 0 && zeroB c.payload 44 20

def batchAuth (s : State) (fn : Nat) (c : Cmd) : Bool :=
  progAuth s fn c && (List.range (hostedCount s)).all fun h =>
    (batchRegions (batchRec c.payload) (imgPhases (progOf s fn c).image)).all fun r => r.2 == 0 || rangeOk s (isleOf fn) h none r.1 r.2

def batchPre (s : State) (fn : Nat) (c : Cmd) : Option (Status × Nat) :=
  let r := s.isle (isleOf fn)
  let g := progOf s fn c
  if g.state == .running || (batchRegions (batchRec c.payload) (imgPhases g.image)).any (fun x =>
      x.2 != 0 && !isResident r (cmdView s c) x.1 x.2) then some (.eState, 0) else none

/-- The binding; its regions join the program's operand regions (R232). -/
def runSeqBatchSet (fn : Nat) (c : Cmd) (tide : Nat) (s : State) : State :=
  let k := isleOf fn
  let b := batchRec c.payload
  let new := (List.range (hostedCount s)).flatMap fun h =>
    (batchRegions b (imgPhases (progOf s fn c).image)).map fun r => (h, (round4k r).1, (round4k r).2)
  finishAt tide fn c.seq .sOk 0 {} (mapProg k (seqHandle c) (fun g => { g with
    batch := some b, table := 0, regions := progRegions s k g.image ++ new }) s)

def specSeqBatchSet : CmdSpec :=
  { opcode := 0x0501, plen := plenIs 64, auth := batchAuth, args := batchArgs, pre := batchPre, memUse := true, boundary := true,
    data := fun _ => true, handle := fun p => some (1, fieldB p 0 4), run := runSeqBatchSet }

/-! ## SEQ_CREATE (R286, R288, R289, R305, R315) -/

def createFlag (c : Cmd) (i : Nat) : Bool := (fieldB c.payload 0 1).testBit i
def createLmax (c : Cmd) : Nat := fieldB c.payload 4 4
def createReplicas (b : Bytes) : Nat := fieldB b 8 2

/-- REPLICAS names a shard that another chip hosts. -/
def replicasElsewhere (s : State) (replicas : Nat) : Bool := !(otherPartners s replicas).isEmpty

def seqCreateArgs (s : State) (fn : Nat) (c : Cmd) : Bool :=
  let p := poolOf s (isleOf fn)
  let low := (maskBits (createReplicas c.payload) 16).head?
  decide (fieldB c.payload 0 1 < 8) && decide (fieldB c.payload 1 1 ≤ 1) && decide (fieldB c.payload 2 2 < 64) &&
  decide (4096 ≤ createLmax c) && decide (createLmax c ≤ 131072) && createLmax c % pageTok p == 0 &&
  (match low with | some g => shardHost s g == chipId s | none => false) && zeroB c.payload 10 6 && zeroB c.payload 44 4 &&
  fieldB c.payload 32 8 % 64 == 0 && decide (fieldB c.payload 40 4 ≤ createLmax c) &&
  !((s.isle (isleOf fn)).replay.isSome && fieldB c.payload 16 8 == 0)

/-- The tokens of a create's ADOPT (R305). -/
def prefixTokens (s : State) (fn : Nat) (b : Bytes) : List Nat :=
  if (fieldB b 0 1).testBit 2 then tokensOf (hostRead s fn (fieldB b 32 8) (4 * fieldB b 40 4)) else []

/-- What replica chips answered before a create: chip, length of the run found, window (R288, R305). -/
def foundOf : List Nat → List (Nat × Nat × Nat)
  | a :: b :: c :: l => (a, b, c) :: foundOf l
  | _ => []

/-- The sequence of a create, with its seed known: the lowest free handle, its tables, what ADOPT finds, at most what every replica chip
found, and the STAGING page. DESIGN CHOICE (log 102): copies to a replica chip use the KV window of lowest index that was open there at
this create, for the sequence's whole life (R12). -/
def createHere (fn : Nat) (c : Cmd) (tide seed : Nat) (s : State) : State :=
  let k := isleOf fn
  match aFree (s.isle k).seqs (s.isle k).grant.seqs with
  | none => finishAt tide fn c.seq .eNores 0 {} s
  | some h =>
    let s0 := s
    let found := foundOf (c.aux.drop 1)
    let q := { createSeq c.payload true with seed := seed, kvWins := found.map fun x => (x.1, x.2.2), farHeld := found.map fun x => x.1 }
    match openTable k h (s.mapIsle k fun r => { r with seqs := aSet h q r.seqs }) with
    | none => finishAt tide fn c.seq .eNores 0 {} s0
    | some s =>
    let toks := prefixTokens s fn c.payload
    let n := found.foldl (fun n x => min n x.2.1) (toks.length / pageTok (poolOf s k))
    let s := adoptRun k h toks n 0 s
    let got := match seqOf s k h with | some q => (q.pages.filter fun x => x.state == .shared).length | none => 0
    let len := got * pageTok (poolOf s k)
    let (ok, s) := allocStaging k h (mapSeq k h (fun q => { q with c := len, f := len }) s)
    if !ok then finishAt tide fn c.seq .eNores 0 {} s0
    else
      let s := tellReplicas k h 0 (c.payload.take 16 ++ natLe 8 seed ++ c.payload.drop 24 ++ (toks.take len).flatMap (natLe 4)) s
      finishAt tide fn c.seq .sOk 0 { w0 := h, w1 := len, w2 := seed % 2 ^ 32, w3 := seed / 2 ^ 32 } s

/-- A create with ADOPT reads its prefix from host memory first (R305). -/
def createWith (fn : Nat) (c : Cmd) (tide seed : Nat) (s : State) : State :=
  if createFlag c 2 then
    withHost fn c tide (fun s => createHere fn c tide seed (hostTouch fn (fieldB c.payload 32 8) (4 * fieldB c.payload 40 4) s)) s
  else createHere fn c tide seed s

/-- A SEED of 0 is drawn (the first aux word, plus 1, once it is); a held draw leaves the command pending until the service answers, and the
boundary after that creates the sequence (R289, R291, R419). -/
def runSeqCreate (fn : Nat) (c : Cmd) (tide : Nat) (s : State) : State :=
  if fieldB c.payload 16 8 ≠ 0 then createWith fn c tide (fieldB c.payload 16 8) s
  else if c.aux.headD 0 ≠ 0 then createWith fn c tide (c.aux.headD 0 - 1) s else
  match entAsk 8 (.cmd fn c.seq 8) s with
  | (.got, s) => let (v, s) := drawEntropy 8 s; createWith fn c tide v s
  | (.held, s) => pendAt tide fn c.seq s
  | (.full, s) => finishAt tide fn c.seq .eBusy (holdMs s) {} s
  | (.failed, s) => finishAt tide fn c.seq .eRng 0 {} s

def specSeqCreate : CmdSpec :=
  { opcode := 0x0502, plen := plenIs 48, args := seqCreateArgs,
    pre := fun s fn c =>
      if (s.isle (isleOf fn)).pool.isNone then some (.eState, 0)
      else if fieldB c.payload 16 8 = 0 ∧ c.aux.headD 0 = 0 ∧ s.ent.state = .failed then some (.eRng, 0) else none,
    memUse := true, boundary := true, peer := fun s _ b => replicasElsewhere s (createReplicas b),
    peerData := fun s fn b => b ++ (prefixTokens s fn b).flatMap (natLe 4), data := fun _ => true, run := runSeqCreate }

/-! ## SEQ_DESTROY -/

/-- Issued on a replica chip that is not the home chip (R288). -/
def notHome (s : State) (fn : Nat) (c : Cmd) : Bool :=
  match seqOf s (isleOf fn) (seqHandle c) with | some q => !q.home | none => false

def seqReplicated (s : State) (fn : Nat) (b : Bytes) : Bool :=
  match seqOf s (isleOf fn) (fieldB b 0 4) with | some q => !(replicaChips s q).isEmpty | none => false

/-- A park under way is abandoned first; then everything the sequence holds is freed, on every replica. -/
def runSeqDestroy (fn : Nat) (c : Cmd) (tide : Nat) (s : State) : State :=
  let k := isleOf fn
  let h := seqHandle c
  let s := match seqOf s k h with
    | some q => if q.state = .parking then abandonPark k h .eRetry tide s else s
    | none => s
  freeSeq k h tide (finishAt tide fn c.seq .sOk 0 {} (tellReplicas k h 1 [] s))

def specSeqDestroy : CmdSpec :=
  { opcode := 0x0503, plen := plenIs 8, auth := seqAuth, args := fun _ _ c => zeroB c.payload 4 4,
    pre := fun s fn c => if notHome s fn c then some (.eState, 0) else none, boundary := true, peer := seqReplicated, data := fun _ => true,
    handle := namesSeq, run := runSeqDestroy }

/-! ## SEQ_BIND (R315, R467, R468) -/

def optHandle (b : Bytes) (o : Nat) : Option Nat := if fieldB b o 4 = 0xFFFFFFFF then none else some (fieldB b o 4)

def bindAuth (s : State) (fn : Nat) (c : Cmd) : Bool :=
  let r := s.isle (isleOf fn)
  let live := fun (o : Nat) => match optHandle c.payload o with | none => true | some h => (aGet r.streams h).isSome
  seqAuth s fn c && (match optHandle c.payload 4 with | none => true | some g => (aGet r.progs g).isSome) && live 8 && live 12

/-- Sequences that left a program's active count over the boundaries kept. -/
def leftCount (r : Isle) (g : Nat) : Nat := (r.pressure.map fun x => (aGet x.gone g).getD 0).sum

/-- R468. -/
def admitHint (s : State) (k g m : Nat) : Nat :=
  let d := leftCount (s.isle k) g
  if d = 0 then 0 else min 65535 (ceilDiv ((activeCount (s.isle k) g + 1 - m) * 1024 * s.tide.epochLen) (100000 * d))

/-- A stream that cannot be bound here: wrong direction, or bound to another sequence. -/
def streamTaken (r : Isle) (h : Nat) (out : Bool) (st : Option Nat) : Bool :=
  match st with
  | none => false
  | some i =>
    match aGet r.streams i with
    | none => false
    | some x => x.dirOut != out || (match x.bound with | some b => b != h | none => false)

def bindPre (s : State) (fn : Nat) (c : Cmd) : Option (Status × Nat) :=
  let k := isleOf fn
  let r := s.isle k
  let h := seqHandle c
  if streamTaken r h false (optHandle c.payload 8) || streamTaken r h true (optHandle c.payload 12) then some (.eState, 0) else
  match optHandle c.payload 4, seqOf s k h with
  | some g, some q =>
    if q.home && q.state != .parked && admissionFull r (some g) then some (.eBusy, admitHint s k g ((aGet r.admitLimits g).getD 0)) else none
  | _, _ => none

def bindStream (k h : Nat) (x : Option Nat) (s : State) : State :=
  match x with
  | some i => mapStream k i (fun y => { y with bound := some h }) s
  | none => s

def runSeqBind (fn : Nat) (c : Cmd) (tide : Nat) (s : State) : State :=
  let k := isleOf fn
  let h := seqHandle c
  let g := optHandle c.payload 4
  match seqOf s k h with
  | none => finishAt tide fn c.seq .eDenied 0 {} s
  | some q =>
    let s := if q.prog = g then s else noteLeft k h s
    let s := unbindStream k h q.outStream (unbindStream k h q.inStream s)
    let s := bindStream k h (optHandle c.payload 12) (bindStream k h (optHandle c.payload 8) s)
    finishAt tide fn c.seq .sOk 0 {} (mapSeq k h (fun q => { q with
      prog := g, inStream := optHandle c.payload 8, outStream := optHandle c.payload 12,
      eligibleSince := if q.prog = g then q.eligibleSince else none }) s)

def specSeqBind : CmdSpec :=
  { opcode := 0x0504, plen := plenIs 16, auth := bindAuth, pre := bindPre, boundary := true, data := fun _ => true, handle := namesSeq,
    run := runSeqBind }

/-! ## SEQ_QUERY (Table 12.10) -/

def queryAuth (s : State) (fn : Nat) (c : Cmd) : Bool := seqHandle c == 0xFFFFFFFF || seqAuth s fn c

def runSeqQuery (fn : Nat) (c : Cmd) (tide : Nat) (s : State) : State :=
  let k := isleOf fn
  match seqOf s k (seqHandle c) with
  | some q =>
    finishAt tide fn c.seq .sOk 0
      { w0 := seqStateCode q.state + b2n q.managed * 2 ^ 8 + b2n q.home * 2 ^ 9 + sat16 (lostPages q).length * 2 ^ 16, w1 := q.c, w2 := q.f, w3 := q.step } s
  | none =>
    let w := (s.isle k).withheld
    finishAt tide fn c.seq .sOk 0 { w0 := w.1, w1 := w.2.1, w2 := w.2.2.1, w3 := w.2.2.2 }
      (s.mapIsle k fun r => { r with withheld := (0, 0, 0, 0) })

def specSeqQuery : CmdSpec :=
  { opcode := 0x0505, plen := plenIs 8, auth := queryAuth, args := fun _ _ c => zeroB c.payload 4 4,
    handle := fun p => if fieldB p 0 4 = 0xFFFFFFFF then none else namesSeq p, run := runSeqQuery }

/-! ## SEQ_REWIND (R301, R302) -/

/-- Limits of the bring-up steps of Table 4.10, in milliseconds; step 4's is the lower of CAP.TO and 500 ms, once CAP.TO has been read. -/
def stepLimit (c : CaySlot) (n : Nat) : Nat :=
  if n = 4 ∧ 4 ≤ c.step then min 500 (500 * c.capTo) else [0, 100, 100, 100, 500, 200, 0, 50].getD n 0

/-- What is left of a slot's bring-up limit (R93). -/
def bringupMs (s : State) (slot : Nat) : Nat :=
  let c := s.caySlot slot
  max 1 (((List.range 8).filter (fun n => decide (c.step ≤ n))).foldl (fun m n => m + stepLimit c n) 0 -
    min (stepLimit c c.step) ((s.clk.ticks - c.stepTick) / 100000))

/-- A command that needs the pages of a PARKED sequence's image: on a QUIESCED slot E_STATE (R198), on one that is brought up
E_BUSY (R93), on one whose recorded certificate failed E_CART_AUTH (R185). -/
def imagePre (s : State) (k h : Nat) : Option (Status × Nat) :=
  match seqOf s k h with
  | none => none
  | some q =>
    match imageStop s q, q.image with
    | some st, _ => some (st, 0)
    | none, some i =>
      if q.state = .parked ∧ !q.tierOnePark ∧ (s.caySlot i.slot).state = .bringup then some (.eBusy, bringupMs s i.slot) else none
    | none, none => none

/-- Acceptance starts the unpark of pages 0 to j, or abandons a park (Table 12.7, steps 6 and 7). -/
def acceptRewind (fn : Nat) (c : Cmd) (s : State) : State :=
  let k := isleOf fn
  let h := seqHandle c
  wakeForRewind k h (fieldB c.payload 4 4) s

/-- Step 7 of Table 12.7: a park that has not issued its final flush is abandoned first (R308). -/
def runSeqRewind (fn : Nat) (c : Cmd) (tide : Nat) (s : State) : State :=
  let s := match seqOf s (isleOf fn) (seqHandle c) with
    | some q => if q.state = .parking then abandonPark (isleOf fn) (seqHandle c) .eRetry tide s else s
    | none => s
  let r := rewindSeq (isleOf fn) (seqHandle c) (fieldB c.payload 4 4) s
  finishAt tide fn c.seq r.1 0 {} (mapSeq (isleOf fn) (seqHandle c) (fun q => { q with rewindHold := false }) r.2)

def specSeqRewind : CmdSpec :=
  { opcode := 0x0506, plen := plenIs 8, auth := seqAuth, pre := fun s fn c => if notHome s fn c then some (.eState, 0) else imagePre s (isleOf fn) (seqHandle c),
    boundary := true, peer := seqReplicated, data := fun _ => true, handle := namesSeq, accepted := acceptRewind, run := runSeqRewind }

/-! ## SEQ_PARK (R307) -/

def parkTarget (c : Cmd) : Nat := fieldB c.payload 4 1

def parkPre (s : State) (fn : Nat) (c : Cmd) : Option (Status × Nat) :=
  match seqOf s (isleOf fn) (seqHandle c) with
  | none => none
  | some q => if !q.home || q.state == .unparking || q.state == .broken then some (.eState, 0) else none

def runSeqPark (fn : Nat) (c : Cmd) (tide : Nat) (s : State) : State :=
  let k := isleOf fn
  let h := seqHandle c
  match seqOf s k h with
  | none => finishAt tide fn c.seq .eDenied 0 {} s
  | some q =>
    if q.state = .parked then finishAt tide fn c.seq .sOk 0 {} s
    else if parkTarget c = 0 then parkCart fn c k h tide s
    else
      let r := parkTierOne k h s
      finishAt tide fn c.seq r.1 0 {} (if r.1 = .sOk then tellReplicas k h 4 [] r.2 else r.2)

def specSeqPark : CmdSpec :=
  { opcode := 0x0507, plen := plenIs 8, auth := seqAuth, args := fun _ _ c => decide (parkTarget c ≤ 1) && zeroB c.payload 5 3,
    pre := parkPre, boundary := true, peer := seqReplicated, data := fun _ => true, handle := namesSeq, run := runSeqPark }

/-! ## SEQ_WAKE_HINT (R13, R198) -/

def runSeqWakeHint (fn : Nat) (c : Cmd) (tide : Nat) (s : State) : State :=
  finishAt tide fn c.seq .sOk 0 {} (wakeSeq (isleOf fn) (seqHandle c) s)

def specSeqWakeHint : CmdSpec :=
  { opcode := 0x0508, plen := plenIs 8, auth := seqAuth, args := fun _ _ c => zeroB c.payload 4 4,
    pre := fun s fn c => imagePre s (isleOf fn) (seqHandle c),
    handle := namesSeq, run := runSeqWakeHint }

/-! ## SEQ_PREFIX_DROP (R306) -/

def runSeqPrefixDrop (fn : Nat) (c : Cmd) (tide : Nat) (s : State) : State :=
  let k := isleOf fn
  let d := fieldB c.payload 0 8
  let hit := fun (n : TreeNode) => n.inTree && (d == 0 || n.domain == d)
  let n := ((s.isle k).tree.filter hit).length
  finishAt tide fn c.seq .sOk 0 { w0 := n }
    (pruneTree k (s.mapIsle k fun r => { r with tree := r.tree.map fun n => if hit n then { n with inTree := false } else n }))

def specSeqPrefixDrop : CmdSpec :=
  { opcode := 0x0509, plen := plenIs 8, boundary := true, data := fun _ => true, run := runSeqPrefixDrop }

/-! ## ADMIT_SET (R467) -/

def runAdmitSet (fn : Nat) (c : Cmd) (tide : Nat) (s : State) : State :=
  finishAt tide fn c.seq .sOk 0 {} (s.mapIsle (isleOf fn) fun r => { r with
    admitLimits := if fieldB c.payload 4 4 = 0 then aDel r.admitLimits (handleArg c) else aSet (handleArg c) (fieldB c.payload 4 4) r.admitLimits })

def specAdmitSet : CmdSpec :=
  { opcode := 0x050A, plen := plenIs 8, auth := progAuth, args := fun _ _ c => decide (fieldB c.payload 4 4 ≤ 65536), boundary := true,
    handle := fun p => some (1, fieldB p 0 4), run := runAdmitSet }

/-! ## T1_QUERY (R178) -/

def runT1Query (fn : Nat) (c : Cmd) (tide : Nat) (s : State) : State :=
  let k := isleOf fn
  let r := s.isle k
  finishAt tide fn c.seq .sOk 0
    { w0 := (r.frames.getD 0 []).length, w1 := r.tableFrames.length, w2 := ceilDiv (tableUsed s k) 1024, w3 := r.t1Corrected }
    (s.mapIsle k fun r => { r with t1Corrected := 0 })

def specT1Query : CmdSpec := { opcode := 0x0310, plen := plenIs 0, run := runT1Query }

end Sys2Proof.Machine
end

