-- ==== Sys2Proof/Machine/TaskOps.lean ====
section
/-! DEFINITION. Tasks of an isle's units: what issues next (R235, R238, R257), counters (R239), memory as a task reaches it (R129, R240,
R285, R430), poison of an invocation (R451 to R453), and completion (R236, R240). -/

namespace Sys2Proof.Machine

/-! ## Units and tasks -/

def unitOf (s : State) (k u : Nat) : TUnit := (aGet (s.isle k).units u).getD {}

def mapUnit (k u : Nat) (f : TUnit → TUnit) (s : State) : State := s.mapIsle k fun r => { r with units := aMod u f r.units }

def mapTask (k u id : Nat) (f : Task → Task) (s : State) : State :=
  mapUnit k u (fun x => { x with running := x.running.map fun t => if t.id = id then f t else t }) s

/-- Engines of Table 10.5: 0 DE, 1 MA, 2 AE, 3 VU, 4 RAU, 5 dispatcher. -/
def engineOf (cls : Nat) : Nat :=
  match cls with
  | 2 => 1 | 3 | 7 => 2 | 4 | 5 => 3 | 10 => 4 | 11 | 12 => 5 | _ => 0

/-- The engines that a task holds: a nest generates MOVEs beside its MATMULs, in its place of the list (R253). -/
def enginesOf (d : Bytes) : List Nat := if dClass d = 2 ∧ hasExt d then [0, 1] else [engineOf (dClass d)]

/-- The work of an issued task is over: nothing outstanding. -/
def taskOver (t : Task) : Bool := t.wait.isEmpty && !t.busy

/-- A task of the isle that has issued on the unit's core and is not complete answers to a predicate on its descriptor. -/
def coreRuns (s : State) (k u : Nat) (f : Bytes → Bool) : Bool :=
  (s.isle k).units.any fun x => coreOf s k x.1 == coreOf s k u && x.2.running.any fun t => f t.desc

/-- An ATTEND that expands latents holds the matrix array of its core from issue to completion (R271). -/
def holdsArray (d : Bytes) : Bool := dClass d == 3 && (attOf d).subop == 0 && (attOf d).expand

/-- The units of a core share its engines, each of which runs one task at a time, in dispatcher order (R238, R257): it accepts the next
once its last is complete. SEAL tasks join their RAU's queue, which holds 256 (R425). -/
def engineFree (s : State) (k u : Nat) (d : Bytes) : Bool :=
  match dClass d with
  | 10 => (match (coreOf s k u).bind fun c => rauOf s c with | some r => decide ((s.rau r).queue.length < 256) | none => true)
  | 11 | 12 => true
  | c => !coreRuns s k u fun e => ((enginesOf e).any fun g => (enginesOf d).contains g) || (c == 2 && holdsArray e) || (holdsArray d && dClass e == 2)

/-- An isle that runs on the shared pool's cores (R389). -/
def onPool (s : State) (k : Nat) : Bool := poolMember s k && (dedicated (s.isle k)).isEmpty

/-- The order in which pool core c takes the members (R390): by class, then by isle number after the member that ran first on it before. -/
def poolOrder (s : State) (c : Nat) : List Nat :=
  let l := (List.range 32).filter fun k => onPool s k
  let f := (aGet s.pool.first c).getD 31
  let rot := l.filter (fun k => decide (f < k)) ++ l.filter fun k => decide (k ≤ f)
  [0, 1, 2].flatMap fun q => rot.filter fun k => (s.isle k).cls == q

/-- Work of an isle's release on a core: any, or only tasks that run. -/
def coreWork (s : State) (k core : Nat) (running : Bool) : Bool :=
  (s.isle k).units.any fun x => coreOf s k x.1 == some core && (!x.2.running.isEmpty || (!running && !x.2.stopped && !x.2.tasks.isEmpty))

/-- R390: a pool core runs one member's work until it is over, then the next member's. -/
def poolTurn (s : State) (k u : Nat) : Bool :=
  match coreOf s k u with
  | none => false
  | some c => !onPool s k || (((poolOrder s c).takeWhile fun m => m != k).all fun m => !coreWork s m c false) &&
      (poolOrder s c).all fun m => m == k || !coreWork s m c true

def ctrOf (s : State) (k u c : Nat) : Nat := (aGet (unitOf s k u).counters c).getD 0

/-- The task at the front of a unit's window that can issue now: its engine accepts it, FENCE is satisfied (R236), and a WAIT's counter
has reached VALUE (R238). A slot whose task has faulted issues nothing (R241). -/
def readyTask (s : State) (k u : Nat) : Option Task :=
  let x := unitOf s k u
  if x.stopped then none else
  match x.queue with
  | [] => none
  | t :: _ =>
    if (dFence t.desc && !x.running.isEmpty) || !engineFree s k u t.desc ||
      (dClass t.desc == 12 && decide (ctrOf s k u (bitsOf (fieldB t.desc 16 1) 0 6) < fieldB t.desc 20 4)) then none else some t

/-- The units of the isle on the unit's core, as the dispatcher offers issue to them: round robin after the one that issued last in
the release, from the lowest (R235). -/
def offerOrder (s : State) (k u : Nat) : List Nat :=
  let l := ((s.isle k).units.map fun x => x.1).filter fun v => coreOf s k v == coreOf s k u
  match (coreOf s k u).bind fun c => aGet (s.isle k).turn c with
  | none => l
  | some v => l.filter (fun x => decide (v < x)) ++ l.filter fun x => decide (x ≤ v)

/-- No unit that is offered issue before this one can take it. -/
def offered (s : State) (k u : Nat) : Bool := ((offerOrder s k u).takeWhile fun v => v != u).all fun v => (readyTask s k v).isNone

/-- The task that the dispatcher issues from a unit, when it is of the class. -/
def front (s : State) (k u cls : Nat) : Option Task :=
  if !isReady s || !poolTurn s k u || !offered s k u then none else
  match readyTask s k u with
  | none => none
  | some t => if dClass t.desc == cls then some t else none

/-- The front task, when it is of the class and its descriptor answers to f. -/
def frontIf (s : State) (k u cls : Nat) (f : Bytes → Bool) : Option Task :=
  match front s k u cls with
  | none => none
  | some t => if f t.desc then some t else none

/-- R150, R390: a pool core that switches to the isle zeroes its operand buffers before the isle's first task there; who runs first in the
epoch is kept. -/
def poolSwitch (k u : Nat) (s : State) : State :=
  match coreOf s k u with
  | none => s
  | some c =>
    if !onPool s k then s else
    let s := if (aGet s.pool.ranNow c).isSome then s else { s with pool := { s.pool with ranNow := aSet c k s.pool.ranNow } }
    if aGet s.pool.obOwner c == some k then s
    else { s.mapMems (zeroOb c) with pool := { s.pool with obOwner := aSet c k s.pool.obOwner } }

/-- A unit of a core has issued: the dispatcher goes on after it. -/
def noteTurn (k u : Nat) (s : State) : State :=
  match coreOf s k u with
  | none => s
  | some c => s.mapIsle k fun r => { r with turn := aSet c u r.turn }

/-- The front task leaves the window and runs. -/
def issueTask (k u : Nat) (t : Task) (s : State) : State :=
  mapUnit k u (fun x => { x with queue := x.queue.drop 1, running := x.running ++ [t] }) (noteTurn k u (poolSwitch k u s))

/-- The front task leaves the window for good: the dispatcher's own classes. -/
def popTask (k u : Nat) (s : State) : State := mapUnit k u (fun x => { x with queue := x.queue.drop 1 }.refill) (noteTurn k u s)

/-! ## Counters (R239) -/

/-- An increment; none when it would pass 0xFFFF_FFFF. A slot without a list has its counters too. -/
def bumpCtr (k u c n : Nat) (s : State) : Option State :=
  let v := ctrOf s k u c + n
  if 0xFFFFFFFF < v then none else
  some (s.mapIsle k fun r => { r with units := aSet u { unitOf s k u with counters := aSet c v (unitOf s k u).counters } r.units })

/-! ## The end of a step's tasks (R332, R452) -/

def invProg (s : State) (k : Nat) (i : Inv) : Prog := (aGet (s.isle k).progs i.prog).getD {}

/-! ## Output records (Table 12.5) -/

structure OutRec where
  mode  : Nat
  keep  : Nat
  count : Nat
  flags : Nat
  tags  : Nat
  path  : List Nat
  zero  : Bool
  toks  : Bytes

def outRecOf (b : Bytes) : OutRec :=
  { mode := fieldB b 0 1, keep := fieldB b 1 1, count := fieldB b 2 1, flags := fieldB b 3 1, tags := fieldB b 4 4,
    path := (List.range 16).map fun i => fieldB b (8 + i) 1, zero := zeroB b 24 8, toks := sliceB b 32 96 }

/-- The lowest shard of a sequence's REPLICAS that the chip hosts (R355). -/
def homeShard (s : State) (q : Seq) : Nat := ((hostedShards s).find? fun g => q.replicas.testBit g).getD ((hostedShards s).headD 0)

def homeView (s : State) (q : Seq) : Nat := (shardRank s (homeShard s q)).getD 0

/-- Entry n's output record, from the view of the sequence's home shard. -/
def outRec (s : State) (k : Nat) (i : Inv) (n : Nat) (q : Seq) : OutRec :=
  let t := ((invProg s k i).batch).getD {}
  outRecOf (readBytes s k (homeView s q) (t.outBase + (i.table * t.eCap + n) * 128) 128)

/-- R300, step 1. -/
def OutRec.ok (o : OutRec) (a outMax : Nat) : Bool :=
  decide (o.mode ≤ 1) && decide (o.count ≤ 24) && decide (o.count ≤ outMax) && decide (o.flags < 2) && decide (o.tags < 2 ^ 24) && o.zero &&
  (if o.mode = 0 then decide (o.keep ≤ a) else decide (o.keep ≤ 16) && decide (0 < a) && (o.path.take o.keep).all fun n => decide (n < a))

/-- The provisional slots that join the committed region, in order (R300, step 2; R274). -/
def OutRec.joins (o : OutRec) (q : Seq) : List ShoalSlot :=
  if o.mode = 0 then q.prov.take o.keep else (0 :: o.path.take o.keep).filterMap fun n => q.prov[n]?

/-- Every used entry of the step passes R300's check. -/
def recordsOk (s : State) (k : Nat) (i : Inv) : Bool :=
  ((List.range i.entries.length).zip i.entries).all fun x =>
    match seqOf s k x.2.seq with
    | some q => (outRec s k i x.1 q).ok x.2.a (imgOutMax (invProg s k i).image)
    | none => true

/-- A step whose tasks have all completed: STEP_DONE goes to every other partner, or STEP_FAIL when it is poisoned
or an output record fails the check that aborts it (R300, DEDUCED, log 121). -/
def announceDone (k : Nat) (s : State) : State :=
  (s.isle k).invs.foldl (fun s i =>
    if i.done || i.faulted || i.stopped || i.collFail != 0 || !lastPhase (s.isle k) i || invWork (s.isle k) i then s else
    match aGet (s.isle k).progs i.prog with
    | none => s
    | some g =>
      let s := mapInv k i.prog i.num (fun i => { i with done := true }) s
      if i.poisoned || !recordsOk s k i then tellFail k i.prog i.num 2 s
      else (otherPartners s g.shards).foldl (fun s j => ctrlTo j pmStepDone [k, g.digest, i.num, chipId s] [] s) s) s

/-! ## Where a task runs -/

structure Site where
  k : Nat
  u : Nat
  h : Nat
  core : Nat
  prog : Nat
  inv : Nat

def siteOf (s : State) (k u : Nat) (t : Task) : Site :=
  { k := k, u := u, h := u / 64, core := (coreOf s k u).getD 0, prog := t.prog, inv := t.inv }

/-- A range a task may reach: it translates, and lies neither in the KV pools (R285) nor in a sealed region (R430). -/
def Site.ok (w : Site) (s : State) (a n : Nat) : Bool :=
  n == 0 || (decide (spaceOf a ≤ 4) && rangeOk s w.k w.h (some w.core) a n && !inPool (s.isle w.k) w.h a n && !inSealed s w.k w.h a n)

def Site.read (w : Site) (s : State) (a n : Nat) : List (Byte × Bool) :=
  (readProg s w.k w.h (some w.core) a n).getD (List.replicate n (0, false))

def Site.write (w : Site) (a : Nat) (bs : List (Byte × Bool)) (s : State) : State := writeProg w.k w.h (some w.core) a bs s

/-- SPACE 0x0 address of an offset in an operand buffer: 0 OB-A, 1 OB-B, 2 OB-C. -/
def obAddr (b off : Nat) : Nat := b * 2 ^ 18 + off

/-- Bytes and whether one of them is poisoned. -/
def Site.bytes (w : Site) (s : State) (a n : Nat) : Bytes × Bool :=
  let l := w.read s a n
  (l.map fun x => x.1, l.any fun x => x.2)

/-! ## Poison (R452, R453) -/

/-- Poisoned lines of a range, as view * 2^48 + program address of the line. -/
def progLines (s : State) (k h : Nat) (core : Option Nat) (a n : Nat) : List Nat :=
  ((List.range n).filterMap fun i =>
    match translate s k h core (a + i) with
    | some p => if physPoison s.mems p then some (h * 2 ^ 48 + (a + i - (physLine p).2)) else none
    | none => none).foldl (fun l x => insNat x l) []

/-- An invocation has read poisoned lines; they are kept in the order in which it found them. -/
def poisonInv (k prog num : Nat) (lines : List Nat) (s : State) : State :=
  if lines.isEmpty then s else
  mapInv k prog num (fun i => { i with
    poisoned := true, poisonLines := i.poisonLines ++ lines.filter fun x => !i.poisonLines.contains x }) s

/-- A task has read ranges. -/
def Site.noteReads (w : Site) (rs : List (Nat × Nat)) (s : State) : State :=
  poisonInv w.k w.prog w.inv ((rs.flatMap fun r => progLines s w.k w.h (some w.core) r.1 r.2).foldl (fun l x => insNat x l) []) s

/-- A task has found or produced a poisoned value that lies in no line it can name. -/
def Site.notePoison (w : Site) (bad : Bool) (s : State) : State :=
  if bad then mapInv w.k w.prog w.inv (fun i => { i with poisoned := true }) s else s

/-- Flag bytes as poisoned. -/
def flagBytes (bad : Bool) (bs : Bytes) : List (Byte × Bool) := bs.map fun b => (b, bad)

/-- n bytes that nothing constrains (log 3). -/
def drawBytes (n : Nat) (s : State) : Bytes × State :=
  ((List.range n).map fun i => Config.freeByte (s.clk.freeCtr + i), s.mapClk fun c => { c with freeCtr := c.freeCtr + n })

/-- Elements of a format: codes with their poison. -/
def elems (f : Nat) (l : List (Byte × Bool)) : List (Nat × Bool) :=
  (chunksOf (fmtBytes f) l).map fun c => (leNat (c.map fun x => x.1), c.any fun x => x.2)

/-- Elements converted exactly to binary32. -/
def elemsF (f : Nat) (l : List (Byte × Bool)) : List (F32 × Bool) := (elems f l).map fun x => (toF32 f x.1, x.2)

/-- The same without poison. -/
def floats (b : Bytes) : List F32 := (chunksOf 4 b).map fun c => BitVec.ofNat 32 (leNat c)

end Sys2Proof.Machine
end

