-- ==== Sys2Proof/Machine/Matrix.lean ====
section
/-! DEFINITION. Chapter 9: the matrix array. Prologues (R216 to R218), the fixed reduction (R212, R213), stages and output conversion
(R219 to R223, R246), circular regions (R244) and nested tiling (R252 to R255). -/

namespace Sys2Proof.Machine

/-! ## Stages (R219, R246) -/

def bf16 (c : Nat) : F32 := toF32 3 (c % 65536)

/-- Element-wise: a binary operation with operands. -/
def zipStage (f : F32 → F32 → F32) (x o : List (F32 × Bool)) : List (F32 × Bool) :=
  List.zipWith (fun a b => (f a.1 b.1, a.2 || b.2)) x o

/-- ROPE: pairs below ROT rotated by the (cos, sin) pairs of a line. -/
def ropeRow (rot : Nat) (cs : List (F32 × Bool)) (x : List (F32 × Bool)) : List (F32 × Bool) :=
  let at' := fun (l : List (F32 × Bool)) i => l.getD i (0, false)
  (List.range x.length).map fun j =>
    if j < rot then
      let i := j / 2
      let a := at' x (2 * i)
      let b := at' x (2 * i + 1)
      let c := at' cs (2 * i)
      let d := at' cs (2 * i + 1)
      (if j % 2 = 0 then subF (mulF a.1 c.1) (mulF b.1 d.1) else addF (mulF a.1 d.1) (mulF b.1 c.1), a.2 || b.2 || c.2 || d.2)
    else at' x j

/-- One stage on row r of n columns; col0 is the first column's index in its line group (0 but in COMBINE's lines, which run on). -/
def applyStage (w : Site) (word r : Nat) (x : List (F32 × Bool)) (s : State) : List (F32 × Bool) × State :=
  let n := x.length
  let line := bitsOf word 0 9 * 512
  let vec := fun (_ : Unit) => elemsF 6 (w.read s (obAddr 1 line) (4 * n))
  let opnd := fun (_ : Unit) =>
    let f := bitsOf word 9 3
    elemsF f (w.read s (obAddr 2 (line + r * n * fmtBytes f)) (n * fmtBytes f))
  match stOp word with
  | 1 => (zipStage addF x (vec ()), s)
  | 2 => if word.testBit 27 then (x.map fun a => (mulF a.1 (bf16 word), a.2), s) else (zipStage mulF x (vec ()), s)
  | 3 => (x.map fun a => (actF (bitsOf word 0 3) a.1, a.2), s)
  | 4 => (zipStage addF x (opnd ()), s)
  | 5 => (zipStage mulF x (opnd ()), s)
  | 6 => (ropeRow (bitsOf word 9 7) (elemsF 6 (w.read s (obAddr 2 (line + 512 * r)) 512)) x, s)
  | 7 => let m := bf16 word; (x.map fun a => (minF (maxF a.1 (negF m)) m, a.2), s)
  | 8 => (x, w.write (obAddr 2 (line + 16 * r)) (flagBytes (x.any fun a => a.2) (statsBytes (rowStats (x.map fun a => a.1)))) s)
  | _ => (x, s)

/-- The stages before QUANT, in order. -/
def runStages (w : Site) (l : List Nat) (r : Nat) (x : List (F32 × Bool)) (s : State) : List (F32 × Bool) × State :=
  l.foldl (fun (acc : List (F32 × Bool) × State) word => applyStage w word r acc.1 acc.2) (x, s)

/-- The bytes of an output row (R221, R222, R243): elements, then one scale per 32 columns with MX. -/
def rowBytes (l : List Nat) (x : List (F32 × Bool)) : List (Byte × Bool) :=
  match quantOf l with
  | none => x.flatMap fun a => flagBytes a.2 (natLe 4 (convOut 6 false a.1))
  | some q =>
    let f := quantFmt q
    if quantMx q then
      let bl := (chunksOf 32 x).map fun b => (mxBlock f (quantSat q) (b.map fun a => a.1), b.any fun a => a.2)
      (bl.flatMap fun b => b.1.2.flatMap fun c => flagBytes b.2 (natLe 1 c)) ++ bl.flatMap fun b => flagBytes b.2 (natLe 1 b.1.1)
    else x.flatMap fun a => flagBytes a.2 (natLe (fmtBytes f) (convOut f (quantSat q) a.1))

/-! ## The reduction (Table 9.3) -/

/-- A scale exponent, none for NaN. -/
def e8m0 (b : Nat) : Option Int := if b = 255 then none else some ((b : Int) - 127)

/-- One scaled block sum. -/
def scaledBlock (af wf : Nat) (sa sw : Option Nat) (a v : List Nat) : F32 :=
  let b := if af = 2 then ofInt ((List.zipWith (fun x y => signedOf 8 x * signedOf 8 y) a v).foldl (· + ·) 0)
    else blockSum (List.zipWith (fun x y => mulF (toF32 af x) (toF32 wf y)) a v)
  if sa.isNone && sw.isNone then b else
  let z : Int := if af = 2 then (if sa.isSome then -6 else 0) + (if sw.isSome then -6 else 0) else 0
  match (match sa with | none => some 0 | some x => e8m0 x), (match sw with | none => some 0 | some x => e8m0 x) with
  | some x, some y => scaleF b (x + y + z)
  | _, _ => nanF

/-- The pass result of one column: activations a and weights v of one K-chunk, with their block scales. A block of 32 that lies wholly
beyond K gives +0 whatever its weight scale (R212; DESIGN CHOICE, log 128). -/
def passSum (af wf : Nat) (sa sw : Option (List Nat)) (a v : List Nat) : F32 :=
  let c := (List.range 4).map fun m =>
    if a.length ≤ 32 * m then (0 : F32) else
    scaledBlock af wf (sa.map fun l => l.getD m 0) (sw.map fun l => l.getD m 0) ((a.drop (32 * m)).take 32) ((v.drop (32 * m)).take 32)
  addF (addF (c.getD 0 0) (c.getD 1 0)) (addF (c.getD 2 0) (c.getD 3 0))

/-! ## Weight tiles (R207, R218, R243) -/

/-- Code of the weight in cell (k, n) of a tile. -/
def weightCode (m : MatD) (tile scales : Bytes) (k n : Nat) : Nat :=
  if m.wfmt = 5 then
    let by' := fieldB tile (k / 2 * m.n + n) 1
    let q := if k % 2 = 0 then by' % 16 else by' / 16
    let g := k / 32
    let sc := bf16 (fieldB scales (2 * (g * m.n + n)) 2)
    let zb := fieldB scales (8 * m.n + (g * m.n + n) / 2) 1
    let z := if (g * m.n + n) % 2 = 0 then zb % 16 else zb / 16
    convOut m.wcell true (mulF (ofInt ((q : Int) - z)) sc)
  else fieldB tile ((k * m.n + n) * fmtBytes m.wfmt) (fmtBytes m.wfmt)

/-- The codes of column n of a tile of kt rows. -/
def tileCol (m : MatD) (kt : Nat) (tile scales : Bytes) (n : Nat) : List Nat := (List.range kt).map fun k => weightCode m tile scales k n

def MatD.chunkRows (m : MatD) (c : Nat) : Nat := min 128 (m.k - 128 * c)

/-- Where chunk c's tile and its scales lie. -/
def MatD.tileAt (m : MatD) (c : Nat) : Nat × Nat := (obAddr 1 (m.bOff + c * m.tileStep), m.tileBytes (m.chunkRows c))
def MatD.scalesAt (m : MatD) (c : Nat) : Nat × Nat :=
  if m.wfmt = 5 then (obAddr 1 (m.bsOff + c * up512 (10 * m.n)), 10 * m.n)
  else if m.wmx then (obAddr 1 (m.bsOff + 512 * c), 4 * m.n) else (0, 0)

/-- A loaded tile: its columns of codes, and the scales of each column with WMX. -/
structure Tile where
  cols : List (List Nat)
  scl  : List (Option (List Nat))

def makeTile (m : MatD) (c : Nat) (tile scales : Bytes) : Tile :=
  { cols := (List.range m.n).map fun n => tileCol m (m.chunkRows c) tile scales n,
    scl := (List.range m.n).map fun n => if m.wmx then some ((List.range 4).map fun g => fieldB scales (4 * n + g) 1) else none }

/-! ## Activation rows (R216, R217) -/

/-- γ and β lines of chunk c in OB-B. -/
def MatD.gammaAt (m : MatD) (c : Nat) : Nat := obAddr 1 ((m.gb + (if proAct m.pro = 2 then 2 * c else c)) * 512)

/-- The transform of one row: source values, its record, and γ, β by k. -/
def actTransform (m : MatD) (rec : Stats) (x gamma beta : List F32) : List F32 :=
  let cnt := ofNatF rec.count
  let eps := BitVec.ofNat 32 m.eps
  if proAct m.pro ≠ 3 ∧ rec.count = 0 then x.map fun _ => nanF else
  match proAct m.pro with
  | 1 =>
    let rs := rcpF (sqrtF (addF (divF rec.sumsq cnt) eps))
    List.zipWith (fun a g => mulF (mulF a rs) g) x gamma
  | 2 =>
    let mu := divF rec.sum cnt
    let v0 := subF (divF rec.sumsq cnt) (mulF mu mu)
    let v := if !isNanF v0 && decide (orderKey v0 < orderKey 0x80000000) then (0 : F32) else v0
    let rs := rcpF (sqrtF (addF v eps))
    List.zipWith (fun y b => addF y b) (List.zipWith (fun a g => mulF (mulF (subF a mu) rs) g) x gamma) beta
  | _ =>
    if rec.count = 0 then x.map fun _ => nanF else
    let r := rcpF (if m.smode then rec.max else rec.sum)
    x.map fun a => mulF a r

/-- The codes of activation row r that enter the array (input row at slot sl of the region), and whether one of its inputs is poisoned. -/
def actRow (w : Site) (m : MatD) (r sl : Nat) (s : State) : List Nat × Bool :=
  let src := w.read s (obAddr 0 (m.aOff + sl * m.k * fmtBytes m.psrc)) (m.k * fmtBytes m.psrc)
  let e := elems m.psrc src
  let bad := e.any fun x => x.2
  if proAct m.pro = 0 then (e.map fun x => x.1, bad) else
  let (rb, rp) := w.bytes s (obAddr 2 (m.recOff + 16 * r)) 16
  let line := fun (off : Nat) => (List.range m.passes).flatMap fun c => floats (w.bytes s (m.gammaAt c + off) (4 * m.chunkRows c)).1
  let y := actTransform m (statsOf rb) (e.map fun x => toF32 m.psrc x.1) (if proAct m.pro = 3 then [] else line 0)
    (if proAct m.pro = 2 then line 512 else [])
  (y.map fun v => convOut m.afmt true v, bad || rp)

/-- Block scales of activation row r with AMX. -/
def actScales (w : Site) (m : MatD) (sl : Nat) (s : State) : Option (List Nat) × Bool :=
  if !m.amx then (none, false) else
  let (b, p) := w.bytes s (obAddr 0 (m.asOff + sl * ceilDiv m.k 32)) (ceilDiv m.k 32)
  (some (b.map fun x => x.toNat), p)

/-! ## One row through the array (R212, R213) -/

/-- Row r's sums, and whether one of its inputs is poisoned. -/
def matRow (w : Site) (m : MatD) (tiles : List Tile) (r sl : Nat) (s : State) : List F32 × Bool :=
  let (codes, p1) := actRow w m r sl s
  let (sa, p2) := actScales w m sl s
  let (accB, p3) := if m.accInit then w.bytes s (obAddr 2 (m.accOff + r * m.n * 4)) (4 * m.n) else ([], false)
  let acc0 := if m.accInit then floats accB else List.replicate m.n (0 : F32)
  let vals := (List.range tiles.length).foldl (fun (acc : List F32) c =>
    match tiles[c]? with
    | none => acc
    | some t =>
      let a := (codes.drop (128 * c)).take 128
      acc.mapIdx fun n x => addF x (passSum m.afmt m.wcell (sa.map fun l => l.drop (4 * c)) (t.scl.getD n none) a (t.cols.getD n []))) acc0
  (vals, p1 || p2 || p3)

/-- Stage operands of rows of n columns, as ranges. -/
def stageReads (l : List Nat) (rows n : Nat) : List (Nat × Nat) :=
  (stRegions l rows n).filterMap fun q => if q.kind = 4 then none else some (obAddr q.buf q.base, q.size)

/-- γ and β lines, and stage operands: poison there reaches every row of the stream (R215). -/
def matLineReads (m : MatD) (l : List Nat) : List (Nat × Nat) :=
  ((List.range m.passes).flatMap fun c =>
    if proAct m.pro = 1 then [(m.gammaAt c, 512)] else if proAct m.pro = 2 then [(m.gammaAt c, 1024)] else []) ++ stageReads l m.rows m.n

/-- Weight tiles and their scales. -/
def matTileReads (m : MatD) : List (Nat × Nat) := (List.range m.passes).flatMap fun c => [m.tileAt c, m.scalesAt c]

/-- Ranges that a MATMUL in inner mode reads beside its rows. -/
def matFixedReads (m : MatD) (l : List Nat) : List (Nat × Nat) := matTileReads m ++ matLineReads m l

/-- The same, row by row: activations, scales, records and the accumulator, for a row at input slot sl. -/
def matRowReads (m : MatD) (r sl : Nat) : List (Nat × Nat) :=
  [(obAddr 0 (m.aOff + sl * m.k * fmtBytes m.psrc), m.k * fmtBytes m.psrc)] ++
  (if m.amx then [(obAddr 0 (m.asOff + sl * ceilDiv m.k 32), ceilDiv m.k 32)] else []) ++
  (if proAct m.pro = 0 then [] else [(obAddr 2 (m.recOff + 16 * r), 16)]) ++
  (if m.accInit then [(obAddr 2 (m.accOff + r * m.n * 4), 4 * m.n)] else [])

/-- Some byte of the ranges is poisoned. -/
def Site.anyPoison (w : Site) (s : State) (rs : List (Nat × Nat)) : Bool := rs.any fun r => !(progLines s w.k w.h (some w.core) r.1 r.2).isEmpty

/-- Row r read, reduced and taken through the stages: the bytes of its output row; a row with a poisoned input, with poison in a tile or a
stage operand at issue, or with poison in what its own stages read, is poisoned whole (R215, R451). The accumulator is written where there
is one. -/
def matFinishRow (w : Site) (m : MatD) (l : List Nat) (tiles : List Tile) (bad : Bool) (r sl : Nat) (s : State) : List (Byte × Bool) × State :=
  let (vals, p) := matRow w m tiles r sl s
  let p := p || bad
  let s := w.noteReads (matRowReads m r sl) s
  let x := vals.map fun v => (v, p)
  let s := if m.needsAcc then w.write (obAddr 2 (m.accOff + r * m.n * 4)) (x.flatMap fun a => flagBytes p (natLe 4 a.1.toNat)) s else s
  let (y, s) := runStages w l r x s
  let p := p || y.any fun a => a.2
  (rowBytes l (y.map fun a => (a.1, p)), s)

/-! ## Row-steps (Table 9.9) -/

/-- Row-steps a row costs, and a tile load. -/
def rowStep (af : Nat) : Nat := if af = 3 ∨ af = 4 then 2 else 1
def loadStep (m : MatD) : Nat := if m.wfmt = 3 ∨ m.wfmt = 4 then 64 else 32

def matSteps (m : MatD) (l : List Nat) : Nat :=
  let one := m.rows * rowStep m.afmt
  loadStep m + (m.passes - 1) * (loadStep m - one) + m.passes * one + (if proAct m.pro = 0 then 0 else 8) + 14 + 4 * l.length

/-! ## Circular regions (R244) -/

/-- One move of a ring MATMUL: it reads the next row, or writes the row it holds; none when it has to wait, and reason 4 when a counter
would overflow. -/
inductive RingMove where
  | wait | go (s : State) | overflow

def ringStep (k u : Nat) (t : Task) (r : RingRun) (s : State) : RingMove :=
  let m := matOf t.desc
  let l := stages t.desc
  let w := siteOf s k u t
  if r.wr < r.rd then
    if ctrOf s k u m.cFree + m.rc < r.wr + 1 then .wait else
    let s := w.write (obAddr 2 (m.outOff + r.wr % m.rc * outRow l m.n)) r.row s
    let last := r.wr + 1 == m.rows
    let s := mapTask k u t.id (fun t => { t with ring := some { r with wr := r.wr + 1, row := [] }, busy := !last }) s
    match bumpCtr k u m.cFull 1 s with
    | some s => .go s
    | none => .overflow
  else if r.rd < m.rows then
    if ctrOf s k u m.aFull < r.rd + 1 then .wait else
    let (row, s) := matFinishRow w m l [makeTile m 0 r.tile r.scales]
      r.poison r.rd (r.rd % m.ra) s
    let s := mapTask k u t.id (fun t => { t with ring := some { r with rd := r.rd + 1, row := row } }) (w.noteReads (matLineReads m l) s)
    match bumpCtr k u m.aFree 1 s with
    | some s => .go s
    | none => .overflow
  else .wait

/-- The running ring MATMULs of an isle: unit and task. A slot that has stopped issues nothing more, and what runs there goes on (R241). -/
def ringTasks (s : State) (k : Nat) : List (Nat × Task) :=
  (s.isle k).units.flatMap fun x => (x.2.running.filter fun t => t.busy && t.ring.isSome).map fun t => (x.1, t)

/-- Moves that the ring MATMULs of an isle can still make. -/
def ringFuel (s : State) (k : Nat) : Nat :=
  ((ringTasks s k).map fun x => match x.2.ring with | some r => 2 * (matOf x.2.desc).rows - r.rd - r.wr | none => 0).sum

/-- One move of the first ring MATMUL that can make one. -/
def ringOnce (k : Nat) (s : State) : Option State :=
  (ringTasks s k).findSome? fun x =>
    match x.2.ring with
    | none => none
    | some r =>
      match ringStep k x.1 x.2 r s with
      | .wait => none
      | .go s => some s
      | .overflow => some (taskFault k x.1 x.2 4 s)

def ringLoop (k : Nat) : Nat → State → State
  | 0, s => s
  | n + 1, s => match ringOnce k s with | some s => ringLoop k n s | none => s

/-- After a counter has moved: every row that its ring MATMULs can now take. -/
def pumpRings (k : Nat) (s : State) : State := ringLoop k (ringFuel s k) s

/-- An increment by a task, with what it lets the ring MATMULs do; an overflow faults the task (R239). -/
def taskBump (k u : Nat) (t : Task) (tu c n : Nat) (s : State) : State :=
  match bumpCtr k tu c n s with
  | some s => pumpRings k s
  | none => taskFault k u t 4 s

/-- Whether a task is still among those that run. -/
def stillRuns (s : State) (k u id : Nat) : Bool := (unitOf s k u).running.any fun t => t.id == id

/-! ## MATMUL in inner mode -/

/-- The tiles as they are loaded at issue. -/
def loadTiles (w : Site) (m : MatD) (s : State) : List Tile :=
  (List.range m.passes).map fun c => makeTile m c (w.bytes s (m.tileAt c).1 (m.tileAt c).2).1 (w.bytes s (m.scalesAt c).1 (m.scalesAt c).2).1

/-- With LOAD_EN each of n tile loads counts (R244). -/
def countLoads (k u : Nat) (t : Task) (m : MatD) (n : Nat) (s : State) : State :=
  if m.loadEn && stillRuns s k u t.id then taskBump k u t u m.loadSig n s else s

def matInner (k u : Nat) (t : Task) (s : State) : State :=
  let m := matOf t.desc
  let l := stages t.desc
  let w := siteOf s k u t
  let s := addPressure k (fun p => { p with mat := p.mat + matSteps m l }) (w.noteReads (matFixedReads m l) s)
  if m.ring then
    let r : RingRun := { tile := (w.bytes s (m.tileAt 0).1 (m.tileAt 0).2).1, scales := (w.bytes s (m.scalesAt 0).1 (m.scalesAt 0).2).1,
                         poison := w.anyPoison s (matFixedReads m l) }
    countLoads k u t m 1 (pumpRings k (mapTask k u t.id (fun t => { t with ring := some r, busy := true }) s))
  else
    let tiles := loadTiles w m s
    let bad := w.anyPoison s (matFixedReads m l)
    let s := (List.range m.rows).foldl (fun s r =>
      let (row, s) := matFinishRow w m l tiles bad r r s
      w.write (obAddr 2 (m.outOff + r * outRow l m.n)) row s) s
    countLoads k u t m m.passes s

/-! ## Nested MATMUL (R252 to R255) -/

/-- The K passes of a nest, ascending: level-1 tiles cut into chunks of 128. -/
def nestPasses (e : NestD) : List (Nat × Nat) := (cut3 e.k3 e.k2 e.k1 e.k).flatMap fun c => cutBy 128 c.1 c.2

/-- What lies in the OB buffers and staging regions of a nest after it is not stated: free bytes. -/
def nestScratch (m : MatD) (e : NestD) (l : List Nat) : List (Nat × Nat) :=
  let b := nestBufs m e l
  [(obAddr 0 m.aOff, 2 * b.a), (obAddr 1 m.bOff, 2 * b.b), (obAddr 2 m.accOff, 2 * b.acc), (obAddr 2 m.outOff, 2 * b.out)] ++
  ([(e.la, 2 * (e.m2 * e.k2 * fmtBytes m.afmt)), (e.lb, 2 * (e.k2 * e.n2 * fmtBytes m.wfmt)), (e.lc, 2 * (e.m2 * e.n2 * 4))].filter fun r => r.1 != 0)

def scribble (w : Site) (key : Bytes) (rs : List (Nat × Nat)) (s : State) : State :=
  (rs.foldl (fun (a : Nat × State) r =>
    (a.1 + r.2, w.write r.1 (plainBytes ((List.range r.2).map fun i => Config.nestByte key (a.1 + i))) a.2)) (0, s)).2

/-- Row counts of the streams of a nest: each level-1 row tile, once for every column tile and pass. -/
def nestStreams (e : NestD) : List Nat :=
  let n := (nestCols e).length * (nestPasses e).length
  (cut3 e.m3 e.m2 e.m1 e.m).flatMap fun x => List.replicate n x.2

/-- Row-steps of a nest (R227, R253): the tree and accumulate latencies once, and tile loads hidden where the stream before is as
long. Every loop order visits the last row tile last, so the sum is that of any order. -/
def nestSteps (m : MatD) (e : NestD) (l : List Nat) : Nat :=
  let r := (nestStreams e).map fun n => n * rowStep m.afmt
  loadStep m + (r.dropLast.map fun x => loadStep m - x).sum + r.sum + 14 + 4 * l.length

/-- A row of C from the output rows of its column tiles: the elements of every tile, then the scales of every tile. -/
def joinTiles (l : List Nat) (cols : List Nat) (rows : List (List (Byte × Bool))) : List (Byte × Bool) :=
  let x := cols.zip rows
  (x.flatMap fun t => t.2.take (t.1 * nestOut l)) ++ x.flatMap fun t => t.2.drop (t.1 * nestOut l)

/-- C = A B, every output tile with its K passes ascending, through the stage list, into C_DST. -/
def matNest (k u : Nat) (t : Task) (s : State) : State :=
  let m := matOf t.desc
  let e := nestOf t.ext
  let l := stages t.desc
  let w := siteOf s k u t
  if !((nestRanges m e l ++ nestScratch m e l).all fun r => w.ok s r.1 r.2) then taskFault k u t 2 s else
  let ab := fmtBytes m.afmt
  let wb := fmtBytes m.wfmt
  let s0 := s
  let rowA := fun i => elems m.afmt (w.read s0 (e.a + i * e.ars * ab) (e.k * ab))
  let rowB := fun i => elems m.wfmt (w.read s0 (e.b + i * e.brs * wb) (e.n * wb))
  let bs := (List.range e.k).map rowB
  let passes := nestPasses e
  let stReads := stageReads l 1 e.n1
  let stBad := w.anyPoison s0 stReads
  let s := w.noteReads ((nestRanges m e l).take (e.m + e.k) ++ stReads) s
  let outs := (List.range e.m).map fun i =>
    let a := rowA i
    let p1 := a.any fun x => x.2
    joinTiles l (nestCols e) <| (cut3 e.n3 e.n2 e.n1 e.n).map fun nt =>
      let cols := (List.range nt.2).map fun j => bs.map fun r => r.getD (nt.1 + j) (0, false)
      let bad := p1 || stBad || cols.any fun c => c.any fun x => x.2
      let vals := cols.map fun c => passes.foldl (fun acc q =>
        addF acc (passSum m.afmt m.wcell none none (((a.map fun x => x.1).drop q.1).take q.2) (((c.map fun x => x.1).drop q.1).take q.2))) (0 : F32)
      let (y, _) := runStages w l 0 (vals.map fun v => (v, bad)) s0
      rowBytes l (y.map fun v => (v.1, bad))
  let key := t.desc ++ t.ext ++ ((nestRanges m e l).take (e.m + e.k)).flatMap fun r => (w.bytes s0 r.1 r.2).1
  let s := scribble w key (nestScratch m e l) s
  let s := (List.range e.m).foldl (fun s i => w.write (e.c + i * e.crs * nestOut l) (outs.getD i []) s) s
  countLoads k u t m (nestStreams e).length (addPressure k (fun p => { p with mat := p.mat + nestSteps m e l }) s)

/-- The next released descriptor of a unit, a MATMUL, issues. -/
def execMatmul (isle unit : Nat) (s : State) : Host.Outcome State Fault Refusal :=
  match front s isle unit 2 with
  | none => .next s
  | some t =>
    let s := issueTask isle unit t s
    .next (if hasExt t.desc then matNest isle unit t s else matInner isle unit t s)

end Sys2Proof.Machine
end

