-- ==== Sys2Proof/Machine/Window.lean ====
section
/-! DEFINITION. Chapter 13, windows and messages between partners (R331, R332, R334 to R338), and what replicas receive
(R297, R302). -/

namespace Sys2Proof.Machine

/-- The outcome of a request that has been delivered at its target (Table 13.8, checks 2 to 4; receive makes check 1). -/
inductive WinCheck where
  | fenced | notOpen | ok (w : Window)

/-- Bytes of a slot's shoal pool, and the slots of the isle that have one (R284). -/
def shoalBytes (p : KvPool) : Nat := p.shoalUnits * 2 ^ 19
def shoalSlots (r : Isle) (view : Nat) : Nat := (r.slotMap.getD view []).length

/-- Program address of an offset in a window: from BASE, or with KV through the shelf pool, the tier-one pool, and each slot's shoal pool
(R284, log 8). -/
def winAddr (r : Isle) (w : Window) (off : Nat) : Nat :=
  if w.rights.testBit 2 then
    match r.pool with
    | some (p, _) =>
      if off < p.shelfLen then p.shelfBase + off
      else if off < p.shelfLen + p.t1Len then p.t1Base + (off - p.shelfLen)
      else
        let o := off - p.shelfLen - p.t1Len
        2 ^ 44 + o / shoalBytes p * 2 ^ 38 + p.shoalFirst * 2 ^ 19 + o % shoalBytes p
    | none => off
  else w.base + off

/-- Bytes a window covers: LEN, or with KV the isle's pools (R335). -/
def winLen (r : Isle) (w : Window) : Nat :=
  if w.rights.testBit 2 then (match r.pool with | some (p, v) => p.shelfLen + p.t1Len + shoalBytes p * shoalSlots r v | none => 0) else w.len

/-- A task's bytes of a window reach neither a KV pool nor a sealed key region, whenever these were set (R285, R430). -/
def windowBars (s : State) (k : Nat) (w : Window) (off bytes : Nat) : Bool :=
  !w.rights.testBit 2 && (inPool (s.isle k) w.view (w.base + off) bytes || inSealed s k w.view (w.base + off) bytes)

/-- R336: the checks 2 to 4 of Table 13.8, in order; right is the bit of RIGHTS that the request needs, and a KV window grants both (R335). -/
def windowCheck (s : State) (orig srcIsle dst inc idx off bytes right : Nat) (kv : Bool) : WinCheck :=
  let r := s.isle dst
  let own := orig == chipId s
  if r.state = .quiescing ∨ r.state = .scrubbing ∨ s.arch.fenced.contains (orig, srcIsle) then .fenced
  else match aGet r.windows idx with
    | none => .notOpen
    | some w =>
      if w.mask.testBit orig && w.peerIsle == srcIsle && (own || aGet w.incs orig == some inc) && (kv || w.rights.testBit right) &&
          decide (off + bytes ≤ winLen r w) && (w.rights.testBit 2 == kv) && !windowBars s dst w off bytes then .ok w else .notOpen

def countRefusal (dst idx : Nat) (s : State) : State :=
  s.mapIsle dst fun r => { r with windows := aMod idx (fun w => { w with refusals := sat32 (w.refusals + 1) }) r.windows }

/-- A refusal of a request of class cls (R336): code 1 NOT_OPEN, 2 FENCED. -/
def refuseReq (orig cls dst idx tag code : Nat) (s : State) : State :=
  replyTo orig cls dst pmRefusal [chipId s, tag, code] [] (countRefusal dst idx s)

/-- Bytes written through a window at its target. -/
def windowPut (dst idx off : Nat) (w : Window) (bs : List (Byte × Bool)) (s : State) : State :=
  let s := writeProg dst w.view none (winAddr (s.isle dst) w off) bs s
  s.mapIsle dst fun r => { r with windows := aMod idx (fun w => { w with bytes := w.bytes + bs.length }) r.windows }

/-- R336: a write arrives, is checked, performed, and acknowledged once its bytes are at the bank. -/
def execWindowWrite (m : WinMsg) (s : State) : Host.Outcome State Fault Refusal :=
  let orig := m.hdr.orig
  .next (onMessage m.hdr 0 false (flitsOf m.bytes) (fun s =>
    if s.halt.isSome then s else
    match windowCheck s orig m.srcIsle m.dstIsle m.hdr.inc m.window m.offset m.bytes 0 m.kv with
    | .fenced => refuseReq orig 0 m.dstIsle m.window m.tag 2 s
    | .notOpen => refuseReq orig 0 m.dstIsle m.window m.tag 1 s
    | .ok w => replyTo orig 0 m.dstIsle pmWriteAck [chipId s, m.tag] [] (windowPut m.dstIsle m.window m.offset w (plainBytes m.data) s)) s)

/-- R336: a read arrives and is answered with data or a refusal. -/
def execWindowRead (m : WinMsg) (s : State) : Host.Outcome State Fault Refusal :=
  let orig := m.hdr.orig
  .next (onMessage m.hdr 1 false 1 (fun s =>
    if s.halt.isSome then s else
    match windowCheck s orig m.srcIsle m.dstIsle m.hdr.inc m.window m.offset m.bytes 1 m.kv with
    | .fenced => refuseReq orig 1 m.dstIsle m.window m.tag 2 s
    | .notOpen => refuseReq orig 1 m.dstIsle m.window m.tag 1 s
    | .ok w => replyTo orig 1 m.dstIsle pmReadData [chipId s, m.tag]
        (readBytes s m.dstIsle w.view (winAddr (s.isle m.dstIsle) w m.offset) m.bytes) s) s)

/-! ## Replies at the source (R325, R336, R337) -/

def findReq (s : State) (src tag : Nat) : Option WinReq := s.arch.reqs.find? fun r => r.tag == tag && r.dest == src && r.sent

/-- A refusal, in the flow of its request's class. R337: NOT_OPEN faults the task with reason 2; FENCED and STALE end the operation with
E_PEER_LOST. -/
def execWindowRefusal (h : FlitHdr) (cls tag code : Nat) (s : State) : Host.Outcome State Fault Refusal :=
  .next (onMessage h cls true 1 (fun s =>
    match findReq s h.orig tag with
    | none => s
    | some r =>
      if code ≠ 1 then peerLost r (code = 2) (if code = 2 then 4 else 3) s else
      let s := endReqs (fun q => q.tag == r.tag) s
      if r.unit = 0xFFFF then copyFailed r s else
      match (aGet (s.isle r.isle).units r.unit).bind fun x => x.running.find? fun t => t.id == r.task with
      | none => s
      | some t => taskFault r.isle r.unit t 2 s) s)

/-! ## Fences (R119, R338) -/

/-- Steps of an isle whose partners include a chip that has fenced the isle abort with cause 4 (Tables 13.6, 15.6). -/
def failFenced (chip isle : Nat) (s : State) : State :=
  (s.isle isle).invs.foldl (fun s i =>
    match aGet (s.isle isle).progs i.prog with
    | some g => if (otherPartners s g.shards).contains chip then failStep isle i.prog i.num 4 s else s
    | none => s) s

/-- R338: a member receives FENCE; with every isle of a chip fenced the chip counts as departed (R346). The chip takes the fence back once
the isle is scrubbed: its peers' entries stay valid (log 9). -/
def execFence (h : FlitHdr) (isle : Nat) (raised : Bool) (s : State) : Host.Outcome State Fault Refusal :=
  .next (onCtrl h 0 (fun s =>
    let chip := h.orig
    if chip = chipId s then s
    else if !raised then s.mapArch fun a => { a with fenced := a.fenced.filter (· != (chip, isle)) }
    else
      let s := failFenced chip isle (s.mapArch fun a => { a with
        fenced := if a.fenced.contains (chip, isle) then a.fenced else (chip, isle) :: a.fenced })
      if (List.range 32).all fun k => s.arch.fenced.contains (chip, k) then chipDeparts chip s else s) s)

/-- R119: 2 µs after its entry into QUIESCING an isle's windows are fenced on every member. -/
def execWindowFence (isle : Nat) (s : State) : Host.Outcome State Fault Refusal :=
  match (s.isle isle).fenceDue with
  | none => .next s
  | some t =>
    let s := advanceCount t s
    let s := s.mapIsle isle fun r => { r with fenceDue := none, windows := [] }
    .next (ctrlAll pmFence [chipId s, isle, 1] [] s)

/-! ## Partners (R331, R332) and replicas (R297, R302) -/

/-- The invocation of a partner's message, by the program's digest and its number. -/
def Inv.isOf (r : Isle) (digest num : Nat) (i : Inv) : Bool :=
  i.num == num && (aGet r.progs i.prog).any fun g => g.digest == digest

/-- A program of the digest may still release the invocation here: it has not passed its number (a program that resumes counts from 0, R333). -/
def invToCome (r : Isle) (digest num : Nat) : Bool :=
  r.progs.any fun g => g.2.digest == digest && (g.2.withheldB.isSome || decide (g.2.invCtr ≤ num))

/-- A partner's STEP_DONE or STEP_FAIL counts for the invocation in flight, or waits for the one to come (R332). -/
def partnerSays (isle digest num chip : Nat) (failed : Bool) (f : Inv → Inv) (s : State) : State :=
  let r := s.isle isle
  if r.invs.any (Inv.isOf r digest num) then
    s.mapIsle isle fun r => { r with invs := r.invs.map fun i => if i.isOf r digest num then f i else i }
  else if invToCome r digest num then s.mapArch fun a => { a with early := (isle, digest, num, chip, failed) :: a.early }
  else s

def Inv.hearsDone (chip : Nat) (i : Inv) : Inv := { i with doneFrom := insNat chip i.doneFrom }

/-- The failing partner's cause is 2 (Table 13.6). -/
def Inv.hearsFail (chip : Nat) (i : Inv) : Inv := { i with failFrom := aSet chip 2 i.failFrom }

def execStepDone (h : FlitHdr) (isle digest inv : Nat) (s : State) : Host.Outcome State Fault Refusal :=
  .next (onCtrl h 0 (partnerSays isle digest inv h.orig false (Inv.hearsDone h.orig)) s)

def execStepFail (h : FlitHdr) (isle digest inv : Nat) (s : State) : Host.Outcome State Fault Refusal :=
  .next (onCtrl h 0 (partnerSays isle digest inv h.orig true (Inv.hearsFail h.orig)) s)

/-- R331: another partner's acceptance; the release boundary follows from them at the boundary (Boundary.lean). -/
def execProgRunAccept (h : FlitHdr) (isle digest mode tick : Nat) (s : State) : Host.Outcome State Fault Refusal :=
  .next (onCtrl h 0 (fun s => s.mapArch fun a => { a with
    accepts := (a.accepts.filter fun r => !(r.isle == isle && r.chip == h.orig && r.digest == digest)) ++
      [{ isle := isle, chip := h.orig, digest := digest, mode := mode, tick := tick }] }) s)

def execAdmissionList (h : FlitHdr) (isle digest : Nat) (entries : List Admitted) (s : State) : Host.Outcome State Fault Refusal :=
  .next (onCtrl h ((entries.flatMap fun e => e.frames.map fun f => f.length).sum) (fun s => s.mapArch fun a => { a with
    admissions := (a.admissions.filter fun r => !(r.1 == isle && r.2.1 == digest && r.2.2.1 == h.orig)) ++ [(isle, digest, h.orig, entries)] }) s)

def execReplicaRewind (h : FlitHdr) (isle handle len boundary : Nat) (s : State) : Host.Outcome State Fault Refusal :=
  .next (onCtrl h 0 (fun s => s.mapArch fun a => { a with rewinds := a.rewinds ++ [(isle, handle, len, boundary)] }) s)

end Sys2Proof.Machine
end

