-- ==== Sys2Proof/Machine/Tasks.lean ====
section
/-! DEFINITION. Chapter 10: MOVE (R242, and through windows R336), COMBINE (R245, R246), VCHAIN (R248, R249), SIGNAL, WAIT and the
completion of tasks (R238 to R240). -/

namespace Sys2Proof.Machine

/-! ## Blocks in memory (R142, R143) -/

/-- The first byte of a byte's line. -/
def lineStart : Phys → Phys
  | .ob k => .ob (k - k % 512) | .lagoon k => .lagoon (k - k % 256) | .shelf k => .shelf (k - k % 128) | .hbm k => .hbm (k - k % 64)

/-- Write bytes at program addresses as one block: a later one takes the location; a line that they cover whole with clean bytes loses
its mark, a line that receives poison is marked (R451). -/
def Site.scatter (w : Site) (l : List (Nat × Byte × Bool)) (s : State) : State :=
  let ps := l.filterMap fun x => (translate s w.k w.h (some w.core) x.1).map fun p => (p, x.2)
  let m := ps.foldl (fun m x => physWrite m x.1 x.2.1) s.mems
  let marked := (ps.filter fun x => physPoison s.mems x.1).map fun x => lineStart x.1
  let m := marked.foldl (fun m q =>
    let mine := (ps.filter fun x => lineStart x.1 == q)
    let offs := (mine.map fun x => (physLine x.1).2).foldl (fun a x => insNat x a) []
    if offs.length = (physLine q).1 ∧ !(mine.any fun x => x.2.2) then physUnmark m q else m) m
  let m := ps.foldl (fun m x => if x.2.2 then physMark m x.1 else m) m
  { s with mems := m }

/-- A block stays within the slice that its address names in the segment view, and every element can be reached. -/
def Site.blockOk (w : Site) (s : State) (b : Block) : Bool :=
  b.order.all fun x => w.ok s (b.addr x.1 x.2) b.esz &&
    (spaceOf b.base != 2 || (b.addr x.1 x.2) / 2 ^ 20 == b.base / 2 ^ 20) && spaceOf (b.addr x.1 x.2) == spaceOf b.base

/-! ## Window requests of tasks (R336, R337, R339) -/

/-- One request of a task at a SPACE 0x5 address: a write of bytes, or a read whose data goes to a program address. The access names the
issuing isle's own number at the target. -/
def winAccess (w : Site) (t : Task) (addr n : Nat) (data : List (Byte × Bool)) (back : Option Nat) (s : State) : State :=
  if !stillRuns s w.k w.u t.id then s else
  let j := shardHost s (winShard addr)
  let idx := winIdx addr
  let off := winOff addr
  let r : WinReq := { tag := s.arch.nextTag, dest := j, port := myPort s j, isle := w.k, dstIsle := w.k, unit := w.u, task := t.id,
                      read := back.map fun a => (w.h, a), cls := if back.isSome then 1 else 0, flits := if back.isSome then 1 else flitsOf n }
  if j = chipId s then
    match windowCheck s j w.k w.k s.standby.incarnation idx off n (if back.isSome then 1 else 0) false with
    | .ok e =>
      match back with
      | none => windowPut w.k idx off e data s
      | some a =>
        let b := (readProg s w.k e.view none (winAddr (s.isle w.k) e off) n).getD []
        let s := poisonInv w.k w.prog w.inv (progLines s w.k e.view none (winAddr (s.isle w.k) e off) n) s
        w.write a b s
    | .notOpen => taskFault w.k w.u t 2 s
    | .fenced => peerLost r true 4 s
  else if !(s.arch.present.testBit j) then peerLost r false 3 s
  else
    let m : OutMsg := .peer j (if back.isSome then pmWindowRead else pmWindowWrite) (winMsgArgs s w.k idx r.tag off n false) (data.map fun x => x.1)
    addReq { r with msg := m } (mapTask w.k w.u t.id (fun t => { t with wait := t.wait ++ [r.tag] }) s)

/-! ## MOVE (R242) -/

/-- Runs of a block that are contiguous in a window: a row where both sides step by one element, else one element each; with the index
of each run's first element in row-major order and its elements. -/
def moveRuns (m : MoveD) (b far : Block) : List (Nat × Nat × Nat) :=
  if b.cs = 1 ∧ far.cs = 1 ∧ !m.transpose then (List.range b.rows).map fun i => (b.addr i 0, i * b.cols, b.cols)
  else b.order.map fun x => (b.addr x.1 x.2, x.1 * b.cols + x.2, 1)

/-- The source's elements in the destination's row-major order. -/
def moveVals (m : MoveD) (dst : Block) (get : Nat → Nat → List (Byte × Bool)) : List (List (Byte × Bool)) :=
  dst.order.map fun x => if m.transpose then get x.2 x.1 else get x.1 x.2

/-- One repeat. -/
def moveOnce (w : Site) (t : Task) (m : MoveD) (i : Nat) (s : State) : State :=
  let src := m.srcBlock i
  let dst := m.dstBlock i
  if !stillRuns s w.k w.u t.id then s
  else if (spaceOf src.base ≠ 5 ∧ !w.blockOk s src) ∨ (spaceOf dst.base ≠ 5 ∧ !w.blockOk s dst) then taskFault w.k w.u t 2 s
  else if spaceOf src.base = 5 then
    -- a read: each run's data goes to the element of the destination that takes it
    (moveRuns m src dst).foldl (fun s run =>
      let e := (run.2.1 / m.cols, run.2.1 % m.cols)
      winAccess w t run.1 (run.2.2 * m.esz) [] (some (if m.transpose then dst.addr e.2 e.1 else dst.addr e.1 e.2)) s) s
  else
    let s := w.noteReads (src.order.map fun x => (src.addr x.1 x.2, m.esz)) s
    let vals := moveVals m dst fun a b => w.read s (src.addr a b) m.esz
    if spaceOf dst.base = 5 then
      -- a send whose source carries poison sends nothing (R452)
      if vals.any fun v => v.any fun b => b.2 then s else
      (moveRuns m dst src).foldl (fun s run => winAccess w t run.1 (run.2.2 * m.esz) ((vals.drop run.2.1).take run.2.2).flatten none s) s
    else
      w.scatter ((dst.order.zip vals).flatMap fun x => x.2.mapIdx fun n b => (dst.addr x.1.1 x.1.2 + n, b)) s

/-- Source tags that a running task waits for. -/
def waitTags (s : State) (k u id : Nat) : List Nat :=
  match (unitOf s k u).running.find? fun t => t.id == id with
  | some t => t.wait
  | none => []

/-- PER_CTR counts a repeat once its writes are complete: at once, or when the last of its window requests is answered. -/
def countRepeat (k u : Nat) (t : Task) (m : MoveD) (tags : List Nat) (s : State) : State :=
  if !m.perEn || !stillRuns s k u t.id then s
  else if tags.isEmpty then taskBump k u t u m.perCtr m.rows s
  else mapTask k u t.id (fun t => { t with reps := t.reps ++ [tags] }) s

/-- All repeats in order, each with its increment of PER_CTR. A side in an operand buffer has no strides (R142). -/
def runMove (k u : Nat) (t : Task) (s : State) : State :=
  let m := moveOf t.desc
  let w := siteOf s k u t
  if s.fuses.stepping = 0xA1 ∧ ((m.scs = 0 ∧ spaceOf m.src ≠ 0) ∨ (m.dcs = 0 ∧ spaceOf m.dst ≠ 0)) then taskFault k u t 5 s else
  (List.range (m.rep + 1)).foldl (fun s i =>
    let v := moveOnce w t m i s
    countRepeat k u t m ((waitTags v k u t.id).filter fun x => !(waitTags s k u t.id).contains x) v) s

def execMove (isle unit : Nat) (s : State) : Host.Outcome State Fault Refusal :=
  match front s isle unit 1 with
  | none => .next s
  | some t => .next (runMove isle unit t (issueTask isle unit t s))

/-! ## Replies at the source (R325, R336, R337) -/

/-- A request has ended well: the task waits for it no more, its place is free, and a repeat whose last request it was counts (R242). -/
def reqDone (r : WinReq) (s : State) : State :=
  let s := endReqs (fun q => q.tag == r.tag) s
  let ended := (unitOf s r.isle r.unit).running.find? fun t => t.id == r.task
  let s := mapTask r.isle r.unit r.task (fun t => { t with
    wait := t.wait.filter (· != r.tag), reps := (t.reps.map fun l => l.filter (· != r.tag)).filter fun l => !l.isEmpty }) s
  match ended with
  | none => s
  | some t =>
    let m := moveOf t.desc
    (t.reps.filter fun l => l == [r.tag]).foldl (fun s _ =>
      if stillRuns s r.isle r.unit t.id then taskBump r.isle r.unit t r.unit m.perCtr m.rows s else s) s

def execReadData (h : FlitHdr) (tag : Nat) (data : Bytes) (s : State) : Host.Outcome State Fault Refusal :=
  .next (onMessage h 1 true (flitsOf data.length) (fun s =>
    match findReq s h.orig tag with
    | none => s
    | some r =>
      match r.read with
      | none => s
      | some (view, a) => reqDone r (writeProg r.isle view (coreOf s r.isle r.unit) a (plainBytes data) s)) s)

def execWriteAcknowledgement (h : FlitHdr) (cls tag : Nat) (s : State) : Host.Outcome State Fault Refusal :=
  .next (onMessage h cls true 1 (fun s =>
    match findReq s h.orig tag with
    | none => s
    | some r => if r.read.isSome then s else reqDone r s) s)

/-! ## COMBINE (R245, R246) -/

structure CombD where
  rows : Nat
  cols : Nat
  parts : Nat
  stats : Bool
  base : Nat
  stride : Nat
  out : Nat

def combOf (d : Bytes) : CombD :=
  { rows := fieldB d 16 2, cols := fieldB d 18 2, parts := fieldB d 20 1, stats := (fieldB d 21 1).testBit 0, base := fieldB d 24 8,
    stride := fieldB d 32 8, out := fieldB d 40 8 }

/-- Element-wise pairwise tree over the parts of one row. -/
def combineRow (parts : List (List (F32 × Bool))) : List (F32 × Bool) := treeOf (zipStage addF) [] parts

/-- Pairwise tree of statistics records. -/
def combineStats (parts : List (Bytes × Bool)) : Bytes × Bool :=
  (statsBytes (treeOf joinStats {} (parts.map fun p => statsOf p.1)), parts.any fun p => p.2)

def runCombine (k u : Nat) (t : Task) (s : State) : State :=
  let c := combOf t.desc
  let w := siteOf s k u t
  let l := stages t.desc
  let rowIn := if c.stats then 16 else 4 * c.cols
  let rowOut := if c.stats then 16 else outRow l c.cols
  let ins := (List.range c.parts).map fun p => (c.base + p * c.stride, c.rows * rowIn)
  if !((ins ++ [(c.out, c.rows * rowOut)]).all fun r => w.ok s r.1 r.2) then taskFault k u t 2 s else
  let s := w.noteReads (ins ++ if c.stats then [] else stageReads l c.rows c.cols) s
  (List.range c.rows).foldl (fun s r =>
    let row := (List.range c.parts).map fun p => w.read s (c.base + p * c.stride + r * rowIn) rowIn
    if c.stats then
      let (b, bad) := combineStats (row.map fun x => (x.map fun y => y.1, x.any fun y => y.2))
      w.write (c.out + 16 * r) (flagBytes bad b) s
    else
      let (y, s) := runStages w l r (combineRow (row.map (elemsF 6))) s
      w.write (c.out + r * rowOut) (rowBytes l y) s) s

def execCombine (isle unit : Nat) (s : State) : Host.Outcome State Fault Refusal :=
  match front s isle unit 4 with
  | none => .next s
  | some t => .next (runCombine isle unit t (issueTask isle unit t s))

/-! ## VCHAIN (R248, R249) -/

structure ChainD where
  rows : Nat
  cols : Nat
  afmt : Nat
  bfmt : Nat
  ofmt : Nat
  sat : Bool
  topk : Nat
  a : Nat
  b : Nat
  out : Nat
  consts : List F32

def chainOf' (d : Bytes) : ChainD :=
  { rows := fieldB d 16 2, cols := fieldB d 18 2, afmt := bitsOf (fieldB d 20 1) 0 4, bfmt := bitsOf (fieldB d 20 1) 4 4,
    ofmt := bitsOf (fieldB d 21 1) 0 4, sat := (fieldB d 21 1).testBit 4, topk := fieldB d 22 1, a := fieldB d 24 8, b := fieldB d 32 8,
    out := fieldB d 40 8, consts := (List.range 4).map fun i => BitVec.ofNat 32 (fieldB d (48 + 4 * i) 4) }

def binaryOp (op : Nat) : F32 → F32 → F32 :=
  match op with
  | 1 => addF | 2 => subF | 3 => mulF | 4 => divF | 5 => maxF | _ => minF

/-- A row in the vector unit: x, and the row register with its poison. -/
structure VRow where
  x : List (F32 × Bool)
  r : F32 := 0
  rp : Bool := false

/-- One op word but TOPK. -/
def chainOp (consts : List F32) (b : List (F32 × Bool)) (word : Nat) (v : VRow) : VRow :=
  let op := word / 2 ^ 27
  let n := v.x.length
  let any := v.x.any fun a => a.2
  if 1 ≤ op ∧ op ≤ 6 then
    let f := binaryOp op
    match bitsOf word 25 2 with
    | 0 => { v with x := v.x.map fun a => (f a.1 (consts.getD (bitsOf word 0 2) 0), a.2) }
    | 1 => { v with x := zipStage f v.x b }
    | _ => { v with x := v.x.map fun a => (f a.1 v.r, a.2 || v.rp) }
  else match op with
  | 7 => { v with x := v.x.map fun a => (exp2F a.1, a.2) }
  | 8 => { v with x := v.x.map fun a => (rcpF a.1, a.2) }
  | 9 => { v with x := v.x.map fun a => (rcpF (sqrtF a.1), a.2) }
  | 10 => { x := v.x.map fun a => (a.1, any), r := treeOf addF 0 (padTo (pow2Up n) 0 (v.x.map fun a => a.1)), rp := any }
  | 11 => { x := v.x.map fun a => (a.1, any), r := treeOf maxF 0xFF800000 (padTo (pow2Up n) 0xFF800000 (v.x.map fun a => a.1)), rp := any }
  | _ => v

/-- a ranks before b: NaN above everything, larger first, the lower column on a tie. -/
def ranksBefore (a b : F32 × Nat) : Bool :=
  if isNanF a.1 then !isNanF b.1 || decide (a.2 < b.2)
  else if isNanF b.1 then false
  else if orderKey a.1 = orderKey b.1 then decide (a.2 < b.2) else decide (orderKey b.1 < orderKey a.1)

def insRank (a : F32 × Nat) : List (F32 × Nat) → List (F32 × Nat)
  | [] => [a]
  | b :: l => if ranksBefore a b then a :: b :: l else b :: insRank a l

/-- The k largest values and their columns; beyond the row, −∞ with index 0xFFFF_FFFF. -/
def topK (k : Nat) (x : List F32) : List (F32 × Nat) :=
  padTo k (0xFF800000, 0xFFFFFFFF) (((x.mapIdx fun i v => (v, i)).foldl (fun l a => insRank a l) []).take k)

/-- The bytes of one output row. -/
def chainOut (c : ChainD) (ops : List Nat) (v : VRow) : List (Byte × Bool) :=
  let fb := fmtBytes c.ofmt
  if ops.any fun w => w / 2 ^ 27 == 12 then
    let bad := v.x.any fun a => a.2
    let l := topK c.topk (v.x.map fun a => a.1)
    flagBytes bad ((l.flatMap fun a => natLe fb (convOut c.ofmt c.sat a.1)) ++ l.flatMap fun a => natLe 4 a.2)
  else v.x.flatMap fun a => flagBytes a.2 (natLe fb (convOut c.ofmt c.sat a.1))

def runVchain (k u : Nat) (t : Task) (s : State) : State :=
  let c := chainOf' t.desc
  let w := siteOf s k u t
  let ops := chainOps t.desc
  let usesB := chainUsesB t.desc
  let ra := c.cols * fmtBytes c.afmt
  let rb := c.cols * fmtBytes c.bfmt
  let ro := chainRow t.desc
  let ins := [(c.a, c.rows * ra)] ++ if usesB then [(c.b, c.rows * rb)] else []
  if !((ins ++ [(c.out, c.rows * ro)]).all fun r => w.ok s r.1 r.2) then taskFault k u t 2 s else
  let s := w.noteReads ins s
  (List.range c.rows).foldl (fun s r =>
    let b := if usesB then elemsF c.bfmt (w.read s (c.b + r * rb) rb) else []
    let v := ops.foldl (fun v word => chainOp c.consts b word v) { x := elemsF c.afmt (w.read s (c.a + r * ra) ra) }
    w.write (c.out + r * ro) (chainOut c ops v) s) s

def execVchain (isle unit : Nat) (s : State) : Host.Outcome State Fault Refusal :=
  match front s isle unit 5 with
  | none => .next s
  | some t => .next (runVchain isle unit t (issueTask isle unit t s))

/-! ## SIGNAL and WAIT (R237, R238) -/

/-- A task has completed (R236): DONE advances. -/
def endTask (k u : Nat) (t : Task) (s : State) : State :=
  announceDone k (if dDone t.desc then taskBump k u t (u / 64 * 64 + dDoneSlot t.desc) (dDoneCtr t.desc) (dDoneInc t.desc) s else s)

/-- SIGNAL takes effect when it issues, and is then complete. -/
def execSignal (isle unit : Nat) (s : State) : Host.Outcome State Fault Refusal :=
  match front s isle unit 11 with
  | none => .next s
  | some t =>
    let f := fieldB t.desc 16 2
    .next (match bumpCtr isle (unit / 64 * 64 + bitsOf f 6 6) (bitsOf f 0 6) (fieldB t.desc 18 2) (popTask isle unit s) with
      | some s => endTask isle unit t (pumpRings isle s)
      | none => announceDone isle (taskFault isle unit t 4 (popTask isle unit s)))

/-- WAIT issues once its counter has reached VALUE; until then the slot issues nothing. -/
def execWait (isle unit : Nat) (s : State) : Host.Outcome State Fault Refusal :=
  match front s isle unit 12 with
  | none => .next s
  | some t => .next (endTask isle unit t (popTask isle unit s))

/-! ## Completion (R236, R240) -/

/-- The physical bank that serves a byte, after the spare map; none for operand buffers, tier one and relocated lines (R133, R136, R145). -/
def bankAt (s : State) : Phys → Option Nat
  | .lagoon a => some ((a % 2 ^ 24 / 256 % 32) ^^^ (a % 2 ^ 24 / 8192 % 32))
  | .shelf a =>
    let l := a % 2 ^ 28 / 128
    if s.units.relocated.contains (a / 2 ^ 28, (l % 32) ^^^ (l / 32 % 32)) then none else some (shelfBank s (a / 2 ^ 28) (a % 2 ^ 28))
  | _ => none

/-- R146, in strict mode at the task's release (R154): each conflict of the task's later accesses, given as a program address, sets
BANK_CONFLICT of the core in the isle's view with the bank, counts, and marks the step timing-invalid (Table 14.7, bit 1). Results are the
same in both modes (log 79). -/
def noteConflicts (k u : Nat) (t : Task) (conflicts : List Nat) (s : State) : State :=
  if !(s.isle k).strictRel then s else
  conflicts.foldl (fun s a =>
    match (translate s k (u / 64) (coreOf s k u) a).bind fun p => bankAt s p with
    | none => s
    | some b =>
      let s := recordFault dCore ((coreOf s k u).getD 0) 3 { isle := k, prog := a, info := b } [k] s
      s.mapIsle k fun r => { r with
        conflicts := sat32 (r.conflicts + 1),
        invs := r.invs.map fun i => if i.prog == t.prog && i.num == t.inv then { i with flags := setBit i.flags 1 } else i }) s

/-- A task whose work is over completes: DONE advances, and it runs no more. A task that ran when a fatal fault came completes too
(R60, R454). -/
def execTaskComplete (isle unit id : Nat) (conflicts : List Nat) (s : State) : Host.Outcome State Fault Refusal :=
  match (unitOf s isle unit).running.find? fun t => t.id == id with
  | none => .next s
  | some t =>
    if !pastReady s || !taskOver t then .next s else
    let s := noteConflicts isle unit t conflicts s
    .next (endTask isle unit t (mapUnit isle unit (fun x => { x with running := x.running.filter fun t => t.id != id }.refill) s))

end Sys2Proof.Machine
end

