-- ==== Sys2Proof/Machine/Attend.lean ====
section
/-! DEFINITION. Chapter 11: the attention engine. Ragged entries (R260, R261), keys (R262), passes and masks (R263 to R265), the online
softmax (R266 to R268), latent expansion (R271), trees and verify (R272, R273), and the score tap (R275 to R279). -/

namespace Sys2Proof.Machine

/-! ## Ragged length table (R260, R272) -/

structure Ragged where
  seq : Nat
  qPos : Nat
  qCount : Nat
  qRow0 : Nat
  keyLen : Nat
  pre : Nat
  parent : List Nat
  resOk : Bool

def raggedOf (b : Bytes) : Ragged :=
  { seq := fieldB b 0 4, qPos := fieldB b 4 4, qCount := fieldB b 8 2, qRow0 := fieldB b 12 4, keyLen := fieldB b 16 4,
    pre := fieldB b 20 4, parent := (List.range 17).map fun i => fieldB b (24 + i) 1, resOk := zeroB b 10 2 && zeroB b 41 23 }

/-- A parent table keeps R272: parents below their nodes, 0xFF beyond the last node. -/
def Ragged.treeOk (e : Ragged) : Bool :=
  decide (1 ≤ e.qCount) && decide (e.qCount ≤ 17) &&
  (List.range 17).all fun i =>
    let p := e.parent.getD i 0xFF
    i == 0 || (if i < e.qCount then decide (p < i) else p == 0xFF)

/-- Depth of each node. -/
def Ragged.depths (e : Ragged) : List Nat :=
  (List.range e.qCount).foldl (fun l i => l ++ [if i = 0 then 0 else l.getD (e.parent.getD i 0) 0 + 1]) []

/-- Each node with its ancestors. -/
def Ragged.chains (e : Ragged) : List (List Nat) :=
  (List.range e.qCount).foldl (fun l i => l ++ [if i = 0 then [0] else l.getD (e.parent.getD i 0) [] ++ [i]]) []

/-- Whether an ATTEND can use the entry; an unused entry of a tree ATTEND has nothing to check. -/
def Ragged.ok (a : AttD) (e : Ragged) : Bool :=
  e.resOk && (if a.tree then e.seq == 0xFFFFFFFF || (e.treeOk && e.keyLen == e.qPos) else decide (1 ≤ e.qCount) && decide (e.qCount ≤ 4096))

/-! ## Passes and masks (R263, R264) -/

inductive Pass where
  | glob (keys : List Nat) | pos (keys : List Nat) | tree (keys : List Nat)

def Pass.keys : Pass → List Nat
  | .glob l => l | .pos l => l | .tree l => l

def Pass.isTree : Pass → Bool
  | .tree _ => true | _ => false

/-- Passes in the order of R263. -/
def passesOf (a : AttD) (gl : List Nat) (e : Ragged) : List Pass :=
  (if a.window ≠ 0 ∧ a.globals ≠ 0 then [.glob gl] else []) ++
  ((List.range (ceilDiv e.keyLen 128)).map fun p => .pos ((List.range (min 128 (e.keyLen - 128 * p))).map fun j => 128 * p + j)) ++
  if a.tree then [.tree (List.range e.qCount)] else []

/-- Query position of position index or node i. -/
def Ragged.posOf (a : AttD) (e : Ragged) (i : Nat) : Nat := e.qPos + if a.tree then e.depths.getD i 0 else i

/-- Table 11.4 without the bitmap. -/
def sees (a : AttD) (e : Ragged) (i : Nat) (p : Pass) (k : Nat) : Bool :=
  let q := e.posOf a i
  let causal := !a.causal || decide (k ≤ q) || (a.prefixLm && decide (k < e.pre))
  match p with
  | .tree _ => (e.chains.getD i []).contains k
  | .pos _ => causal && (a.window == 0 || decide (q < k + a.window))
  | .glob _ => causal && decide (k + a.window ≤ q)

/-- The bitmap source of row r. -/
def bitSees (a : AttD) (bm : Bytes) (p : Pass) (k : Nat) : Bool :=
  a.bmStride == 0 || p.isTree || decide (8 * a.bmStride ≤ k) || (fieldB bm (k / 8) 1).testBit (k % 8)

/-! ## Keys (R262, R271) -/

/-- Program address of a key's stored vector, or the fault's reason. -/
def keyAddr (s : State) (w : Site) (a : AttD) (seq : Nat) (p : Pass) (key : Nat) : Except Nat Nat :=
  match seqOf s w.k seq with
  | none => .error 1
  | some q =>
    let g := poolOf s w.k
    let served := (s.isle w.k).invs.any fun i => i.prog == w.prog && i.num == w.inv && i.entries.any fun e => e.seq == seq
    let prov := if served then q.prov else []
    let slot := fun (x : Option ShoalSlot) => match x with
      | some x => Except.ok (slotVec g q.owner x.slot a.layer a.kvHead)
      | none => .error 1
    if p.isTree then slot prov[key]?
    else if q.c + prov.length ≤ key then .error 1
    else if key < q.f then
      match stuWalk s w.core w.k seq (key / pageTok g) with
      | some x => .ok (pageVec g x a.layer a.kvHead key)
      | none => .error 1
    else if key < q.c then slot q.shoal[key - q.f]?
    else slot prov[key - q.c]?

/-- A key and its value, as lanes hold them. -/
structure Lane where
  k : List F32
  v : List F32

/-- The tiles of an up-projection as columns of codes over D_C: n columns, from tile t0 on, in K-chunk-major order (R271). -/
def upCols (a : AttD) (b : Bytes) (t0 n : Nat) : List (List Nat) :=
  let fb := fmtBytes a.kvfmt
  let nt := ceilDiv n 128
  (List.range n).map fun j => (List.range a.dc).map fun i =>
    fieldB b ((t0 + i / 128 * nt + j / 128) * (16384 * fb) + (i % 128 * 128 + j % 128) * fb) fb

/-- c times a column, K-chunks of 128 ascending (R212, R213), converted to KVFMT. -/
def expandCol (a : AttD) (c col : List Nat) : F32 :=
  let sum := (List.range (ceilDiv a.dc 128)).foldl (fun acc i =>
    addF acc (passSum a.kvfmt a.kvfmt none none ((c.drop (128 * i)).take 128) ((col.drop (128 * i)).take 128))) (0 : F32)
  toF32 a.kvfmt (convOut a.kvfmt true sum)

/-- What an ATTEND has read before its entries: the global positions, and the up-projections of EXPAND with their poison. -/
structure AttEnv where
  a : AttD
  gl : List Nat
  glBad : Bool
  uk : List (List Nat)
  uv : List (List Nat)
  uBad : Bool

/-- A stored vector as a lane. -/
def laneOf (v : AttEnv) (b : Bytes) : Lane :=
  let a := v.a
  let fb := fmtBytes a.kvfmt
  let codes := fun off n => (List.range n).map fun i => fieldB b ((off + i) * fb) fb
  if a.expand then
    let c := codes 0 a.dc
    { k := v.uk.map (expandCol a c), v := v.uv.map (expandCol a c) }
  else { k := (codes 0 a.dk).map (toF32 a.kvfmt), v := (codes a.vOff a.dv).map (toF32 a.kvfmt) }

/-- Widths against the stored vector, LAYER and KV_HEAD against the geometry. -/
def geoFault (s : State) (w : Site) (a : AttD) : Option Nat :=
  match (s.isle w.k).pool with
  | none => some 1
  | some (g, _) =>
    let fb := fmtBytes a.kvfmt
    if (if a.expand then decide (g.vec < a.dc * fb) else decide (g.vec < a.dk * fb) || decide (g.vec < (a.vOff + a.dv) * fb)) ||
       decide (g.layers ≤ a.layer) || decide (g.heads ≤ a.kvHead) then some 3 else none

/-- The lanes of a pass, whether one of its vectors is poisoned, and what was read. -/
def fetchPass (s : State) (w : Site) (v : AttEnv) (seq : Nat) (p : Pass) : Except Nat (List Lane × Bool × List Nat) :=
  match geoFault s w v.a with
  | some r => .error r
  | none =>
    p.keys.foldl (fun acc key =>
      match acc with
      | .error r => .error r
      | .ok (l, bad, addrs) =>
        match keyAddr s w v.a seq p key with
        | .error r => .error r
        | .ok x =>
          match readProg s w.k (poolView s w.k) none x (poolOf s w.k).vec with
          | none => .error 1
          | some b => .ok (l ++ [laneOf v (b.map fun y => y.1)], bad || v.uBad || b.any fun y => y.2, addrs ++ [x])) (.ok ([], false, []))

/-! ## The online softmax (R266 to R268) -/

structure Row where
  m : F32 := 0xFF800000
  l : F32 := 0
  o : List F32
  seen : Bool := false

def bf16r (x : F32) : F32 := toF32 3 (convOut 3 false x)

/-- Scores of a row against the lanes of a pass; −∞ where the key is not visible. -/
def scores (a : AttD) (q : List F32) (lanes : List Lane) (vis : List Bool) : List F32 :=
  List.zipWith (fun (x : Lane) b => if b then mulF (dotF q x.k) a.scale2 else 0xFF800000) lanes vis

/-- One pass of one row. -/
def softStep (a : AttD) (lanes : List Lane) (vis : List Bool) (t : List F32) (r : Row) : Row :=
  let mp := maxF r.m (treeOf maxF 0xFF800000 (padTo 128 0xFF800000 t))
  let c := exp2F (subF r.m mp)
  let p := List.zipWith (fun x b => if b then bf16r (exp2F (subF x mp)) else 0) t vis
  { m := mp, l := addF (mulF r.l c) (sum128 p), seen := true,
    o := (List.range a.dv).map fun d =>
      addF (mulF (r.o.getD d 0) c) (sum128 (List.zipWith (fun x (y : Lane × Bool) => if y.2 then mulF x (y.1.v.getD d 0) else 0) p (lanes.zip vis))) }

/-! ## Tap capture (R277) -/

/-- A tap that an entry's rows may be captured for: its number, the tap, and its head's place among the G heads. -/
def tapsFor (s : State) (w : Site) (a : AttD) (seq : Nat) : List (Nat × Tap × Nat) :=
  if !a.tapEn then [] else
  (List.range 8).filterMap fun i =>
    let t := (s.isle w.k).taps.getD i {}
    if t.state = .armed ∧ t.seq = seq ∧ t.layer = a.layer ∧ a.head0 ≤ t.head ∧ t.head < a.head0 + a.g then some (i, t, t.head - a.head0) else none

def Tap.holds (t : Tap) (pos : Nat) : Bool :=
  t.captured.contains pos || t.pendingRows.any fun r => r.pos == pos && !r.miss

/-- Address of score row n, and of its record (R276). -/
def Tap.rowAt (t : Tap) (n : Nat) : Nat := t.base + n * (4 * t.kn)
def Tap.recAt (t : Tap) (n : Nat) : Nat := t.base + (t.qn + 17) * (4 * t.kn) + 8 * n

/-- The scores that one row showed in the passes generated for its block: position, visible, score. -/
abbrev Shown := List (Nat × Bool × F32)

/-- One column: the score of the pass in which the key is visible; −∞ where it is masked or in no pass. -/
def column (l : Shown) (k : Nat) : F32 :=
  match l.find? fun x => x.1 == k && x.2.1 with
  | some x => x.2.2
  | none => 0xFF800000

/-- Write one row of a tap and its record, within TAP_KEYS. -/
def writeTap (k : Nat) (t : Tap) (n keys : Nat) (l : Shown) (r : Row) (bad : Bool) (s : State) : State :=
  let cols := (List.range (min t.kn keys)).flatMap fun c => natLe 4 (column l (t.kf + c)).toNat
  let rest := (List.range (t.kn - keys)).flatMap fun _ => natLe 4 0xFF800000
  writeProg k t.view none (t.recAt n) (flagBytes bad (natLe 4 r.m.toNat ++ natLe 4 r.l.toNat))
    (writeProg k t.view none (t.rowAt n) (flagBytes bad (cols ++ rest)) s)

/-! ## One entry (R261, R263) -/

/-- A query row under way: its position index, query, bitmap row, state, poison, and what a tap may want of it. -/
structure RowRun where
  i : Nat
  q : List F32
  bm : Bytes
  row : Row
  bad : Bool
  shown : Shown := []

/-- The rows of an entry as they start. -/
def startRows (s : State) (w : Site) (v : AttEnv) (e : Ragged) (bad : Bool) : List RowRun :=
  let a := v.a
  let qb := fmtBytes a.qfmt
  let bmLen := min a.bmStride (ceilDiv e.keyLen 8)
  (List.range (e.qCount * a.g)).map fun r =>
    let x := w.read s (a.q + (e.qRow0 + r) * a.dk * qb) (a.dk * qb)
    let b := if bmLen = 0 then ([], false) else w.bytes s (a.bm + (e.qRow0 + r) * a.bmStride) bmLen
    { i := r / a.g, q := (elemsF a.qfmt x).map fun y => y.1, bm := b.1,
      row := { o := List.replicate a.dv 0 }, bad := bad || b.2 || x.any fun y => y.2 }

/-- Blocks of 64 rows for which a pass is generated. -/
def genBlocks (a : AttD) (e : Ragged) (rows : List RowRun) (p : Pass) : List Nat :=
  (List.range (ceilDiv rows.length 64)).filter fun b =>
    ((rows.drop (64 * b)).take 64).any fun r => p.keys.any fun k => sees a e r.i p k

/-- A pass applied to one row of a block that it is generated for. -/
def applyPass (a : AttD) (e : Ragged) (p : Pass) (lanes : List Lane) (r : RowRun) : RowRun :=
  let vis := p.keys.map fun k => sees a e r.i p k && bitSees a r.bm p k
  let t := scores a r.q lanes vis
  let shown := if !a.tapEn || p.isTree || (a.tree && match p with | .pos _ => false | _ => true) then []
    else List.zipWith (fun k (x : Bool × F32) => (k, x)) p.keys (vis.zip t)
  { r with row := if vis.any id then softStep a lanes vis t r.row else r.row, shown := r.shown ++ shown }

/-- An entry after all its passes: rows, key positions and addresses read, block-passes, and group-passes. -/
structure EntryRun where
  rows : List RowRun
  keys : List Nat := []
  addrs : List Nat := []
  steps : Nat := 0
  groups : Nat := 0

def runPasses (s : State) (w : Site) (v : AttEnv) (e : Ragged) (rows : List RowRun) : Except Nat EntryRun :=
  (passesOf v.a v.gl e).foldl (fun (acc : Except Nat EntryRun) p =>
    match acc with
    | .error r => .error r
    | .ok x =>
      let gen := genBlocks v.a e x.rows p
      if gen.isEmpty then .ok x else
      match fetchPass s w v e.seq p with
      | .error r => .error r
      | .ok (lanes, bad, addrs) =>
        let grp := gen.map fun b => b / 8
        .ok { rows := x.rows.mapIdx fun n r =>
                let r := if gen.contains (n / 64) then applyPass v.a e p lanes r else r
                if grp.contains (n / 512) then { r with bad := r.bad || bad } else r,
              keys := if p.isTree then x.keys else x.keys ++ p.keys, addrs := x.addrs ++ addrs, steps := x.steps + gen.length, groups := x.groups + grp.eraseDups.length }) (.ok { rows := rows })

/-- The bytes of an output row (R268). -/
def rowOut (a : AttD) (r : RowRun) : List (Byte × Bool) :=
  flagBytes r.bad ((List.range a.dv).flatMap fun d =>
    natLe (fmtBytes a.ofmt) (convOut a.ofmt a.sat (if r.row.seen then divF (r.row.o.getD d 0) r.row.l else 0)))

/-- Rows of an entry captured for one tap; cap counts the rows that this issue has captured. -/
def captureTap (w : Site) (t : Task) (a : AttD) (e : Ragged) (n : Nat) (rows : List RowRun) (x : Nat × Tap × Nat) (acc : State × Nat) :
    State × Nat :=
  let (id, tap, gh) := x
  (List.range e.qCount).foldl (fun (acc : State × Nat) i =>
    let pos := e.posOf a i
    if pos < tap.qf ∨ tap.qf + tap.qn ≤ pos ∨ tap.holds pos then acc else
    match rows[i * a.g + gh]? with
    | none => acc
    | some r =>
      let full := decide (a.tapRows ≤ acc.2)
      let wide := r.shown.any fun y => decide (tap.kf + a.tapKeys ≤ y.1) && decide (y.1 < tap.kf + tap.kn)
      let s := if full then acc.1 else writeTap w.k tap (if a.tree then tap.qn + i else pos - tap.qf) a.tapKeys r.shown r.row r.bad acc.1
      let row : TapRow := { prog := t.prog, inv := t.inv, unit := w.u, pos := pos, entry := n, p0 := e.qPos,
                            node := if a.tree then some i else none, miss := full || wide }
      (s.mapIsle w.k fun k => { k with taps := setAt k.taps id fun y => { y with pendingRows := y.pendingRows ++ [row] } },
       if full then acc.2 else acc.2 + 1)) acc

/-- Row-steps of a block-pass (R281). -/
def blockSteps (a : AttD) : Nat :=
  let one := fun f => fmtBytes f == 1
  max (max (ceilDiv a.dk (if one a.qfmt && one a.kvfmt then 8 else 4)) (ceilDiv a.dv (if one a.kvfmt then 8 else 4))) 64

/-- R168: the slice keeps the translations of the pages of a direct sequence that an entry touched. -/
def keepPages (w : Site) (seq : Nat) (keys : List Nat) (s : State) : State :=
  match seqOf s w.k seq with
  | none => s
  | some q =>
    if q.managed then s else
    let g := poolOf s w.k
    ((keys.filter fun k => decide (k < q.f)).map fun k => k / pageTok g).eraseDups.foldl (fun s i =>
      match tableWalk s w.k seq i with
      | some a => stuPut w.core w.k seq i a s
      | none => s) s

/-- Entry n of an ATTEND. -/
def attEntry (w : Site) (t : Task) (v : AttEnv) (n : Nat) (acc : State × Nat) : Except Nat (State × Nat) :=
  let s := acc.1
  let a := v.a
  let ea := a.rlt + 64 * n
  if !w.ok s ea 64 then .error 2 else
  let (rb, rbad) := w.bytes s ea 64
  let e := raggedOf rb
  if !e.ok a then .error 3
  else if a.tree ∧ e.seq = 0xFFFFFFFF then .ok (w.noteReads [(ea, 64)] s, acc.2)
  else if v.gl.any fun k => decide (e.keyLen ≤ k) then .error 3
  else
    let rows := e.qCount * a.g
    let qr := (a.q + e.qRow0 * a.dk * fmtBytes a.qfmt, rows * a.dk * fmtBytes a.qfmt)
    let og := (a.out + e.qRow0 * a.dv * fmtBytes a.ofmt, rows * a.dv * fmtBytes a.ofmt)
    let bmLen := min a.bmStride (ceilDiv e.keyLen 8)
    let br := if bmLen = 0 then (0, 0) else (a.bm + e.qRow0 * a.bmStride, (rows - 1) * a.bmStride + bmLen)
    if !(w.ok s qr.1 qr.2 && w.ok s og.1 og.2 && w.ok s br.1 br.2) || decide (3 < spaceOf a.q) || decide (3 < spaceOf a.out) then .error 2 else
    match runPasses s w v e (startRows s w v e (rbad || v.glBad)) with
    | .error r => .error r
    | .ok x =>
      let lines := x.addrs.flatMap fun p => progLines s w.k (poolView s w.k) none p (poolOf s w.k).vec
      let s1 := poisonInv w.k w.prog w.inv (lines.foldl (fun l p => insNat p l) []) (w.noteReads [(ea, 64), qr, br] s)
      let s1 := addPressure w.k (fun p => { p with
        att := p.att + x.steps * blockSteps a + ceilDiv rows 64 * ceilDiv (64 * a.dv) 512,
        mat := p.mat + if a.expand then x.groups * (expandTiles a * 128 + 32) else 0 }) s1
      let s1 := w.write og.1 (x.rows.flatMap (rowOut a)) (keepPages w e.seq x.keys s1)
      .ok ((tapsFor s w a e.seq).foldl (fun acc y => captureTap w t a e n x.rows y acc) (s1, acc.2))

/-! ## ATTEND and verify -/

/-- The global positions, checked (R265), and the up-projections. -/
def attEnv (w : Site) (a : AttD) (s : State) : Except Nat (AttEnv × State) :=
  let fb := fmtBytes a.kvfmt
  let glr := if a.window ≠ 0 ∧ a.globals ≠ 0 then (a.gl, 4 * a.globals) else (0, 0)
  let ur := if a.expand then (obAddr 1 a.expOb, expandTiles a * 16384 * fb) else (0, 0)
  if !(w.ok s glr.1 glr.2 && w.ok s ur.1 ur.2) then .error 2 else
  let (gb, glBad) := w.bytes s glr.1 glr.2
  let gl := (chunksOf 4 gb).map leNat
  if !((gl.zip (gl.drop 1)).all fun x => decide (x.1 < x.2)) then .error 3 else
  let (ub, uBad) := w.bytes s ur.1 ur.2
  .ok ({ a := a, gl := gl, glBad := glBad, uBad := uBad,
         uk := if a.expand then upCols a ub 0 a.dk else [],
         uv := if a.expand then upCols a ub (ceilDiv a.dc 128 * ceilDiv a.dk 128) a.dv else [] },
       w.noteReads [glr, ur] s)

/-- Entries in table order; a fault ends the task where it stands. -/
def attEntries (w : Site) (t : Task) (v : AttEnv) (k u : Nat) : List Nat → State × Nat → State
  | [], acc => acc.1
  | n :: l, acc =>
    match attEntry w t v n acc with
    | .ok acc => attEntries w t v k u l acc
    | .error r => taskFault k u t r acc.1

def runAttend (k u : Nat) (t : Task) (a : AttD) (s : State) : State :=
  let w := siteOf s k u t
  match attEnv w a s with
  | .error r => taskFault k u t r s
  | .ok (v, s) =>
    attEntries w t v k u (List.range a.entries) (addPressure k (fun p => { p with att := p.att + 24 }) s, 0)

/-- The accept rule of R273: BEST, and the path to it from depth 1 on. -/
def acceptOf (tree : Bool) (e : Ragged) (tok y : List Nat) : Nat × List Nat :=
  if !tree || e.qCount == 1 then (0, []) else
  let acc := (List.range e.qCount).foldl (fun (l : List Bool) i =>
    let p := e.parent.getD i 0
    l ++ [i == 0 || (l.getD p false && tok.getD i 0 == y.getD p 0)]) []
  let d := e.depths
  let best := (List.range e.qCount).foldl (fun b i => if acc.getD i false ∧ d.getD b 0 < d.getD i 0 then i else b) 0
  (best, (e.chains.getD best []).drop 1)

/-- Table 11.6. -/
def acceptRecord (best bonus : Nat) (path : List Nat) : Bytes :=
  natLe 1 path.length ++ natLe 1 best ++ natLe 2 0 ++ natLe 4 bonus ++
  ((List.range 16).flatMap fun i => natLe 1 (path.getD i 0xFF)) ++ natLe 8 0

/-- Entry n of a verify. -/
def verifyEntry (w : Site) (a : AttD) (n : Nat) (s : State) : Except Nat State :=
  let r := (a.rlt + 64 * n, 64)
  let tr := (a.tok + 68 * n, 68)
  let yr := (a.y + 68 * n, 68)
  if !([r, tr, yr, (a.acc + 32 * n, 32)].all fun x => w.ok s x.1 x.2) then .error 2 else
  let (rb, p1) := w.bytes s r.1 r.2
  let (tb, p2) := w.bytes s tr.1 tr.2
  let (yb, p3) := w.bytes s yr.1 yr.2
  let e := raggedOf rb
  if !e.resOk || (a.tree && e.qCount != 1 && !e.treeOk) then .error 3 else
  let y := (chunksOf 4 yb).map leNat
  let (best, path) := acceptOf a.tree e ((chunksOf 4 tb).map leNat) y
  .ok (w.write (a.acc + 32 * n) (flagBytes (p1 || p2 || p3) (acceptRecord best (y.getD best 0) path)) (w.noteReads [r, tr, yr] s))

def verifyEntries (w : Site) (t : Task) (a : AttD) (k u : Nat) : List Nat → State → State
  | [], s => s
  | n :: l, s =>
    match verifyEntry w a n s with
    | .ok s => verifyEntries w t a k u l s
    | .error r => taskFault k u t r s

def runVerify (k u : Nat) (t : Task) (a : AttD) (s : State) : State :=
  verifyEntries (siteOf s k u t) t a k u (List.range a.entries)
    (addPressure k (fun p => { p with att := p.att + 16 + 4 * a.entries }) s)

/-- The next released descriptor of a unit, an ATTEND, issues. -/
def execAttend (isle unit : Nat) (s : State) : Host.Outcome State Fault Refusal :=
  match frontIf s isle unit 3 (fun d => (attOf d).subop == 0) with
  | none => .next s
  | some t =>
    .next (runAttend isle unit t (attOf t.desc) (issueTask isle unit t s))

/-- The same with SUBOP 1: verify. -/
def execVerify (isle unit : Nat) (s : State) : Host.Outcome State Fault Refusal :=
  match frontIf s isle unit 3 (fun d => (attOf d).subop == 1) with
  | none => .next s
  | some t => .next (runVerify isle unit t (attOf t.desc) (issueTask isle unit t s))

/-! ## TAP (R278) -/

/-- The reserved bytes of an accept record are zero (Table 11.6). -/
def acceptOk (b : Bytes) : Bool := zeroB b 2 2 && zeroB b 24 8

/-- The accept record that a tree entry's rows are finished with: nodes of PATH by depth, node 0 first. -/
def tapPath (w : Site) (s : State) (acc : Nat) (entry : Nat) : List Nat :=
  if acc = 0 then [0] else
  let b := (w.bytes s (acc + 32 * entry) 32).1
  0 :: (List.range (fieldB b 0 1)).map fun i => fieldB b (8 + i) 1

/-- RN(BF16(EXP2(RN(t - m))) / l), or +0 for a masked column. -/
def tapWeight (m l t : F32) : F32 := if t = 0xFF800000 then 0 else divF (bf16r (exp2F (subF t m))) l

/-- Row n of a tap from row src: scores and record, normalized unless RAW. -/
def finishRow (k : Nat) (t : Tap) (src n : Nat) (s : State) : State :=
  let rd := fun a len => (readProg s k t.view none a len).getD (List.replicate len (0, false))
  let rec' := rd (t.recAt src) 8
  let row := rd (t.rowAt src) (4 * t.kn)
  let m := BitVec.ofNat 32 (fieldB (rec'.map fun x => x.1) 0 4)
  let l := BitVec.ofNat 32 (fieldB (rec'.map fun x => x.1) 4 4)
  let bad := (rec' ++ row).any fun x => x.2
  let out := if t.raw then row else (elemsF 6 row).flatMap fun x => flagBytes bad (natLe 4 (tapWeight m l x.1).toNat)
  writeProg k t.view none (t.recAt n) rec' (writeProg k t.view none (t.rowAt n) out s)

/-- One row that this unit captured and no TAP has finished: what becomes of it. -/
def finishTapRow (w : Site) (id acc : Nat) (r : TapRow) (s : State) : Option TapRow × State :=
  let t := (s.isle w.k).taps.getD id {}
  match r.node with
  | none => (some { r with fin := true }, if r.miss then s else finishRow w.k t (r.pos - t.qf) (r.pos - t.qf) s)
  | some j =>
    if (tapPath w s acc r.entry).contains j then
      (some { r with fin := true, node := none }, if r.miss then s else finishRow w.k t (t.qn + j) (r.pos - t.qf) s)
    else if acc = 0 then (some { r with fin := true, node := none, miss := true }, s)
    else (none, s)

def finishTap (w : Site) (t : Task) (id acc : Nat) (s : State) : State :=
  let rows := ((s.isle w.k).taps.getD id {}).pendingRows
  let (keep, s) := rows.foldl (fun (a : List TapRow × State) r =>
    if r.prog = t.prog ∧ r.inv = t.inv ∧ r.unit = w.u ∧ !r.fin then
      let (x, s) := finishTapRow w id acc r a.2
      (a.1 ++ x.toList, s)
    else (a.1 ++ [r], a.2)) ([], s)
  s.mapIsle w.k fun k => { k with taps := setAt k.taps id fun y => { y with pendingRows := keep } }

def runTap (k u : Nat) (t : Task) (s : State) : State :=
  let w := siteOf s k u t
  let acc := fieldB t.desc 16 8
  let mine := fun (r : TapRow) => r.prog == t.prog && r.inv == t.inv && r.unit == u && !r.fin
  let ids := (List.range 8).filter fun i => ((s.isle k).taps.getD i {}).pendingRows.any mine
  let entries := ids.flatMap fun i => ((s.isle k).taps.getD i {}).pendingRows.filterMap fun r =>
    if mine r && r.node.isSome && acc != 0 then some (acc + 32 * r.entry, 32) else none
  if !(entries.all fun r => w.ok s r.1 r.2) then taskFault k u t 2 s
  else if !(entries.all fun r => acceptOk (w.bytes s r.1 r.2).1) then taskFault k u t 3 s else
  let own := ids.flatMap fun i =>
    let tap := (s.isle k).taps.getD i {}
    (tap.pendingRows.filter mine).flatMap fun r =>
      let n := match r.node with | some j => tap.qn + j | none => r.pos - tap.qf
      [(tap.view, tap.rowAt n, 4 * tap.kn), (tap.view, tap.recAt n, 8)]
  let lines := (own.flatMap fun r => progLines s k r.1 none r.2.1 r.2.2).foldl (fun l x => insNat x l) []
  let steps := (ids.map fun i =>
    let tap := (s.isle k).taps.getD i {}
    (tap.pendingRows.filter mine).length * ceilDiv tap.kn 128).sum
  let s := addPressure k (fun p => { p with att := p.att + steps }) (poisonInv k t.prog t.inv lines (w.noteReads entries s))
  ids.foldl (fun s i => finishTap w t i acc s) s

def execTap (isle unit : Nat) (s : State) : Host.Outcome State Fault Refusal :=
  match front s isle unit 7 with
  | none => .next s
  | some t => .next (runTap isle unit t (issueTask isle unit t s))

end Sys2Proof.Machine
end

