-- ==== Sys2Proof/Machine/KvTask.lean ====
section
/-! DEFINITION. Chapter 12, the tasks of the KV cache: KVAPPEND (R298) and KVFLUSH (R299). -/

namespace Sys2Proof.Machine

/-- The batch entry of the task's invocation, if it is used. -/
def batchEntry (s : State) (w : Site) (n : Nat) : Option Entry12 :=
  match (s.isle w.k).invs.find? fun i => i.prog == w.prog && i.num == w.inv with
  | none => none
  | some i => i.entries[n]?

def mapEntry (w : Site) (n : Nat) (f : Entry12 → Entry12) (s : State) : State :=
  mapInv w.k w.prog w.inv (fun i => { i with entries := setAt i.entries n f }) s

/-! ## KVAPPEND (Table 12.6) -/

structure AppD where
  entry : Nat
  first : Nat
  count : Nat
  layer : Nat
  head : Nat
  src : Nat
  stride : Nat
  tok : Nat

def appOf (d : Bytes) : AppD :=
  { entry := fieldB d 16 2, first := fieldB d 18 2, count := fieldB d 20 2, layer := fieldB d 22 1, head := fieldB d 23 1,
    src := fieldB d 24 8, stride := fieldB d 32 4, tok := fieldB d 36 8 }

/-- Vector i of an append into its provisional slot. -/
def appendOne (w : Site) (a : AppD) (x : Entry12) (i : Nat) (s : State) : State :=
  match seqOf s w.k x.seq with
  | none => s
  | some q =>
    match q.prov[a.first + i]? with
    | none => s
    | some y =>
      let g := poolOf s w.k
      let s := writeProg w.k (poolView s w.k) none (slotVec g q.owner y.slot a.layer a.head) (w.read s (a.src + i * a.stride) g.vec) s
      if a.tok = 0 then s else
      let tk := fieldB (w.bytes s (a.tok + 4 * i) 4).1 0 4
      mapSeq w.k x.seq (fun q => { q with prov := setAt q.prov (a.first + i) fun z => { z with token := tk } }) s

def runKvAppend (k u : Nat) (t : Task) (s : State) : State :=
  let a := appOf t.desc
  let w := siteOf s k u t
  let g := poolOf s k
  match batchEntry s w a.entry with
  | none => taskFault k u t 2 s
  | some x =>
    if x.a < a.first + a.count ∨ (s.isle k).pool.isNone then taskFault k u t 2 s
    else if g.layers ≤ a.layer ∨ g.heads ≤ a.head ∨ a.stride < g.vec then taskFault k u t 3 s
    else
      let rows := (List.range a.count).map fun i => (a.src + i * a.stride, g.vec)
      let toks := if a.tok = 0 then (0, 0) else (a.tok, 4 * a.count)
      if !((toks :: rows).all fun r => w.ok s r.1 r.2) then taskFault k u t 2 s else
      let s := (List.range a.count).foldl (fun s i => appendOne w a x i s) (w.noteReads (toks :: rows) s)
      let sh := (hostedShards s).getD w.h 0
      mapEntry w a.entry (fun e => { e with
        wrote := e.wrote ++ ((List.range a.count).map fun i => (sh, a.layer, a.first + i, a.head)).filter fun y => !e.wrote.contains y }) s

def execKvappend (isle unit : Nat) (s : State) : Host.Outcome State Fault Refusal :=
  match front s isle unit 8 with
  | none => .next s
  | some t => .next (runKvAppend isle unit t (issueTask isle unit t s))

/-! ## KVFLUSH -/

/-- Copy layers of page F / P + j of a sequence from its committed slots into its STAGING page. -/
def flushPage (k : Nat) (q : Seq) (l0 nl j : Nat) (s : State) : State :=
  let g := poolOf s k
  let x := pageAt q (q.f / pageTok g + j)
  if x.state ≠ .staging then s else
  (List.range nl).foldl (fun s l => (List.range g.heads).foldl (fun s h => (List.range (pageTok g)).foldl (fun s i =>
    match q.shoal[j * pageTok g + i]? with
    | some y => copyProg k (poolView s k) (slotVec g q.owner y.slot (l0 + l) h) (pageVec g x.addr (l0 + l) h i) g.vec s
    | none => s) s) s) s

/-- Poisoned lines of the slots that a flush reads. -/
def flushLines (s : State) (k : Nat) (q : Seq) (l0 nl n : Nat) : List Nat :=
  let g := poolOf s k
  ((q.shoal.take (n * pageTok g)).flatMap fun y =>
    progLines s k (poolView s k) none (slotVec g q.owner y.slot l0 0) (nl * g.heads * g.vec)).foldl (fun l x => insNat x l) []

def runKvFlush (k u : Nat) (t : Task) (s : State) : State :=
  let w := siteOf s k u t
  let n := fieldB t.desc 16 2
  let l0 := fieldB t.desc 19 1
  let nl := fieldB t.desc 20 2
  let g := poolOf s k
  match batchEntry s w n with
  | none => s
  | some x =>
    if g.layers < l0 + nl then taskFault k u t 3 s else
    match seqOf s k x.seq with
    | none => s
    | some q =>
      let pages := min (fieldB t.desc 18 1) x.flushable
      let s := poisonInv k t.prog t.inv (flushLines s k q l0 nl pages) s
      let s := (List.range pages).foldl (fun s j => flushPage k q l0 nl j s) s
      mapEntry w n (fun e => { e with
        flushed := e.flushed ++ (List.range pages).map fun j => (x.f / pageTok g + j, l0, nl) }) s

def execKvflush (isle unit : Nat) (s : State) : Host.Outcome State Fault Refusal :=
  match front s isle unit 9 with
  | none => .next s
  | some t => .next (runKvFlush isle unit t (issueTask isle unit t s))

end Sys2Proof.Machine
end

