-- ==== Sys2Proof/Machine/Collect.lean ====
section
/-! DEFINITION. Chapter 13, collectives between logical shards (R340, R341): their parts, the canonical combine, and parts that land. -/

namespace Sys2Proof.Machine

/-- A running collective: its descriptor, the members' shards in order, its own position and shard, and the size of a chunk. -/
structure Coll where
  d : CollD
  mem : List Nat
  pos : Nat
  shard : Nat
  chunk : Nat
  tag : Nat        -- low 16 bits of the releasing boundary's epoch index

/-- Epoch index of the release that runs, modulo 2^16 (Table 13.4). -/
def releaseTag (s : State) (k : Nat) : Nat :=
  match (s.isle k).released with
  | some b => (b - s.tide.base) / s.tide.epochLen % 65536
  | none => 0

def collOfTask (s : State) (k u : Nat) (t : Task) : Coll :=
  let d := collOf t.desc
  let mem := maskBits d.set 16
  let sh := (hostedShards s).getD (u / 64) 0
  { d := d, mem := mem, pos := mem.findIdx (· == sh), shard := sh, chunk := d.bytes / max 1 mem.length, tag := releaseTag s k }

/-- Bytes of one part in a round. -/
def Coll.partLen (c : Coll) : Nat := if c.d.op = 0 then c.d.bytes else c.chunk

/-- Offset of the sender's part in the receiving area. -/
def Coll.partOff (c : Coll) (round : Nat) : Nat :=
  c.d.off + (if c.d.op = 0 then c.pos * c.d.bytes else if round = 0 then c.pos * c.chunk else (c.mem.length + c.pos) * c.chunk)

/-- Bytes of the result at DST. -/
def Coll.outLen (c : Coll) : Nat := if c.d.op = 0 then c.mem.length * c.d.bytes else if c.d.op = 1 then c.chunk else c.d.bytes

/-- The messages of a part: offset within it and bytes, at most 4,096 each (R323). -/
def partPieces (b : Bytes) : List (Nat × Bytes) := (chunksOf 4096 b).mapIdx fun i c => (4096 * i, c)

def landPart (k : Nat) (c : Coll) (round shard : Nat) (b : Bytes) (s : State) : State :=
  s.mapArch fun a => { a with parts := a.parts ++
    [{ isle := k, collId := c.d.id, boundary := c.tag, round := round, pos := c.pos, shard := shard, data := b }] }

/-- One piece of a part, to one member's shard: on this chip through the window at once, else as a message that is acknowledged. -/
def sendPiece (w : Site) (t : Task) (c : Coll) (round m : Nat) (x : Nat × Bytes) (s : State) : State :=
  if !stillRuns s w.k w.u t.id then s else
  let j := shardHost s m
  let off := c.partOff round + x.1
  let r : WinReq := { tag := s.arch.nextTag, dest := j, port := myPort s j, isle := w.k, dstIsle := w.k, unit := w.u, task := t.id,
                      cls := 2, flits := flitsOf x.2.length }
  if j = chipId s then
    match windowCheck s j w.k w.k s.standby.incarnation c.d.win off x.2.length 0 false with
    | .ok e => landPart w.k c round m x.2 (windowPut w.k c.d.win off e (plainBytes x.2) s)
    | .notOpen => taskFault w.k w.u t 2 s
    | .fenced => peerLost r true 4 s
  else if !(s.arch.present.testBit j) then peerLost r false 3 s
  else
    let m' : OutMsg := .peer j pmPart
      [chipId s, w.k, s.standby.incarnation, c.d.win, off, c.d.id, c.tag, round, c.pos, m, r.tag] x.2
    addReq { r with msg := m' } (mapTask w.k w.u t.id (fun t => { t with wait := t.wait ++ [r.tag] }) s)

/-- A round begins: this member's parts go out, its own is kept. part q is what goes to position q. -/
def beginRound (w : Site) (t : Task) (c : Coll) (round : Nat) (part : Nat → Bytes) (s : State) : State :=
  let s := mapTask w.k w.u t.id (fun t => { t with round := round + 1 }) s
  let s := landPart w.k c round c.shard (part c.pos) s
  (List.range c.mem.length).foldl (fun s q =>
    if q = c.pos then s else
    (partPieces (part q)).foldl (fun s x => sendPiece w t c round (c.mem.getD q 0) x s) s) s

/-- The parts of a round for one member, by position; none while one is missing. -/
def roundParts (s : State) (k : Nat) (c : Coll) (round : Nat) : Option (List Bytes) :=
  let ps := (List.range c.mem.length).map fun q =>
    ((s.arch.parts.filter fun p => p.isle == k && p.collId == c.d.id && p.boundary == c.tag && p.round == round && p.shard == c.shard &&
      p.pos == q).flatMap fun p => p.data)
  if ps.all fun b => b.length == c.partLen then some ps else none

/-- The canonical combine (R245): one leaf per position. -/
def canonical (ps : List Bytes) (len : Nat) : Bytes :=
  (List.range (len / 4)).flatMap fun i => natLe 4 (treeOf addF 0 (ps.map fun b => BitVec.ofNat 32 (fieldB b (4 * i) 4))).toNat

def dropParts (k : Nat) (c : Coll) (round : Nat) (s : State) : State :=
  s.mapArch fun a => { a with parts := a.parts.filter fun p =>
    !(p.isle == k && p.collId == c.d.id && p.boundary == c.tag && p.round == round && p.shard == c.shard) }

/-- The result is written; what remains are the acknowledgements of this member's own writes. -/
def endColl (w : Site) (t : Task) (c : Coll) (b : Bytes) (s : State) : State :=
  mapTask w.k w.u t.id (fun t => { t with busy := false }) (w.write c.d.dst (plainBytes b) s)

/-- A collective whose current round is complete moves on; none while it waits. -/
def collStep (k u : Nat) (t : Task) (s : State) : Option State :=
  let c := collOfTask s k u t
  let w := siteOf s k u t
  if t.round = 0 then none else
  match roundParts s k c (t.round - 1) with
  | none => none
  | some ps =>
    let s := dropParts k c (t.round - 1) s
    if c.d.op = 0 then some (endColl w t c ps.flatten s)
    else if t.round = 2 then some (endColl w t c ps.flatten s)
    else
      let r := canonical ps c.chunk
      if c.d.op = 1 then some (endColl w t c r s) else some (beginRound w t c 1 (fun _ => r) s)

/-- The running collectives of an isle, in slots that have stopped too (R241). -/
def collTasks (s : State) (k : Nat) : List (Nat × Task) :=
  (s.isle k).units.flatMap fun x => (x.2.running.filter fun t => t.busy && dClass t.desc == 6).map fun t => (x.1, t)

def collLoop (k : Nat) : Nat → State → State
  | 0, s => s
  | n + 1, s =>
    match (collTasks s k).findSome? fun x => collStep k x.1 x.2 s with
    | some s => collLoop k n s
    | none => s

/-- Every collective of an isle that can move on does. -/
def pumpColl (k : Nat) (s : State) : State := collLoop k (2 * (collTasks s k).length) s

/-- A COLLECT issues; poison in its contribution ends it with nothing sent (R452). -/
def runCollect (k u : Nat) (t : Task) (s : State) : State :=
  let c := collOfTask s k u t
  let w := siteOf s k u t
  if !c.mem.contains c.shard then taskFault k u t 3 s
  else if !(w.ok s c.d.src c.d.bytes && w.ok s c.d.dst c.outLen) then taskFault k u t 2 s
  else
    let (b, bad) := w.bytes s c.d.src c.d.bytes
    let s := w.noteReads [(c.d.src, c.d.bytes)] s
    if bad then s else
    let s := mapTask k u t.id (fun t => { t with busy := true }) s
    pumpColl k (beginRound w t c 0 (fun q => if c.d.op = 0 then b else sliceB b (q * c.chunk) c.chunk) s)

def issueColl (op isle unit : Nat) (s : State) : State :=
  match frontIf s isle unit 6 (fun d => fieldB d 16 1 == op) with
  | none => s
  | some t => runCollect isle unit t (issueTask isle unit t s)

def execAllGather (isle unit : Nat) (s : State) : Host.Outcome State Fault Refusal := .next (issueColl 0 isle unit s)
def execReduceScatter (isle unit : Nat) (s : State) : Host.Outcome State Fault Refusal := .next (issueColl 1 isle unit s)
def execAllReduce (isle unit : Nat) (s : State) : Host.Outcome State Fault Refusal := .next (issueColl 2 isle unit s)

/-- R341: a part lands in the receiving area through the window, and is matched by COLL_ID and boundary. -/
def execCollectPart (m : PartMsg) (s : State) : Host.Outcome State Fault Refusal :=
  let orig := m.hdr.orig
  .next (onMessage m.hdr 2 false (flitsOf m.data.length) (fun s =>
    if s.halt.isSome then s else
    match windowCheck s orig m.srcIsle m.srcIsle m.hdr.inc m.window m.offset m.data.length 0 false with
    | .fenced => refuseReq orig 2 m.srcIsle m.window m.tag 2 s
    | .notOpen => refuseReq orig 2 m.srcIsle m.window m.tag 1 s
    | .ok w =>
      let s := windowPut m.srcIsle m.window m.offset w (plainBytes m.data) s
      let part : Part := { isle := m.srcIsle, collId := m.collId, boundary := m.boundary, round := m.round, pos := m.position,
                           shard := m.shard, data := m.data }
      let s := s.mapArch fun a => { a with parts := a.parts ++ [part] }
      pumpColl m.srcIsle (replyTo orig 2 m.srcIsle pmWriteAck [chipId s, m.tag] [] s)) s)

end Sys2Proof.Machine
end

