-- ==== Sys2Proof/Machine/Ring.lean ====
section
/-! DEFINITION. Chapter 17, the arithmetic of the ring arithmetic units: exact arithmetic modulo word-sized primes, the transform of
R427, and the operations of R436 on the limbs of sealed objects. -/

namespace Sys2Proof.Machine

/-- Residues of one limb; the limbs of a polynomial; the polynomials of an object. -/
abbrev Limb := List Nat

/-! ## Modular arithmetic and the generator (R427) -/

def invMod (q a : Nat) : Nat := powMod q 64 a (q - 2)

/-- Strip a divisor as often as it divides. -/
def stripBy (d : Nat) : Nat → Nat → Nat
  | 0, n => n
  | f + 1, n => if n % d = 0 then stripBy d f (n / d) else n

/-- The prime divisors of n, by trial division from d on. -/
def primesFrom : Nat → Nat → Nat → List Nat
  | 0, _, n => if 1 < n then [n] else []
  | f + 1, d, n =>
    if n < 2 then []
    else if n < d * d then [n]
    else if n % d = 0 then d :: primesFrom f (d + 1) (stripBy d 64 n)
    else primesFrom f (d + 1) n

def primeDivisors (n : Nat) : List Nat := primesFrom (2 ^ 31) 2 n

/-- g generates the multiplicative group modulo q. -/
def generates (q g : Nat) (ps : List Nat) : Bool := ps.all fun p => powMod q 64 g ((q - 1) / p) != 1

def leastFrom (p : Nat → Bool) : Nat → Nat → Nat
  | 0, g => g
  | f + 1, g => if p g then g else leastFrom p f (g + 1)

/-- ψ = g^((q - 1) / 2N) for the smallest generator g. -/
def psi (q n : Nat) : Nat :=
  let ps := primeDivisors (q - 1)
  powMod q 64 (leastFrom (fun g => generates q g ps) 100000 2) ((q - 1) / (2 * n))

/-- The low b bits of k reversed. -/
def bitRev (b k : Nat) : Nat := ((List.range b).map fun i => if k.testBit i then 2 ^ (b - 1 - i) else 0).sum

/-- The point at which entry k of a transform evaluates. -/
def nttPoint (q b w k : Nat) : Nat := powMod q 64 w (2 * bitRev b k + 1)

/-- Horner's rule modulo q. -/
def evalAt (q x : Nat) (a : Limb) : Nat := a.foldr (fun c acc => (c + x * acc) % q) 0

/-- â[k] = Σ a_i ψ^((2 brv(k) + 1) i). -/
def ntt (q b : Nat) (a : Limb) : Limb :=
  let w := psi q (2 ^ b)
  (List.range (2 ^ b)).map fun k => evalAt q (nttPoint q b w k) a

/-- The inverse: a_i = N^(-1) Σ â[k] x_k^(-i). -/
def intt (q b : Nat) (a : Limb) : Limb :=
  let n := 2 ^ b
  let w := psi q n
  let pts := (List.range n).map fun k => invMod q (nttPoint q b w k)
  let ni := invMod q (n % q)
  (List.range n).map fun i => ni * ((List.zipWith (fun c y => c * powMod q 64 y i) a pts).sum % q) % q

/-- Miller–Rabin with the first 12 primes as bases (R426), exact below 2^64. -/
def strongProbable (n a : Nat) : Bool :=
  let s := (leastFrom (fun s => (n - 1) / 2 ^ s % 2 == 1) 64 0)
  let x := powMod n 64 a ((n - 1) / 2 ^ s)
  a % n == 0 || x == 1 || (List.range s).any fun r => powMod n 64 x (2 ^ r) == n - 1

def isPrime64 (n : Nat) : Bool :=
  decide (2 ≤ n) && ([2, 3, 5, 7, 11, 13, 17, 19, 23, 29, 31, 37].all fun a => n == a || (n % a != 0 && strongProbable n a))

/-! ## Polynomials (R436) -/

def limbAdd (q : Nat) (a b : Limb) : Limb := List.zipWith (fun x y => (x + y) % q) a b
def limbSub (q : Nat) (a b : Limb) : Limb := List.zipWith (fun x y => (x + q - y % q) % q) a b
def limbMul (q : Nat) (a b : Limb) : Limb := List.zipWith (fun x y => x * y % q) a b
def limbScale (q c : Nat) (a : Limb) : Limb := a.map fun x => x * c % q

/-- Fast base conversion of the limbs x over primes B to prime r, without correction. -/
def fbc (bs : List Nat) (xs : List Limb) (n r : Nat) : Limb :=
  let big := bs.foldl (· * ·) 1
  let terms := bs.map fun b => (b, invMod b (big / b % b), big / b % r)
  (List.range n).map fun i =>
    ((List.zipWith (fun (t : Nat × Nat × Nat) (x : Limb) => (x.getD i 0 * t.2.1 % t.1) * t.2.2 % r) terms xs).sum) % r

/-- τ_g: coefficient i moves to i g mod 2N, negated at N or above. -/
def tau (q n g : Nat) (a : Limb) : Limb :=
  (List.range n).foldl (fun out i =>
    let j := i * g % (2 * n)
    let c := a.getD i 0
    if j < n then out.set j c else out.set (j - n) ((q - c) % q)) (List.replicate n 0)

/-- m_i of ENCODE: v 2^scale rounded to the nearest integer; none for NaN, infinity, or a magnitude of 2^59 or more. -/
def encodeInt (scale : Nat) (v : F32) : Option Int :=
  match unpack v with
  | .fin neg m e =>
    let r := roundInt m (e + scale)
    if 2 ^ 59 ≤ r then none else some (signedM neg r)
  | _ => none

/-- The coefficients of ENCODE. -/
def encodePoly (n : Nat) (rev : Bool) (ms : List Int) : List Int :=
  (List.range n).map fun i =>
    if !rev then ms.getD i 0 else if i = 0 then ms.getD 0 0 else -(ms.getD (n - i) 0)

end Sys2Proof.Machine
end

