-- ==== Sys2Proof/Machine/Seal.lean ====
section
/-! DEFINITION. Chapter 17, sealed arithmetic: objects and descriptors (R428, R432), header checks (R434), the schedule of jobs (R437,
R438), results and records (R433, R436, R440), and the commands of Table 17.10. -/

namespace Sys2Proof.Machine

/-! ## Descriptors and headers -/

structure SealD where
  op : Nat
  pset : Nat
  nttForm : Bool
  rev : Bool
  key : Nat
  target : Nat
  scale : Nat
  d : Nat
  a : Nat
  b : Nat
  out : Nat
  recAt : Nat
  auto : Nat

def sealOf (d : Bytes) : SealD :=
  { op := fieldB d 16 1, pset := fieldB d 17 1, nttForm := (fieldB d 18 1).testBit 0, rev := (fieldB d 18 1).testBit 1,
    key := fieldB d 19 1, target := fieldB d 20 1, scale := fieldB d 21 1, d := fieldB d 22 2, a := fieldB d 24 8, b := fieldB d 32 8,
    out := fieldB d 40 8, recAt := fieldB d 48 8, auto := fieldB d 56 4 }

/-- Table 17.2. -/
structure SealHdr where
  magic : Nat := 0x54434553
  kind : Nat := 0
  pset : Nat := 0
  level : Nat := 0
  size : Nat := 2
  form : Nat := 1
  depth : Nat := 0
  status : Nat := 0
  keyId : Nat := 0
  resOk : Bool := true
  deriving Inhabited

def sealHdr (b : Bytes) : SealHdr :=
  { magic := fieldB b 0 4, kind := fieldB b 4 1, pset := fieldB b 5 1, level := fieldB b 6 1, size := fieldB b 7 1, form := fieldB b 8 1,
    depth := fieldB b 9 1, status := fieldB b 10 2, keyId := fieldB b 12 4, resOk := zeroB b 16 48 }

def sealHdrBytes (h : SealHdr) : Bytes :=
  natLe 4 h.magic ++ natLe 1 h.kind ++ natLe 1 h.pset ++ natLe 1 h.level ++ natLe 1 h.size ++ natLe 1 h.form ++ natLe 1 h.depth ++
  natLe 2 h.status ++ natLe 4 h.keyId ++ List.replicate 48 0

/-- A is an object; B is an object. -/
def sealHasA (op : Nat) : Bool := op != 13
def sealHasB (op : Nat) : Bool := op == 3 || op == 4 || op == 5 || op == 6 || op == 8

/-- Bytes of an object. -/
def objLen (n size level : Nat) : Nat := 64 + size * (level + 1) * (8 * n)

/-- Bytes at B: an object, the constants of CMUL, or the vector of ENCODE. -/
def sealBLen (d : SealD) (n level size : Nat) : Nat :=
  if sealHasB d.op then objLen n size level else if d.op = 7 then 8 * (level + 1) else if d.op = 13 then 4 * d.d else 0

/-! ## Header checks (Table 17.7) -/

/-- What the RAU knows of an operation before its jobs: the set, the headers, and what the result will be. -/
structure SealOp where
  d : SealD
  p : Pset
  ha : SealHdr
  hb : SealHdr

def SealOp.n (o : SealOp) : Nat := 2 ^ o.p.nLog2
def SealOp.qs (o : SealOp) : List Nat := o.p.primes.take o.p.l
def SealOp.ps (o : SealOp) : List Nat := o.p.primes.drop o.p.l

/-- The result's header, but for DEPTH where two ciphertexts differ in it. -/
def SealOp.result (o : SealOp) : SealHdr :=
  let h := o.ha
  let size := match o.d.op with
    | 3 | 4 => max h.size o.hb.size
    | 8 => 3 | 9 | 10 => 2 | 13 => 1
    | _ => h.size
  let level := match o.d.op with | 11 => h.level - 1 | 12 => o.d.target | 13 => o.d.target | _ => h.level
  let form := match o.d.op with | 1 => 1 | 2 => 0 | 13 => b2n o.d.nttForm | _ => h.form
  { kind := if o.d.op = 13 then 1 else h.kind, pset := o.d.pset, level := level, size := size, form := form,
    depth := if o.d.op = 11 then min 255 (h.depth + 1) else if o.d.op = 13 then 0 else h.depth,
    keyId := if o.d.op = 13 then 0 else h.keyId }

/-- Check 1 of one header: what it must be to name an object of the set; its STATUS is a code that records carry (R475, R476). -/
def hdrOk (o : SealOp) (h : SealHdr) (kinds : List Nat) : Bool :=
  h.magic == 0x54434553 && kinds.contains h.kind && h.pset == o.d.pset && decide (h.level < o.p.l) && decide (h.form ≤ 1) && h.resOk && carriedCodes.contains h.status &&
  (if h.kind = 0 then h.size == 2 || h.size == 3 else h.size == 1 && h.keyId == 0)

def sealCheck1 (o : SealOp) : Bool :=
  (!sealHasA o.d.op || hdrOk o o.ha (if o.d.op = 1 ∨ o.d.op = 2 ∨ o.d.op = 12 then [0, 1] else [0])) &&
  (!sealHasB o.d.op || hdrOk o o.hb (if o.d.op = 5 ∨ o.d.op = 6 then [1] else [0])) &&
  (o.d.op != 13 || (decide (1 ≤ o.d.d) && decide (o.d.d ≤ o.n))) &&
  (o.d.op != 10 || (o.d.auto % 2 == 1 && decide (3 ≤ o.d.auto) && decide (o.d.auto < 2 * o.n)))

/-- FORM and SIZE as Table 17.6 requires. -/
def sealShape (o : SealOp) : Bool :=
  let a := o.ha
  match o.d.op with
  | 1 => a.form == 0
  | 2 => a.form == 1
  | 3 | 4 | 5 => a.form == o.hb.form
  | 6 => a.form == 1 && o.hb.form == 1
  | 8 => a.form == 1 && o.hb.form == 1 && a.size == 2 && o.hb.size == 2
  | 9 => a.form == 1 && a.size == 3
  | 10 => a.form == 1 && a.size == 2
  | 11 => a.form == 1
  | _ => true

/-- Ranges of the operation: A, B and OUT. -/
def SealOp.ranges (o : SealOp) : (Nat × Nat) × (Nat × Nat) × (Nat × Nat) :=
  let r := o.result
  ((o.d.a, if sealHasA o.d.op then objLen o.n o.ha.size o.ha.level else 0), (o.d.b, sealBLen o.d o.n (if sealHasB o.d.op then o.hb.level else o.ha.level) o.hb.size),
   (o.d.out, objLen o.n r.size r.level))

def SealOp.overlaps (o : SealOp) (s : State) (w : Site) : Bool :=
  let (a, b, out) := o.ranges
  let hit := fun (r : Nat × Nat) => r.2 != 0 && regionMeets r.1 r.2 out.1 out.2
  hit a || hit b || inSealed s w.k w.h out.1 out.2

def sealCheck4 (o : SealOp) (s : State) (w : Site) : Bool :=
  if o.d.op = 9 ∨ o.d.op = 10 then
    match aGet (s.isle w.k).sealed.keys o.d.key with
    | none => false
    | some e => e.kind == (if o.d.op = 9 then 0 else 1) && (o.d.op != 10 || e.auto == o.d.auto) && e.pset == o.d.pset && e.keyId == o.ha.keyId
  else if o.d.op = 3 ∨ o.d.op = 4 ∨ o.d.op = 8 then o.ha.keyId == o.hb.keyId
  else true

def sealCheck5 (o : SealOp) : Bool :=
  (!sealHasB o.d.op || o.ha.level == o.hb.level) && (o.d.op != 11 || o.ha.level != 0) &&
  (o.d.op != 12 || decide (o.d.target < o.ha.level)) && (o.d.op != 13 || decide (o.d.target < o.p.l))

/-- The first failing check's number and status. -/
def sealChecks (o : SealOp) (s : State) (w : Site) : Option (Nat × Nat) :=
  if !sealCheck1 o then some (1, statusCode .eBadarg)
  else if sealHasA o.d.op ∧ o.ha.status ≠ 0 then some (2, o.ha.status)
  else if sealHasB o.d.op ∧ o.hb.status ≠ 0 then some (2, o.hb.status)
  else if !sealShape o || o.overlaps s w then some (3, statusCode .eBadarg)
  else if !sealCheck4 o s w then some (4, statusCode .eDenied)
  else if !sealCheck5 o then some (5, statusCode .eLevel)
  else none

/-! ## The schedule of jobs (Table 17.8) -/

/-- 15 + ceil(max(S / 1.2 G, B / 409.6 GB/s) / 10 ns). -/
def jobBound (steps bytes : Nat) : Nat := 15 + max (ceilDiv steps 12) (ceilDiv bytes 4096)

def nttJob (p : Pset) : Nat := let n := 2 ^ p.nLog2; jobBound (n * p.nLog2 / 256 + 48) (16 * n)
def pointJob (p : Pset) : Nat := let c := min (2 ^ p.nLog2) 16384; jobBound (c / 128 + 48) (24 * c)
def macJob (p : Pset) : Nat := let c := min (2 ^ p.nLog2) 16384; jobBound (2 * c / 128 + 48) (56 * c)
def baseJob (p : Pset) (g : Nat) : Nat := let c := min (2 ^ p.nLog2) 2048; jobBound (g * c / 128 + 48) (8 * c * (g + 1))

/-- The strips of w coefficients of a limb. -/
def SealOp.strips (o : SealOp) (w : Nat) : List Nat := List.range (ceilDiv o.n w)

def SealOp.nttWork (o : SealOp) (r : Nat) (x z : SealLoc) : SealJob := { bound := nttJob o.p, work := .ntt r x z }
def SealOp.inttWork (o : SealOp) (r : Nat) (x z : SealLoc) : SealJob := { bound := nttJob o.p, work := .intt r x z }

/-- The pointwise jobs of one limb. -/
def SealOp.points (o : SealOp) (f : SealFn) (r : Nat) (x y z : SealLoc) : List SealJob :=
  (o.strips 16384).map fun c => { bound := pointJob o.p, work := .point f r x y z c }

/-- The base conversion jobs of one limb: class c of intermediate limbs over the primes bs gives limb r of class c + 1. -/
def SealOp.convs (o : SealOp) (bs : List Nat) (c k r : Nat) : List SealJob :=
  (o.strips 2048).map fun i => { bound := baseJob o.p bs.length, work := .conv bs c k r i }

/-- The jobs of a key switch of d at level l, in the order of R436; limb j of out_k goes to z k j. Intermediate limbs by class: 0 a digit in
coefficient form, 1 its conversions, 2 the accumulators, 3 their special limbs in coefficient form, 4 those converted. -/
def SealOp.switchJobs (o : SealOp) (l : Nat) (d : Nat → SealLoc) (z : Nat → Nat → SealLoc) : List SealJob :=
  let alpha := ceilDiv o.p.l o.p.dnum
  let special := (List.range o.p.k).map fun i => o.p.l + i
  let all := List.range (l + 1) ++ special
  ((List.range o.p.dnum).flatMap fun t =>
    let mine := (List.range (l + 1)).filter fun j => decide (t * alpha ≤ j) && decide (j < (t + 1) * alpha)
    let others := all.filter fun r => !mine.contains r
    if mine.isEmpty then [] else
    (mine.map fun j => o.inttWork j (d j) (.tmp 0 0 j)) ++ (others.flatMap fun r => o.convs mine 0 0 r) ++
      (others.map fun r => o.nttWork r (.tmp 1 0 r) (.tmp 1 0 r)) ++
      all.flatMap fun r => (o.strips 16384).map fun c =>
        { bound := macJob o.p, work := .mac t r (if mine.contains r then d r else .tmp 1 0 r) c }) ++
  (List.range 2).flatMap fun k =>
    (special.map fun r => o.inttWork r (.tmp 2 k r) (.tmp 3 k r)) ++
    ((List.range (l + 1)).flatMap fun j => o.convs special 3 k j) ++
    ((List.range (l + 1)).map fun j => o.nttWork j (.tmp 4 k j) (.tmp 4 k j)) ++
    (List.range (l + 1)).flatMap fun j => o.points .lowerP j (.tmp 2 k j) (.tmp 4 k j) (z k j)

/-- Limb (i, j) of the result for every polynomial i and level j. -/
def SealOp.limbs (o : SealOp) (f : Nat → Nat → List SealJob) : List SealJob :=
  (List.range o.result.size).flatMap fun i => (List.range (o.result.level + 1)).flatMap fun j => f i j

/-- The jobs of an operation, in order (R436, R437). -/
def SealOp.plan (o : SealOp) : List SealJob :=
  let a := o.ha
  let levels := List.range (a.level + 1)
  let sum := fun k => levels.flatMap fun j => o.points .add j (.a k j) (.tmp 5 k j) (.out k j)
  match o.d.op with
  | 1 => o.limbs fun i j => [o.nttWork j (.a i j) (.out i j)]
  | 2 => o.limbs fun i j => [o.inttWork j (.a i j) (.out i j)]
  | 3 => o.limbs fun i j => o.points .add j (if i < a.size then .a i j else .zero) (if i < o.hb.size then .b i j else .zero) (.out i j)
  | 4 => o.limbs fun i j => o.points .sub j (if i < a.size then .a i j else .zero) (if i < o.hb.size then .b i j else .zero) (.out i j)
  | 5 => o.limbs fun i j => o.points (if i = 0 then .add else .copy) j (.a i j) (if i = 0 then .b 0 j else .zero) (.out i j)
  | 6 => o.limbs fun i j => o.points .mul j (.a i j) (.b 0 j) (.out i j)
  | 7 => o.limbs fun i j => o.points .mul j (.a i j) (.const j) (.out i j)
  | 8 =>
    (levels.flatMap fun j => o.points .mul j (.a 0 j) (.b 0 j) (.out 0 j)) ++
    (levels.flatMap fun j => o.points .mul j (.a 0 j) (.b 1 j) (.tmp 5 0 j) ++ o.points .mul j (.a 1 j) (.b 0 j) (.tmp 5 1 j) ++
      o.points .add j (.tmp 5 0 j) (.tmp 5 1 j) (.out 1 j)) ++
    levels.flatMap fun j => o.points .mul j (.a 1 j) (.b 1 j) (.out 2 j)
  | 9 => o.switchJobs a.level (fun j => .a 2 j) (fun k j => .tmp 5 k j) ++ sum 0 ++ sum 1
  | 10 =>
    ((List.range 2).flatMap fun i => levels.flatMap fun j => o.points .tau j (.a i j) .zero (.tmp 6 i j)) ++
    o.switchJobs a.level (fun j => .tmp 6 1 j) (fun k j => if k = 0 then .tmp 5 0 j else .out 1 j) ++
    levels.flatMap fun j => o.points .add j (.tmp 6 0 j) (.tmp 5 0 j) (.out 0 j)
  | 11 => (List.range a.size).flatMap fun i => o.inttWork a.level (.a i a.level) (.tmp 0 0 a.level) ::
      (List.range a.level).flatMap fun j => o.nttWork j (.tmp 0 0 a.level) (.tmp 1 0 j) ::
        o.points (.lower a.level) j (.a i j) (.tmp 1 0 j) (.out i j)
  | 12 => o.limbs fun i j => o.points .copy j (.a i j) .zero (.out i j)
  | 13 => (List.range (o.d.target + 1)).map fun j => { bound := nttJob o.p, work := .encode j }
  | _ => []

/-! ## What a job reads and writes (R436, R437, R440) -/

def SealOp.key (o : SealOp) (s : State) (w : Site) : Option SealKey := aGet (s.isle w.k).sealed.keys o.d.key

/-- View and program address of a limb in the shelf; none for intermediate limbs. -/
def SealOp.place (o : SealOp) (s : State) (w : Site) : SealLoc → Option (Nat × Nat)
  | .a i j => some (w.h, o.d.a + 64 + (i * (o.ha.level + 1) + j) * (8 * o.n))
  | .b i j => some (w.h, o.d.b + 64 + (i * (o.hb.level + 1) + j) * (8 * o.n))
  | .out i j => some (w.h, o.d.out + 64 + (i * (o.result.level + 1) + j) * (8 * o.n))
  | .key t i r => (o.key s w).map fun e => (e.view, e.base + 64 + ((2 * t + i) * (o.p.l + o.p.k) + r) * (8 * o.n))
  | .const j => some (w.h, o.d.b + 8 * j)
  | .tmp _ _ _ | .zero => none

/-- The bytes of coefficients c0 to c0 + m - 1 of a limb, as view, address and length. -/
def SealOp.span (o : SealOp) (s : State) (w : Site) (x : SealLoc) (c0 m : Nat) : List (Nat × Nat × Nat) :=
  match x, o.place s w x with
  | .const _, some p => [(p.1, p.2, 8)]
  | _, some p => [(p.1, p.2 + 8 * c0, 8 * m)]
  | _, none => []

/-- Those coefficients, an intermediate limb's of the task. -/
def SealOp.load (o : SealOp) (s : State) (w : Site) (t : SealTask) (x : SealLoc) (c0 m : Nat) : Limb :=
  match x, o.place s w x with
  | .const _, some p => List.replicate m (fieldB (readBytes s w.k p.1 p.2 8) 0 8)
  | _, some p =>
    let b := readBytes s w.k p.1 (p.2 + 8 * c0) (8 * m)
    (List.range m).map fun i => fieldB b (8 * i) 8
  | .tmp c i j, none =>
    let l := ((t.temps.find? fun e => e.1 == (c, i, j)).map fun e => e.2).getD []
    (List.range m).map fun x => l.getD (c0 + x) 0
  | _, none => List.replicate m 0

/-- The index of the prime of a limb's residues. -/
def SealLoc.prime : SealLoc → Nat
  | .a _ j | .b _ j | .out _ j | .const j | .tmp _ _ j => j
  | .key _ _ r => r
  | .zero => 0

def SealOp.q (o : SealOp) (r : Nat) : Nat := o.p.primes.getD r 2

/-- A strip's first coefficient and length. -/
def SealOp.strip (o : SealOp) (width c : Nat) : Nat × Nat := (c * width, min width (o.n - c * width))

/-- The limbs a job reads, with the coefficients. -/
def SealOp.jobReads (o : SealOp) : SealWork → List (SealLoc × Nat × Nat)
  | .ntt _ x _ | .intt _ x _ => [(x, 0, o.n)]
  | .encode _ => []
  | .point f _ x y _ c =>
    let r := if f = .tau then (0, o.n) else o.strip 16384 c
    [(x, r.1, r.2), (y, r.1, r.2)]
  | .mac t r x c =>
    let b := o.strip 16384 c
    [(x, b.1, b.2), (.key t 0 r, b.1, b.2), (.key t 1 r, b.1, b.2), (.tmp 2 0 r, b.1, b.2), (.tmp 2 1 r, b.1, b.2)]
  | .conv bs c k _ i =>
    let b := o.strip 2048 i
    bs.map fun j => (.tmp c k j, b.1, b.2)

/-- The ranges of memory a job reads. -/
def SealOp.jobSpans (o : SealOp) (s : State) (w : Site) (x : SealWork) : List (Nat × Nat × Nat) :=
  match x with
  | .encode _ => [(w.h, o.d.b, 4 * o.d.d)]
  | _ => (o.jobReads x).flatMap fun r => o.span s w r.1 r.2.1 r.2.2

/-- R440: every input residue is below its prime. -/
def SealOp.jobOk (o : SealOp) (s : State) (w : Site) (t : SealTask) (x : SealWork) : Bool :=
  (o.jobReads x).all fun r => (o.load s w t r.1 r.2.1 r.2.2).all fun v => decide (v < o.q r.1.prime)

/-- What a pointwise job makes of two strips modulo prime r; τ takes the whole limb. -/
def SealOp.apply (o : SealOp) (f : SealFn) (r : Nat) (x y : Limb) : Limb :=
  let q := o.q r
  match f with
  | .copy => x
  | .add => limbAdd q x y
  | .sub => limbSub q x y
  | .mul => limbMul q x y
  | .lower l => limbScale q (invMod q (o.q l % q)) (limbSub q x y)
  | .lowerP => limbScale q (invMod q (o.ps.foldl (· * ·) 1 % q)) (limbSub q x y)
  | .tau => ntt q o.p.nLog2 (tau q o.n o.d.auto (intt q o.p.nLog2 x))

/-- Limb j of ENCODE, none for a value out of range. -/
def SealOp.encoded (o : SealOp) (s : State) (w : Site) (j : Nat) : Option Limb :=
  ((floats (readBytes s w.k w.h o.d.b (4 * o.d.d))).mapM (encodeInt o.d.scale)).map fun ms =>
    let x := (encodePoly o.n o.d.rev ms).map fun i => (Int.emod i (Int.ofNat (o.q j))).toNat
    if o.d.nttForm then ntt (o.q j) o.p.nLog2 x else x

/-- The results of a job: limbs with their first coefficient; none where ENCODE meets a value out of range. -/
def SealOp.jobResults (o : SealOp) (s : State) (w : Site) (t : SealTask) : SealWork → Option (List (SealLoc × Nat × Limb))
  | .ntt r x z => some [(z, 0, ntt (o.q r) o.p.nLog2 ((o.load s w t x 0 o.n).map fun v => v % o.q r))]
  | .intt r x z => some [(z, 0, intt (o.q r) o.p.nLog2 (o.load s w t x 0 o.n))]
  | .encode j => (o.encoded s w j).map fun l => [(.out 0 j, 0, l)]
  | .point f r x y z c =>
    let b := o.strip 16384 c
    some [(z, b.1, if f = .tau then ((o.apply f r (o.load s w t x 0 o.n) []).drop b.1).take b.2
      else o.apply f r (o.load s w t x b.1 b.2) (o.load s w t y b.1 b.2))]
  | .mac d r x c =>
    let b := o.strip 16384 c
    let y := o.load s w t x b.1 b.2
    some ((List.range 2).map fun i => (.tmp 2 i r, b.1,
      limbAdd (o.q r) (o.load s w t (.tmp 2 i r) b.1 b.2) (limbMul (o.q r) y (o.load s w t (.key d i r) b.1 b.2))))
  | .conv bs c k r i =>
    let b := o.strip 2048 i
    some [(.tmp (c + 1) k r, b.1, fbc (bs.map o.q) (bs.map fun j => o.load s w t (.tmp c k j) b.1 b.2) b.2 (o.q r))]

/-- A strip of a limb overwritten. -/
def overStrip (n c0 : Nat) (v l : Limb) : Limb :=
  (List.range n).map fun i => if c0 ≤ i ∧ i < c0 + v.length then v.getD (i - c0) 0 else l.getD i 0

/-- The intermediate limbs after a job's results. -/
def keepTemps (n : Nat) (l : List ((Nat × Nat × Nat) × Limb)) (r : SealLoc × Nat × Limb) : List ((Nat × Nat × Nat) × Limb) :=
  match r.1 with
  | .tmp c i j =>
    ((c, i, j), overStrip n r.2.1 r.2.2 (((l.find? fun e => e.1 == (c, i, j)).map fun e => e.2).getD [])) :: l.filter fun e => e.1 != (c, i, j)
  | _ => l

/-- A result limb is written to the shelf. -/
def SealOp.store (o : SealOp) (w : Site) (s : State) (r : SealLoc × Nat × Limb) : State :=
  match o.place s w r.1 with
  | some p => writeBytes w.k p.1 (p.2 + 8 * r.2.1) (r.2.2.flatMap fun x => natLe 8 x) s
  | none => s

/-- The ranges that the operation reads. -/
def SealOp.reads (o : SealOp) (s : State) (w : Site) : List (Nat × Nat × Nat) :=
  let (a, b, _) := o.ranges
  [(w.h, a.1, a.2), (w.h, b.1, b.2)] ++
  if o.d.op = 9 ∨ o.d.op = 10 then (match aGet (s.isle w.k).sealed.keys o.d.key with | some e => [(e.view, e.base, e.len)] | none => []) else []

def readPoison (s : State) (k : Nat) (rs : List (Nat × Nat × Nat)) : List Nat :=
  (rs.flatMap fun r => progLines s k r.1 none r.2.1 r.2.2).foldl (fun l x => insNat x l) []

/-! ## The end of an operation (R433) -/

/-- The record, OUT's header, and the task's work over; the header stays out of a sealed region. -/
def endSeal (rau : Nat) (t : SealTask) (h : SealHdr) (status jobs : Nat) (s : State) : State :=
  let d := sealOf t.desc
  let s := writeBytes t.isle (t.unit / 64) d.recAt (natLe 2 status ++ natLe 2 0 ++ natLe 4 jobs ++ natLe 1 rau ++ List.replicate 7 0) s
  let s := if inSealed s t.isle (t.unit / 64) d.out 64 then s
    else writeBytes t.isle (t.unit / 64) d.out (sealHdrBytes { h with status := status }) s
  let s := { s with raus := s.raus.map fun r => { r with queue := r.queue.filter fun x =>
    !(x.isle == t.isle && x.unit == t.unit && x.task == t.task && x.prog == t.prog && x.inv == t.inv && x.phase == t.phase) } }
  mapTask t.isle t.unit t.task (fun x => { x with busy := false }) s

/-- What the free fields of an operation's result may depend on: its descriptor and headers (R350, log 57). -/
def sealKeyOf (t : SealTask) (s : State) : Bytes :=
  let d := sealOf t.desc
  t.desc ++ (if t.started then t.headA ++ t.headB
    else readBytes s t.isle (t.unit / 64) d.a 64 ++ readBytes s t.isle (t.unit / 64) d.b 64)

/-- A header of which nothing but the set is known: its other fields are free, within their ranges (log 57). -/
def freeHdr (d : SealD) (l : Nat) (x : Bytes) : SealHdr :=
  let plain := d.op == 13
  { kind := b2n plain, pset := d.pset, level := Config.sealField x 0 % max 1 (min l 256), size := if plain then 1 else 2 + Config.sealField x 1 % 2,
    form := Config.sealField x 2 % 2, depth := Config.sealField x 3 % 256, keyId := if plain then 0 else Config.sealField x 4 % 2 ^ 32 }

/-- DEPTH where two ciphertexts with different depths meet is not stated: a free value of the two. -/
def settleDepth (o : SealOp) (h : SealHdr) : SealHdr :=
  if (o.d.op = 3 ∨ o.d.op = 4 ∨ o.d.op = 8) ∧ o.ha.depth ≠ o.hb.depth then { h with depth := Config.sealDepth o.ha.depth o.hb.depth % 256 } else h

/-- An operation that ends early, with the result's header where it is known, after some jobs (R433, R434). -/
def failSeal (rau : Nat) (t : SealTask) (o : Option SealOp) (status jobs : Nat) (s : State) : State :=
  let h := match o with
    | some o => settleDepth o o.result
    | none => freeHdr (sealOf t.desc) (((aGet (s.isle t.isle).sealed.psets (sealOf t.desc).pset).map fun (p : Pset) => p.l).getD 1) (sealKeyOf t s)
  endSeal rau t h status jobs s

/-! ## Issue (R425, R432) -/

/-- The addresses an operation uses, with the bytes that must be there for the descriptor. -/
def sealAddrs (d : SealD) : List (Nat × Nat) :=
  (if sealHasA d.op then [(d.a, 64)] else []) ++ (if sealHasB d.op then [(d.b, 64)] else if d.op = 7 then [(d.b, 8)]
    else if d.op = 13 then [(d.b, 4 * d.d)] else []) ++ [(d.recAt, 16)]

/-- R432: every address lies in SPACE 0x2 or 0x3 and in the isle; OUT may fail its own check later. -/
def sealInIsle (s : State) (w : Site) (d : SealD) : Bool :=
  ((sealAddrs d ++ [(d.out, 64)]).all fun r => spaceOf r.1 == 2 || spaceOf r.1 == 3) && (sealAddrs d).all (fun x => w.ok s x.1 x.2) &&
    rangeOk s w.k w.h (some w.core) d.out 64 && !inPool (s.isle w.k) w.h d.out 64

def sealTaskOf (w : Site) (t : Task) : SealTask :=
  { isle := w.k, unit := w.u, task := t.id, prog := t.prog, view := w.h, desc := t.desc, inv := t.inv, phase := t.phase }

/-- A SEAL task issues: it joins its RAU's queue, which holds 256; with no RAU in service it ends at once (R441). -/
def issueSeal (op isle unit : Nat) (s : State) : State :=
  match frontIf s isle unit 10 (fun d => fieldB d 16 1 == op) with
  | none => s
  | some t =>
    let s := issueTask isle unit t s
    let w := siteOf s isle unit t
    if !sealInIsle s w (sealOf t.desc) then taskFault isle unit t 2 s else
    match rauOf s w.core with
    | some r =>
      mapTask isle unit t.id (fun t => { t with busy := true }) (s.mapRau r fun x => { x with queue := x.queue ++ [sealTaskOf w t] })
    | none => failSeal (2 * (w.core / 32) + w.core % 8 / 4) (sealTaskOf w t) none (statusCode .eFault) 0 s

def execNtt (isle unit : Nat) (s : State) : Host.Outcome State Fault Refusal := .next (issueSeal 1 isle unit s)
def execIntt (isle unit : Nat) (s : State) : Host.Outcome State Fault Refusal := .next (issueSeal 2 isle unit s)
def execAdd (isle unit : Nat) (s : State) : Host.Outcome State Fault Refusal := .next (issueSeal 3 isle unit s)
def execSub (isle unit : Nat) (s : State) : Host.Outcome State Fault Refusal := .next (issueSeal 4 isle unit s)
def execPadd (isle unit : Nat) (s : State) : Host.Outcome State Fault Refusal := .next (issueSeal 5 isle unit s)
def execPmul (isle unit : Nat) (s : State) : Host.Outcome State Fault Refusal := .next (issueSeal 6 isle unit s)
def execCmul (isle unit : Nat) (s : State) : Host.Outcome State Fault Refusal := .next (issueSeal 7 isle unit s)
def execMul (isle unit : Nat) (s : State) : Host.Outcome State Fault Refusal := .next (issueSeal 8 isle unit s)
def execRelin (isle unit : Nat) (s : State) : Host.Outcome State Fault Refusal := .next (issueSeal 9 isle unit s)
def execRotate (isle unit : Nat) (s : State) : Host.Outcome State Fault Refusal := .next (issueSeal 10 isle unit s)
def execRescale (isle unit : Nat) (s : State) : Host.Outcome State Fault Refusal := .next (issueSeal 11 isle unit s)
def execDrop (isle unit : Nat) (s : State) : Host.Outcome State Fault Refusal := .next (issueSeal 12 isle unit s)
def execEncode (isle unit : Nat) (s : State) : Host.Outcome State Fault Refusal := .next (issueSeal 13 isle unit s)

/-! ## SEAL_JOB_ADMIT (R434, R438) -/

/-- The unit's task that a queued task stands for still runs. -/
def sealLive (s : State) (t : SealTask) : Bool :=
  (unitOf s t.isle t.unit).running.any fun x => x.id == t.task && x.prog == t.prog && x.inv == t.inv && x.phase == t.phase && x.busy

def sealSite (s : State) (t : SealTask) : Site :=
  { k := t.isle, u := t.unit, h := t.unit / 64, core := (coreOf s t.isle t.unit).getD 0, prog := t.prog, inv := t.inv }

/-- The operation as its headers stand, once it has begun as its checks found them; none where its parameter set is not set. -/
def sealOp (s : State) (t : SealTask) : Option SealOp :=
  let d := sealOf t.desc
  (aGet (s.isle t.isle).sealed.psets d.pset).map fun p =>
    let w := sealSite s t
    let head := fun (kept : Bytes) a => sealHdr (if t.started then kept else readBytes s w.k w.h a 64)
    { d := d, p := p, ha := if sealHasA d.op then head t.headA d.a else {}, hb := if sealHasB d.op then head t.headB d.b else {} }

def mapSeal (rau : Nat) (t : SealTask) (f : SealTask → SealTask) (s : State) : State :=
  s.mapRau rau fun r => { r with queue := r.queue.map fun x =>
    if x.isle = t.isle ∧ x.unit = t.unit ∧ x.task = t.task ∧ x.prog = t.prog ∧ x.inv = t.inv ∧ x.phase = t.phase then f x else x }

/-- The first queued task of an isle. -/
def firstOf (r : Rau) (k : Nat) : Option SealTask := r.queue.find? fun t => t.isle == k

/-- Whose turn it is at an RAU: the sub-slot's owner, or among the elastic isles the next after the one served last. -/
def rauTurn (s : State) (r : Rau) : Option SealTask :=
  let owner := (subslotAt s).1
  if owner ≠ 255 then firstOf r owner else
  let start := match r.lastIsle with | some k => k + 1 | none => 0
  ((List.range 32).map fun i => (start + i) % 32).findSome? fun k => if fixedShare s k then none else firstOf r k

/-- The header checks of a task at the front; then its plan. -/
def startSeal (rau : Nat) (t : SealTask) (s : State) : State :=
  match sealOp s t with
  | none => failSeal rau t none (statusCode .eBadarg) 0 s
  | some o =>
    let w := sealSite s t
    match sealChecks o s w with
    | some (1, st) => failSeal rau t none st 0 s
    | some (_, st) => failSeal rau t (some o) st 0 s
    | none =>
      let (a, b, out) := o.ranges
      if !([a, b, out].all fun r => w.ok s r.1 r.2) then
        match (unitOf s t.isle t.unit).running.find? fun x => x.id == t.task with
        | some x => taskFault t.isle t.unit x 2 (s.mapRau rau fun r => { r with queue := r.queue.filter fun y => !(y.unit == t.unit && y.isle == t.isle && y.task == t.task) })
        | none => s
      else
        let lines := readPoison s t.isle (o.reads s w)
        if !lines.isEmpty then failSeal rau t (some o) (statusCode .ePoison) 0 (poisonInv t.isle t.prog t.inv lines s)
        else mapSeal rau t (fun x => { x with
          started := true, plan := o.plan, headA := readBytes s w.k w.h o.d.a 64, headB := readBytes s w.k w.h o.d.b 64 }) s

/-- A job that fits the sub-slot is admitted. -/
def admitJob (rau : Nat) (t : SealTask) (s : State) : State :=
  match t.plan with
  | [] => s
  | job :: rest =>
    if (subslotAt s).2 < tideNow s + job.bound + 25 then s else
    mapSeal rau t (fun x => { x with plan := rest, admitted := some (tideNow s), job := some job })
      (s.mapRau rau fun r => { r with lastIsle := some t.isle })

/-- What an RAU may serve: after a fatal fault only a task that has begun (R454). -/
def runnable (s : State) (r : Rau) : Rau := if s.halt.isSome then { r with queue := r.queue.filter fun t => t.started } else r

def execSealJobAdmit (rau : Nat) (s : State) : Host.Outcome State Fault Refusal :=
  if 4 ≤ rau ∨ !pastReady s then .next s else
  let s := s.mapRau rau fun r => { r with queue := r.queue.filter (sealLive s) }
  match (if unitState s 5 rau = 2 then (s.rau rau).queue.find? fun t => !t.started else none) with
  -- no RAU is in service: a task that waits ends with E_FAULT (R441)
  | some t => .next (failSeal rau t none (statusCode .eFault) 0 s)
  | none =>
  if !counting s || (s.rau rau).queue.any (fun t => t.admitted.isSome) then .next s else
  match rauTurn s (runnable s (s.rau rau)) with
  | none => .next s
  | some t =>
    if t.started then .next (admitJob rau t s) else
    let s := startSeal rau t s
    match (s.rau rau).queue.find? fun x => x.isle == t.isle && x.unit == t.unit && x.task == t.task with
    | none => .next s
    | some t => .next (if t.started then admitJob rau t s else s)

/-! ## SEAL_JOB_END (R440) -/

def countChecks (k : Nat) (s : State) : State :=
  s.mapIsle k fun r => { r with sealed := { r.sealed with checks := sat32 (r.sealed.checks + 1) } }

/-- What the rest of OUT's body holds after an operation that a job stopped is not specified (R440): free bytes of the operands. -/
def scribbleBody (t : SealTask) (o : SealOp) (s : State) : State :=
  let (_, _, out) := o.ranges
  let x := sealKeyOf t s ++ natLe 8 t.ended
  writeBytes t.isle (t.unit / 64) (out.1 + 64) ((List.range (out.2 - 64)).map fun i => Config.sealByte x i) s

/-- The output halves differ: the operation stops, the fault is recorded and told, and the fourth within an hour retires the RAU. -/
def sealMismatch (rau : Nat) (t : SealTask) (o : Option SealOp) (s : State) : State :=
  let d := sealOf t.desc
  let s := match o with | some o => scribbleBody t o s | none => s
  let s := countChecks t.isle (failSeal rau t o (statusCode .eSealCheck) (t.ended + 1) s)
  let s := recordFault dSeal 0 0 { isle := t.isle, unit := rau, phys := d.op + 256 * t.ended, prog := d.op + 256 * t.ended,
                                   info := dTaskId t.desc } [t.isle] s
  let s := postEvent t.isle .eSealCheck 0 14 t.prog rau (dTaskId t.desc) s
  let now := s.clk.ticks
  let recent := ((s.rau rau).mismatches.filter fun x => decide (now < x + 360000000000)) ++ [now]
  let s := s.mapRau rau fun r => { r with mismatches := recent }
  if recent.length < 4 then s else autoRetire 5 rau s

/-- R437, R440: at its bound a job has read its operands and writes its results; a poisoned line or a residue at or above its prime stops the
operation, and the last job ends it. t counts the job as ended. -/
def runJob (rau : Nat) (t : SealTask) (job : SealJob) (s : State) : State :=
  match sealOp s t with
  | none => failSeal rau t none (statusCode .eBadarg) t.ended s
  | some o =>
    let w := sealSite s t
    let lines := readPoison s t.isle (o.jobSpans s w job.work)
    if !lines.isEmpty then failSeal rau t (some o) (statusCode .ePoison) t.ended (poisonInv t.isle t.prog t.inv lines s) else
    match (if o.jobOk s w t job.work then o.jobResults s w t job.work else none) with
    | none => failSeal rau t (some o) (statusCode .eBadarg) t.ended (scribbleBody t o s)
    | some rs =>
      let s := rs.foldl (o.store w) s
      if t.plan.isEmpty then endSeal rau t (settleDepth o o.result) 0 t.ended s
      else mapSeal rau t (fun x => { x with temps := rs.foldl (keepTemps o.n) x.temps }) s

/-- A job's bound has elapsed: exactly then where the isle owns the sub-slot, then or later in an elastic one. -/
def execSealJobEnd (rau : Nat) (mismatch : Bool) (s : State) : Host.Outcome State Fault Refusal :=
  match (s.rau rau).queue.find? fun t => t.admitted.isSome with
  | none => .next s
  | some t =>
    if !pastReady s then .next s else
    let job := t.job.getD { bound := 0, work := .encode 0 }
    let due := t.admitted.getD 0 + job.bound
    let s := if tideNow s < due then advanceCount due s else s
    let s := s.mapIsle t.isle fun r => { r with sealed := { r.sealed with jobs := sat32 (r.sealed.jobs + 1) } }
    let s := addPressure t.isle (fun p => { p with rau := p.rau + job.bound }) s
    if !sealLive s t then .next (s.mapRau rau fun r => { r with queue := r.queue.filter fun x => x.admitted.isNone })
    else if mismatch then .next (sealMismatch rau t (sealOp s t) s)
    else
      let t' := { t with ended := t.ended + 1, admitted := none, job := none }
      .next (runJob rau t' job (mapSeal rau t (fun _ => t') s))

/-! ## Commands (Table 17.10) -/

/-- The parameter set object in host memory (Table 17.1). -/
def psetAt (s : State) (fn a : Nat) : Pset × Bool :=
  let h := hostRead s fn a 16
  let l := fieldB h 5 1
  let k := fieldB h 6 1
  let b := hostRead s fn (a + 16) (8 * (l + k))
  ({ nLog2 := fieldB h 4 1, l := l, k := k, dnum := fieldB h 7 1, primes := (List.range (l + k)).map fun i => fieldB b (8 * i) 8 },
   fieldB h 0 4 == 0x50534753 && zeroB h 8 8)

/-- R426. -/
def psetOk (p : Pset) : Bool :=
  decide (12 ≤ p.nLog2) && decide (p.nLog2 ≤ 16) && p.l != 0 && decide (p.l + p.k ≤ 48) &&
  ((p.k == 0 && p.dnum == 0) || (decide (1 ≤ p.dnum) && decide (p.dnum ≤ p.l) && decide (1 ≤ p.k))) &&
  (p.primes.all fun q => decide (q < 2 ^ 60) && q % (2 * 2 ^ p.nLog2) == 1 && isPrime64 q) && p.primes.eraseDups.length == p.primes.length

def sealedOf (s : State) (fn : Nat) : Seal := (s.isle (isleOf fn)).sealed

def mapSealed (k : Nat) (f : Seal → Seal) (s : State) : State := s.mapIsle k fun r => { r with sealed := f r.sealed }

def runSealPsetSet (fn : Nat) (c : Cmd) (tide : Nat) (s : State) : State := withHost fn c tide (fun s =>
  let i := fieldB c.payload 0 1
  let s := hostTouch fn (fieldB c.payload 8 8) 400 s
  let (p, ok) := psetAt s fn (fieldB c.payload 8 8)
  if !(ok && psetOk p) then finishAt tide fn c.seq .eBadarg 0 {} s else
  finishAt tide fn c.seq .sOk 0 { w0 := 2 ^ p.nLog2, w1 := p.l, w2 := p.k }
    (mapSealed (isleOf fn) (fun x => { x with psets := aSet i p x.psets }) s)) s

def specSealPsetSet : CmdSpec :=
  { opcode := 0x0A00, plen := plenIs 16,
    args := fun _ _ c => decide (fieldB c.payload 0 1 ≤ 7) && zeroB c.payload 1 7 && fieldB c.payload 8 8 % 64 == 0,
    pre := fun s fn c => if (sealedOf s fn).keys.any fun e => e.2.pset == fieldB c.payload 0 1 then some (.eState, 0) else none,
    memUse := true, boundary := true, data := fun _ => true, run := runSealPsetSet }

def keyRegion (c : Cmd) : Nat × Nat := (fieldB c.payload 16 8, fieldB c.payload 24 8)

/-- R429 at the boundary: the copy from host memory begins. -/
def runSealKeyLoad (fn : Nat) (c : Cmd) (tide : Nat) (s : State) : State := pendAt tide fn c.seq s

def specSealKeyLoad : CmdSpec :=
  { opcode := 0x0A01, plen := plenIs 32,
    auth := fun s fn c =>
      let r := keyRegion c
      (spaceOf r.1 == 2 || spaceOf r.1 == 3) && rangeOk s (isleOf fn) (cmdView s c) none r.1 r.2 && !inPool (s.isle (isleOf fn)) (cmdView s c) r.1 r.2 &&
        !inSealed s (isleOf fn) (cmdView s c) r.1 r.2,
    args := fun _ _ c => decide (fieldB c.payload 0 1 ≤ 63) && zeroB c.payload 1 7 && (keyRegion c).1 % 4096 == 0 && decide (64 ≤ (keyRegion c).2),
    pre := fun s fn c =>
      let r := keyRegion c
      if (aGet (sealedOf s fn).keys (fieldB c.payload 0 1)).isSome || !isResident (s.isle (isleOf fn)) (cmdView s c) r.1 r.2 then some (.eState, 0) else none,
    memUse := true, boundary := true, data := fun _ => true, handle := fun p => some (7, fieldB p 0 1), run := runSealKeyLoad }

/-- The key object is valid (R429): size, MAGIC, KIND, AUTO and residues, under its parameter set. -/
def keyObjOk (x : Seal) (b : Bytes) : Bool :=
  match aGet x.psets (fieldB b 5 1) with
  | none => false
  | some p =>
    let n := 2 ^ p.nLog2
    let lk := p.l + p.k
    let auto := fieldB b 8 4
    p.k != 0 && b.length == 64 + p.dnum * 2 * lk * (8 * n) && fieldB b 0 4 == 0x594B4553 && zeroB b 6 2 && zeroB b 16 48 && fieldB b 12 4 != 0 &&
    (if fieldB b 4 1 = 0 then auto == 0 else fieldB b 4 1 == 1 && auto % 2 == 1 && decide (3 ≤ auto) && decide (auto < 2 * n)) &&
    (List.range (p.dnum * 2 * lk)).all fun i =>
      let q := p.primes.getD (i % lk) 0
      (List.range n).all fun j => decide (fieldB b (64 + (i * n + j) * 8) 8 < q)

/-- The object has been copied: it is registered, and its region is sealed. -/
def sealKeyLoadDone (fn : Nat) (c : Cmd) (ok : Bool) (s : State) : State :=
  if !ok then hostFails fn c s else
  let k := isleOf fn
  let (a, n) := keyRegion c
  let s := hostTouch fn (fieldB c.payload 8 8) n s
  let b := hostRead s fn (fieldB c.payload 8 8) n
  if !keyObjOk (s.isle k).sealed b then finish fn c.seq .eBadarg 0 {} s else
  let e : SealKey := { base := a, len := n, view := cmdView s c, kind := fieldB b 4 1, pset := fieldB b 5 1, auto := fieldB b 8 4, keyId := fieldB b 12 4 }
  let s := writeBytes k (cmdView s c) a b s
  finish fn c.seq .sOk 0 (w64 (leNat ((sha384 b).take 8)))
    (mapSealed k (fun x => { x with keys := aSet (fieldB c.payload 0 1) e x.keys }) s)

/-- R430: the region is zeroed and unsealed, the entry freed. -/
def runSealKeyDrop (fn : Nat) (c : Cmd) (tide : Nat) (s : State) : State :=
  finishAt tide fn c.seq .sOk 0 {} (dropKey (isleOf fn) (fieldB c.payload 0 1) s)

def specSealKeyDrop : CmdSpec :=
  { opcode := 0x0A02, plen := plenIs 8,
    auth := fun s fn c => (aGet (sealedOf s fn).keys (fieldB c.payload 0 1)).isSome,
    args := fun _ _ c => decide (fieldB c.payload 0 1 ≤ 63) && zeroB c.payload 1 7,
    memUse := true, boundary := true, data := fun _ => true, handle := fun p => some (7, fieldB p 0 1), run := runSealKeyDrop }

def runSealQuery (fn : Nat) (c : Cmd) (tide : Nat) (s : State) : State :=
  let x := sealedOf s fn
  if fieldB c.payload 0 1 = 0 then
    finishAt tide fn c.seq .sOk 0 { w0 := natMask (x.psets.map fun p => p.1), w1 := x.keys.length, w2 := x.jobs, w3 := x.checks }
      (mapSealed (isleOf fn) (fun x => { x with jobs := 0, checks := 0 }) s)
  else
    match aGet x.keys (fieldB c.payload 1 1) with
    | none => finishAt tide fn c.seq .eDenied 0 {} s
    | some e => finishAt tide fn c.seq .sOk 0 { w0 := e.keyId, w1 := e.kind + e.pset * 256, w2 := e.auto, w3 := ceilDiv e.len 1048576 } s

def specSealQuery : CmdSpec :=
  { opcode := 0x0A03, plen := plenIs 8,
    auth := fun s fn c => fieldB c.payload 0 1 != 1 || (aGet (sealedOf s fn).keys (fieldB c.payload 1 1)).isSome,
    args := fun _ _ c => decide (fieldB c.payload 0 1 ≤ 1) && decide (fieldB c.payload 1 1 ≤ 63) && zeroB c.payload 2 6, run := runSealQuery }

end Sys2Proof.Machine
end

