-- ==== Sys2Proof/Machine/Replay.lean ====
section
/-! DEFINITION. The score tap's commands (Table 11.7), determinism, record and replay (Table 14.8), and the pressure query (R469). -/

namespace Sys2Proof.Machine

/-! ## Taps (R275, R276, R279) -/

def tapBytes (qn kn : Nat) : Nat := (qn + 17) * (4 * kn + 8)

/-- The tap a TAP_ARM asks for. -/
def tapRec (s : State) (c : Cmd) : Tap :=
  let p := c.payload
  { state := .armed, seq := fieldB p 0 4, layer := fieldB p 4 2, head := fieldB p 6 2, qf := fieldB p 8 4, qn := fieldB p 12 2,
    raw := (byteAt p 14).testBit 0, kf := fieldB p 16 4, kn := fieldB p 20 2, base := fieldB p 24 8, view := cmdView s c }

def tapArmAuth (s : State) (fn : Nat) (c : Cmd) : Bool :=
  let t := tapRec s c
  (seqOf s (isleOf fn) t.seq).isSome && rangeOk s (isleOf fn) t.view (some 0) t.base (tapBytes t.qn t.kn)

def tapArmArgs (s : State) (_ : Nat) (c : Cmd) : Bool :=
  let t := tapRec s c
  decide (1 ≤ t.qn) && decide (t.qn ≤ 4096) && decide (1 ≤ t.kn) && decide (t.kn ≤ 16384) && decide (byteAt c.payload 14 ≤ 1) &&
  zeroB c.payload 15 1 && zeroB c.payload 22 2 && (spaceOf t.base == 2 || spaceOf t.base == 3)

/-- Its region is not resident, or an armed tap of the same sequence, layer and head has an overlapping range. -/
def tapArmPre (s : State) (fn : Nat) (c : Cmd) : Option (Status × Nat) :=
  let t := tapRec s c
  let r := s.isle (isleOf fn)
  if !isResident r t.view t.base (tapBytes t.qn t.kn) ||
    r.taps.any (fun x => x.state == .armed && x.seq == t.seq && x.layer == t.layer && x.head == t.head && meets x.qf x.qn t.qf t.qn)
  then some (.eState, 0) else none

def runTapArm (fn : Nat) (c : Cmd) (tide : Nat) (s : State) : State :=
  let k := isleOf fn
  match (List.range 8).find? fun i => ((s.isle k).taps.getD i {}).state == .free with
  | none => finishAt tide fn c.seq .eNores 0 {} s
  | some i => finishAt tide fn c.seq .sOk 0 { w0 := i } (s.mapIsle k fun r => { r with taps := setAt r.taps i fun _ => tapRec s c })

def specTapArm : CmdSpec :=
  { opcode := 0x0410, plen := plenIs 32, auth := tapArmAuth, args := tapArmArgs, pre := tapArmPre, memUse := true, boundary := true,
    data := fun _ => true, handle := fun p => some (5, fieldB p 0 4), run := runTapArm }

def tapId (c : Cmd) : Nat := fieldB c.payload 0 4
def tapAuth (_ : State) (_ : Nat) (c : Cmd) : Bool := decide (tapId c < 8)

/-- An armed entry ends with its event; closed, it is FREE. -/
def runTapClose (fn : Nat) (c : Cmd) (tide : Nat) (s : State) : State :=
  let k := isleOf fn
  let i := tapId c
  let s := finishAt tide fn c.seq .sOk 0 {} s
  let s := if ((s.isle k).taps.getD i {}).state = .armed then tapDone k i tide s else s
  s.mapIsle k fun r => { r with taps := setAt r.taps i fun _ => {} }

def specTapClose : CmdSpec :=
  { opcode := 0x0411, plen := plenIs 8, auth := tapAuth, args := fun _ _ c => zeroB c.payload 4 4,
    pre := fun s fn c => if ((s.isle (isleOf fn)).taps.getD (tapId c) {}).state = .free then some (.eState, 0) else none,
    boundary := true, data := fun _ => true, handle := fun p => some (2, fieldB p 0 4), run := runTapClose }

def tapStateCode : TapState → Nat
  | .free => 0 | .armed => 1 | .done => 2

def runTapQuery (fn : Nat) (c : Cmd) (tide : Nat) (s : State) : State :=
  let t := (s.isle (isleOf fn)).taps.getD (tapId c) {}
  finishAt tide fn c.seq .sOk 0 { w0 := tapStateCode t.state, w1 := t.captured.length, w2 := t.missed.length } s

def specTapQuery : CmdSpec :=
  { opcode := 0x0412, plen := plenIs 8, auth := tapAuth, args := fun _ _ c => zeroB c.payload 4 4,
    handle := fun p => some (2, fieldB p 0 4), run := runTapQuery }

/-! ## Log sessions (R359, R360) -/

/-- What stands in a stream's bound field while it carries a log. -/
def logBound : Nat := 0xFFFFFFFF

def portCode (s : State) (p : Nat) : Nat :=
  match (s.port p).state with | .active => 0 | .detoured => 1 | .cut => 2 | _ => 3

/-- Table 14.5; how the allocation tables and views stand in the bytes that the CRC covers is not stated, and free. -/
def sessionBody (s : State) (k : Nat) (l : LogSession) : Bytes :=
  let r := s.isle k
  let crc := crc64 (Config.tableBytes (hostedShards s :: r.lagUnits :: r.tableFrames :: r.extents ++ r.frames ++ r.slotMap.flatten))
  natLe 8 s.fw.build ++ natLe 4 s.fw.ifVersion ++ natLe 1 s.fuses.stepping ++ natLe 1 s.fuses.grade ++ natLe 1 (chipId s) ++
   natLe 1 (b2n l.complete + 2 * b2n l.frames + 4 * b2n l.digests + 8 * b2n (s.isle k).replay.isSome + 16 * b2n (fixedShare s k) +
     32 * b2n (s.isle k).strict) ++
   natLe 2 (memberMask s) ++ natLe 2 (natMask (hostedShards s)) ++ natLe 4 s.tide.epochLen ++ natLe 8 l.b0 ++ natLe 1 s.boot.bin ++
   natLe 1 s.units.withdrawn ++ natLe 2 (pcsInService s) ++ natLe 4 ((List.range 15).map fun p => portCode s p * 4 ^ p).sum ++
   natLe 1 (natMask ((List.range 4).filter fun r => unitServes s 5 r)) ++ natLe 7 0 ++ natLe 8 (devCoreMap s k) ++ natLe 8 crc

def runReplayLogSet (fn : Nat) (c : Cmd) (tide : Nat) (s : State) : State :=
  let k := isleOf fn
  let f := byteAt c.payload 4
  let l : LogSession := { stream := fieldB c.payload 0 4, b0 := tide, epoch := s.tide.epochLen, frames := f.testBit 0, digests := f.testBit 1, complete := (s.isle k).pristine }
  let body := sessionBody s k l
  let s := (mapStream k l.stream (fun x => { x with bound := some logBound }) s).mapIsle k fun r => { r with log := some l }
  let w := w64 tide
  finishAt tide fn c.seq .sOk 0 { w0 := b2n l.complete, w1 := w.w0, w2 := w.w1 } (logRec k 1 0xFF tide body s)

def specReplayLogSet : CmdSpec :=
  { opcode := 0x0700, plen := plenIs 8,
    auth := fun s fn c => (aGet (s.isle (isleOf fn)).streams (fieldB c.payload 0 4)).isSome,
    args := fun s fn c => decide (byteAt c.payload 4 < 4) && zeroB c.payload 5 3 &&
      (match aGet (s.isle (isleOf fn)).streams (fieldB c.payload 0 4) with | some x => decide (8 ≤ x.slotLog2) || !x.dirOut | none => true),
    pre := fun s fn c =>
      let r := s.isle (isleOf fn)
      if r.log.isSome || (match aGet r.streams (fieldB c.payload 0 4) with | some x => x.bound.isSome || !x.dirOut | none => true)
      then some (.eState, 0) else none,
    memUse := true, boundary := true, handle := fun p => some (4, fieldB p 0 4), run := runReplayLogSet }

/-- The session ends with an END record of reason 0; its stream is free once that is written (Boundary.lean). -/
def runReplayLogStop (fn : Nat) (c : Cmd) (tide : Nat) (s : State) : State :=
  let k := isleOf fn
  let n := match (s.isle k).log with | some l => l.seqno + l.recs.length + l.cmds.length + 1 | none => 0
  finishAt tide fn c.seq .sOk 0 { w0 := n }
    (s.mapIsle k fun r => { r with log := r.log.map fun l => { l with ending := some 0 } })

def specReplayLogStop : CmdSpec :=
  { opcode := 0x0701, plen := plenIs 0,
    pre := fun s fn _ => match (s.isle (isleOf fn)).log with | some l => if l.ending.isSome then some (.eState, 0) else none | none => some (.eState, 0),
    boundary := true, run := runReplayLogStop }

/-! ## Replay (R363 to R365) -/

/-- A replay of the isle is agreed and waits for its T. -/
def replayAgreed (s : State) (k : Nat) : Bool :=
  s.tide.agreed.any fun a => match a.act with | .replayStart i _ _ => i == k && a.src == chipId s | _ => false

def runReplayStart (fn : Nat) (c : Cmd) (tide : Nat) (s : State) : State :=
  propose (earliestT s (tideNow s)) (.replayStart (isleOf fn) (fieldB c.payload 0 8) (fieldB c.payload 8 2)) (some (fn, c.seq)) (pendAt tide fn c.seq s)

def specReplayStart : CmdSpec :=
  { opcode := 0x0702, plen := plenIs 16,
    args := fun s _ c => zeroB c.payload 10 6 && (maskBits (fieldB c.payload 8 2) 16).all fun j => (memberMask s).testBit j,
    pre := fun s fn _ =>
      let r := s.isle (isleOf fn)
      if r.replay.isSome || !r.pristine || replayAgreed s (isleOf fn) then some (.eState, 0) else none,
    memUse := true, peerMark := true,
    peer := fun s _ p => !((maskBits (fieldB p 8 2) 16).filter fun j => j != chipId s).isEmpty, run := runReplayStart }

/-- R363, R364: an isle may not start a replay when it is in one, when one is agreed, or when it has run a data-affecting command since its
last scrub. -/
def replayBarred (s : State) (k : Nat) : Bool :=
  (s.isle k).replay.isSome || !(s.isle k).pristine || s.tide.agreed.any fun a => match a.act with | .replayStart i _ _ => i == k | _ => false

/-- R364 at T. -/
def applyReplayStart (k b0 t : Nat) (s : State) : State :=
  let r := replayStartAt s t b0
  s.mapIsle k fun x => { x with replay := some { b0 := b0, start := r.1, matched := r.2 } }

def replayPre (s : State) (fn : Nat) (_ : Cmd) : Option (Status × Nat) :=
  if (s.isle (isleOf fn)).replay.isNone then some (.eState, 0) else none

def runReplayAdvance (fn : Nat) (c : Cmd) (tide : Nat) (s : State) : State :=
  let k := isleOf fn
  let h := fieldB c.payload 0 4
  match (s.isle k).replay with
  | none => finishAt tide fn c.seq .eState 0 {} s
  | some m =>
    finishAt tide fn c.seq .sOk 0 { w0 := m.index }
      (s.mapIsle k fun r => { r with replay := some { m with horizon := if h < m.index then m.horizon else h } })

def specReplayAdvance : CmdSpec :=
  { opcode := 0x0703, plen := plenIs 8, args := fun _ _ c => zeroB c.payload 4 4, pre := replayPre, run := runReplayAdvance }

def runReplayStop (fn : Nat) (c : Cmd) (tide : Nat) (s : State) : State :=
  finishAt tide fn c.seq .sOk 0 {} (s.mapIsle (isleOf fn) fun r =>
    { r with replay := none, seqs := r.seqs.map fun q => (q.1, { q.2 with late := false, lateOn := false }) })

def specReplayStop : CmdSpec := { opcode := 0x0704, plen := plenIs 0, pre := replayPre, boundary := true, run := runReplayStop }

/-- The relative index of the replay, or of the log session at the last boundary; with neither, and for a horizon outside replay, the
spec states no value: free values. -/
def runDetQuery (fn : Nat) (c : Cmd) (tide : Nat) (s : State) : State :=
  let k := isleOf fn
  let r := s.isle k
  let (a, s) := drawNat s
  let (b, s) := drawNat s
  let last := s.tide.nextB - s.tide.epochLen
  let idx := match r.replay, r.log with
    | some m, _ => m.index
    | none, some l => relIndex s k l last
    | none, none => a % 2 ^ 32
  let w : Words := { w0 := b2n r.log.isSome + 2 * b2n r.replay.isSome, w1 := idx,
                     w2 := (match r.replay with | some m => m.horizon | none => b % 2 ^ 32), w3 := r.timingInvalid }
  finishAt tide fn c.seq .sOk 0 w (s.mapIsle k fun r => { r with timingInvalid := 0 })

def specDetQuery : CmdSpec := { opcode := 0x0705, plen := plenIs 0, run := runDetQuery }

/-! ## SHARD_SELECT, DRAW_SET (R356, R358) -/

def runShardSelect (fn : Nat) (c : Cmd) (tide : Nat) (s : State) : State :=
  finishAt tide fn c.seq .sOk 0 {} (s.mapFunc fn fun f => { f with view := byteAt c.payload 0 })

def specShardSelect : CmdSpec :=
  { opcode := 0x0706, plen := plenIs 8, auth := fun s _ c => (hostedShards s).contains (byteAt c.payload 0),
    args := fun _ _ c => zeroB c.payload 1 7, run := runShardSelect }

def drawRec (c : Cmd) : Draw := { nodes := byteAt c.payload 4, draws := byteAt c.payload 5, base := fieldB c.payload 8 8 }

/-- Bytes of all draw tables of a program. -/
def drawLen (g : Prog) (d : Draw) : Nat := imgPhases g.image * ((g.batch.map fun b => b.eCap).getD 0) * d.nodes * d.draws * 16

def drawAuth (s : State) (fn : Nat) (c : Cmd) : Bool :=
  progAuth s fn c && (List.range (hostedCount s)).all fun h => rangeOk s (isleOf fn) h none (drawRec c).base (drawLen (progOf s fn c) (drawRec c))

def drawPre (s : State) (fn : Nat) (c : Cmd) : Option (Status × Nat) :=
  let k := isleOf fn
  let g := progOf s fn c
  let d := drawRec c
  let n := drawLen g d
  if g.state == .running || (n != 0 && !isResident (s.isle k) (cmdView s c) d.base n) ||
    decide (workWindow s.tide.epochLen < progTicks { g with draw := some d } (execCores s k).length (hostedCount s))
  then some (.eState, 0) else none

def runDrawSet (fn : Nat) (c : Cmd) (tide : Nat) (s : State) : State :=
  let k := isleOf fn
  let g := progOf s fn c
  let d := drawRec c
  let new := (List.range (hostedCount s)).map fun h => (h, d.base, drawLen g d)
  finishAt tide fn c.seq .sOk 0 {} (mapProg k (handleArg c) (fun g => { g with draw := some d, regions := g.regions ++ new }) s)

def specDrawSet : CmdSpec :=
  { opcode := 0x0707, plen := plenIs 24, auth := drawAuth,
    args := fun _ _ c => let d := drawRec c; decide (1 ≤ d.nodes) && decide (d.nodes ≤ 17) && decide (1 ≤ d.draws) && decide (d.draws ≤ 16) &&
      zeroB c.payload 6 2 && zeroB c.payload 16 8,
    pre := drawPre, memUse := true, boundary := true, data := fun _ => true, handle := fun p => some (1, fieldB p 0 4), run := runDrawSet }

/-! ## PRESSURE_QUERY (R469, Table 19.7) -/

/-- Ticks in which an isle's RAU jobs are admissible in one epoch (R438). -/
def rauTicks (s : State) (k : Nat) : Nat :=
  let mine := if fixedShare s k then popCount (ownedSubslots s k) 16 else (s.subslots.filter fun o => o == 255).length
  mine * (s.tide.epochLen / 16 - 25)

def perMille (a b : Nat) : Nat := if b = 0 then 0 else min 65535 (a * 1000 / b)

def pressureWords (s : State) (k sel : Nat) : Words × State :=
  let r := s.isle k
  let recs := (r.pressure.drop 1).take 1024
  let n := recs.length
  let sum := fun (f : Pressure → Nat) => (recs.map f).sum
  if sel = 0 then
    let cap := (execCores s k).length * 12 * workWindow s.tide.epochLen * n
    let (a, s) := drawNat s
    let (b, s) := drawNat s
    let (d, s) := drawNat s
    ({ w0 := perMille (sum fun p => p.mat) cap + perMille (sum fun p => p.att) cap * 65536, w1 := a % 2 ^ 32,
       w2 := b % 65536 + perMille (sum fun p => p.rau) (4 * rauTicks s k * n) * 65536, w3 := d % 2 ^ 32 }, s)
  else
    ({ w0 := sat32 (sum fun p => p.late), w1 := recs.foldl (fun m p => max m p.wait) 0,
       w2 := sat32 ((r.progs.map fun g => activeCount r g.1).sum),
       w3 := (s.unparkQ.filter fun u => u.1 == k &&
         (match aGet r.seqs u.2 with | some q => q.home && admissionFull r q.prog | none => false)).length }, s)

def runPressureQuery (fn : Nat) (c : Cmd) (tide : Nat) (s : State) : State :=
  let (w, s) := pressureWords s (isleOf fn) (byteAt c.payload 0)
  finishAt tide fn c.seq .sOk 0 w s

def specPressureQuery : CmdSpec :=
  { opcode := 0x020A, plen := plenIs 8, args := fun _ _ c => decide (byteAt c.payload 0 ≤ 1) && zeroB c.payload 1 7, run := runPressureQuery }

end Sys2Proof.Machine
end

