-- ==== Sys2Proof/Machine/Cay.lean ====
section
/-! DEFINITION. Chapter 8: the cay slots' bring-up, authentication, governor, losses, migration, and the CART commands
(R179 to R205, with R45, R93, R94 and R417). -/

namespace Sys2Proof.Machine

/-! ## The governor (R190 to R194) -/

/-- Seconds of a clock that was right at a tide count, now. -/
def clockAt (s : State) (c : Nat × Nat) : Nat := c.1 + (tideNow s - c.2) / 100000000

/-- R191: the governor's clock of a slot; it never runs backward. -/
def governorClock (s : State) (i : Nat) : Nat :=
  max (clockAt s (s.caySlot i).clock) (match s.utc with | some u => clockAt s u | none => 0)

def lifeDate (s : State) (i : Nat) : Nat := match (s.caySlot i).pairing with | some p => p.lifeDate | none => 0

/-- R192: the governed rate. -/
def governedRate (s : State) (i : Nat) : Nat :=
  let c := s.caySlot i
  (c.info.rated * 1000000000000 - writtenBytes c) / max (lifeDate s i * 86400 - governorClock s i) 2592000

/-- Table 8.3. -/
def recordBytes (p : PairRecord) : Bytes :=
  natBe 48 p.chip ++ natBe 48 p.cart ++ natLe 8 p.certSlot ++ natLe 8 p.rated ++ natLe 8 p.lifeDate ++ natLe 8 p.checkUtc ++ natLe 8 p.checkWritten

def parseRecord (b : Bytes) : PairRecord :=
  { chip := beNat (sliceB b 0 48), cart := beNat (sliceB b 48 48), certSlot := fieldB b 96 1, rated := fieldB b 104 8,
    lifeDate := fieldB b 112 4, checkUtc := fieldB b 120 8, checkWritten := fieldB b 128 8 }

/-- Table 16.10: LBA 0 with a record under KP. -/
def envelope (kp iv : Bytes) (p : PairRecord) : Bytes :=
  let h := natLe 4 0x52504744 ++ natLe 4 1
  let x := gcmSeal kp iv h (recordBytes p)
  h ++ iv ++ x.1 ++ x.2 ++ List.replicate 3924 0

/-- The record of an LBA 0 whose envelope opens under KP. -/
def openEnvelope (kp b : Bytes) : Option PairRecord :=
  if fieldB b 0 4 = 0x52504744 ∧ fieldB b 4 4 = 1 then
    (gcmOpen kp (sliceB b 8 12) (b.take 8) (sliceB b 20 136) (sliceB b 156 16)).map parseRecord
  else none

/-- R192, R417: the record goes to the pairing area with CHECK_UTC and CHECK_WRITTEN of now, in an envelope with a fresh IV. -/
def writeRecord (i : Nat) (iv : Bytes) (s : State) : State :=
  match keyOf s .pairing, (s.caySlot i).pairing with
  | some kp, some p =>
    let p := { p with checkUtc := governorClock s i, checkWritten := (s.caySlot i).smart.duWritten }
    (s.mapCay i fun c => { c with checkDue := false, sinceRead := c.sinceRead + 4096, pairing := some p }).emit
      (.cart i 1 (natsOf (envelope kp iv p)))
  | _, _ => s

/-- A checkpoint's write, deferred while the entropy service has no IV for it (R417, R419). -/
def writeCheck (i : Nat) (s : State) : State :=
  if s.ent.state = .running ∨ (s.ent.state = .restarting ∧ s.ent.queue.isEmpty ∧ 12 ≤ s.ent.buffer.length) then
    writeRecord i (natLe 12 (drawEntropy 12 s).1) (drawEntropy 12 s).2
  else s.mapCay i fun c => { c with checkDue := true }

/-- R194: what wears a slot out. -/
def worn (c : CaySlot) : Bool :=
  decide (c.info.rated * 1000000000000 ≤ writtenBytes c) || decide (100 ≤ c.smart.used) || c.smart.critical.testBit 0 || c.smart.critical.testBit 3

def wearCheck (i : Nat) (s : State) : State := if worn (s.caySlot i) then wearOut i s else s

/-- R192: a checkpoint of a slot that is served; CART_PAIR brings the IV of its write. -/
def checkpoint (i : Nat) (iv : Option Bytes) (s : State) : State :=
  let s := accrueBuckets i s
  let r := governedRate s i
  wearCheck i ((match iv with | some x => writeRecord i x | none => writeCheck i) (s.mapCay i fun c => { c with rg := r, checkTick := tideNow s }))

/-- R190: a checkpoint reads the health log first; the reading ends with CAY_HEALTH_READ. -/
def readForCheck (i : Nat) (s : State) : State :=
  if (s.caySlot i).reading then s else (s.mapCay i fun c => { c with reading := true }).emit (.cart i 5 [])

/-- A slot whose governor runs. -/
def governed (s : State) (i : Nat) : Bool :=
  let st := (s.caySlot i).state
  st == .online || st == .readOnly || st == .ejecting

def execGovernorCheckpoint (slot : Nat) (sm : Smart) (s : State) : Host.Outcome State Fault Refusal :=
  if !governed s slot then .next s else
  let s := advanceCount ((s.caySlot slot).checkTick + 360000000000) s
  .next (checkpoint slot none (s.mapCay slot fun c => { c with smart := sm, sinceRead := 0 }))

/-- R190: the health log has been read again. -/
def execCaySmartEvent (slot : Nat) (sm : Smart) (s : State) : Host.Outcome State Fault Refusal :=
  if !governed s slot then .next s else
  .next (wearCheck slot (s.mapCay slot fun c => { c with smart := sm, sinceRead := 0 }))

/-- R194: the clock passes LIFE_DATE; the rate goes on under the floor of R192. -/
def execLifeDatePassed (slot : Nat) (s : State) : Host.Outcome State Fault Refusal :=
  if !governed s slot || (faultWord s.faults dCay slot).testBit 9 then .next s else
  let s := advanceCount (tideNow s + (lifeDate s slot * 86400 - governorClock s slot) * 100000000) s
  .next (recordFault dCay slot 9 { unit := slot } [] s)

/-! ## Failures of a slot (R181, R187, R199, R200) -/

/-- Isles with an image on a slot. -/
def islesOnSlot (s : State) (i : Nat) : List Nat := (List.range 32).filter fun k => !(imagesOf s k i).isEmpty

/-- A sequence whose content a slot holds: PARKED there, or being read from it. One parked to tier one has only a shadow image there. -/
def contentOn (i : Nat) (q : Seq) : Bool :=
  ((q.state == .parked && !q.tierOnePark) || (q.state == .unparking && !q.unparkRead)) && (match q.image with | some m => m.slot == i | none => false)

/-- A park that writes to a slot. -/
def parksTo (i : Nat) (q : Seq) : Bool := q.state == .parking && (match q.parkImage with | some m => m.slot == i | none => false)

/-- Isles whose own pages a slot's failure affects (R205): those parked there, and those being parked to it or unparked from it. -/
def islesHit (s : State) (i : Nat) : List Nat :=
  (List.range 32).filter fun k => (s.isle k).seqs.any fun q => contentOn i q.2 || parksTo i q.2

/-- A CART_PAIR or CART_EJECT that waits for a slot ends. -/
def endPair (i : Nat) (st : Status) (w : Words) (s : State) : State :=
  match (s.caySlot i).pairCmd with
  | some seq => finish 0 seq st 0 w (s.mapCay i fun c => { c with pairCmd := none })
  | none => s

def endEject (i : Nat) (st : Status) (tide : Nat) (s : State) : State :=
  match (s.caySlot i).eject with
  | some e => finishAt tide 0 e.2 st 0 {} (s.mapCay i fun c => { c with eject := none, shutdown := false })
  | none => s

/-- CAY_PERST_N low now, CAY_PWR_EN released 10 µs later (R45). -/
def powerDown (i : Nat) (s : State) : State :=
  (s.mapPins fun p => { p with cayPerst := setAt p.cayPerst i fun _ => false }).mapCay i
    fun c => { c with powerOffAt := some (s.clk.ticks + 1000) }

def cSlot (c : Cmd) : Nat := byteAt c.payload 0

/-- Commands of the physical function with an opcode that execute now. -/
def pfWorking (s : State) (op : Nat) : List Cmd := (s.func 0).cmds.filter fun c => c.hdr.opcode == op && c.phase == .working

/-- A CART_TIME_SET completes when no slot's checkpoint is left (R192). -/
def endTimeSet (s : State) : State :=
  if (List.range 2).any fun i => (s.caySlot i).reading then s else
  (pfWorking s 0x0904).foldl (fun s c => finish 0 c.seq .sOk 0 {} s) s

/-- The checkpoint that was being read for is not made: the CART_LIFE_SET that asked for it ends with a status. -/
def endReading (i : Nat) (st : Status) (s : State) : State :=
  if !(s.caySlot i).reading then s else
  endTimeSet (((pfWorking s 0x0903).filter fun c => cSlot c == i).foldl (fun s c => finish 0 c.seq st 0 {} s)
    (s.mapCay i fun c => { c with reading := false, stopDue := false }))

/-- The slot enters FAILED, unpowered; the pages on it follow at the next boundary as after a removal. -/
def cayFails (i bit : Nat) (s : State) : State :=
  let s := endReading i .eCartLost (recordFault dCay i bit { unit := i } (islesHit s i) s)
  setCayState i .failed (powerDown i (endPair i .eCartLost {} (s.mapCay i fun c => { c with lossDue := some .eCartLost })))

/-- An ejecting slot serves again: READ_ONLY if it was so before, or is worn out by now (R194, R199). -/
def returnSlot (o : Nat) (s : State) : State :=
  let c := s.caySlot o
  if c.state ≠ .ejecting then s
  else if c.wornOut then setCayState o .readOnly s
  else if worn c then setCayState o .readOnly (recordFault dCay o 8 { unit := o } [] (s.mapCay o fun c => { c with wornOut := true }))
  else setCayState o .online s

/-- A migration towards slot i ends with a status, and its source serves again. -/
def migrationEnds (i : Nat) (st : Status) (tide : Nat) (s : State) : State :=
  let o := 1 - i
  match (s.caySlot o).eject with
  | some (false, _) => returnSlot o (endEject o st tide s)
  | _ => s

/-- Parks that write to a slot are to be abandoned with a status at the next boundary. -/
def abandonParks (i : Nat) (st : Status) (s : State) : State :=
  s.mapIsles fun r => { r with seqs := r.seqs.map fun q =>
    (q.1, if parksTo i q.2 then { q.2 with abandon := some (q.2.abandon.getD st) } else q.2) }

/-- Unparks that read from a slot are to end with a status at the next boundary, their images still there. -/
def endUnparks (i : Nat) (st : Status) (s : State) : State :=
  s.mapIsles fun r => { r with seqs := r.seqs.map fun q =>
    (q.1, if q.2.state == .unparking && contentOn i q.2 then { q.2 with unparkEnd := some st } else q.2) }

/-- The slot enters REFUSED: what needs its cartridge ends with the status (R185; log 118 for an unpark under way). -/
def cayRefused (i bit : Nat) (st : Status) (s : State) : State :=
  let s := endEject i st (tideNow s) (recordFault dCay i bit { unit := i } [] s)
  let s := endReading i st (endUnparks i st (abandonParks i st (migrationEnds i st (tideNow s) s)))
  let s := (s.caySlot i).migrated.foldl (fun s m => dropMigration i m.1.1 m.1.2 s) s
  setCayState i .refused (s.mapCay i fun c => { c with authOnly := bit == 3 })

/-! ## Bring-up (R45, R93, R94, Table 4.10) -/

def cayStep (i n : Nat) (s : State) : State := s.mapCay i fun c => { c with step := n, stepTick := s.clk.ticks }

/-- A cartridge that is not there any more: everything the device had read from it. -/
def forgetCart (c : CaySlot) : CaySlot :=
  { state := c.state, retired := c.retired, buckets := c.buckets, eject := c.eject, migrated := c.migrated, lossDue := c.lossDue,
    pairCmd := c.pairCmd, powerOffAt := c.powerOffAt }

/-- R45: the pin's level; a break in the 100 ms ends step 1. -/
def execCayPrsntNChange (slot : Nat) (level : Bool) (s : State) : Host.Outcome State Fault Refusal :=
  if 2 ≤ slot || s.pins.cayPrsnt.getD slot true == level then .next s else
  let s := s.mapPins fun p => { p with
    cayPrsnt := setAt p.cayPrsnt slot fun _ => level, cayPrsntSince := setAt p.cayPrsntSince slot fun _ => s.clk.ticks }
  if level && (s.caySlot slot).state == .bringup && (s.caySlot slot).step == 1 then .next (setCayState slot .empty (cayStep slot 0 s))
  else .next s

/-- Step 1 ends: low for 100 ms without a break, and since READY; CAY_PWR_EN goes high. -/
def execCayInsertion (slot : Nat) (s : State) : Host.Outcome State Fault Refusal :=
  let c := s.caySlot slot
  if 2 ≤ slot || s.boot.phase != phReady || s.pins.cayPrsnt.getD slot true || unitState s 4 slot == 2 then .next s
  else if !(c.state == .empty || (c.state == .bringup && c.step == 1)) then .next s
  else
    let s := advanceTicks (max (s.pins.cayPrsntSince.getD slot 0) s.boot.phaseTick + 10000000) s
    .next (cayPower slot true (setCayState slot .bringup (cayStep slot 2 (s.mapCay slot fun c => { c with authOnly := false }))))

/-- Whether a slot is at a step of its bring-up. -/
def atStep (s : State) (i n : Nat) : Bool := (s.caySlot i).state == .bringup && (s.caySlot i).step == n

/-- Step 2 ends: 100 ms after CAY_PWR_EN rose. -/
def execCayPerstRelease (slot : Nat) (s : State) : Host.Outcome State Fault Refusal :=
  if !atStep s slot 2 then .next s else
  let s := advanceTicks ((s.caySlot slot).stepTick + 10000000) s
  .next (cayStep slot 3 (s.mapPins fun p => { p with cayPerst := setAt p.cayPerst slot fun _ => true }))

/-- Step 3: the link is up and the controller's CAP.TO has been read, or 100 ms have passed. -/
def execCayLinkUp (slot : Nat) (ok : Bool) (capTo : Nat) (s : State) : Host.Outcome State Fault Refusal :=
  if !atStep s slot 3 then .next s
  else if ok then .next (cayStep slot 4 (s.mapCay slot fun c => { c with capTo := capTo }))
  else .next (cayFails slot 0 (advanceTicks ((s.caySlot slot).stepTick + 10000000) s))

/-- R183: the other slot's cartridge has the same digest, or the same Vendor ID and serial number. -/
def isClone (s : State) (i : Nat) : Bool :=
  let c := s.caySlot i
  let o := s.caySlot (1 - i)
  (o.identity.isSome && o.identity == c.identity) ||
    (o.identified && c.identified && o.info.vendor == c.info.vendor && o.info.serial == c.info.serial)

/-- R94: both are refused; a slot that is down already stays so. -/
def refuseClones (i : Nat) (s : State) : State :=
  let o := 1 - i
  let st := (s.caySlot o).state
  let s := if st = .ejected ∨ st = .failed ∨ st = .empty then recordFault dCay o 4 { unit := o } [] s else cayRefused o 4 .eCart s
  cayRefused i 4 .eCart s

/-- A bring-up that ends in REFUSED; the clone check runs then too (R183). -/
def refuseBringup (i bit : Nat) (st : Status) (s : State) : State :=
  let s := cayRefused i bit st s
  if isClone s i then refuseClones i s else s

/-- Step 4: the controller is ready and meets Table 8.1, or not (R179). -/
def execNvmeReady (slot : Nat) (ok : Bool) (info : CartInfo) (s : State) : Host.Outcome State Fault Refusal :=
  if !atStep s slot 4 then .next s
  else if !ok then .next (cayFails slot 1 s)
  else
    let s := s.mapCay slot fun c => { c with info := info, identified := true }
    if info.meetsTable81 && decide (256 ≤ info.capacityGiB) && decide (info.capacityGiB ≤ 2048) then .next (cayStep slot 5 s)
    else .next (refuseBringup slot 2 .eCart s)

/-- The pairing record that counts: sealed under this chip's key, and naming this chip (R184). -/
def validRecord (s : State) (r : SpdmResult) : Option PairRecord :=
  ((keyOf s .pairing).bind fun kp => openEnvelope kp r.lba0).filter fun p => p.chip == s.fuses.deviceId

/-- Step 5, at bring-up: R180, R182, R184, R185. -/
def spdmBringup (i : Nat) (r : SpdmResult) (s : State) : State :=
  let p := validRecord s r
  let s := s.mapCay i fun c => { c with
    lowest := (r.certSlot, r.lowest), identity := if r.ok then some r.digest else none,
    pairing := p, certSlot := match p with | some x => x.certSlot | none => r.certSlot }
  if !r.recordMatch then refuseBringup i 2 .eCart s
  else if !r.ok || (match p with | some x => x.cart != r.digest | none => false) then refuseBringup i 3 .eCartAuth s
  else cayStep i 6 s

/-- The first 8 bytes of an identity digest, as the payload carries them. -/
def digestHead (d : Nat) : Nat := d / 2 ^ 320

/-- SPDM for a CART_PAIR: the expected digest, the cay record (R180) and the clones are checked; the health log comes next (R204). The
governor's clock goes on from a record that counted before (R191). -/
def spdmPair (i seq : Nat) (r : SpdmResult) (s : State) : State :=
  match findCmd s 0 seq with
  | none => s.mapCay i fun c => { c with pairCmd := none }
  | some c =>
    let want := sliceB c.payload 8 8
    if !r.ok || (beNat want != 0 && beNat want != digestHead r.digest) then endPair i .eCartAuth {} s
    else if !r.recordMatch then endPair i .eCart {} (cayRefused i 2 .eCart s)
    else
      let s := s.mapCay i fun x => { x with identity := some r.digest, lowest := (r.certSlot, r.lowest) }
      let old := ((s.caySlot i).pairing.map fun p => (p.checkUtc, p.checkWritten)).getD (0, 0)
      if isClone s i then endPair i .eCart {} (refuseClones i s)
      else cayStep i 7 (s.mapCay i fun x => { x with
        certSlot := byteAt c.payload 1,
        pairing := some { chip := s.fuses.deviceId, cart := r.digest, certSlot := byteAt c.payload 1, rated := x.info.rated,
                          lifeDate := fieldB c.payload 4 4, checkUtc := old.1, checkWritten := old.2 } })

/-- SPDM again on the recorded slot, after a recovery or a controller reset (R185). -/
def spdmAgain (i : Nat) (r : SpdmResult) (s : State) : State :=
  if !r.recordMatch then cayRefused i 2 .eCart s else
  match (s.caySlot i).pairing with
  | none => if r.ok then s else cayRefused i 3 .eCartAuth s
  | some p => if r.ok && r.digest == p.cart then s else cayRefused i 3 .eCartAuth s

def execCaySpdm (slot : Nat) (r : SpdmResult) (s : State) : Host.Outcome State Fault Refusal :=
  if atStep s slot 5 then .next (spdmBringup slot r s)
  else match (s.caySlot slot).pairCmd with
    | some seq => if (s.caySlot slot).step = 7 then .next s else .next (spdmPair slot seq r s)
    | none => if governed s slot || (s.caySlot slot).state == .unpaired || (s.caySlot slot).state == .quiesced then .next (spdmAgain slot r s) else .next s

/-- Step 6: the other slot is empty, has failed, or has reported its identity (R94). DESIGN CHOICE (log 114): a slot that failed at step 5
itself is not waited for either. -/
def execCayIdentityCompare (slot : Nat) (s : State) : Host.Outcome State Fault Refusal :=
  let o := s.caySlot (1 - slot)
  if !atStep s slot 6 || (o.state == .bringup && o.identity.isNone) then .next s
  else if isClone s slot then .next (refuseClones slot s)
  else if (s.caySlot slot).pairing.isNone then .next (setCayState slot .unpaired (cayStep slot 0 s))
  else .next (cayStep slot 7 s)

/-- A slot starts to serve: READ_ONLY at once when its cartridge is worn out. -/
def cayServes (i : Nat) (s : State) : State :=
  if worn (s.caySlot i) || (s.caySlot i).wornOut then
    setCayState i .readOnly (recordFault dCay i 8 { unit := i } [] (s.mapCay i fun c => { c with wornOut := true }))
  else setCayState i .online s

/-- R204: the words of CART_PAIR. -/
def pairWords (c : CaySlot) : Words :=
  let d := natBe 48 (c.identity.getD 0)
  { w0 := c.info.capacityGiB, w1 := c.info.rated, w2 := fieldB d 0 4, w3 := fieldB d 4 4 }

/-- The clock of a slot that starts to serve: CHECK_UTC from now on, unless it already shows a later time (R191). -/
def startClock (s : State) (c : CaySlot) : Nat × Nat :=
  let start := match c.pairing with | some p => p.checkUtc | none => 0
  if start ≤ clockAt s c.clock then c.clock else (start, tideNow s)

/-- The health log read for a checkpoint of a slot that serves (R190, R192): the checkpoint is made, the CART_LIFE_SET or CART_TIME_SET that
asked for it completes, and a quiesce goes on to its shutdown notification (R198). -/
def checkRead (i : Nat) (sm : Smart) (s : State) : State :=
  let stop := (s.caySlot i).stopDue
  let s := checkpoint i none (s.mapCay i fun c => { c with smart := sm, sinceRead := 0, reading := false, stopDue := false })
  let s := ((pfWorking s 0x0903).filter fun c => cSlot c == i).foldl (fun s c =>
    finish 0 c.seq .sOk 0 { w0 := (s.caySlot i).rg / 1000 } s) s
  let s := endTimeSet s
  if stop then (s.mapCay i fun c => { c with shutdown := true }).emit (.cart i 2 []) else s

/-- Step 7: the governor resumes from the record, or the pairing that was asked for is written; the blocks that hold no image are
deallocated (R189). On a slot that serves, the reading for a checkpoint. -/
def execCayHealthRead (slot : Nat) (ok : Bool) (sm : Smart) (s : State) : Host.Outcome State Fault Refusal :=
  let c := s.caySlot slot
  let pairing := c.pairCmd.isSome && c.step == 7
  if !(atStep s slot 7 || pairing || c.reading) then .next s
  else if !ok then .next (cayFails slot 1 s)
  else if !(atStep s slot 7 || pairing) then .next (checkRead slot sm s)
  else if pairing && (keyOf s .pairing).isNone then .next (endPair slot .eState {} (s.mapCay slot fun c => { c with pairing := none }))   -- KP is gone (R408, R410)
  else
    let s := s.mapCay slot fun c => { c with
      smart := sm, sinceRead := 0, authOnly := false, clock := startClock s c, dealloc := if pairing then c.dealloc else [], wipe := true }
    let s := checkpoint slot (if pairing then some c.pairIv else none) s
    if pairing then
      let s := cayServes slot (s.mapCay slot fun c => { c with
        buckets := c.buckets.map fun b => (b.1, { b.2 with credit := bucketDepth s slot b.1, tick := tideNow s }) })
      .next ((endPair slot .sOk (pairWords (s.caySlot slot)) s).emit (.cart slot 3 []))
    else .next ((cayServes slot s).emit (.cart slot 3 []))

/-! ## Removal and losses (R199, R200) -/

def execCayRemoval (slot : Nat) (s : State) : Host.Outcome State Fault Refusal :=
  let c := s.caySlot slot
  if 2 ≤ slot || !(s.pins.cayPrsnt.getD slot true) || c.state == .empty then .next s else
  let s := advanceTicks (s.pins.cayPrsntSince.getD slot 0 + 2000) s
  let s := if c.state = .ejected then s
    else (recordFault dCay slot 5 { unit := slot } (islesHit s slot) s).mapCay slot fun c => { c with lossDue := some .eCartLost }
  let s := if s.pins.cayPwr.getD slot false then powerDown slot s else s
  .next (setCayState slot .empty ((endPair slot .eCartLost {} (endReading slot .eCartLost s)).mapCay slot forgetCart))

def execCayPowerRelease (slot : Nat) (s : State) : Host.Outcome State Fault Refusal :=
  match (s.caySlot slot).powerOffAt with
  | none => .next s
  | some t =>
    let s := (advanceTicks t s).mapCay slot fun c => { c with powerOffAt := none }
    .next (cayPower slot false s)

/-- A slot with a powered cartridge whose link is up. -/
def cayLinked (s : State) (i : Nat) : Bool :=
  let c := s.caySlot i
  (c.state == .bringup && decide (4 ≤ c.step)) || c.state == .unpaired || governed s i || c.state == .quiesced

/-- What takes a slot to FAILED. A REFUSED slot stays REFUSED until its cartridge leaves (R187, R183); its fault is recorded. -/
def cayBreaks (i bit : Nat) (s : State) : State :=
  if cayLinked s i then cayFails i bit s
  else if (s.caySlot i).state = .refused then endPair i .eCartLost {} (recordFault dCay i bit { unit := i } (islesHit s i) s)
  else s

def execCayLinkLoss (slot : Nat) (controller : Bool) (s : State) : Host.Outcome State Fault Refusal :=
  .next (cayBreaks slot (if controller then 1 else 0) s)

/-- The tier-one frames of row 0, wherever a retirement has moved them (R158, R166). -/
def stagingFrame (s : State) (f : Nat) : Bool := (List.range 512).any fun i => rowZeroAt s i == f

/-- R181: a request outside the staging frames. DESIGN CHOICE (log 104): every tier-one frame of row 0 counts as one. -/
def execCayInboundRequest (slot addr : Nat) (s : State) : Host.Outcome State Fault Refusal :=
  if stagingFrame s (addr / 2 ^ 21) then .next s else .next (cayBreaks slot 10 s)

/-- A MIGRATE ejection of a slot, and the sequence has an image that it still has to move. -/
def migrates (s : State) (i : Nat) (q : Seq) : Bool :=
  (match (s.caySlot i).eject with | some (mode, _) => !mode | none => false) && (match q.image with | some m => m.slot == i | none => false)

/-- R200: an error of a write abandons the park; one of a read, or a tag that fails, loses the pages; seen at the next boundary. A migration
reads shadow images too, which are dropped, and writes on the other slot: an error there ends it (log 119). -/
def execCayIoError (slot : Nat) (isle handle : Nat) (write tagFail : Bool) (s : State) : Host.Outcome State Fault Refusal :=
  match seqOf s isle handle with
  | none => .next s
  | some q =>
    if write then
      if parksTo slot q ∧ !q.parkFlush ∧ q.parkStart.isSome then
        .next (mapSeq isle handle (fun q => { q with abandon := some .eCart }) (recordFault dCay slot 6 { unit := slot } [isle] s))
      else if slot < 2 ∧ migrates s (1 - slot) q then .next (migrationEnds slot .eCart (tideNow s) (recordFault dCay slot 6 { unit := slot } [] s))
      else .next s
    else match q.image with
      | some i =>
        if i.slot ≠ slot ∨ !((q.state == .unparking && !q.unparkRead) || migrates s slot q) then .next s
        else
          let bit := if tagFail then 7 else 6
          if contentOn slot q then
            .next (mapSeq isle handle (fun q => { q with lossDue := some (if tagFail then .eDenied else .eCart) })
              (recordFault dCay slot bit { unit := slot } (if tagFail then [] else [isle]) s))
          else .next (deallocBlocks i.slot i.blocks (mapSeq isle handle (fun q => { q with image := none })
            (recordFault dCay slot bit { unit := slot } [] s)))
      | none => .next s

/-! ## Ejection and quiesce (R195 to R198) -/

/-- A sequence that still reads from or writes to a slot. -/
def caySlotBusy (s : State) (i : Nat) : Bool :=
  s.isles.any fun r => r.seqs.any fun q =>
    (match q.2.parkImage with | some x => x.slot == i | none => false) ||
    (q.2.state == .unparking && !q.2.unparkRead && (match q.2.image with | some x => x.slot == i | none => false))

/-- R195: after the last image, a flush and a shutdown notification. -/
def ejectProgress (i : Nat) (s : State) : State :=
  if (s.caySlot i).state ≠ .ejecting ∨ (s.caySlot i).shutdown ∨ caySlotBusy s i ∨ !(islesOnSlot s i).isEmpty then s
  else (s.mapCay i fun c => { c with shutdown := true }).emit (.cart i 2 [])

/-- R198: the quiesce is over when no slot is left to stop. -/
def quiesceEnds (tide : Nat) (s : State) : State :=
  match s.quiesce with
  | none => s
  | some cmd =>
    if (List.range 2).any fun i => (s.caySlot i).state == .online || (s.caySlot i).state == .readOnly then s
    else
      let s := { s with quiesce := none }
      match cmd with | some seq => finishAt tide 0 seq .sOk 0 {} s | none => s

/-- R198: on a slot where parks and unparks are over, a checkpoint, a flush and a shutdown notification. -/
def quiesceProgress (tide : Nat) (s : State) : State :=
  if s.quiesce.isNone then s else
  quiesceEnds tide ((List.range 2).foldl (fun s i =>
    let c := s.caySlot i
    if !(c.state == .online || c.state == .readOnly) || c.shutdown || c.stopDue || caySlotBusy s i then s
    else (readForCheck i s).mapCay i fun c => { c with stopDue := true }) s)

/-- The shutdown is complete, or 5 s have passed. -/
def execCayShutdownDone (slot : Nat) (s : State) : Host.Outcome State Fault Refusal :=
  let c := s.caySlot slot
  if !c.shutdown then .next s
  else if c.state = .ejecting then
    let s := advanceTicks (s.clk.ticks + 1000) s
    let s := cayDown slot s
    .next (endEject slot .sOk (tideNow s) (setCayState slot .ejected s))
  else if s.quiesce.isSome && (c.state == .online || c.state == .readOnly) then
    .next (quiesceEnds (tideNow s) (setCayState slot .quiesced (s.mapCay slot fun c => { c with shutdown := false })))
  else .next s

def execCayDeallocDone (slot : Nat) (s : State) : Host.Outcome State Fault Refusal :=
  .next (s.mapCay slot fun c => { c with dealloc := [], wipe := false })

/-- R195, R196: an image has been written and flushed on the other slot; it is charged there, down to minus one bucket depth. -/
def execMigrateImageDone (slot : Nat) (isle handle : Nat) (s : State) : Host.Outcome State Fault Refusal :=
  let t := 1 - slot
  match seqOf s isle handle, (s.caySlot slot).eject with
  | some q, some (false, _) =>
    match q.image with
    | none => .next s
    | some img =>
      if img.slot ≠ slot ∨ !takesParks s t ∨ q.parkImage.isSome ∨ q.lossDue.isSome ∨ !epochLive s isle img.epoch ∨
        ((s.caySlot t).migrated.any fun m => m.1 == (isle, handle)) ∨
        (bucketNow s t isle).credit - img.bytes < -(bucketDepth s t isle : Int) then .next s else
      match freeRun s t img.blocks.length with
      | none => .next s
      | some bl =>
        let s := setBucket t isle (fun b => { b with credit := b.credit - img.bytes, written := b.written + img.bytes }) s
        .next (checkWear t (s.mapCay t fun c => { c with
          sinceRead := c.sinceRead + img.bytes, migrated := c.migrated ++ [((isle, handle), { img with slot := t, blocks := bl })] }))
  | _, _ => .next s

/-- The images that were migrated to slot t become the authoritative ones; one whose sequence has no such image is dropped. -/
def switchMigrated (t : Nat) (s : State) : State :=
  (s.caySlot t).migrated.foldl (fun s m =>
    let k := m.1.1
    let h := m.1.2
    match (seqOf s k h).bind fun q => q.image.map fun i => (q, i) with
    | none => dropMigration t k h s
    | some (q, i) =>
      if q.state = .unparking ∧ !q.unparkRead then s
      else if i.slot = t ∨ i.epoch ≠ m.2.epoch ∨ i.nonce ≠ m.2.nonce then dropMigration t k h s
      else
        let s := s.mapCay t fun c => { c with migrated := c.migrated.filter fun x => x.1 != (k, h) }
        deallocBlocks i.slot i.blocks (mapSeq k h (fun q => { q with image := some m.2 }) s)) s

/-- What a lost slot does to the sequences of every isle: their pages follow in settleKv (R199); shadow images are gone. -/
def markLosses (i : Nat) (st : Status) (s : State) : State :=
  let on := fun (x : Option Image) => match x with | some m => m.slot == i | none => false
  (abandonParks i st s).mapIsles fun r => { r with seqs := r.seqs.map fun q => (q.1,
    let x := q.2
    if !on x.image then x
    else if contentOn i x then { x with lossDue := some (x.lossDue.getD st) }
    else { x with image := none }) }

/-- The page effects of a removal, a failure, a discard or a migration at a boundary, and the progress of ejections. -/
def settleCay (b : Nat) (s : State) : State :=
  let s := (List.range 2).foldl (fun s i =>
    match (s.caySlot i).lossDue with
    | none => s
    | some st =>
      let o := 1 - i
      let s := endEject i .eCartLost b (markLosses i st s)
      let s := (s.caySlot o).migrated.foldl (fun s m => dropMigration o m.1.1 m.1.2 s) s
      let s := s.mapCay i fun c => { c with lossDue := none, migrated := [], dealloc := [], wipe := false, shutdown := false }
      migrationEnds i .eCartLost b s) s
  let s := switchMigrated 1 (switchMigrated 0 s)
  -- DESIGN CHOICE (log 119): a migration whose target serves no parks any more ends with E_STATE
  let s := (List.range 2).foldl (fun s i => if takesParks s i then s else migrationEnds i .eState b s) s
  (List.range 2).foldl (fun s i =>
    match (s.caySlot i).eject with
    | some (true, _) =>
      s.mapIsles fun r => { r with seqs := r.seqs.map fun q => (q.1,
        if contentOn i q.2 && q.2.state == .parked then { q.2 with lossDue := some (q.2.lossDue.getD .eCartLost) } else q.2) }
    | _ => s) s

/-- The shadow images of a slot that is discarded are dropped (R195). -/
def dropShadows (i : Nat) (s : State) : State :=
  (List.range 32).foldl (fun s k => (s.isle k).seqs.foldl (fun s q =>
    match q.2.image with
    | some m =>
      if m.slot = i ∧ !contentOn i q.2 then
        deallocBlocks i m.blocks (mapSeq k q.1 (fun q => { q with image := none }) s)
      else s
    | none => s) s) s

/-- After the page effects of a boundary: slots that are empty now go on. -/
def cayProgress (b : Nat) (s : State) : State :=
  let s := (List.range 2).foldl (fun s i => match (s.caySlot i).eject with | some (true, _) => dropShadows i s | _ => s) s
  quiesceProgress b (ejectProgress 1 (ejectProgress 0 s))

/-! ## Commands (Table 8.5) -/

/-- A count as a 32-bit word, two's complement. -/
def signed32 (v : Int) : Nat := (v % (2 ^ 32 : Int)).toNat

def cartQueryWords (s : State) (fn i sel : Nat) : Words :=
  let c := s.caySlot i
  let k := isleOf fn
  let isles := if fn = 0 then List.range 32 else [k]
  match sel with
  | 0 => { w0 := cayStateCode c.state + c.certSlot * 256, w1 := c.info.capacityGiB,
           w2 := (isles.map fun j => (s.isle j).grant.cay.getD i 0).sum, w3 := (isles.map fun j => 2 * isleBlocks s j i).sum }
  | 1 =>
    let b := bucketNow s i k
    { w0 := isleRate s i k / 1000, w1 := signed32 (b.credit / 1000000), w2 := bucketDepth s i k / 1000000, w3 := b.written / 1000000000 }
  | 2 => { w0 := c.rg / 1000, w1 := writtenBytes c / 1000000000000, w2 := c.info.rated, w3 := lifeDate s i }
  | _ =>
    let d := natBe 48 (c.identity.getD 0)
    { w0 := fieldB d 0 4, w1 := fieldB d 4 4, w2 := fieldB d 8 4, w3 := fieldB d 12 4 }

def runCartQuery (fn : Nat) (c : Cmd) (tide : Nat) (s : State) : State :=
  finishAt tide fn c.seq .sOk 0 (cartQueryWords s fn (cSlot c) (byteAt c.payload 1)) s

def specCartQuery : CmdSpec :=
  { opcode := 0x0900, plen := plenIs 8, auth := fun _ fn c => fn == 0 || !(byteAt c.payload 1 == 2 || byteAt c.payload 1 == 3),
    args := fun _ _ c => decide (cSlot c < 2) && decide (byteAt c.payload 1 ≤ 3) && zeroB c.payload 2 6, run := runCartQuery }

/-- A slot on which a command needs a served cartridge. -/
def servedPre (s : State) (i : Nat) : Option (Status × Nat) :=
  let c := s.caySlot i
  if c.state = .refused ∧ c.authOnly then some (.eCartAuth, 0)
  else if governed s i then none else some (.eState, 0)

/-- R204, R410: UNPAIRED, or REFUSED for AUTH_FAIL alone, and the chip still has its pairing key. -/
def pairPre (s : State) (_ : Nat) (c : Cmd) : Option (Status × Nat) :=
  let x := s.caySlot (cSlot c)
  if (keyOf s .pairing).isSome ∧ x.pairCmd.isNone ∧ (x.state = .unpaired ∨ (x.state = .refused ∧ x.authOnly)) then none else some (.eState, 0)

/-- The envelope's IV is drawn, and the SPDM exchange on CERT_SLOT begins. -/
def startPair (c : Cmd) (s : State) : State :=
  let (v, s) := drawEntropy 12 s
  (s.mapCay (cSlot c) fun x => { x with pairCmd := some c.seq, step := 0, pairIv := natLe 12 v }).emit (.cart (cSlot c) 4 [byteAt c.payload 1])

/-- R417: the envelope's IV is drawn first. -/
def runCartPair (fn : Nat) (c : Cmd) (tide : Nat) (s : State) : State :=
  match entAsk 12 (.cmd fn c.seq 12) s with
  | (.got, s) => startPair c s
  | (.held, s) => pendAt tide fn c.seq s
  | (.full, s) => finishAt tide fn c.seq .eBusy (holdMs s) {} s
  | (.failed, s) => refuse fn c.seq c false .eRng 0 s

def specCartPair : CmdSpec :=
  { opcode := 0x0901, pfOnly := true, plen := plenIs 16,
    args := fun _ _ c => decide (cSlot c < 2) && decide (byteAt c.payload 1 < 8) && zeroB c.payload 2 2, pre := pairPre, run := runCartPair }

def unpairPre (s : State) (_ : Nat) (c : Cmd) : Option (Status × Nat) :=
  let i := cSlot c
  let st := (s.caySlot i).state
  if st = .refused ∧ (s.caySlot i).authOnly then some (.eCartAuth, 0)
  else if !(st = .online ∨ st = .readOnly ∨ st = .unpaired) ∨ !(islesOnSlot s i).isEmpty ∨ (s.caySlot i).pairCmd.isSome then some (.eState, 0)
  else none

/-- R201. -/
def runCartUnpair (fn : Nat) (c : Cmd) (tide : Nat) (s : State) : State :=
  let i := cSlot c
  let s := ((s.mapCay i fun x => { x with
    pairing := none, wipe := true, rg := 0, certSlot := x.lowest.1,
    identity := if x.lowest.1 = 0xFF then x.identity else some x.lowest.2 }).emit (.cart i 1 [])).emit (.cart i 3 [])
  finishAt tide fn c.seq .sOk 0 {} (setCayState i .unpaired s)

def specCartUnpair : CmdSpec :=
  { opcode := 0x0902, pfOnly := true, plen := plenIs 8, args := fun _ _ c => decide (cSlot c < 2) && zeroB c.payload 1 7,
    pre := unpairPre, run := runCartUnpair }

/-- R192: a new life date and its checkpoint; the command completes when the health log has been read for it (R190, log 64). -/
def runCartLifeSet (_ : Nat) (c : Cmd) (_ : Nat) (s : State) : State :=
  readForCheck (cSlot c) (s.mapCay (cSlot c) fun x => { x with pairing := x.pairing.map fun p => { p with lifeDate := fieldB c.payload 4 4 } })

def specCartLifeSet : CmdSpec :=
  { opcode := 0x0903, pfOnly := true, plen := plenIs 8,
    args := fun s _ c => decide (cSlot c < 2) && zeroB c.payload 1 3 && decide (governorClock s (cSlot c) / 86400 < fieldB c.payload 4 4),
    pre := fun s _ c => servedPre s (cSlot c), run := runCartLifeSet }

/-- R191: a time earlier than the clock is ignored; a checkpoint on every slot that is served, each after its reading of the health log
(R190, R192). -/
def runCartTimeSet (fn : Nat) (c : Cmd) (tide : Nat) (s : State) : State :=
  let t := fieldB c.payload 0 8
  let s := { s with utc := match s.utc with
    | some u => if clockAt s u < t then some (t, tideNow s) else some u
    | none => some (t, tideNow s) }
  let s := (List.range 2).foldl (fun s i => if governed s i then readForCheck i s else s) s
  if (List.range 2).any fun i => (s.caySlot i).reading then s else finishAt tide fn c.seq .sOk 0 {} s

def specCartTimeSet : CmdSpec := { opcode := 0x0904, pfOnly := true, plen := plenIs 8, run := runCartTimeSet }

def discard (p : Bytes) : Bool := byteAt p 1 == 1

/-- R196: the lowest isle whose images the other slot cannot take. -/
def migrateShort (s : State) (i : Nat) : Option Nat :=
  let t := 1 - i
  (islesOnSlot s i).find? fun k =>
    let imgs := imagesOf s k i
    !((s.caySlot t).state == .online && decide ((imgs.map fun m => m.blocks.length).sum ≤ freeQuota s k t) &&
      decide (((imgs.map fun m => m.bytes).sum : Int) ≤ (bucketNow s t k).credit + bucketDepth s t k))

def ejectPre (s : State) (_ : Nat) (c : Cmd) : Option (Status × Nat) :=
  let i := cSlot c
  let st := (s.caySlot i).state
  if st = .refused ∧ (s.caySlot i).authOnly then some (.eCartAuth, 0)
  else if !(st = .online ∨ st = .readOnly) ∨ s.quiesce.isSome then some (.eState, 0)
  else if discard c.payload then none
  else (migrateShort s i).map fun k => (.eState, k)

def runCartEject (fn : Nat) (c : Cmd) (tide : Nat) (s : State) : State :=
  let i := cSlot c
  let s := pendAt tide fn c.seq s
  ejectProgress i (setCayState i .ejecting (s.mapCay i fun x => { x with eject := some (discard c.payload, c.seq), shutdown := false }))

def specCartEject : CmdSpec :=
  { opcode := 0x0905, pfOnly := true, plen := plenIs 8, data := discard,
    args := fun _ _ c => decide (cSlot c < 2) && decide (byteAt c.payload 1 ≤ 1) && zeroB c.payload 2 6, pre := ejectPre, run := runCartEject }

/-- R198. -/
def runCartQuiesce (fn : Nat) (c : Cmd) (tide : Nat) (s : State) : State :=
  quiesceProgress tide { pendAt tide fn c.seq s with quiesce := some (some c.seq) }

def specCartQuiesce : CmdSpec :=
  { opcode := 0x0906, pfOnly := true, plen := plenIs 0,
    pre := fun s _ _ => if (List.range 2).any (fun i => (s.caySlot i).eject.isSome) ∨ s.quiesce.isSome then some (.eState, 0) else none,
    run := runCartQuiesce }

end Sys2Proof.Machine
end

