-- ==== Sys2Proof/Machine/Sec.lean ====
section
/-! DEFINITION. Chapter 16: the entropy service, key epochs, life-cycle, debug, attestation and signing keys (R397 to R423). -/

namespace Sys2Proof.Machine

/-! ## Key epochs (R414, R415) -/

/-- Pages may change now: steps 2 and 3 of boundary b are under way, and no commit of the isle is deferred (R173, R291). -/
def pagesOpen (s : State) (k b : Nat) : Bool := decide (b + s.tide.epochLen = s.tide.nextB) && !heldBack (s.isle k) b

/-- What the destruction of an epoch does; page effects wait for the next boundary where they may not happen now. -/
def destroyEpoch (k e b : Nat) (s : State) : State :=
  let named : Option Image → Bool := fun x => match x with | some i => i.epoch == e | none => false
  let s := (s.isle k).seqs.foldl (fun s q =>
    let s := if named q.2.image then dropMigration 1 k q.1 (dropMigration 0 k q.1 s) else s
    let s := if q.2.state = .parking ∧ named q.2.parkImage then
        (if pagesOpen s k b then abandonPark k q.1 .eRetry b s else mapSeq k q.1 (fun q => { q with abandon := q.abandon.or (some .eRetry) }) s)
      else s
    if !named q.2.image then s
    else if q.2.state = .unparking ∧ !q.2.unparkRead then
      (if pagesOpen s k b then loseAll k q.1 .eDenied b s else mapSeq k q.1 (fun q => { q with lossDue := some .eDenied }) s)
    else match q.2.image with
      | some i =>
        let s := deallocBlocks i.slot i.blocks s
        if q.2.state = .parked then mapSeq k q.1 (fun q => { q with image := some { i with blocks := [] } }) s
        else mapSeq k q.1 (fun q => { q with image := none }) s
      | none => s) s
  (dropEntries (fun u => u == .epoch e) s).mapIsle k fun r => { r with keys := { r.keys with images := aDel r.keys.images e } }

/-- R415: a new current epoch under a drawn key; the old previous one is destroyed. None at the last draw. -/
def rotateEpoch (k key b : Nat) (s : State) : Option State :=
  let old := (s.isle k).keys.previous
  (addEpoch k key s).map fun s => match old with | some e => destroyEpoch k e b s | none => s

def rotateWith (key fn : Nat) (c : Cmd) (tide : Nat) (s : State) : State :=
  match rotateEpoch (isleOf fn) key tide s with
  | none => finishAt tide fn c.seq .eNores 0 {} s
  | some s => finishAt tide fn c.seq .sOk 0 { w0 := ((s.isle (isleOf fn)).keys.current).getD 0 } s

/-- What a command that needs entropy answers: it goes on, is held with S_PENDING, or ends (R419). -/
def askFor (n : Nat) (go : Nat → Cmd → Nat → State → State) (fn : Nat) (c : Cmd) (tide : Nat) (s : State) : State :=
  match entAsk n (.cmd fn c.seq n) s with
  | (.got, s) => go fn c tide s
  | (.held, s) => pendAt tide fn c.seq s
  | (.full, s) => finishAt tide fn c.seq .eBusy (holdMs s) {} s
  | (.failed, s) => refuse fn c.seq c false .eRng 0 s

/-- RETURNED draws no key epoch (Table 16.6), nor does a failed service (R419), unless the key has been drawn already. -/
def noEpochs (s : State) (_ : Nat) (c : Cmd) : Option (Status × Nat) :=
  if !keysAllowed s then some (.eState, 0)
  else if s.ent.state = .failed ∧ c.aux.isEmpty then some (.eRng, 0) else none

/-- A key of 32 bytes is drawn now; one that the service had to hold waits as the command's aux word (R415, R419). -/
def rotateNow (fn : Nat) (c : Cmd) (tide : Nat) (s : State) : State := rotateWith (drawEntropy 32 s).1 fn c tide (drawEntropy 32 s).2

def runKeyEpochRotate (fn : Nat) (c : Cmd) (tide : Nat) (s : State) : State :=
  match c.aux with
  | key :: _ => rotateWith key fn c tide s
  | [] => askFor 32 rotateNow fn c tide s

def specKeyEpochRotate : CmdSpec :=
  { opcode := 0x0820, plen := plenIs 0, pre := noEpochs, memUse := true, boundary := true, run := runKeyEpochRotate }

def runKeyEpochRetire (fn : Nat) (c : Cmd) (tide : Nat) (s : State) : State :=
  let k := isleOf fn
  match (s.isle k).keys.previous with
  | none => finishAt tide fn c.seq .sOk 0 {} s
  | some e =>
    let s := s.mapIsle k fun r => { r with keys := { r.keys with previous := none } }
    finishAt tide fn c.seq .sOk 0 {} (destroyEpoch k e tide s)

def specKeyEpochRetire : CmdSpec := { opcode := 0x0821, plen := plenIs 0, boundary := true, run := runKeyEpochRetire }

def runKeyEpochQuery (fn : Nat) (c : Cmd) (tide : Nat) (s : State) : State :=
  let x := (s.isle (isleOf fn)).keys
  finishAt tide fn c.seq .sOk 0 { w0 := x.current.getD 0, w1 := x.previous.getD 0 } s

def specKeyEpochQuery : CmdSpec := { opcode := 0x0822, plen := plenIs 0, run := runKeyEpochQuery }

/-! ## Commands that read the service (Table 16.15) -/

def entStateCode : EntState → Nat
  | .running => 0 | .unstarted => 1 | .restarting => 1 | .failed => 2

def runEntropyQuery (fn : Nat) (c : Cmd) (tide : Nat) (s : State) : State :=
  let e := s.ent
  finishAt tide fn c.seq .sOk 0 { w0 := entStateCode e.state, w1 := e.buffer.length, w2 := e.queue.length, w3 := e.restarts } s

def specEntropyQuery : CmdSpec := { opcode := 0x0830, early := true, plen := plenIs 0, run := runEntropyQuery }

/-- R419: the start-up tests run again. -/
def runEntropyRestart (fn : Nat) (c : Cmd) (tide : Nat) (s : State) : State :=
  (pendAt tide fn c.seq s).mapEnt fun e => { e with
    testing := true, testTick := s.clk.ticks, restartCmd := some c.seq, restarts := e.restarts + 1 }

def specEntropyRestart : CmdSpec :=
  { opcode := 0x0831, pfOnly := true, plen := plenIs 0,
    pre := fun s _ _ => if s.ent.state = .failed ∧ s.ent.restartCmd.isNone then none else some (.eState, 0), run := runEntropyRestart }

def rngLen (c : Cmd) : Nat := byteAt c.payload 8

def rngNow (fn : Nat) (c : Cmd) (tide : Nat) (s : State) : State :=
  let (v, s) := drawEntropy (rngLen c) s
  withHost fn c tide (fun s => finishAt tide fn c.seq .sOk 0 {} (hostWrite fn (fieldB c.payload 0 8) (natLe (rngLen c) v) s)) s

def runRngRead (fn : Nat) (c : Cmd) (tide : Nat) (s : State) : State := askFor (rngLen c) rngNow fn c tide s

def specRngRead : CmdSpec :=
  { opcode := 0x0832, plen := plenIs 16, args := fun _ _ c => decide (1 ≤ rngLen c) && decide (rngLen c ≤ 192) && zeroB c.payload 9 7,
    run := runRngRead }

/-- R407: a new challenge replaces the one outstanding. -/
def challengeNow (fn : Nat) (c : Cmd) (tide : Nat) (s : State) : State :=
  let (v, s) := drawEntropy 32 s
  let b := natLe 32 v
  withHost fn c tide (fun s =>
    finishAt tide fn c.seq .sOk 0 {} (hostWrite fn (fieldB c.payload 0 8) b (s.mapSec fun x => { x with challenge := some (b, s.clk.ticks) }))) s

def specLcChallenge : CmdSpec := { opcode := 0x0801, pfOnly := true, plen := plenIs 8, run := askFor 32 challengeNow }

/-! ## The service (R418, R419) -/

/-- A held command that now has its bytes goes on; what is boundary-executed waits for the next boundary. -/
def serveCmd (fn seq : Nat) (s : State) : State :=
  match findCmd s fn seq with
  | none => s
  | some c =>
    let t := tideNow s
    match c.hdr.opcode with
    | 0x0203 =>
      let k := argIsle c
      let st := (s.isle k).state
      if keysAllowed s ∧ (st = .created ∨ st = .disabled) then finishAt t fn seq .sOk 0 {} (becomeEnabled k s) else finishAt t fn seq .eState 0 {} s
    | 0x0502 => let (v, s) := drawEntropy 8 s; setPhase fn seq .boundary (setAux fn seq ((v + 1) :: c.aux.drop 1) s)
    | 0x0801 => challengeNow fn c t s
    | 0x0820 => let (v, s) := drawEntropy 32 s; setPhase fn seq .boundary (setAux fn seq [v] s)
    | 0x0832 => rngNow fn c t s
    | 0x0901 => (match pairPre s fn c with
      | some (st, d) => finishAt t fn seq st d {} s
      | none => startPair c s)
    | _ => s

def serveReq (r : EntReq) (s : State) : State :=
  match r with
  | .cmd fn seq _ => serveCmd fn seq s
  | .isleEnd k _ =>
    if !(s.isle k).keysHeld then s
    else if (s.isle k).target = .enabled ∧ keysAllowed s then finishTarget k .sOk (becomeEnabled k s)
    else reachTarget k s
  | .isle0Keys _ => drawKeys 0 s

/-- What waits is served in order once the service runs again; deferred checkpoints are written (R417), and isle 0 gets keys it
has not had yet (R414). -/
def serviceRuns (s : State) : State :=
  let q := s.ent.queue
  let s := startService (s.mapEnt fun e => { e with queue := [] })
  let s := q.foldl (fun s r => serveReq r s) s
  let s := if s.boot.phase = phReady ∧ (s.isle 0).state = .enabled ∧ (s.isle 0).keys.current.isNone ∧ (sipKey s 0).isNone then drawKeys 0 s else s
  (List.range 2).foldl (fun s i => if (s.caySlot i).checkDue then writeCheck i s else s) s

/-- The final entry of a command that fails at h: E_RNG at the quantized tick. -/
def failCmd (q fn seq : Nat) (s : State) : State :=
  match findCmd s fn seq with
  | some c =>
    let s := if c.data then setAux fn seq [0, 0, 0] s else s
    setPhase fn seq (.refusal q .eRng 0) s
  | none => s

/-- R419: a held request fails; its command's final entry is written at the quantized tick. -/
def failReq (q : Nat) (r : EntReq) (s : State) : State :=
  match r with
  | .cmd fn seq _ => failCmd q fn seq s
  | .isleEnd k _ =>
    if !(s.isle k).keysHeld then s
    else if (s.isle k).target ≠ .enabled then reachTarget k s
    else
      let s := match (s.isle k).targetCmd with | some c => failCmd q c.fn c.seq s | none => s
      becomeDisabled k .eRng (s.mapIsle k fun r => { r with targetCmd := none })
  | .isle0Keys _ => s

/-- 20 ms after a failure without a passing attempt: FAILED. -/
def serviceFails (s : State) : State :=
  let s := advanceTicks (s.ent.failTick + 2000000) s
  let q := quantum (quantNow s)
  let held := s.ent.queue
  let s := s.mapEnt fun e => { e with state := .failed, testing := false, drbg := none, buffer := [], queue := [] }
  let s := recordFault dEntropy 0 3 {} [] (recordFault dEntropy 0 2 {} [] s)
  held.foldl (fun s r => failReq q r s) s

/-- R419: the continuous tests of Table 16.11 take the samples of one window. A failure stops the noise output, RESTARTING begins, and the
source settles and is tested again. How full the buffer is then is free (log 67). -/
def execHealthTestFail (samples : List Bool) (s : State) : Host.Outcome State Fault Refusal :=
  if !s.standby.vstbyUp || s.ent.testing || s.ent.state == .failed || s.ent.state == .restarting then .next s
  else if !(rctFails samples || aptFails samples) then .next s else
  let s := if rctFails samples then recordFault dEntropy 0 0 {} [] s else s
  let s := if aptFails samples then recordFault dEntropy 0 1 {} [] s else s
  let (v, s) := drawNat s
  .next (s.mapEnt fun e => { e with
    state := .restarting, testing := true, failTick := s.clk.ticks, testTick := s.clk.ticks, restarts := e.restarts + 1,
    buffer := e.buffer.take (v % (e.buffer.length + 1)) })

/-- ENTROPY_RESTART's test has ended. -/
def restartDone (pass : Bool) (s : State) : State :=
  match s.ent.restartCmd with
  | none => s
  | some seq =>
    let s := s.mapEnt fun e => { e with testing := false, restartCmd := none }
    if pass ∧ s.ent.kat then finish 0 seq .sOk 0 {} (serviceRuns s) else finish 0 seq .eRng 0 {} s

/-- R418, R419: a start-up test ends: settle, 4,096 samples, and after a failure the reseed from three conditioned blocks. -/
def onStartupTestDone (samples : List Bool) (s : State) : State :=
  let pass := !rctFails samples && !aptFails samples
  if !s.standby.vstbyUp || !s.ent.testing then s else
  let s := advanceTicks (s.ent.testTick + 101200) s
  match s.ent.state with
  | .failed => restartDone pass s
  | .restarting =>
    if s.ent.failTick + 2000000 < s.clk.ticks then serviceFails s
    else if !pass then s.mapEnt fun e => { e with testTick := s.clk.ticks }
    else
      let s := advanceTicks (s.clk.ticks + 38400) s
      if s.ent.kat then serviceRuns s else s.mapEnt fun e => { e with state := .unstarted, testing := false }
  | _ =>
    if pass then
      (if s.ent.kat then serviceRuns s else s.mapEnt fun e => { e with testing := false })
    else (if s.boot.inReset then recordFault dEntropy 0 2 {} [] s else s).mapEnt fun e => { e with
      state := .restarting, failTick := s.clk.ticks, testTick := s.clk.ticks }

def execEntropyHoldExpiry (s : State) : Host.Outcome State Fault Refusal :=
  if s.ent.state = .restarting then .next (serviceFails s) else .next s

/-- R418: after 65,536 generate calls or 1 s. -/
def execDrbgReseed (s : State) : Host.Outcome State Fault Refusal :=
  if s.ent.state ≠ .running then .next s else
  let s := if 65536 ≤ s.ent.calls then s else advanceTicks (s.ent.seedTick + 100000000) s
  .next (seedDrbg s)

/-- R423: 60 s. -/
def execLcChallengeExpiry (s : State) : Host.Outcome State Fault Refusal :=
  match s.sec.challenge with
  | none => .next s
  | some x => .next ((advanceTicks (x.2 + 6000000000) s).mapSec fun c => { c with challenge := none })

/-! ## Life-cycle (R406 to R409) -/

def revokedMask (s : State) : Nat := natMask ((List.range 4).filter fun i => revoked (fusesNow s) i)

/-- The challenge outstanding: the last one returned, for 60 s (Table 16.15). -/
def heldChallenge (s : State) : Option Bytes :=
  match s.sec.challenge with
  | some (ch, t) => if s.clk.ticks ≤ t + 6000000000 then some ch else none
  | none => none

/-- The life-cycle state that is reported: after a completed transition its target (R76, R408). -/
def lcReported (s : State) : Nat := s.sec.lcDone.getD s.sec.lc

def runLcQuery (fn : Nat) (c : Cmd) (tide : Nat) (s : State) : State :=
  let d := natBe 48 s.fuses.deviceId
  finishAt tide fn c.seq .sOk 0
    { w0 := lcReported s + s.sec.keyIdx * 16 + revokedMask s * 256 + b2n s.sec.unlocked.isSome * 4096 + b2n (heldChallenge s).isSome * 8192,
      w1 := fieldB d 0 4, w2 := fieldB d 4 4 } s

def specLcQuery : CmdSpec := { opcode := 0x0800, early := true, plen := plenIs 0, run := runLcQuery }

/-- The text DOLLOS LC (R407). -/
def labelLc : Bytes := ascii [0x44, 0x4F, 0x4C, 0x4C, 0x4F, 0x53, 0x20, 0x4C, 0x43]

/-- The text DOLLOS DEBUG (R410). -/
def labelDebug : Bytes := ascii [0x44, 0x4F, 0x4C, 0x4C, 0x4F, 0x53, 0x20, 0x44, 0x45, 0x42, 0x55, 0x47]

/-- A token under the key of the selected slot over a label, the device, one byte, and the outstanding challenge (R407, R410). -/
def tokenOk (s : State) (label : Bytes) (what : Nat) (token : Bytes) : Bool :=
  match heldChallenge s, s.sec.imageKeys.find? fun k => k.1 == s.sec.keyIdx with
  | some ch, some k => ecdsaVerify k.2 (sha384 (label ++ natBe 48 s.fuses.deviceId ++ natLe 1 what ++ ch)) token
  | _, _ => false

def dropChallenge (s : State) : State := s.mapSec fun c => { c with challenge := none }

/-- Table 16.7. -/
def arcOpen (lc target : Nat) : Bool :=
  (lc == 2 && target == 3) || ((lc == 2 || lc == 3) && target == 4) || (lc != 5 && target == 5)

def needsToken (s : State) (target : Nat) : Bool := s.boot.limbo.isNone && s.sec.lc == 2 && target == 3

def lcPre (s : State) (_ : Nat) (_ : Cmd) : Option (Status × Nat) :=
  if s.boot.limbo.isSome then none
  else if ((List.range 32).any fun k => k != 0 && (s.isle k).state != .absent && (s.isle k).state != .disabled) ||
    ((s.isle 0).progs.any fun p => p.2.state == .running) || !(s.isle 0).invs.isEmpty then some (.eState, 0)
  else none

/-- The alias key and KP are destroyed (R408, Table 16.8). -/
def dropIdentity (s : State) : State := dropEntries (fun u => u == .attest || u == .pairing) s

/-- An ENABLED isle goes through QUIESCING to DISABLED, and one already on its way to ENABLED ends there instead. -/
def disableIsle (k : Nat) (s : State) : State :=
  match (s.isle k).state with
  | .enabled => quiesceEnter k .disabled false s
  | .quiescing | .scrubbing => if (s.isle k).target = .enabled then s.mapIsle k fun r => { r with target := .disabled } else s
  | _ => s

/-- R408: the keys are destroyed and isle 0 is disabled; the new state waits for the next boot. -/
def afterTransition (target : Nat) (s : State) : State :=
  let s := (List.range 32).foldl (fun s k => destroyKeys k s) s
  disableIsle 0 (dropIdentity (s.mapSec fun c => { c with lcDone := some target }))

/-- R407, R409: INTx is programmed and verified, then COMx; a row that verifies already takes no time. -/
def runLcTransition (fn : Nat) (c : Cmd) (_ : Nat) (s : State) : State :=
  let x := byteAt c.payload 0
  let need := needsToken s x
  let ok := !need || tokenOk s labelLc x (sliceB c.payload 8 96)
  let s := if need then dropChallenge s else s
  if !ok then refuse fn c.seq c false .eDenied 0 s
  else beginBurn fn c.seq (.transition x) [10 + x, 20 + x] s

def specLcTransition : CmdSpec :=
  { opcode := 0x0802, pfOnly := true, plen := plenIs 104,
    args := fun s _ c => zeroB c.payload 1 7 && (s.boot.limbo.isSome || arcOpen s.sec.lc (byteAt c.payload 0)), pre := lcPre,
    run := runLcTransition }

/-! ## Debug (R410) -/

/-- Table 16.8. -/
def debugOpens (scope : Nat) (s : State) : State :=
  let s := (List.range 32).foldl (fun s k => destroyKeys k s) s
  let s := dropAllKeys (dropIdentity (s.mapSec fun c => { c with unlocked := some scope }))
  let s := (List.range 32).foldl (fun s k => disableIsle k s) s
  if s.quiesce.isSome then s else quiesceProgress (tideNow s) { s with quiesce := some none }

def runDebugUnlock (fn : Nat) (c : Cmd) (tide : Nat) (s : State) : State :=
  let ok := tokenOk s labelDebug (byteAt c.payload 0) (sliceB c.payload 8 96)
  let s := dropChallenge s
  if !ok then refuse fn c.seq c false .eDenied 0 s
  else finishAt tide fn c.seq .sOk 0 {} (debugOpens (byteAt c.payload 0) s)

def specDebugUnlock : CmdSpec :=
  { opcode := 0x0803, pfOnly := true, plen := plenIs 104, args := fun _ _ c => decide (byteAt c.payload 0 < 4) && zeroB c.payload 1 7,
    pre := fun s _ _ => if s.sec.lc = 3 then none else some (.eState, 0), run := runDebugUnlock }

/-! ## Attestation (R401, R402) -/

/-- R401: the chain: what the certificate store holds, then the alias certificate of this boot. -/
def certChain (s : State) : Bytes := s.fuses.certStore ++ s.sec.aliasCert

def runAttestCerts (fn : Nat) (c : Cmd) (tide : Nat) (s : State) : State :=
  withHost fn c tide (fun s =>
    finishAt tide fn c.seq .sOk 0 { w0 := (certChain s).length } (hostWrite fn (fieldB c.payload 0 8) (certChain s) s)) s

def specAttestCerts : CmdSpec :=
  { opcode := 0x0810, early := true, plen := plenIs 16, args := fun _ _ c => zeroB c.payload 12 4,
    pre := fun s _ c => if fieldB c.payload 8 4 < (certChain s).length then some (.eBadarg, ceilDiv (certChain s).length 64) else none,
    run := runAttestCerts }

/-- Table 16.4, bytes 159:0, of isle k. -/
def quoteBody (s : State) (k : Nat) (nonce : Bytes) : Bytes :=
  natLe 4 0x51544744 ++ natLe 2 1 ++ natLe 1 s.sec.lc ++
  natLe 1 (s.boot.imageCopy + b2n (fixedShare s k) * 2 + b2n (poolMember s k) * 4 + b2n s.arch.formed * 8) ++
  natLe 1 s.sec.keyIdx ++ natLe 1 s.fuses.stepping ++ natLe 1 s.fuses.grade ++ natLe 1 (chipId s) ++
  natLe 1 k ++ natLe 1 (popCount (s.isle k).grant.cores 64) ++ natLe 2 s.arch.member ++
  natLe 8 s.fw.build ++ natLe 4 s.fw.ifVersion ++ natLe 4 0 ++ natLe 8 (tideNow s) ++ nonce ++ natBe 48 s.sec.measurement ++
  natLe 2 (ownedSubslots s k) ++ natLe 1 (s.isle k).cls ++ List.replicate 37 0

/-- The alias key's private scalar. -/
def attestKey (s : State) : Nat := beNat ((keyOf s .attest).getD [])

/-- The signature of bytes 159:0 by the alias key (R402). -/
def runAttestQuote (fn : Nat) (c : Cmd) (tide : Nat) (s : State) : State :=
  let q := quoteBody s (isleOf fn) (sliceB c.payload 16 32)
  withHost fn c tide (fun s =>
    finishAt tide fn c.seq .sOk 0 {} (hostWrite fn (fieldB c.payload 0 8) (q ++ ecdsaSign (attestKey s) (sha384 q)) s)) s

def specAttestQuote : CmdSpec :=
  { opcode := 0x0811, early := true, plen := plenIs 48, args := fun _ _ c => zeroB c.payload 8 8,
    pre := fun s _ _ => if (keyOf s .attest).isSome then none else some (.eState, 0), run := runAttestQuote }

/-! ## Signing keys (R404, R405) -/

def runKeyAdvance (fn : Nat) (c : Cmd) (_ : Nat) (s : State) : State :=
  beginBurn fn c.seq (.advance (s.sec.keyIdx + 1)) [31 + s.sec.keyIdx] s

def specKeyAdvance : CmdSpec :=
  { opcode := 0x0818, pfOnly := true, plen := plenIs 0,
    pre := fun s _ _ =>
      let n := s.sec.keyIdx + 1
      if 3 < n ∨ revoked (fusesNow s) n ∨ !(s.sec.imageKeys.any fun k => k.1 == n) then some (.eState, 0) else none,
    run := runKeyAdvance }

def runKeyRevoke (fn : Nat) (c : Cmd) (_ : Nat) (s : State) : State :=
  beginBurn fn c.seq (.revoke (byteAt c.payload 0)) [40 + byteAt c.payload 0] s

def specKeyRevoke : CmdSpec :=
  { opcode := 0x0819, pfOnly := true, plen := plenIs 8, args := fun _ _ c => decide (byteAt c.payload 0 < 4) && zeroB c.payload 1 7,
    pre := fun s _ c => if byteAt c.payload 0 = s.sec.keyIdx then some (.eState, 0) else none, run := runKeyRevoke }

/-! ## The end of fuse programming (R398, R404, R405, R409) -/

/-- Programming is over: its rows stand, and its command completes, with E_FAULT when a row does not verify. -/
def endBurn (b : Burn) (s : State) : State :=
  let s := (s.mapFuses fun f => b.settle b.stop f).mapSec fun c => { c with burns := c.burns.filter fun x => x != b }
  if !b.verifies then finish b.fn b.seq .eFault 0 {} s
  else match b.what with
    | .transition x => finish b.fn b.seq .sOk 0 {} (afterTransition x s)
    | .advance n => finish b.fn b.seq .sOk 0 { w0 := n } s
    | .revoke _ => finish b.fn b.seq .sOk 0 {} s

/-- All programming whose time has passed ends, in order. -/
def settleBurns (s : State) : State := (s.sec.burns.filter fun b => decide (b.stop ≤ s.clk.ticks)).foldl (fun s b => endBurn b s) s

/-- The tick at which the next programming ends. -/
def nextBurnStop (s : State) : Option Nat := (s.sec.burns.map fun b => b.stop).min?

end Sys2Proof.Machine
end

