-- ==== Sys2Proof/Machine/TideCmd.lean ====
section
/-! DEFINITION. The tide and pace commands (R69 to R71) and a member's own check of an epoch change (Table 3.9). -/

namespace Sys2Proof.Machine

def runTideQuery (fn : Nat) (c : Cmd) (tide : Nat) (s : State) : State :=
  finishAt tide fn c.seq .sOk 0
    { w0 := s.tide.epochLen, w1 := s.tide.base % 2 ^ 32, w2 := s.tide.base / 2 ^ 32, w3 := tideStatus s } s

def specTideQuery : CmdSpec := { opcode := 0x0140, early := true, plen := plenIs 0, run := runTideQuery }

/-- A check that PROG_LOAD, PROG_RUN, DRAW_SET or POOL_SET applies would fail under epoch length e. -/
def epochBad (s0 : State) (e : Nat) : Bool :=
  let s := s0.mapTide fun t => { t with epochLen := e }
  ((List.range 32).any fun k =>
    let r := s.isle k
    (r.progs.any fun g => budgetBad s k g.2.image || (g.2.draw.isSome &&
      decide (workWindow e < progTicks g.2 (execCores s k).length (hostedCount s)))) ||
      (!(poolMember s k && (dedicated r).isEmpty) && isleOver s k none)) ||
  (s.pool.cores != 0 && poolOver s (popCount s.pool.cores 64) (poolIsles s) 32 none)

def newE (c : Cmd) : Nat := fieldB c.payload 0 4

def epochArgs (s : State) (_ : Nat) (c : Cmd) : Bool :=
  decide (10000 ≤ newE c) && decide (newE c ≤ 10000000) && newE c % 2000 == 0 && zeroB c.payload 4 4 &&
    (chooseT s (fieldB c.payload 8 8)).isSome

/-- Milliseconds until the epoch change that is agreed takes effect. -/
def pendingMs (s : State) : Nat :=
  max 1 (ceilDiv ((s.tide.agreed.filter fun a => a.confirmed && (match a.act with | .epochLen _ => true | _ => false)).foldl (fun m a => max m a.t) 0 - tideNow s) 100000)

def runTideEpochSet (fn : Nat) (c : Cmd) (_ : Nat) (s : State) : State :=
  propose ((chooseT s (fieldB c.payload 8 8)).getD (earliestT s (tideNow s))) (.epochLen (newE c)) (some (fn, c.seq)) s

def specTideEpochSet : CmdSpec :=
  { opcode := 0x0141, pfOnly := true, plen := plenIs 16, args := epochArgs,
    pre := fun s _ c => if changePending s then some (.eBusy, pendingMs s) else if epochBad s (newE c) then some (.eState, 0) else none,
    run := runTideEpochSet }

/-- R71: the physical core that a function's index names. -/
def paceCore (s : State) (fn : Nat) (c : Cmd) : Option Nat :=
  let i := fieldB c.payload 0 2
  if fn = 0 then (if i < 64 then some i else none) else (dedicated (s.isle (isleOf fn)))[i]?

/-- A core that is disabled reports pace 0 (R71). -/
def paceOf (s : State) (core : Nat) : Nat := if unitServes s 0 core then s.tide.paces.getD core 0 else 0

def runPaceQuery (fn : Nat) (c : Cmd) (tide : Nat) (s : State) : State :=
  let core := (paceCore s fn c).getD 0
  finishAt tide fn c.seq .sOk 0 { w0 := paceOf s core, w1 := vcoreNow s, w2 := sensorReading s core } s

def specPaceQuery : CmdSpec :=
  { opcode := 0x0142, early := true, plen := plenIs 8, auth := fun s fn c => fn == 0 || (paceCore s fn c).isSome,
    args := fun s fn c => (fn != 0 || (paceCore s fn c).isSome) && zeroB c.payload 2 6, run := runPaceQuery }

/-- R70 at T: the new epoch length, with BASE at T. -/
def applyEpochLen (e t : Nat) (s : State) : State := s.mapTide fun x => { x with epochLen := e, base := t }

/-- R64: a member whose own check of an epoch change or of a replay (R363) fails does not acknowledge it. -/
def execAgreedCountProposal (t : Nat) (h : FlitHdr) (act : Action) (s : State) : Host.Outcome State Fault Refusal :=
  .next (onTide h (fun s =>
    match act with
    | .epochLen e => if epochBad s e then s else takeProposal t h.orig act s
    | .replayStart k _ _ => if replayBarred s k then s else takeProposal t h.orig act s
    | _ => takeProposal t h.orig act s) s)

end Sys2Proof.Machine
end

