-- ==== Sys2Proof/Machine/Table.lean ====
section
/-! DEFINITION. The mailbox commands of the running interface, by opcode (R473, Table 20.2). -/

namespace Sys2Proof.Machine

def cmdTable : CmdTable := fun op =>
  match op with
  | 0x0140 => some specTideQuery
  | 0x0141 => some specTideEpochSet
  | 0x0142 => some specPaceQuery
  | 0x0200 => some specIsleCreate
  | 0x0201 => some specIsleResize
  | 0x0202 => some specIsleDestroy
  | 0x0203 => some specIsleEnable
  | 0x0204 => some specIsleDisable
  | 0x0205 => some specIsleReset
  | 0x0206 => some specIsleQosSet
  | 0x0207 => some specIsleQuery
  | 0x0208 => some specPoolSet
  | 0x0209 => some specSlotTableSet
  | 0x020A => some specPressureQuery
  | 0x0300 => some specMemQuery
  | 0x0301 => some specMemResidentSet
  | 0x0302 => some specMemLoad
  | 0x0303 => some specMemStore
  | 0x0304 => some specMemModeSet
  | 0x0310 => some specT1Query
  | 0x0400 => some specProgLoad
  | 0x0401 => some specProgUnload
  | 0x0402 => some specProgRun
  | 0x0403 => some specProgQuery
  | 0x0410 => some specTapArm
  | 0x0411 => some specTapClose
  | 0x0412 => some specTapQuery
  | 0x0480 => some specStreamCreate
  | 0x0481 => some specStreamDestroy
  | 0x0482 => some specStreamQuery
  | 0x0500 => some specSeqPoolSet
  | 0x0501 => some specSeqBatchSet
  | 0x0502 => some specSeqCreate
  | 0x0503 => some specSeqDestroy
  | 0x0504 => some specSeqBind
  | 0x0505 => some specSeqQuery
  | 0x0506 => some specSeqRewind
  | 0x0507 => some specSeqPark
  | 0x0508 => some specSeqWakeHint
  | 0x0509 => some specSeqPrefixDrop
  | 0x050A => some specAdmitSet
  | 0x0600 => some specArchQuery
  | 0x0601 => some specArchForm
  | 0x0602 => some specArchLeave
  | 0x0603 => some specPortQuery
  | 0x0610 => some specWinOpen
  | 0x0611 => some specWinClose
  | 0x0612 => some specWinQuery
  | 0x0700 => some specReplayLogSet
  | 0x0701 => some specReplayLogStop
  | 0x0702 => some specReplayStart
  | 0x0703 => some specReplayAdvance
  | 0x0704 => some specReplayStop
  | 0x0705 => some specDetQuery
  | 0x0706 => some specShardSelect
  | 0x0707 => some specDrawSet
  | 0x0800 => some specLcQuery
  | 0x0801 => some specLcChallenge
  | 0x0802 => some specLcTransition
  | 0x0803 => some specDebugUnlock
  | 0x0810 => some specAttestCerts
  | 0x0811 => some specAttestQuote
  | 0x0818 => some specKeyAdvance
  | 0x0819 => some specKeyRevoke
  | 0x0820 => some specKeyEpochRotate
  | 0x0821 => some specKeyEpochRetire
  | 0x0822 => some specKeyEpochQuery
  | 0x0830 => some specEntropyQuery
  | 0x0831 => some specEntropyRestart
  | 0x0832 => some specRngRead
  | 0x0900 => some specCartQuery
  | 0x0901 => some specCartPair
  | 0x0902 => some specCartUnpair
  | 0x0903 => some specCartLifeSet
  | 0x0904 => some specCartTimeSet
  | 0x0905 => some specCartEject
  | 0x0906 => some specCartQuiesce
  | 0x0A00 => some specSealPsetSet
  | 0x0A01 => some specSealKeyLoad
  | 0x0A02 => some specSealKeyDrop
  | 0x0A03 => some specSealQuery
  | 0x0B00 => some specFaultQuery
  | 0x0B01 => some specFaultClear
  | 0x0B02 => some specUnitRetire
  | 0x0B03 => some specUnitReturn
  | 0x0B04 => some specUnitQuery
  | 0x0B05 => some specAlertAck
  | 0x0C01 => some specFwStage
  | 0x0C02 => some specFwActivate
  | _ => none

end Sys2Proof.Machine
end

