-- ==== Sys2Proof/Machine/Log.lean ====
section
/-! DEFINITION. What a boundary writes into host memory: slots of output streams and of the log stream (R114 to R116, R360, R361), and
the shadows and messages that follow (R114 to R116). -/

namespace Sys2Proof.Machine

/-! ## Slots -/

/-- Free slots of an output stream's ring. -/
def slotRoom (x : Stream) : Nat := x.entries - cdiff x.producer x.consumer

/-- The next slot of an output stream; a stream that has stopped takes nothing more (R113, R114). -/
def pushSlot (k h : Nat) (b : Bytes) (s : State) : State :=
  match aGet (s.isle k).streams h with
  | none => s
  | some x =>
    if x.stopped then s else
    mapStream k h (fun x => { x with producer := (x.producer + 1) % 2 ^ 32 })
      (hostWrite k (x.ring + x.producer % x.entries * 2 ^ x.slotLog2) b s)

/-! ## The log stream (Tables 14.3, 14.4) -/

/-- The slots of one record. -/
def recordSlots (k seqno log2 : Nat) (r : LogRec) : List Bytes :=
  let room := 2 ^ log2 - 32
  let parts := max 1 (ceilDiv r.body.length room)
  (List.range parts).map fun i =>
    let b := (r.body.drop (i * room)).take room
    natLe 2 r.ty ++ natLe 1 i ++ natLe 1 parts ++ natLe 2 b.length ++ natLe 2 0 ++ natLe 4 r.rel ++ natLe 8 r.tide ++
      natLe 4 seqno ++ natLe 1 r.shard ++ natLe 1 k ++ natLe 6 0 ++ b

/-- Records are written whole, in order, while the ring has room for the next one (R361). -/
def flushRecs (k : Nat) : List LogRec → State → State
  | [], s => s
  | r :: rest, s =>
    match (s.isle k).log with
    | none => s
    | some l =>
      match aGet (s.isle k).streams l.stream with
      | none => s
      | some x =>
        let ps := recordSlots k l.seqno x.slotLog2 r
        if x.stopped ∨ slotRoom x < ps.length then s
        else flushRecs k rest ((ps.foldl (fun s b => pushSlot k l.stream b s) s).mapIsle k fun r =>
          { r with log := r.log.map fun l => { l with recs := l.recs.drop 1, seqno := l.seqno + 1 } })

/-- Every record is written and the session is over: its END record follows, and the stream is free (R359). A session whose stream has
stopped ends without it. -/
def endSession (k b : Nat) (s : State) : State :=
  match (s.isle k).log with
  | none => s
  | some l =>
    match l.ending with
    | none => s
    | some why =>
      let gone := match aGet (s.isle k).streams l.stream with | some x => x.stopped | none => true
      if !l.recs.isEmpty && !gone then s else
      let s' := flushRecs k [recOf s k 7 0xFF l b (natLe 4 why)] s
      let wrote := match (s'.isle k).log with | some m => decide (l.seqno < m.seqno) | none => false
      if wrote || gone then
        State.mapIsle k (fun r => { r with log := none }) (mapStream k l.stream (fun x => { x with bound := none }) s')
      else s

/-- The COMMAND records of a boundary take their place after its STEP, ABORT and REMAP records (R360). -/
def placeCmds (l : LogSession) : LogSession := { l with recs := l.recs ++ l.cmds.map fun x => x.2, cmds := [] }

/-- A session's records of boundary b go to its stream, those of its commands once step 3 is over or with the session's end; after
2^32 - 1 boundaries the session ends (R359). -/
def flushLog (cmds : Bool) (k b : Nat) (s : State) : State :=
  let over' := fun (l : LogSession) => l.ending.isNone && decide (2 ^ 32 - 1 ≤ (b - l.b0) / l.epoch)
  let s := s.mapIsle k fun r => { r with log := r.log.map fun l => if over' l then { l with ending := some 3 } else l }
  let s := s.mapIsle k fun r => { r with log := r.log.map fun l => if cmds || l.ending.isSome then placeCmds l else l }
  match (s.isle k).log with
  | none => s
  | some l => endSession k b (flushRecs k l.recs s)

def flushLogs (cmds : Bool) (b : Nat) (s : State) : State := (List.range 32).foldl (fun s k => flushLog cmds k b s) s

/-- Records wait for room in the log stream (R361). -/
def logWaits (r : Isle) : Bool := match r.log with | some l => !l.recs.isEmpty || l.ending.isSome | none => false

/-! ## Shadows and messages -/

/-- Streams of isle k, of one direction, whose count has changed since s0. -/
def movedStreams (out : Bool) (k : Nat) (s0 s : State) : List (Nat × Stream) :=
  (s.isle k).streams.filter fun x => x.2.dirOut == out && (match aGet (s0.isle k).streams x.1 with
    | some y => y.producer != x.2.producer && out || y.consumer != x.2.consumer && !out
    | none => false)

/-- The counts of those streams go to their shadows (R114). -/
def writeShadows (out : Bool) (s0 s : State) : State :=
  (List.range 32).foldl (fun s k => (movedStreams out k s0 s).foldl (fun s x =>
    hostWrite k x.2.shadow (natLe 8 (if out then x.2.producer else x.2.consumer)) s) s) s

/-- Vectors that those streams signal: output streams, and input streams with IRQ_ON_CONSUME (R115, R116). -/
def movedVectors (s0 s : State) (k : Nat) : List Nat :=
  ((movedStreams true k s0 s ++ (movedStreams false k s0 s).filter fun x => x.2.irqOnConsume).map fun x => x.2.vector).filter fun v => v != 0xFFFF

/-- At most one message per vector for the boundary. -/
def signalStreams (first : List (Nat × Nat)) (s0 s : State) : State :=
  (first ++ (List.range 32).flatMap fun k => (movedVectors s0 s k).map fun v => (k, v)).eraseDups.foldl (fun s x => sendVector x.1 x.2 s) s

end Sys2Proof.Machine
end

