-- ==== Sys2Proof/Machine/Commit.lean ====
section
/-! DEFINITION. Step 1 of Table 3.6: every invocation whose final epoch has ended commits, aborts or waits (R16, R66, R67, R241, R300,
R332, R452, R453). -/

namespace Sys2Proof.Machine

/-! ## The decision -/

inductive Verdict where
  | wait
  | commit
  | poison
  | abort (st : Status) (detail : Nat)

/-- R332 with Table 13.6, R66, R67, R241, R452. A step that is over but whose partners or tasks are not done is deferred. -/
def verdict (s : State) (k b : Nat) (i : Inv) : Verdict :=
  let r := s.isle k
  let sh := (invProg s k i).shards
  let multi := multiPartner s sh
  if multi && (partnersOf s sh).any fun j => !(presentMask s).testBit j then .abort .eCollectiveAbort 1
  else if multi && i.collFail != 0 then .abort .eCollectiveAbort i.collFail
  else if multi && (!i.failFrom.isEmpty || i.faulted) then .abort .eCollectiveAbort 2
  else if i.stopped then .abort .eOverrun i.overrun
  else if 3 ≤ i.collFail then .abort .eCollectiveAbort i.collFail
  else if i.faulted then .abort .eFault 0
  else if !epochsOver r b i || invWork r i || (r.overrun.isSome && decide (b ≤ i.finalB)) then .wait
  else if i.poisoned then .poison
  else if multi && !((otherPartners s sh).all fun j => i.doneFrom.contains j) then .wait
  else .commit

/-! ## Abort (R16, R67, R300, R332) -/

/-- Chips whose part of the step failed, as a mask of their shards. -/
def failingShards (s : State) (k : Nat) (i : Inv) : Nat :=
  let sh := (invProg s k i).shards
  let chips := (partnersOf s sh).filter fun j =>
    !(presentMask s).testBit j || (aGet i.failFrom j).isSome ||
      (j == chipId s && (i.faulted || i.poisoned || i.stopped || i.collFail != 0))
  natMask ((List.range 16).filter fun g => chips.contains (shardHost s g))

/-- A running task that goes on only with what other tasks or partners still bring: a streaming MATMUL or a collective. -/
def needsOthers (t : Task) : Bool := t.busy && (t.ring.isSome || dClass t.desc == 6)

/-- What the step held is given back: provisional slots, queued tasks, tap rows; the next release runs it again (R16). Of its running
tasks those end that wait for what no longer comes; the others run to their end (R67, log 89). -/
def dropInv (k : Nat) (i : Inv) (s : State) : State :=
  let s := i.entries.foldl (fun s e => mapSeq k e.seq (fun q => { q with
    prov := [], eligibleSince := none, late := q.late || e.flags.testBit 1 }) s) s
  s.mapIsle k fun r => { r with
    invs := r.invs.filter fun j => !(j.prog == i.prog && j.num == i.num),
    units := r.units.map fun u => (u.1, { u.2 with
      queue := u.2.queue.filter fun t => !(t.prog == i.prog && t.inv == i.num),
      later := u.2.later.filter fun t => !(t.prog == i.prog && t.inv == i.num),
      running := u.2.running.filter fun t => !(t.prog == i.prog && t.inv == i.num && needsOthers t) }.refill),
    taps := r.taps.map fun t => { t with pendingRows := t.pendingRows.filter fun x => !(x.prog == i.prog && x.inv == i.num) },
    progs := aMod i.prog (fun g => { g with aborted := g.aborted + 1, oneShot := g.oneShot || (g.mode == 2 && g.state == .running) }) r.progs }

/-- A step aborts with a status and a cause: partners learn of it, a program with partners posts STEP_ABORT, an overrun its last
event, and the ABORT record is written (Table 14.4). -/
def abortInv (k b : Nat) (i : Inv) (st : Status) (detail : Nat) (s : State) : State :=
  let multi := multiPartner s (invProg s k i).shards
  let told := i.collFail != 0 || i.done || i.stopped || !i.failFrom.isEmpty
  let s := if multi && !told then tellFail k i.prog i.num 2 s else s
  let s := if i.stopped then postEventAt b k .eOverrun i.overrun 1 i.prog 0 0 s else s
  let s := if multi then
      postEventAt b k .eCollectiveAbort (if st = .eCollectiveAbort then detail else 2) 0x0B i.prog (failingShards s k i) 0 s
    else s
  let s := logRec k 5 0xFF b (natLe 4 i.prog ++ natLe 4 i.num ++ natLe 2 (statusCode st) ++ natLe 2 detail ++ natLe 2 i.flags ++ natLe 2 0) s
  dropInv k i s

/-- A program becomes FAULTED with one of its steps; the others in flight abort at the next boundary, at every partner (R241, R332). -/
def faultProg (k g num : Nat) (s : State) : State :=
  failSteps k g num <| s.mapIsle k fun r => { r with
    progs := aMod g (fun p => { p with state := .faulted }) r.progs,
    invs := r.invs.map fun i => if i.prog = g then { i with faulted := true } else i }

/-- R453: what the poisoned lines that the step read cost, and the POISON event. -/
def poisonLoss (k b : Nat) (i : Inv) (s : State) : State :=
  let first := i.poisonLines.take 16
  let inKv := fun (x : Nat) => x / 2 ^ 48 == poolView s k && poolAddr s k (x % 2 ^ 48)
  let bad := decide (16 < i.poisonLines.length) || first.any fun x => !inKv x
  let s := loseAddrs k ((first.filter inKv).map fun x => x % 2 ^ 48) .ePoison b s
  let s := if bad then faultProg k i.prog i.num s else s
  postEventAt b k .ePoison 0 0x0F i.prog i.poisonLines.length (b2n bad) s

/-! ## Commit (R17, R299, R300) -/

/-- D[e][shard][layer] (R362): the vectors that the shard's KVAPPENDs wrote, by slot and head, in their final content. -/
def digest (s : State) (k : Nat) (x : Entry12) (q : Seq) (shard layer : Nat) : Nat :=
  let p := poolOf s k
  let l := ((x.wrote.filter fun w => w.1 == shard && w.2.1 == layer).map fun w => w.2.2.1 * 65536 + w.2.2.2).foldl (fun l y => insNat y l) []
  if l.isEmpty then 0 else
  crc64 (l.flatMap fun y => match q.prov[y / 65536]? with
    | some z => readBytes s k (poolView s k) (slotVec p q.owner z.slot layer (y % 65536)) p.vec
    | none => [])

/-- Layers that the step copied into STAGING pages count now (R299). -/
def markCopied (fl : List (Nat × Nat × Nat)) (q : Seq) : Seq :=
  fl.foldl (fun q f => { q with pages := setAt q.pages f.1 fun x =>
    if x.state = .staging then { x with copied := (List.range f.2.2).foldl (fun l i => insNat (f.2.1 + i) l) x.copied } else x }) q

/-- The output frame of a step (Table 5.12), on the home chip only (R297); no frame without tokens. -/
def outputFrame (k b h : Nat) (o : OutRec) (s : State) : State :=
  match seqOf s k h with
  | none => s
  | some q =>
    match q.outStream with
    | none => s
    | some st =>
      if !q.home || o.count == 0 then s else
      pushSlot k st (natLe 8 b ++ natLe 4 (q.c + 1 + 2 ^ 32 - o.count) ++ natLe 2 o.count ++ natLe 1 0 ++ natLe 1 0 ++ natLe 8 o.tags ++
        natLe 8 0 ++ o.toks.take (4 * o.count)) s

/-- The shadow image is released (R300, step 5). -/
def dropShadow (k h : Nat) (s : State) : State :=
  match (seqOf s k h).bind fun q => q.image with
  | none => s
  | some m => dropMigration 0 k h (dropMigration 1 k h (mapSeq k h (fun q => { q with image := none }) (deallocBlocks m.slot m.blocks s)))

/-- What is left of a sequence's pending frames when its step commits: in recording those after the frames delivered, in replay those of
later steps, and whether one came too late for its step (R367). -/
def restInputs (replay : Bool) (n : Nat) (q : Seq) : List InFrame × Bool :=
  if replay then
    let l := q.inputs.filter fun f => decide (q.step < f.step)
    (l, decide (l.length + n < q.inputs.length))
  else (q.inputs.drop n, false)

/-- One used entry of a committing step; also its part of the STEP record (Table 14.6). -/
def commitEntry (k b : Nat) (i : Inv) (n : Nat) (x : Entry12) (digests : Bool) (s : State) : Bytes × State :=
  match seqOf s k x.seq with
  | none => ([], s)
  | some q =>
    let o := outRec s k i n q
    let got := o.joins q
    let p := poolOf s k
    let dg := if digests then (hostedShards s).flatMap fun sh => (List.range p.layers).flatMap fun l => natLe 8 (digest s k x q sh l) else []
    let body := natLe 4 x.seq ++ natLe 4 q.step ++ natLe 4 (q.c + got.length) ++ natLe 1 got.length ++ natLe 1 o.count ++ natLe 2 x.flags ++
      natLe 8 (crc64 (o.toks.take (4 * o.count) ++ natLe 4 o.tags)) ++ dg
    let left := restInputs (s.isle k).replay.isSome x.frames q
    let s := mapSeq k x.seq (fun q => markCopied x.flushed { q with
      shoal := q.shoal ++ got, prov := [], c := q.c + got.length, step := (q.step + 1) % 2 ^ 32,
      lastToken := if o.count = 0 then q.lastToken else fieldB o.toks (4 * (o.count - 1)) 4,
      cont := o.flags.testBit 0, inputs := left.1, rewound := false, fresh := false,
      waited := q.waited && !x.flags.testBit 0, late := q.late || left.2, eligibleSince := none }) s
    let s := completeFlush k x.seq q.pages.length s
    -- while a commit of the isle is deferred its tables wait (R173)
    let s := if q.state = .resident ∧ (s.isle k).overrun.isNone then (allocStaging k x.seq s).2 else s
    let s := outputFrame k b x.seq o s
    let flushed := match seqOf s k x.seq with | some y => y.f != q.f | none => false
    (body, if got.isEmpty && !flushed then s else dropShadow k x.seq s)

/-- Tap rows of the step are counted (R279): finished rows as captured, the others as missed. -/
def countTaps (k b : Nat) (i : Inv) (s : State) : State :=
  (List.range 8).foldl (fun s id =>
    let t := (s.isle k).taps.getD id {}
    let mine := t.pendingRows.filter fun x => x.prog == i.prog && x.inv == i.num
    if mine.isEmpty then s else
    let got := (mine.filter fun x => x.fin && !x.miss).map fun x => x.pos
    let lost := (mine.filter fun x => !x.fin || x.miss).map fun x => x.pos
    let cap := got.foldl (fun l p => insNat p l) t.captured
    let mis := (lost.foldl (fun l p => insNat p l) t.missed).filter fun p => !cap.contains p
    let s := s.mapIsle k fun r => { r with taps := setAt r.taps id fun t => { t with
      captured := cap, missed := mis, pendingRows := t.pendingRows.filter fun x => !(x.prog == i.prog && x.inv == i.num) } }
    if t.state = .armed ∧ t.qn ≤ cap.length + mis.length then tapDone k id b s else s) s

def digestsOn (r : Isle) : Bool := match r.log with | some l => l.digests | none => false

/-- A step commits: its entries in order, its record, its taps (R300, R362). -/
def commitInv (k b : Nat) (i : Inv) (s : State) : State :=
  let dg := digestsOn (s.isle k)
  let (body, s) := ((List.range i.entries.length).zip i.entries).foldl (fun (a : Bytes × State) x =>
    let (e, s) := commitEntry k b i x.1 x.2 dg a.2
    (a.1 ++ e, s)) ([], s)
  let s := logRec k 4 0xFF b (natLe 4 i.prog ++ natLe 4 i.num ++ natLe 2 i.flags ++ natLe 2 i.entries.length ++ natLe 1 (hostedCount s) ++
    natLe 1 (if dg then (poolOf s k).layers else 0) ++ natLe 2 0 ++ body) s
  let s := countTaps k b i s
  s.mapIsle k fun r => { r with
    invs := r.invs.filter fun j => !(j.prog == i.prog && j.num == i.num),
    timingInvalid := if i.flags = 0 then r.timingInvalid else sat32 (r.timingInvalid + 1),
    progs := aMod i.prog (fun g => { g with
      committed := g.committed + 1, state := if g.mode = 2 ∧ g.state = .running then .loaded else g.state }) r.progs }

/-- R300, step 1: the program takes the fault path with reason 3 and nothing of the step commits. -/
def badRecord (k b : Nat) (i : Inv) (s : State) : State :=
  let core := (coreOf s k 0).getD 0
  let s := recordFault dCore core 4 { isle := k, unit := core } [k] (faultProg k i.prog i.num s)
  let s := postEventAt b k .eFault 3 7 i.prog (i.phase * 65536) 0 s
  if multiPartner s (invProg s k i).shards then abortInv k b { i with faulted := true } .eCollectiveAbort 2 s
  else abortInv k b { i with faulted := true } .eFault 3 s

/-! ## Step 1 -/

/-- One invocation at boundary b. -/
def settleInv (k b : Nat) (i : Inv) (s : State) : State :=
  match verdict s k b i with
  | .wait => if epochsOver (s.isle k) b i then mapInv k i.prog i.num (fun i => { i with flags := setBit i.flags 0 }) s else s
  | .abort st d => abortInv k b i st d s
  | .poison => abortInv k b i .ePoison 0 (poisonLoss k b i s)
  | .commit => if recordsOk s k i then commitInv k b i s else badRecord k b i s

/-- Step 1 for one isle; what a QUIESCING isle ran ends here (R376). -/
def settleIsle (k b : Nat) (s : State) : State :=
  let r := s.isle k
  if r.state = .quiescing then enterScrubbing k b (flushLog true k b s)
  else if r.state ≠ .enabled then s else
  let s := r.invs.foldl (fun s i =>
    match (s.isle k).invs.find? fun j => j.prog == i.prog && j.num == i.num with
    | none => s
    | some i => settleInv k b i s) s
  if heldBack (s.isle k) b then s else retryStaging k (s.mapIsle k fun r => { r with overrun := none })

end Sys2Proof.Machine
end

