-- ==== Sys2Proof/Machine/Actions.lean ====
section
/-! DEFINITION. Steps 2 to 4 of Table 3.6: agreed-count actions (R64, R458), page effects, boundary-executed commands (R107, R109, R302,
R365, R366), and the consumption of input frames (R14, R15, R115, R296, R367). -/

namespace Sys2Proof.Machine

/-! ## Step 2: agreed counts -/

def insAgreed (a : Agreed) : List Agreed → List Agreed
  | [] => [a]
  | x :: l => if a.order < x.order then a :: x :: l else x :: insAgreed a l

/-- Confirmed actions whose T has come, in the order in which their confirms were sent (R458). -/
def dueActions (s : State) (b : Nat) : List Agreed :=
  (s.tide.agreed.filter fun a => a.confirmed && decide (a.t ≤ b)).foldl (fun l a => insAgreed a l) []

/-- R70 at T: the new length counts from T, and every log session ends (R359). -/
def newEpochLen (e b : Nat) (s : State) : State :=
  let s := s.mapIsles fun r => { r with log := r.log.map fun l => if l.ending.isSome then l else { l with ending := some 2 } }
  (applyEpochLen e b s).mapTide fun x => { x with nextB := b + e }

/-- This chip's port to the chip that port p of chip src leads to this chip by, if it does. -/
def farEnd (s : State) (src p : Nat) : Option Nat := if (src + p + 1) % 16 = chipId s then some (myPort s src) else none

/-- R328, R346: a chip rejoins after SYNC_SLIP with its state kept. -/
def applyRejoin (chip b : Nat) (s : State) : State :=
  let back := fun j => j == chip || (chip == chipId s && (s.port (myPort s j)).state == .active)
  archStateEvent b (s.mapArch fun a => { a with
    present := (maskBits a.member 16).foldl (fun m j => if back j then setBit m j else m) a.present,
    departed := a.departed.filter fun j => j != chip, leavers := a.leavers.filter fun j => j != chip })

/-- One agreed action at T, before which the command that waits for it completes. A unit of another chip changes only a port that both ends
share. -/
def applyAction (b : Nat) (a : Agreed) (s : State) : State :=
  let own := a.src == chipId s
  let s := if own then agreeDone b a s else s
  match a.act with
  | .epochLen e => newEpochLen e b s
  | .coreChange k p => if own then applyCoreChange k p a.cmd b s else s
  | .pool p => if own then applyPool p a.cmd b s else s
  | .slotTable l => { s with subslots := l }
  | .archForm m => applyArchForm m b s
  | .archLeave j => applyArchLeave j a.cmd s
  | .fwActivate => applyFwActivate b s
  | .unitRetire c i =>
    if own then applyRetire c i b s
    else if c = 3 then (match farEnd s a.src i with | some p => applyRetire 3 p b s | none => s) else s
  | .unitReturn c i =>
    if own then applyReturn c i b s
    else if c = 3 then (match farEnd s a.src i with | some p => applyReturn 3 p b s | none => s) else s
  | .replayStart k b0 _ => applyReplayStart k b0 b s
  | .spareSwitch seg bank => if own then applyRetire 1 (34 * seg + bank) b s else s
  | .portReturn p =>
    if own then portReturns p b s else (match farEnd s a.src p with | some p => portReturns p b s | none => s)
  | .rejoin j => applyRejoin j b s

/-- R344, R396, R456: the remaps since the last boundary, in the log session of every isle that they touch (Table 14.4). -/
def recordRemaps (b : Nat) (s : State) : State :=
  let l := s.remaps
  l.foldl (fun s x => x.isles.foldl (fun s k =>
    logRec k 6 0xFF b (natLe 1 x.cls ++ natLe 2 x.idx ++ natLe 2 x.old ++ natLe 2 x.now ++ natLe 1 0 ++ natLe 8 x.t) s) s)
    { s with remaps := [] }

/-- A leaver departs at b: this chip with nothing of its own in flight, another one once it has said so too (R329, log 134). -/
def leavesAt (s : State) (j : Nat) : Bool := !leaverBusy s j && (j == chipId s || s.arch.left.contains j)

/-- Step 2: departures (R346) first, then the actions and the leaves whose work is over (R329), then the page effects of chapters 8 and 12. -/
def stepActions (b : Nat) (s : State) : State :=
  let s0 := s
  let s := if s.arch.departed.isEmpty then s else archStateEvent b (s.mapArch fun a => { a with departed := [] })
  let due := dueActions s b
  let s := s.mapTide fun x => { x with agreed := x.agreed.filter fun a => decide (b < a.t) }
  let t := due.foldl (fun s a => applyAction b a s) s
  let t := t.arch.leavers.foldl (fun s j => if leavesAt s j then leaveNow b j s else s) t
  let s := (List.range 32).foldl (fun u k =>
    if (t.isle k).state = .enabled && mappingChanged k s0 t then recheckProgs k b u else u) t
  let s := recordRemaps b (settleJobs s)
  cayProgress b (settleKv b (settleCay b s))

/-! ## Step 3: boundary-executed commands -/

/-- The sequence that SEQ_DESTROY, SEQ_BIND, SEQ_REWIND or SEQ_PARK names (R366). -/
def seqNamed (c : Cmd) : Option Nat :=
  if c.hdr.opcode = 0x0503 ∨ c.hdr.opcode = 0x0504 ∨ c.hdr.opcode = 0x0506 ∨ c.hdr.opcode = 0x0507 then some (seqHandle c) else none

/-- R366: the boundary may execute a recorded command: its sequence's step, or the relative index, has come. -/
def placed (s : State) (k : Nat) (c : Cmd) : Bool :=
  match (s.isle k).replay with
  | none => true
  | some m =>
    if !c.data then true else
    match (seqNamed c).bind fun h => (seqOf s k h).map fun q => (h, q) with
    | some (h, q) => decide (c.hdr.token < q.step) || (c.hdr.token == q.step && !inFlight (s.isle k) h)
    | none => (seqNamed c).isSome || (m.started && decide (c.hdr.token ≤ m.index))

/-- R366: the placement has passed. -/
def placedLate (s : State) (k : Nat) (c : Cmd) : Bool :=
  match (s.isle k).replay with
  | none => false
  | some m =>
    c.data && (match (seqNamed c).bind fun h => seqOf s k h with
      | some q => decide (c.hdr.token < q.step)
      | none => m.started && decide (c.hdr.token < m.index))

/-- R19, R302, R308: a rewind's boundary: no step in flight, the sequence in its working tier or PARKING before its final flush, and the
boundary named if it is replicated. -/
def rewindDue (s : State) (k b : Nat) (c : Cmd) : Bool :=
  match seqOf s k (seqHandle c) with
  | none => true
  | some q =>
    (imagePre s k (seqHandle c)).isSome ||
    (q.state == .resident || q.state == .broken || (q.state == .parking && !q.parkFlush)) && !inFlight (s.isle k) (seqHandle c) &&
      ((replicaChips s q).isEmpty || (match c.aux with | x :: _ => decide (x ≤ b) | [] => false))

/-- Whether boundary b may execute a command of function fn now; the order of commands is kept by boundaryCmds. -/
def mayRun (paused : List Nat) (b : Nat) (s : State) (fn : Nat) (c : Cmd) : Bool :=
  let k := isleOf fn
  let r := s.isle k
  let op := c.hdr.opcode
  -- commands that change an isle's tables wait while they may not change (R173)
  let tables := op == 0x0502 || op == 0x0503 || op == 0x0506 || op == 0x0507
  !paused.contains k && placed s k c && !(tables && heldBack r b) &&
  (if op = 0x0503 then !inFlight r (seqHandle c)
   else if op = 0x0506 then rewindDue s k b c
   else if op = 0x0507 then
     (match seqOf s k (seqHandle c) with
      | some q => q.state != .parking && (q.state != .resident || !inFlight r (seqHandle c))
      | none => true)
   -- a key is dropped when no task of the isle runs (chapter 17's corner case)
   else if op = 0x0A02 then !workLeft r
   else if op = 0x0402 then runAgreed s k (handleArg c) (runMode c) b
   else true)

/-- The boundary at which the step of a sequence in flight commits, if nothing delays it; b is the boundary at which its epoch that runs
now ends, or the one under way. -/
def commitBoundary (s : State) (k h b : Nat) : Nat :=
  let e := s.tide.epochLen
  match (s.isle k).invs.find? fun i => i.entries.any fun x => x.seq == h with
  | none => b
  | some i => b + (imgPhases (invProg s k i).image - 1 - i.phase) * e

/-- R302: the home chip names the boundary of a replicated rewind that its peers have let pass, and sends it to the replicas; now is
the tick of sending, and b the boundary from which steps in flight are counted. -/
def nameRewinds (now b : Nat) (s : State) : State :=
  (List.range 32).foldl (fun s fn => (s.func fn).cmds.foldl (fun s c =>
    if c.hdr.opcode ≠ 0x0506 ∨ c.phase ≠ .boundary ∨ !c.aux.isEmpty then s else
    let k := isleOf fn
    let h := seqHandle c
    match seqOf s k h with
    | none => s
    | some q =>
      if (replicaChips s q).isEmpty || (q.state != .resident && q.state != .broken) then s else
      let t := max (boundaryFrom s (now + 5000)) (commitBoundary s k h b)
      (replicaChips s q).foldl (fun s j => ctrlTo j pmRewind [k, h, fieldB c.payload 4 4, t] [] s) (setAux fn c.seq [t] s)) s) s

/-- A replicated rewind has been named: the sequence is not released before it. -/
def rewindNamed (s : State) (k h : Nat) : Bool :=
  (s.func k).cmds.any (fun c => c.hdr.opcode == 0x0506 && c.phase == .boundary && seqHandle c == h && !c.aux.isEmpty) ||
    s.arch.rewinds.any fun x => x.1 == k && x.2.1 == h

/-- R302 on a replica chip, at the boundary that the home chip named. -/
def replicaRewinds (b : Nat) (s : State) : State :=
  s.arch.rewinds.foldl (fun s x =>
    if b < x.2.2.2 ∨ inFlight (s.isle x.1) x.2.1 ∨ heldBack (s.isle x.1) b then s else
    (rewindSeq x.1 x.2.1 x.2.2.1 s).2.mapArch fun a => { a with rewinds := a.rewinds.filter fun y => y != x }) s

/-- R366: commands that come after their placement mark the steps that follow. -/
def markLates (paused : List Nat) (b : Nat) (s : State) : State :=
  (List.range 32).foldl (fun s fn => (s.func fn).cmds.foldl (fun s c =>
    if c.phase = .boundary ∧ placedLate s (isleOf fn) c ∧ mayRun paused b s fn c then
      (match seqNamed c with
       | some h => mapSeq (isleOf fn) h (fun q => { q with lateOn := true }) s
       | none => markLate fn s)
    else s) s) s

/-- R333: a running program whose shards are all present again offers to resume, as a PROG_RUN would (R331). -/
def offerResume (k : Nat) (s : State) : State :=
  (s.isle k).progs.foldl (fun s p =>
    let g := p.2
    let dg := g.digest
    let me := chipId s
    if g.withheldB.isNone || g.state != .running || g.mode != 1 || shardsOrphaned s g.shards ||
      s.arch.accepts.any (fun a => a.isle == k && a.chip == me && a.digest == dg) then s else
    let s := s.mapArch fun a => { a with
      accepts := a.accepts ++ [{ isle := k, chip := me, digest := dg, mode := g.mode, tick := tideNow s }] }
    (otherPartners s g.shards).foldl (fun s j => ctrlTo j pmRunAccept [k, me, dg, g.mode, tideNow s] [] s) s) s

/-- Isles whose tables may change at b (R173). -/
def openIsles (s : State) (b : Nat) : List Nat := (List.range 32).filter fun k => (s.isle k).state == .enabled && !heldBack (s.isle k) b

/-- R176: at most 4,096 descriptors per boundary, in isle and handle order, then those of pages that move now (R287); none while emission
pauses (R123). -/
def emitDescriptors (b : Nat) (s : State) : State :=
  if b < s.fw.emitPauseUntil then s else
  let sweep := fun (f : Nat → Nat × Seq → Nat × State → Nat × State) (a : Nat × State) =>
    (openIsles s b).foldl (fun a k => (a.2.isle k).seqs.foldl (fun a q => f k q a) a) a
  (sweep (fun k q a => if q.2.moved.isEmpty then a else switchMoves k q.1 a.1 a.2)
    (sweep (fun k q a => (q.2.emit.take a.1).foldl (fun a i => (a.1 - 1, writeDesc k q.1 i a.2)) a) (4096, s))).2

/-- The end of step 3 for the tables: what allocation could not give before, the leaf entries, and the descriptors (R173, R176, R293). -/
def settleTables (b : Nat) (s : State) : State :=
  emitDescriptors b ((openIsles s b).foldl (fun s k => writeLeaves k (retryStaging k s)) s)

/-- Step 3. -/
def stepCommands (paused : List Nat) (b : Nat) (s : State) : State :=
  let s := markLates paused b (nameRewinds b b s)
  let s := (List.range 32).foldl (fun s fn => boundaryCmds cmdTable (mayRun paused b) fn b s) s
  let s := settleTables b (replicaRewinds b s)
  (List.range 32).foldl (fun s k => offerResume k s) s

/-! ## Step 4: input frames -/

/-- The most tokens that one frame of a stream holds (Table 5.12). -/
def frameTokens (x : Stream) : Nat := min 64 ((2 ^ x.slotLog2 - 32) / 4)

/-- A frame header without an invalid KIND, an over-size COUNT or a nonzero reserved field (R115; R367 in replay mode). -/
def frameValid (x : Stream) (replay : Bool) (b : Bytes) : Bool :=
  let n := fieldB b 12 2
  zeroB b 8 4 && (if replay then decide (fieldB b 15 1 < 4) && zeroB b 20 4 else decide (fieldB b 15 1 < 2) && zeroB b 16 8) && zeroB b 24 8 &&
  (if fieldB b 14 1 = 0 then decide (n ≤ frameTokens x)
   else fieldB b 14 1 == 1 && n % 4 == 0 && decide (n ≤ 2 ^ x.slotLog2 - 32))

/-- A frame as it joins the pending queue. -/
def frameOf (b : Bytes) : InFrame :=
  let kind := fieldB b 14 1
  let n := fieldB b 12 2
  { kind := kind, count := n, eot := (fieldB b 15 1).testBit 0, raw := b.take (32 + (if kind = 0 then 4 * n else n)),
    step := fieldB b 16 4, last := (fieldB b 15 1).testBit 1 }

/-- A FRAME record (Table 14.4). -/
def logFrame (k b stream h : Nat) (q : Seq) (raw : Bytes) (s : State) : State :=
  let full := match (s.isle k).log with | some l => l.frames | none => false
  logRec k 2 (homeShard s q) b (natLe 4 stream ++ natLe 4 h ++ natLe 4 q.step ++ natLe 4 0 ++ natLe 8 (crc64 raw) ++ if full then raw else []) s

/-- Up to n announced frames of a stream. -/
def consumeFrames (k b st h : Nat) : Nat → State → State
  | 0, s => s
  | n + 1, s =>
    match aGet (s.isle k).streams st, seqOf s k h with
    | some x, some q =>
      if 64 ≤ q.inputs.length then s else
      let at_ := x.ring + x.consumer % x.entries * 2 ^ x.slotLog2
      let s := hostTouch k at_ (2 ^ x.slotLog2) s
      let raw := hostRead s k at_ (2 ^ x.slotLog2)
      let replay := (s.isle k).replay.isSome
      let s := mapStream k st (fun x => { x with consumer := (x.consumer + 1) % 2 ^ 32 }) s
      if !frameValid x replay raw then
        consumeFrames k b st h n (streamEvent k st 1 .eBadarg x.consumer b (logFrame k b st h q raw s))
      else
        let f := frameOf raw
        if replay && decide (f.step < q.step) then consumeFrames k b st h n (mapSeq k h (fun q => { q with late := true }) s)
        else
          let s := mapSeq k h (fun q => { q with
            inputs := q.inputs ++ [f], needInput := false, lastEot := if f.eot then b else q.lastEot }) s
          consumeFrames k b st h n (if f.eot then scheduleMoves k h s else s)
    | _, _ => s

/-- One bound input stream: the frames of the doorbells accepted before b (R15), unless the sequence is not in its working tier with
every page of its flushed length COMMITTED on every replica chip (R14), or a rewind that found it parked has not been applied (Table
12.7 step 6). -/
def consumeStream (k b : Nat) (y : Nat × Stream) (s : State) : State :=
  let x := y.2
  match x.bound with
  | none => s
  | some h =>
    if x.dirOut || x.stopped then s else
    match seqOf s k h with
    | none => s
    | some q =>
      if q.state ≠ .resident ∨ !pagesReady (poolOf s k) q ∨ !(replicaChips s q).all (fun j => q.farHeld.contains j) ∨
          (q.rewindHold ∧ (waitingRewinds s k).any fun w => w.1 == h) then s else
      match (x.dbTicks.filter fun d => decide (d.2 < b)).getLast? with
      | none => s
      | some d =>
        let avail := cdiff d.1 x.consumer
        let s := consumeFrames k b y.1 h (if avail ≤ x.entries then avail else 0) s
        let ahead := fun (x : Stream) (d : Nat × Nat) => decide (0 < cdiff d.1 x.consumer) && decide (cdiff d.1 x.consumer ≤ x.entries)
        mapStream k y.1 (fun x => { x with dbTicks := x.dbTicks.filter (ahead x) }) s

/-- Step 4 for one isle. One that is held back, that waits for its log or for its replay horizon consumes nothing (R66, R361, R365). -/
def consumeIsle (paused full : List Nat) (k b : Nat) (s : State) : State :=
  let r := s.isle k
  if r.state ≠ .enabled ∨ paused.contains k ∨ full.contains k ∨ heldBack r b ∨ logWaits r then s else
  r.streams.foldl (fun s y => consumeStream k b y s) s

/-- Step 4. -/
def stepInputs (paused full : List Nat) (b : Nat) (s : State) : State :=
  (List.range 32).foldl (fun s k => consumeIsle paused full k b s) s

end Sys2Proof.Machine
end

