-- ==== Sys2Proof/Machine/Release.lean ====
section
/-! DEFINITION. Step 5 of Table 3.6: admission and the batch tables (R293 to R297), the draw table (R357, R358), invocations and the
lists of the units (R233, R235, R354), and what delays a release (R66, R68, R116, R123, R166, R176, R361, R365). -/

namespace Sys2Proof.Machine

/-! ## What delays a release (Table 14.7) -/

/-- A retirement's copy holds the isle's release (R166). -/
def jobHolds (s : State) (k : Nat) : Bool := s.units.jobs.any fun j => j.hold.contains k

def bitIf (c : Bool) (i m : Nat) : Nat := if c then setBit m i else m

/-- Flags of the steps whose release boundary b delays. -/
def delayFlags (s : State) (k : Nat) (paused full : List Nat) (m : Nat) : Nat :=
  bitIf (paused.contains k) 9 (bitIf (logWaits (s.isle k) || full.contains k) 8 (bitIf (jobHolds s k) 2 m))

def releaseBlocked (s : State) (k b : Nat) (paused full : List Nat) : Bool :=
  paused.contains k || full.contains k || heldBack (s.isle k) b || logWaits (s.isle k) || (s.isle k).yield || jobHolds s k || belowFloor s k

/-- Nothing is released: the phases in flight shift by one boundary; a bulk isle yields for one epoch only (R68). -/
def shiftIsle (k : Nat) (paused full : List Nat) (s : State) : State :=
  s.mapIsle k fun r => { r with
    yield := false, stepFlags := delayFlags s k paused full r.stepFlags,
    invs := r.invs.map fun i => { i with flags := delayFlags s k paused full i.flags } }

/-- Flags of every step that runs in the epoch that starts: elastic mode, shared-pool cores, a replay out of phase. -/
def runFlags (s : State) (k m : Nat) : Nat :=
  bitIf (match (s.isle k).replay with | some x => !x.matched | none => false) 10 (bitIf (onPool s k) 6 (bitIf (!fixedShare s k) 5 m))

/-! ## Eligibility (R116, R295, R367) -/

/-- Frames that the sequence's next step may receive. -/
def stepFrames (s : State) (k : Nat) (q : Seq) : List InFrame :=
  if (s.isle k).replay.isSome then q.inputs.filter fun f => f.step == q.step else q.inputs

/-- Pending input, complete in replay mode, or CONTINUE; none of it after a rewind until input is consumed (R19). -/
def hasWork (s : State) (k : Nat) (q : Seq) : Bool :=
  let fs := stepFrames s k q
  !q.needInput && (if fs.isEmpty then q.cont else !(s.isle k).replay.isSome || fs.any fun f => f.last)

/-- The sequences that a program may serve at b, before room and pool are looked at. -/
def candidates (s : State) (k g : Nat) : List (Nat × Seq) :=
  (s.isle k).seqs.filter fun x =>
    x.2.prog == some g && x.2.home && x.2.state == .resident && pagesReady (poolOf s k) x.2 && !inFlight (s.isle k) x.1 &&
      !rewindNamed s k x.1 && hasWork s k x.2

/-- Frames that a step of a program may need (R116). -/
def framesNeeded (g : Prog) (x : Stream) : Nat := ceilDiv (imgOutMax g.image) (max 1 (frameTokens x))

/-- The sequence's output stream lacks room for a step. -/
def lacksRoom (s : State) (k : Nat) (g : Prog) (q : Seq) : Bool :=
  match q.outStream.bind fun st => aGet (s.isle k).streams st with
  | none => false
  | some x => x.stopped || decide (slotRoom x < framesNeeded g x)

/-- One more withheld entry: 1 by the batch cap, 2 for pool space, 3 for output room (Table 12.10). -/
def countWithheld (k which : Nat) (s : State) : State :=
  s.mapIsle k fun r => { r with withheld :=
    match which with
    | 1 => (sat32 (r.withheld.1 + 1), r.withheld.2)
    | 2 => (r.withheld.1, sat32 (r.withheld.2.1 + 1), r.withheld.2.2)
    | _ => (r.withheld.1, r.withheld.2.1, sat32 (r.withheld.2.2.1 + 1), r.withheld.2.2.2) }

/-- A sequence is withheld at b. It stays eligible only behind the batch cap. -/
def withhold (k h which : Nat) (s : State) : State :=
  mapSeq k h (fun q => { q with waited := true, eligibleSince := if which = 1 then q.eligibleSince else none }) (countWithheld k which s)

/-- R116: withheld for output room, with one event per stall; a stopped stream posts none. -/
def withholdRoom (k b h : Nat) (q : Seq) (s : State) : State :=
  let s := withhold k h 3 s
  match q.outStream.bind fun st => (aGet (s.isle k).streams st).map fun x => (st, x) with
  | none => s
  | some (st, x) =>
    if x.stopped || x.stalled then s
    else streamEvent k st 3 .eBusy x.producer b (mapStream k st (fun x => { x with stalled := true }) s)

/-- A managed sequence waits for its descriptors, and every one waits while emission pauses (R123, R176). -/
def awaitsEmit (s : State) (b : Nat) (q : Seq) : Bool := q.managed && (!q.emit.isEmpty || decide (b < s.fw.emitPauseUntil))

/-- A sequence that is not eligible at b has to become eligible again (R295). -/
def clearSince (k g : Nat) (l : List (Nat × Seq)) (s : State) : State :=
  let lost := fun (x : Nat × Seq) => x.2.prog == some g && !l.any fun y => y.1 == x.1
  s.mapIsle k fun r => { r with seqs := r.seqs.map fun x => (x.1, if lost x then { x.2 with eligibleSince := none } else x.2) }

/-- Candidates with output room and, if managed, every descriptor emitted; in the order in which they became eligible (R295). -/
def insCand (a : Nat × Nat) : List (Nat × Nat) → List (Nat × Nat)
  | [] => [a]
  | x :: l => if a.1 < x.1 ∨ (a.1 = x.1 ∧ a.2 < x.2) then a :: x :: l else x :: insCand a l

def roomyCands (k b g : Nat) (p : Prog) (s : State) : List (Nat × Nat) × State :=
  (candidates s k g).foldl (fun (a : List (Nat × Nat) × State) x =>
    if awaitsEmit s b x.2 then (a.1, mapSeq k x.1 (fun q => { q with eligibleSince := none }) a.2)
    else if lacksRoom a.2 k p x.2 then (a.1, withholdRoom k b x.1 x.2 a.2)
    else (insCand (x.2.eligibleSince.getD b, x.1) a.1, a.2)) ([], clearSince k g (candidates s k g) s)

/-! ## Admission (R293, R296, R297) -/

/-- Payload bytes of a frame. -/
def payload (f : InFrame) : Nat := f.raw.length - 32

/-- Frames of one kind that fit in what is left of the input area, in ring order. -/
def fitFrames : Option Nat → Nat → List InFrame → List InFrame
  | _, _, [] => []
  | kind, left, f :: rest =>
    if (match kind with | some x => f.kind == x | none => true) && decide (payload f ≤ left)
    then f :: fitFrames (some f.kind) (left - payload f) rest else []

/-- N_in of Table 12.4. -/
def inputPositions (t : Batch) (fs : List InFrame) : Nat :=
  match fs with
  | [] => 0
  | f :: _ => if f.kind = 0 then (fs.map fun f => f.count).sum else (fs.filter fun f => f.count != 0).length * t.featPos

/-- An admitted entry: the sequence, its frames and what the tables say of it. -/
structure Admit where
  h      : Nat
  frames : List InFrame
  a      : Nat
  entry  : Entry12

/-- Reserve and zero A_e slots, lowest first, and take the sequence into the batch (R292). -/
def admitSeq (k : Nat) (t : Batch) (h : Nat) (q : Seq) (fs : List InFrame) (own : Bool) (s : State) : Admit × State :=
  let p := poolOf s k
  let a := t.aDec + inputPositions t fs
  let sl := (freeSlots s k q.owner).take a
  let s := sl.foldl (fun s n => zeroSlot k q.owner n s) s
  let late := match (s.isle k).replay with | some m => m.late | none => false
  let s := mapSeq k h (fun q => { q with prov := sl.map fun n => { slot := n, token := 0 }, eligibleSince := none, late := false }) s
  let s := match q.outStream with | some st => mapStream k st (fun x => { x with stalled := false }) s | none => s
  ({ h := h, frames := fs, a := a,
     entry := { seq := h, a := a, c := q.c, f := q.f, step := q.step, flushable := (q.c - q.f) / pageTok p,
                frames := if own then fs.length else 0, flags := bitIf q.rewound 2 (bitIf (late || q.late || q.lateOn) 1 (bitIf q.waited 0 0)) } }, s)

/-- What admission has done so far: entries, bytes left in the input area, the longest wait in boundaries. -/
structure AdmitAcc where
  list : List Admit := []
  left : Nat
  wait : Nat := 0
  s    : State

/-- One candidate, in its order. -/
def admitOne (k b : Nat) (t : Batch) (h : Nat) (acc : AdmitAcc) : AdmitAcc :=
  match seqOf acc.s k h with
  | none => acc
  | some q =>
    let s := acc.s
    let fs := fitFrames none acc.left (stepFrames s k q)
    let a := t.aDec + inputPositions t fs
    if !stagingHeld (poolOf s k) q || decide ((freeSlots s k q.owner).length < a) then { acc with s := withhold k h 2 s }
    else if t.eCap ≤ acc.list.length then
      { acc with wait := max acc.wait ((b - q.eligibleSince.getD b) / s.tide.epochLen + 1),
                 s := withhold k h 1 (mapSeq k h (fun q => { q with eligibleSince := some (q.eligibleSince.getD b) }) s) }
    else
      let (x, s) := admitSeq k t h q fs true s
      { acc with list := acc.list ++ [x], left := acc.left - (fs.map payload).sum, s := s }

/-- A sequence that its home chip has admitted at b (R297). -/
def admitReplica (k : Nat) (t : Batch) (e : Admitted) (acc : AdmitAcc) : AdmitAcc :=
  match seqOf acc.s k e.handle with
  | none => acc
  | some q =>
    if q.home || inFlight (acc.s.isle k) e.handle then acc else
    let fs := e.frames.map frameOf
    let (x, s) := admitSeq k t e.handle q fs false acc.s
    { acc with list := acc.list ++ [x], left := acc.left - (fs.map payload).sum, s := s }

/-- R297: the home chip tells each replica chip what it admitted to the program of a digest. -/
def tellAdmitted (k digest : Nat) (l : List Admit) (s : State) : State :=
  (otherPresent s).foldl (fun s j =>
    let mine := l.filter fun x => match seqOf s k x.h with | some q => (replicaChips s q).contains j | none => false
    if mine.isEmpty then s else
    ctrlTo j pmAdmission ([k, digest, chipId s] ++ mine.flatMap fun x => x.h :: x.frames.length :: x.frames.map fun f => f.raw.length)
      (mine.flatMap fun x => x.frames.flatMap fun f => f.raw) s) s

/-! ## Tables (Table 12.4, R358) -/

/-- A batch record. -/
def batchBytes (q : Seq) (x : Admit) (off : Nat) : Bytes :=
  let kind := match x.frames with | f :: _ => f.kind | [] => 0
  natLe 4 x.h ++ natLe 4 q.c ++ natLe 4 q.f ++ natLe 4 q.step ++ natLe 8 q.seed ++ natLe 4 q.lastToken ++ natLe 4 off ++
    natLe 2 (x.frames.map fun f => f.count).sum ++ natLe 1 kind ++
    natLe 1 (b2n (x.frames.any fun f => f.eot) + 2 * b2n q.rewound + 4 * b2n q.fresh) ++ natLe 2 x.a ++ natLe 2 x.entry.flushable ++ natLe 24 0

/-- A ragged length entry in use, and an unused one. -/
def raggedBytes (q : Seq) (h : Nat) : Bytes := natLe 4 h ++ natLe 4 q.c ++ natLe 8 0 ++ natLe 4 q.c ++ natLe 44 0
def raggedUnused : Bytes := natLe 4 0xFFFFFFFF ++ natLe 4 0 ++ natLe 2 1 ++ natLe 54 0
def batchUnused : Bytes := natLe 4 0xFFFFFFFF ++ natLe 60 0

/-- n * 2^-24 as binary32, n below 2^24. -/
def uniformBits (n : Nat) : Nat := if n = 0 then 0 else (127 - 24 + Nat.log2 n) * 2 ^ 23 + (n * 2 ^ (23 - Nat.log2 n) - 2 ^ 23)

/-- Four draws of a block (R357). -/
def drawBlock (seed step node blk : Nat) : Bytes :=
  let nats := fun (b : Bytes) => b.map fun x => x.toNat
  let y := aesBlock (nats (natLe 8 seed ++ natLe 8 (seed ^^^ 0x9E3779B97F4A7C15)))
    (nats (natLe 4 step ++ natLe 4 0 ++ natLe 1 node ++ natLe 1 0 ++ natLe 2 blk ++ natLe 4 0))
  (List.range 4).flatMap fun m =>
    natLe 4 (uniformBits ((y.getD (4 * m) 0 + 256 * y.getD (4 * m + 1) 0 + 65536 * y.getD (4 * m + 2) 0 + 2 ^ 24 * y.getD (4 * m + 3) 0) / 256))

/-- The draw table of a released invocation: used entries, then zero (R358). -/
def drawTable (w : Draw) (eCap : Nat) (qs : List Seq) : Bytes :=
  (List.range eCap).flatMap fun e => match qs[e]? with
    | some q => (List.range w.nodes).flatMap fun i => (List.range w.draws).flatMap fun k => drawBlock q.seed q.step i k
    | none => List.replicate (w.nodes * w.draws * 16) 0

/-- Byte offsets of the entries' inputs. -/
def inOffsets : Nat → List Admit → List Nat
  | _, [] => []
  | o, x :: l => o :: inOffsets (o + (x.frames.map payload).sum) l

/-- The tables of invocation table j, at the same program addresses in every view (R355). -/
def writeTables (k j : Nat) (t : Batch) (draw : Option Draw) (l : List Admit) (s : State) : State :=
  let qs := l.map fun x => (seqOf s k x.h).getD {}
  let offs := inOffsets 0 l
  let recs := (List.range t.eCap).flatMap fun e => match l[e]?, qs[e]? with
    | some x, some q => batchBytes q x (offs.getD e 0)
    | _, _ => batchUnused
  let rlt := (List.range t.eCap).flatMap fun e => match l[e]?, qs[e]? with
    | some x, some q => raggedBytes q x.h
    | _, _ => raggedUnused
  let input := l.flatMap fun x => x.frames.flatMap fun f => f.raw.drop 32
  (List.range (hostedCount s)).foldl (fun s v =>
    let s := writeBytes k v (t.recBase + j * t.eCap * 64) recs s
    let s := writeBytes k v (t.rltBase + j * t.eCap * 64) rlt s
    let s := writeBytes k v (t.inBase + j * t.inBytes) input s
    match draw with
    | some w => writeBytes k v (w.base + j * t.eCap * w.nodes * w.draws * 16) (drawTable w t.eCap qs) s
    | none => s) s

/-! ## Invocations (R233, R333) -/

/-- R329, R331, R333: whether a running program may start an invocation at b. -/
def mayStart (s : State) (k b gh : Nat) (g : Prog) : Bool :=
  g.state == .running && (g.mode == 1 || g.oneShot) && !shardsOrphaned s g.shards &&
  !(s.arch.leavers.any fun j => (maskBits g.shards 16).any fun x => shardHost s x == j) &&
  (g.withheldB.isNone || runAgreed s k gh g.mode b)

/-- The sequence's input stream has announced frames for b. -/
def announced (s : State) (k b : Nat) (q : Seq) : Bool :=
  match q.inStream.bind fun st => aGet (s.isle k).streams st with
  | none => false
  | some x => x.dbTicks.any fun d => decide (d.2 < b) && decide (0 < cdiff d.1 x.consumer) && decide (cdiff d.1 x.consumer ≤ x.entries)

/-- Sequences of a program that have input and wait at b for an unpark carry WITHHELD at their next step (R362). -/
def markUnparking (k b gh : Nat) (s : State) : State :=
  s.mapIsle k fun r => { r with seqs := r.seqs.map fun x => (x.1,
    let waits := x.2.state == .unparking || (x.2.state == .parked && (x.2.unparkWanted || s.unparkQ.contains (k, x.1)))
    if x.2.prog == some gh && x.2.home && waits && (announced s k b x.2 || hasWork s k x.2) then { x.2 with waited := true } else x.2) }

/-- The batch of a new invocation: what other home chips admitted, then this chip's own sequences. -/
def admitBatch (k b gh : Nat) (g : Prog) (t : Batch) (s : State) : AdmitAcc :=
  let acc := (s.arch.admissions.filter fun x => x.1 == k && x.2.1 == g.digest).foldl (fun acc x =>
    x.2.2.2.foldl (fun acc e => admitReplica k t e acc) acc) ({ left := t.inBytes, s := s } : AdmitAcc)
  let (l, s) := roomyCands k b gh g (markUnparking k b gh acc.s)
  let n := acc.list.length
  let acc := l.foldl (fun acc x => admitOne k b t x.2 acc) { acc with s := s }
  { acc with s := tellAdmitted k g.digest (acc.list.drop n) acc.s }

/-- The frames that the step receives go into the log (Table 14.4). -/
def logDelivered (k b : Nat) (l : List Admit) (s : State) : State :=
  l.foldl (fun s x => match seqOf s k x.h with
    | some q => if !q.home then s else x.frames.foldl (fun s f => logFrame k b (q.inStream.getD 0xFFFFFFFF) x.h q f.raw s) s
    | none => s) s

/-- A new invocation of a program, released at b. -/
def startInv (k b gh flags : Nat) (g : Prog) (s : State) : State :=
  let phases := imgPhases g.image
  let (l, s) := match g.batch with
    | none => (([] : List Admit), s)
    | some t =>
      let acc := admitBatch k b gh g t s
      let s := writeTables k g.table t g.draw acc.list (logDelivered k b acc.list acc.s)
      (acc.list, addPressure k (fun x => { x with wait := max x.wait acc.wait }) s)
  let num := if g.withheldB.isSome then 0 else g.invCtr
  let i : Inv := { prog := gh, num := num, start := b, table := g.table, finalB := if phases ≤ 1 then s.tide.nextB else 0,
                   entries := l.map fun x => x.entry, flags := flags }
  let dg := g.digest
  let s := if g.withheldB.isSome then s.mapArch fun a => { a with accepts := a.accepts.filter fun r => !(r.isle == k && r.digest == dg) } else s
  let s := s.mapIsle k fun r => { r with
    invs := r.invs ++ [i],
    progs := aMod gh (fun g => { g with
      table := (g.table + 1) % max 1 phases, invCtr := (num + 1) % 2 ^ 32, oneShot := false, withheldB := none }) r.progs }
  -- STEP_DONE and STEP_FAIL that came before the step was known here (R332)
  let early := s.arch.early.filter fun e => e.1 == k && e.2.1 == dg && e.2.2.1 == num
  let s := mapInv k gh num (fun i => early.foldl (fun i e => if e.2.2.2.2 then i.hearsFail e.2.2.2.1 else i.hearsDone e.2.2.2.1) i) s
  s.mapArch fun a => { a with early := a.early.filter fun e => !early.contains e }

/-- The steps in flight enter their next phase, but those of a stopped program, which abort at the next boundary (R256); rows that no TAP
finished in the release count as missed (R278). -/
def advanceInvs (k : Nat) (s : State) : State :=
  s.mapIsle k fun r => { r with
    taps := r.taps.map fun t => { t with pendingRows := t.pendingRows.map fun x => if x.fin then x else { x with fin := true, miss := true } },
    invs := r.invs.map fun i => if i.faulted then i else { i with
      phase := i.phase + 1,
      finalB := if lastPhase r { i with phase := i.phase + 1 } then s.tide.nextB else i.finalB,
      flags := runFlags s k (i.flags ||| r.stepFlags) } }

/-! ## The units' lists (R233, R235, R354) -/

/-- Invocations in descending phase index. -/
def insPhase (a : Inv) : List Inv → List Inv
  | [] => [a]
  | x :: l => if x.phase < a.phase then a :: x :: l else x :: insPhase a l

/-- The list of slot sl in the release: those of every step in flight, the oldest first. -/
def slotTasks (s : State) (k sl : Nat) : List Task :=
  let l := (((s.isle k).invs.filter fun i => !i.faulted).foldl (fun l i => insPhase i l) []).flatMap fun i =>
    match aGet (s.isle k).progs i.prog with
    | none => []
    | some g => (slotDescs g.image i.phase sl).map fun d =>
      ({ id := 0, prog := i.prog, inv := i.num, phase := i.phase, index := d.index, desc := d.d, ext := d.ext } : Task)
  l.mapIdx fun n t => { t with id := n }

/-- R150: operand buffers never survive between invocations: at a release that starts one, the dedicated cores' are zero, and a pool core
zeroes them before the isle's next task (log 98). Non-resident regions keep their bytes (log 98). -/
def clearObs (k b : Nat) (s : State) : State :=
  if !((s.isle k).invs.any fun i => i.start == b) then s
  else if onPool s k then { s with pool := { s.pool with obOwner := s.pool.obOwner.filter fun x => x.2 != k } }
  else s.mapMems fun m => (execCores s k).foldl (fun m c => zeroOb c m) m

/-- Every slice of the isle's cores discards its translations (R168). -/
def clearStu (k : Nat) (s : State) : State :=
  { s with stu := s.stu.filter fun x => !(execCores s k).contains x.1 }

/-- Every unit's list, for each hosted shard's instance, with its window filled (R235); counters are zero (R239), and the conflict mode is
that of the release (R154). -/
def releaseUnits (k b : Nat) (s : State) : State :=
  let lists := (List.range 64).map fun sl => (sl, slotTasks s k sl)
  let us := (List.range (hostedCount s)).flatMap fun h => lists.filterMap fun x =>
    if x.2.isEmpty then none else some (64 * h + x.1, ({ later := x.2, window := 256 / slotsPerCore s k } : TUnit).refill)
  let s := s.mapIsle k fun r => { r with units := us, released := some b, turn := [], overrun := none, strictRel := r.strict }
  let tag := releaseTag s k
  s.mapArch fun a => { a with parts := a.parts.filter fun p => p.isle != k || p.boundary == tag }

/-- Managed sequences that wait for their descriptors mark the steps that follow (R123, R176). -/
def markEmission (k b : Nat) (s : State) : State :=
  let waits := (s.isle k).seqs.any fun q => awaitsEmit s b q.2 && q.2.state == .resident && q.2.prog.isSome
  s.mapIsle k fun r => { r with stepFlags := if waits then bitIf (decide (b < s.fw.emitPauseUntil)) 3 (setBit 0 11) else 0 }

/-- R333: programs whose shards are orphaned are withheld from here on. -/
def markOrphans (k b : Nat) (s : State) : State :=
  s.mapIsle k fun r => { r with progs := r.progs.map fun p =>
    (p.1, if p.2.state == .running && p.2.withheldB.isNone && shardsOrphaned s p.2.shards then { p.2 with withheldB := some b } else p.2) }

/-- Release of one isle at b. -/
def releaseIsle (k b : Nat) (s : State) : State :=
  let flags := runFlags s k (s.isle k).stepFlags
  let s := markOrphans k b (advanceInvs k s)
  let s := (s.isle k).progs.foldl (fun s p => if mayStart s k b p.1 p.2 then startInv k b p.1 flags p.2 s else s) s
  let s := markEmission k b (releaseUnits k b (clearStu k (clearObs k b s)))
  announceDone k (s.mapArch fun a => { a with admissions := a.admissions.filter fun x => x.1 != k })

/-- R390: on each pool core, the member that ran first in the epoch that has ended; a core on which none ran keeps its last (DEDUCED, log
115). -/
def notePoolFirst (s : State) : State :=
  { s with pool := { s.pool with first := s.pool.ranNow.foldl (fun l x => aSet x.1 x.2 l) s.pool.first, ranNow := [] } }

/-- R361: the isles whose log stream lacks room for every record of b, those of the frames that b would consume and deliver among them;
they consume and release nothing, and such records are not made at b. -/
def logFull (paused : List Nat) (b : Nat) (s : State) : List Nat :=
  (List.range 32).filter fun k =>
    (s.isle k).log.isSome && !logWaits (s.isle k) && (
      let v := consumeIsle paused [] k b s
      let v := if releaseBlocked v k b paused [] then v else releaseIsle k b v
      logWaits ((flushLog true k b v).isle k))

/-- Step 5. -/
def stepRelease (paused full : List Nat) (b : Nat) (s : State) : State :=
  let s := notePoolFirst s
  (List.range 32).foldl (fun s k =>
    if (s.isle k).state ≠ .enabled then s
    else if releaseBlocked s k b paused full then shiftIsle k paused full s else releaseIsle k b s) s

end Sys2Proof.Machine
end

