-- ==== Sys2Proof/Machine/Boundary.lean ====
section
/-! DEFINITION. The epoch boundary as the control firmware carries it out (R51, R62, Table 3.6), and the row EPOCH_BOUNDARY. -/

namespace Sys2Proof.Machine

/-! ## Pace (R51, R352) -/

/-- VCORE at or above 0.65 V and the junction at or below 105 degrees C, now and all through the epoch that has ended. -/
def paceLimits (s : State) : Bool := !s.power.paceOut && decide (650 ≤ vcoreNow s) && decide (s.power.hottest ≤ 1050)

/-- A core whose monitor read below 0.80 of nominal in the epoch that has ended; a core without a reading is not slow. -/
def slowCore (paces : List Nat) (c : Nat) : Bool := match paces[c]? with | some p => decide (p < 800) | none => false

/-- R51: sixteen slow epochs in a row set PACE_LOW, and the count starts again. -/
def countSlow (paces : List Nat) (c : Nat) (s : State) : State :=
  if !unitServes s 0 c || !slowCore paces c || !paceLimits s then
    s.mapTide fun x => { x with slowEpochs := aDel x.slowEpochs c }
  else
    let n := (aGet s.tide.slowEpochs c).getD 0 + 1
    if n < 16 then s.mapTide fun x => { x with slowEpochs := aSet c n x.slowEpochs }
    else recordFault dCore c 2 { unit := c } (islesOnCore s c) (s.mapTide fun x => { x with slowEpochs := aDel x.slowEpochs c })

/-- A port to a member is not ACTIVE (Table 14.2). DETOUR is the one flag that tells of a port (R352, DEDUCED, log 131); a request of the
step that takes a detour sets it as well (markDetour). -/
def detoured (s : State) : Bool := (otherPresent s).any fun j => (s.port (myPort s j)).state != .active

/-- PACE and DETOUR of the epoch that has ended, on every step in flight (Table 14.7). -/
def markEpoch (paces : List Nat) (s : State) : State :=
  (List.range 32).foldl (fun s k =>
    let slow := !paceLimits s || (execCores s k).any fun c => slowCore paces c
    s.mapIsle k fun r => { r with invs := r.invs.map fun i => { i with flags := bitIf (detoured s) 4 (bitIf slow 7 i.flags) } }) s

/-- The pace monitors' readings of the epoch. -/
def readPaces (paces : List Nat) (s : State) : State :=
  ((List.range 64).foldl (fun s c => countSlow paces c s) (markEpoch paces (s.mapTide fun x => { x with paces := paces }))).mapPower
    fun p => { p with paceOut := false }

/-! ## The replay index (R365, R366) -/

/-- A command of the index to come has not completed yet. -/
def indexPending (s : State) (k next : Nat) : Bool :=
  (s.func k).cmds.any fun c => c.data && !atBoundary cmdTable c && decide (c.hdr.token ≤ next) && (unexecuted c.phase || c.phase == .final)

/-- An isle in replay mode moves to the next index, or pauses. -/
def replayStep (k b : Nat) (a : List Nat × State) : List Nat × State :=
  match (a.2.isle k).replay with
  | none => a
  | some m =>
    if b < m.start then a else
    let next := replayIndex m
    if (m.started && decide (m.horizon < next)) || indexPending a.2 k next then (k :: a.1, a.2)
    else (a.1, a.2.mapIsle k fun r => { r with replay := some { m with index := next, started := true } })

/-! ## The boundary -/

/-- The record of the epoch that starts, at the head of each enabled isle's list (R469); 1,024 complete ones are kept. -/
def newPressure (s : State) : State :=
  s.mapIsles fun r => if r.state = .enabled then { r with pressure := {} :: r.pressure.take 1024 } else r

/-- Steps 1 to 5 at b. -/
def boundarySteps (b : Nat) (paces : List Nat) (s0 : State) : State :=
  let s0 := readPaces paces s0
  let s1 := (List.range 32).foldl (fun s k => settleIsle k b s) s0
  let s1 := writeShadows true s0 (flushLogs false b s1)
  let first := (List.range 32).flatMap fun k => (movedVectors s0 s1 k).map fun v => (k, v)
  let (paused, s2) := (List.range 32).foldl (fun a k => replayStep k b a) (([] : List Nat), stepActions b s1)
  let s3 := flushLogs true b (stepCommands paused b s2)
  let full := logFull paused b s3
  let s4 := stepInputs paused full b s3
  let s4 := writeShadows false s0 s4
  let s5 := flushLogs true b (stepRelease paused full b s4)
  signalStreams first s0 (writeShadows true s1 s5)

/-- EPOCH_BOUNDARY: the tide count reaches the next boundary, and fuse programming whose time has passed ends. At a boundary that the CP
fails to acknowledge nothing else happens, and the fourth in a row is WATCHDOG (R445); after a fatal fault nothing is released or committed
(R454). -/
def execEpochBoundary (cpAck : Bool) (paces : List Nat) (s : State) : Host.Outcome State Fault Refusal :=
  if !counting s then .next s else
  let b := s.tide.nextB
  let e := s.tide.epochLen
  let s := settleBurns ((advanceCount b s).mapTide fun x => { x with nextB := b + e })
  if !isReady s then .next (if s.halt.isSome then loseStackPages b s else if s.boot.fwRunning && cpAck then readPaces paces s else s)
  else if !cpAck then
    let n := s.tide.cpMissed + 1
    let s := s.mapTide fun x => { x with cpMissed := n }
    .next (if n = 4 then recordFault dCp 0 0 {} [] s else s)
  else
    let s := s.mapTide fun x => { x with cpMissed := 0 }
    .next (pumpAll cmdTable (newPressure (boundarySteps b paces s)))

end Sys2Proof.Machine
end

