-- ==== Sys2Proof/Machine/Mctp.lean ====
section
/-! DEFINITION. Chapter 18's MCTP interface (R461, R462), and JTAG (R411, R481). -/

namespace Sys2Proof.Machine

/-! ## Standby island -/

/-- Table 18.10. -/
def standbyBytes (r : Standby) : Bytes :=
  natLe 1 (b2n r.brownout + b2n r.strapUnstable * 2 + b2n r.thermtrip * 4 + b2n r.fatal.isSome * 8 + r.rail * 16) ++
  natLe 1 r.railStack ++ natLe 1 r.tripTemp ++ natLe 1 r.brownouts ++
  natLe 1 (match r.fatal with | some f => f.1 | none => 0) ++ natLe 1 (match r.fatal with | some f => f.2 | none => 0) ++ natLe 2 0

/-- The standby island answers whenever VSTBY is in regulation. -/
def standbyAnswers (resp : Bytes) (s : State) : Host.Outcome State Fault Refusal :=
  if s.standby.vstbyUp then .next (s.emit (.mctp resp)) else .next s

/-- The control firmware answers, or an error response stands in for it (R461): completion code ERROR. -/
def fwAnswers (resp : Bytes) (s : State) : Host.Outcome State Fault Refusal :=
  if !s.standby.vstbyUp then .next s
  else if s.boot.fwRunning && !s.boot.inReset then .next (s.emit (.mctp (0 :: resp)))
  else .next (s.emit (.mctp [1]))

/-- Set Endpoint ID: accepted, the identifier set, no EID pool (DSP0236; log 21). -/
def execSetEndpointId (eid : Nat) (s : State) : Host.Outcome State Fault Refusal :=
  if s.standby.vstbyUp then
    .next ((s.mapStandby fun r => { r with eid := eid }).emit (.mctp ([0, 0] ++ natLe 1 eid ++ [0])))
  else .next s

/-- Get Endpoint ID: the identifier, a simple endpoint (DSP0236; log 21). -/
def execGetEndpointId (s : State) : Host.Outcome State Fault Refusal :=
  standbyAnswers ([0] ++ natLe 1 s.standby.eid ++ [0, 0]) s

/-- Get MCTP Version Support: one entry, whose version number the spec does not give: free. -/
def execGetMctpVersionSupport (s : State) : Host.Outcome State Fault Refusal :=
  let (v, s) := drawNat s
  standbyAnswers ([0, 1] ++ natLe 4 v) s

/-- Get Message Type Support: the one message type beyond control, 0x7E (R461). -/
def execGetMessageTypeSupport (s : State) : Host.Outcome State Fault Refusal := standbyAnswers [0, 1, 0x7E] s

def execGetStandbyRecord (s : State) : Host.Outcome State Fault Refusal := standbyAnswers (0 :: standbyBytes s.standby) s

/-- BROWNOUT, STRAP_UNSTABLE and FATAL are cleared; THERMTRIP stays. -/
def execClearStandbyRecord (s : State) : Host.Outcome State Fault Refusal :=
  standbyAnswers [0] (if s.standby.vstbyUp then
    s.mapStandby fun r => { r with brownout := false, strapUnstable := false, fatal := none, recFresh := false } else s)

/-- R460 over MCTP: the completion code is an error when FLT_SEQ has advanced. -/
def execMctpAlertAck (fltSeq : Nat) (s : State) : Host.Outcome State Fault Refusal :=
  standbyAnswers (if fltSeq = s.faults.seq then [0] else [1]) (if s.standby.vstbyUp then ackAlert fltSeq s else s)

/-! ## Control firmware -/

def execGetFaultSummary (s : State) : Host.Outcome State Fault Refusal :=
  fwAnswers (natLe 4 (fltSummary s.faults) ++ natLe 4 s.faults.seq ++ natLe 8 (fltCore s.faults) ++ natLe 4 (fltPorts s.faults) ++
    natLe 4 (devBoot s 0)) s

def execGetFaultWord (domain inst : Nat) (s : State) : Host.Outcome State Fault Refusal :=
  let i := instOf s.faults domain inst
  fwAnswers (natLe 4 i.word ++ natLe 4 i.gen ++ captureBytes i.cap) s

/-- Pace of each quadrant of 4 × 4 cores: the slowest core's, over the last epoch. -/
def quadrantPace (s : State) (q : Nat) : Nat :=
  ((List.range 64).filter fun c => c / 32 == q / 2 && c % 8 / 4 == q % 2).foldl (fun m c => min m (s.tide.paces.getD c 0)) 1000000

/-- Unit states by class: the number of units of each class in each state (Table 18.11). -/
def unitStateCounts (s : State) : Bytes :=
  (List.range 6).flatMap fun cls => (List.range 5).flatMap fun st =>
    natLe 2 ((List.range (classCount cls)).filter fun i => unitState s cls i == st).length

/-- Table 18.11 in its order, every reading 4 bytes: the layout is the model's. -/
def telemetryBytes (s : State) : Bytes :=
  let t := s.power.tele
  natLe 4 t.hottest ++ t.quadrants.flatMap (natLe 4) ++ t.stackTemps.flatMap (natLe 4) ++ t.cartTemps.flatMap (natLe 4) ++
  natLe 4 (vcoreNow s) ++ t.measured.flatMap (natLe 4) ++ natLe 4 t.current ++ natLe 4 t.power ++
  (List.range 4).flatMap (fun q => natLe 4 (quadrantPace s q)) ++
  natLe 8 s.tide.count ++ natLe 4 s.tide.epochLen ++ natLe 4 s.tide.leader ++ natLe 4 s.boot.phase ++ natLe 4 (if s.boot.limbo.isSome then 0xE else s.sec.lc) ++
  unitStateCounts s

def execGetTelemetry (s : State) : Host.Outcome State Fault Refusal := fwAnswers (telemetryBytes s) s

/-- The last PMBus readings of one regulator of the configuration record; an index beyond it is an error. -/
def execGetRegulator (index : Nat) (s : State) : Host.Outcome State Fault Refusal :=
  if index < s.boot.cfg.regulators.length then fwAnswers (s.power.tele.regulators.getD index []) s
  else if s.standby.vstbyUp then .next (s.emit (.mctp [1])) else .next s

/-! ## JTAG (R411, R481) -/

/-- States in which every JTAG instruction is open: UNPROVISIONED, PROVISIONED, RETURNED, and FIELD_DEBUG after an unlock whose
SCOPE opens JTAG (Table 16.6, R410). Before FUSES no state is decided and JTAG is restricted. -/
def jtagFull (s : State) : Bool :=
  !s.boot.inReset && s.boot.limbo.isNone && s.boot.phase != phStraps && s.boot.phase != phFuses &&
    (s.sec.lc == 0 || s.sec.lc == 1 || s.sec.lc == 4 || (match s.sec.unlocked with | some sc => sc.testBit 0 | none => false))

/-- SAMPLE/PRELOAD and EXTEST are decoded while PERST_N is held low, or where JTAG is full. -/
def boundaryOpen (s : State) : Bool := !s.pins.perstN || jtagFull s

/-- BYPASS: one bit, captured 0. -/
def execBypass (s : State) : Host.Outcome State Fault Refusal :=
  .next ((s.mapSec fun c => { c with jtagIr := 0 }).emit (.jtag 0))

/-- IDCODE (R481). -/
def idcode (s : State) : Nat := if s.fuses.stepping = 0xA1 then 0x1D01098B else 0x2D01098B

def execIdcode (s : State) : Host.Outcome State Fault Refusal :=
  .next ((s.mapSec fun c => { c with jtagIr := 1 }).emit (.jtag (idcode s)))

/-- Levels of the sideband pins that this model holds, low bit first. -/
def pinLevels (s : State) : Nat :=
  b2n s.pins.perstN + b2n (!s.pins.readyLow) * 2 + b2n (!faultNLow s) * 4 + b2n (!s.pins.alertLow) * 8 + b2n s.pins.syncHigh * 16 +
  b2n (s.pins.cayPwr.getD 0 false) * 32 + b2n (s.pins.cayPwr.getD 1 false) * 64 + b2n (s.pins.cayPerst.getD 0 false) * 128 +
  b2n (s.pins.cayPerst.getD 1 false) * 256 + b2n (s.pins.cayPrsnt.getD 0 true) * 512 + b2n (s.pins.cayPrsnt.getD 1 true) * 1024 +
  b2n (!s.standby.thermtrip) * 2048

/-- SAMPLE/PRELOAD captures the pins. -/
def execSamplePreload (s : State) : Host.Outcome State Fault Refusal :=
  if boundaryOpen s then
    .next ((s.mapSec fun c => { c with jtagIr := 2, boundary := pinLevels s }).emit (.jtag (pinLevels s)))
  else .next s

/-- EXTEST drives the output pins from what was preloaded. -/
def execExtest (s : State) : Host.Outcome State Fault Refusal :=
  if boundaryOpen s then
    .next ((List.range 12).foldl (fun s i => s.emit (.strobe (16 + i) (s.sec.boundary.testBit i))) (s.mapSec fun c => { c with jtagIr := 3 }))
  else .next s

end Sys2Proof.Machine
end

