-- ==== Sys2Proof/Machine/Rows.lean ====
section
/-! DEFINITION. The rows of the mailbox (R102, R104, R107, R110, R111) and the rows whose end lets waiting commands go on: each command of
Table 20.2 as its function sends it, slots, refusal quanta, answers of peers, host transfers, agreed counts (R64). -/

namespace Sys2Proof.Machine

/-! ## Slots, refusals, answers -/

/-- R102: the device copies a doorbelled slot. -/
def execSlotCopy (fn slot : Nat) (s : State) : Host.Outcome State Fault Refusal := .next (pumpAll cmdTable (copySlot cmdTable fn slot s))

/-- The tick at which a command's refusal is due. -/
def dueTick (c : Cmd) : Option Nat := match c.phase with | .refusal q _ _ => some q | .peer q => some q | _ => none

/-- The ticks at which an entry of a function falls due: the quanta of its refusals (R110, R111), and for the PF the end of the fuse
programming that one of its commands waits for (log 91). -/
def dueTimes (fn : Nat) (s : State) : List Nat :=
  ((s.func fn).cmds.filterMap dueTick).map (fun q => s.clk.ticks + (q - quantNow s)) ++ (if fn = 0 then (nextBurnStop s).toList else [])

/-- The earliest of them has come. -/
def execRefusalQuantum (fn : Nat) (s : State) : Host.Outcome State Fault Refusal :=
  match (dueTimes fn s).min? with
  | none => .next s
  | some t => .next (pumpAll cmdTable (dueRefusals fn (settleBurns (advanceTicks t s))))

def allStatus : List Status :=
  [.sOk, .sPending, .eBadcmd, .eBadarg, .eBadlen, .eDenied, .eState, .eBusy, .eNores, .eFault, .ePoison, .eRng, .ePeerLost,
   .eCollectiveAbort, .eLink, .eCart, .eCartLost, .eCartAuth, .eLevel, .eSealCheck, .eOverrun, .eRetry, .eLimbo]

/-- The status of a code (Table 20.3). -/
def statusOf (n : Nat) : Option Status := allStatus.find? fun x => statusCode x == n

/-- Some replica chip of a create has no window over its pools open for this chip (R288). -/
def lacksWindow (s : State) (c : Cmd) (found : List (Nat × Nat × Nat)) : Bool :=
  c.hdr.opcode == 0x0502 && (otherPartners s (createReplicas c.payload)).any fun j => !found.any fun x => x.1 == j

/-- The lowest chip of an ARCH_FORM that runs another DEV_FW_VERSION or epoch length (Table 13.5). -/
def formMisfit (s : State) (c : Cmd) (found : List (Nat × Nat × Nat)) : Option Nat :=
  if c.hdr.opcode ≠ specArchForm.opcode then none else
  ((found.filter fun x => x.2.1 != s.fw.ifVersion || x.2.2 != s.tide.epochLen).map fun x => x.1).min?

/-- R111: the peers' answer to a peer-checked command: S_OK lets it execute, another status refuses it. With a create come what the
replica chips found and their windows (R288, R305); with ARCH_FORM each chip's ID, DEV_FW_VERSION and epoch length, and with its refusal the
chip that refuses (Table 13.5); a rewind is named now, as it goes to the replicas (R302). -/
def execPeerAnswer (fn tag status : Nat) (found : List (Nat × Nat × Nat)) (s : State) : Host.Outcome State Fault Refusal :=
  match statusOf status, (s.func fn).cmds.find? fun c => c.hdr.tag == tag && awaitsPeer c with
  | none, _ => .next s
  | some _, none => .next s
  | some .sOk, some c =>
    if answersLate s c then .next s
    else if lacksWindow s c found then .next (answerPeer cmdTable fn tag (some .eState) 0 s)
    else match formMisfit s c found with
    | some j => .next (answerPeer cmdTable fn tag (some .eState) j s)
    | none =>
      let s := if c.hdr.opcode = 0x0502 then setAux fn c.seq (0 :: found.flatMap fun x => [x.1, x.2.1, x.2.2]) s else s
      .next (nameRewinds (tideNow s) s.tide.nextB (answerPeer cmdTable fn tag none 0 s))
  | some st, some c =>
    let detail := if c.hdr.opcode = specArchForm.opcode then (found.headD (0, 0, 0)).1 else 0
    .next (if answersLate s c then s else answerPeer cmdTable fn tag (some st) detail s)

/-- R155, R231, R122, R429: the transfer of a load or store has ended, with or without an error of the host's memory (R98). -/
def execHostTransferDone (fn tag : Nat) (ok : Bool) (s : State) : Host.Outcome State Fault Refusal :=
  match (s.func fn).cmds.find? fun c => c.hdr.tag == tag && c.phase == .final with
  | none => .next s
  | some c =>
    let op := c.hdr.opcode
    .next (pumpAll cmdTable (
      if op = 0x0302 then memLoadDone fn c ok s
      else if op = 0x0303 then memStoreDone fn c ok s
      else if op = 0x0400 then progLoadDone fn c ok s
      else if op = 0x0C01 then fwStageDone fn c ok s
      else if op = specSealKeyLoad.opcode then sealKeyLoadDone fn c ok s
      else s))

/-- R331: a PROG_RUN whose match is missing after 1 s. -/
def execProgRunTimeout (isle prog : Nat) (s : State) : Host.Outcome State Fault Refusal := .next (pumpAll cmdTable (runTimeout isle prog s))

/-! ## Agreed counts, entropy -/

/-- What follows a change of the agreed counts: jobs that lost theirs end, and commands that waited behind others start. -/
def settled (s : State) : State := pumpAll cmdTable (settleJobs s)

def execAgreedCountAck (t : Nat) (h : FlitHdr) (act : Action) (s : State) : Host.Outcome State Fault Refusal :=
  .next (settled (onTide h (takeAck t h.orig act) s))
def execConfirmDeadline (t : Nat) (s : State) : Host.Outcome State Fault Refusal := .next (settled (onConfirmDeadline t s))
def execAgreedCountMiss (t : Nat) (h : FlitHdr) (act : Action) (s : State) : Host.Outcome State Fault Refusal :=
  .next (settled (onTide h (takeMiss t h.orig act) s))

/-- R418, R419: a start-up test of the entropy source has ended. -/
def execStartupTestDone (samples : List Bool) (s : State) : Host.Outcome State Fault Refusal :=
  .next (pumpAll cmdTable (onStartupTestDone samples s))

/-! ## The commands of Table 20.2 -/

/-- BOOT_IMAGE_PUSH: the loader serves it in slot 0 of the PF; the running firmware knows no such opcode (Table 4.6). -/
def execBootImagePush (c : MbxArg) (s : State) : Host.Outcome State Fault Refusal :=
  let h := { c.hdr with opcode := 0x0C00 }
  if loaderServes s c.fn c.slot then .next (loaderCommand h (c.payload.take h.plen) s)
  else .next (hostRow cmdTable none c.fn c.slot h c.payload s)

def execTideQuery (c : MbxArg) (s : State) : Host.Outcome State Fault Refusal := .next (mbxRow cmdTable specTideQuery c s)
def execTideEpochSet (c : MbxArg) (s : State) : Host.Outcome State Fault Refusal := .next (mbxRow cmdTable specTideEpochSet c s)
def execPaceQuery (c : MbxArg) (s : State) : Host.Outcome State Fault Refusal := .next (mbxRow cmdTable specPaceQuery c s)
def execIsleCreate (c : MbxArg) (s : State) : Host.Outcome State Fault Refusal := .next (mbxRow cmdTable specIsleCreate c s)
def execIsleResize (c : MbxArg) (s : State) : Host.Outcome State Fault Refusal := .next (mbxRow cmdTable specIsleResize c s)
def execIsleDestroy (c : MbxArg) (s : State) : Host.Outcome State Fault Refusal := .next (mbxRow cmdTable specIsleDestroy c s)
def execIsleEnable (c : MbxArg) (s : State) : Host.Outcome State Fault Refusal := .next (mbxRow cmdTable specIsleEnable c s)
def execIsleDisable (c : MbxArg) (s : State) : Host.Outcome State Fault Refusal := .next (mbxRow cmdTable specIsleDisable c s)
def execIsleReset (c : MbxArg) (s : State) : Host.Outcome State Fault Refusal := .next (mbxRow cmdTable specIsleReset c s)
def execIsleQosSet (c : MbxArg) (s : State) : Host.Outcome State Fault Refusal := .next (mbxRow cmdTable specIsleQosSet c s)
def execIsleQuery (c : MbxArg) (s : State) : Host.Outcome State Fault Refusal := .next (mbxRow cmdTable specIsleQuery c s)
def execPoolSet (c : MbxArg) (s : State) : Host.Outcome State Fault Refusal := .next (mbxRow cmdTable specPoolSet c s)
def execSlotTableSet (c : MbxArg) (s : State) : Host.Outcome State Fault Refusal := .next (mbxRow cmdTable specSlotTableSet c s)
def execPressureQuery (c : MbxArg) (s : State) : Host.Outcome State Fault Refusal := .next (mbxRow cmdTable specPressureQuery c s)
def execMemQuery (c : MbxArg) (s : State) : Host.Outcome State Fault Refusal := .next (mbxRow cmdTable specMemQuery c s)
def execMemResidentSet (c : MbxArg) (s : State) : Host.Outcome State Fault Refusal := .next (mbxRow cmdTable specMemResidentSet c s)
def execMemLoad (c : MbxArg) (s : State) : Host.Outcome State Fault Refusal := .next (mbxRow cmdTable specMemLoad c s)
def execMemStore (c : MbxArg) (s : State) : Host.Outcome State Fault Refusal := .next (mbxRow cmdTable specMemStore c s)
def execMemModeSet (c : MbxArg) (s : State) : Host.Outcome State Fault Refusal := .next (mbxRow cmdTable specMemModeSet c s)
def execT1Query (c : MbxArg) (s : State) : Host.Outcome State Fault Refusal := .next (mbxRow cmdTable specT1Query c s)
def execProgLoad (c : MbxArg) (s : State) : Host.Outcome State Fault Refusal := .next (mbxRow cmdTable specProgLoad c s)
def execProgUnload (c : MbxArg) (s : State) : Host.Outcome State Fault Refusal := .next (mbxRow cmdTable specProgUnload c s)
def execProgRun (c : MbxArg) (s : State) : Host.Outcome State Fault Refusal := .next (mbxRow cmdTable specProgRun c s)
def execProgQuery (c : MbxArg) (s : State) : Host.Outcome State Fault Refusal := .next (mbxRow cmdTable specProgQuery c s)
def execTapArm (c : MbxArg) (s : State) : Host.Outcome State Fault Refusal := .next (mbxRow cmdTable specTapArm c s)
def execTapClose (c : MbxArg) (s : State) : Host.Outcome State Fault Refusal := .next (mbxRow cmdTable specTapClose c s)
def execTapQuery (c : MbxArg) (s : State) : Host.Outcome State Fault Refusal := .next (mbxRow cmdTable specTapQuery c s)
def execStreamCreate (c : MbxArg) (s : State) : Host.Outcome State Fault Refusal := .next (mbxRow cmdTable specStreamCreate c s)
def execStreamDestroy (c : MbxArg) (s : State) : Host.Outcome State Fault Refusal := .next (mbxRow cmdTable specStreamDestroy c s)
def execStreamQuery (c : MbxArg) (s : State) : Host.Outcome State Fault Refusal := .next (mbxRow cmdTable specStreamQuery c s)
def execSeqPoolSet (c : MbxArg) (s : State) : Host.Outcome State Fault Refusal := .next (mbxRow cmdTable specSeqPoolSet c s)
def execSeqBatchSet (c : MbxArg) (s : State) : Host.Outcome State Fault Refusal := .next (mbxRow cmdTable specSeqBatchSet c s)
def execSeqCreate (c : MbxArg) (s : State) : Host.Outcome State Fault Refusal := .next (mbxRow cmdTable specSeqCreate c s)
def execSeqDestroy (c : MbxArg) (s : State) : Host.Outcome State Fault Refusal := .next (mbxRow cmdTable specSeqDestroy c s)
def execSeqBind (c : MbxArg) (s : State) : Host.Outcome State Fault Refusal := .next (mbxRow cmdTable specSeqBind c s)
def execSeqQuery (c : MbxArg) (s : State) : Host.Outcome State Fault Refusal := .next (mbxRow cmdTable specSeqQuery c s)
def execSeqRewind (c : MbxArg) (s : State) : Host.Outcome State Fault Refusal := .next (mbxRow cmdTable specSeqRewind c s)
def execSeqPark (c : MbxArg) (s : State) : Host.Outcome State Fault Refusal := .next (mbxRow cmdTable specSeqPark c s)
def execSeqWakeHint (c : MbxArg) (s : State) : Host.Outcome State Fault Refusal := .next (mbxRow cmdTable specSeqWakeHint c s)
def execSeqPrefixDrop (c : MbxArg) (s : State) : Host.Outcome State Fault Refusal := .next (mbxRow cmdTable specSeqPrefixDrop c s)
def execAdmitSet (c : MbxArg) (s : State) : Host.Outcome State Fault Refusal := .next (mbxRow cmdTable specAdmitSet c s)
def execArchQuery (c : MbxArg) (s : State) : Host.Outcome State Fault Refusal := .next (mbxRow cmdTable specArchQuery c s)
def execArchForm (c : MbxArg) (s : State) : Host.Outcome State Fault Refusal := .next (mbxRow cmdTable specArchForm c s)
def execArchLeave (c : MbxArg) (s : State) : Host.Outcome State Fault Refusal := .next (mbxRow cmdTable specArchLeave c s)
def execPortQuery (c : MbxArg) (s : State) : Host.Outcome State Fault Refusal := .next (mbxRow cmdTable specPortQuery c s)
def execWinOpen (c : MbxArg) (s : State) : Host.Outcome State Fault Refusal := .next (mbxRow cmdTable specWinOpen c s)
def execWinClose (c : MbxArg) (s : State) : Host.Outcome State Fault Refusal := .next (mbxRow cmdTable specWinClose c s)
def execWinQuery (c : MbxArg) (s : State) : Host.Outcome State Fault Refusal := .next (mbxRow cmdTable specWinQuery c s)
def execReplayLogSet (c : MbxArg) (s : State) : Host.Outcome State Fault Refusal := .next (mbxRow cmdTable specReplayLogSet c s)
def execReplayLogStop (c : MbxArg) (s : State) : Host.Outcome State Fault Refusal := .next (mbxRow cmdTable specReplayLogStop c s)
def execReplayStart (c : MbxArg) (s : State) : Host.Outcome State Fault Refusal := .next (mbxRow cmdTable specReplayStart c s)
def execReplayAdvance (c : MbxArg) (s : State) : Host.Outcome State Fault Refusal := .next (mbxRow cmdTable specReplayAdvance c s)
def execReplayStop (c : MbxArg) (s : State) : Host.Outcome State Fault Refusal := .next (mbxRow cmdTable specReplayStop c s)
def execDetQuery (c : MbxArg) (s : State) : Host.Outcome State Fault Refusal := .next (mbxRow cmdTable specDetQuery c s)
def execShardSelect (c : MbxArg) (s : State) : Host.Outcome State Fault Refusal := .next (mbxRow cmdTable specShardSelect c s)
def execDrawSet (c : MbxArg) (s : State) : Host.Outcome State Fault Refusal := .next (mbxRow cmdTable specDrawSet c s)
def execLcQuery (c : MbxArg) (s : State) : Host.Outcome State Fault Refusal := .next (mbxRow cmdTable specLcQuery c s)
def execLcChallenge (c : MbxArg) (s : State) : Host.Outcome State Fault Refusal := .next (mbxRow cmdTable specLcChallenge c s)
def execLcTransition (c : MbxArg) (s : State) : Host.Outcome State Fault Refusal := .next (mbxRow cmdTable specLcTransition c s)
def execDebugUnlock (c : MbxArg) (s : State) : Host.Outcome State Fault Refusal := .next (mbxRow cmdTable specDebugUnlock c s)
def execAttestCerts (c : MbxArg) (s : State) : Host.Outcome State Fault Refusal := .next (mbxRow cmdTable specAttestCerts c s)
def execAttestQuote (c : MbxArg) (s : State) : Host.Outcome State Fault Refusal := .next (mbxRow cmdTable specAttestQuote c s)
def execKeyAdvance (c : MbxArg) (s : State) : Host.Outcome State Fault Refusal := .next (mbxRow cmdTable specKeyAdvance c s)
def execKeyRevoke (c : MbxArg) (s : State) : Host.Outcome State Fault Refusal := .next (mbxRow cmdTable specKeyRevoke c s)
def execKeyEpochRotate (c : MbxArg) (s : State) : Host.Outcome State Fault Refusal := .next (mbxRow cmdTable specKeyEpochRotate c s)
def execKeyEpochRetire (c : MbxArg) (s : State) : Host.Outcome State Fault Refusal := .next (mbxRow cmdTable specKeyEpochRetire c s)
def execKeyEpochQuery (c : MbxArg) (s : State) : Host.Outcome State Fault Refusal := .next (mbxRow cmdTable specKeyEpochQuery c s)
def execEntropyQuery (c : MbxArg) (s : State) : Host.Outcome State Fault Refusal := .next (mbxRow cmdTable specEntropyQuery c s)
def execEntropyRestart (c : MbxArg) (s : State) : Host.Outcome State Fault Refusal := .next (mbxRow cmdTable specEntropyRestart c s)
def execRngRead (c : MbxArg) (s : State) : Host.Outcome State Fault Refusal := .next (mbxRow cmdTable specRngRead c s)
def execCartQuery (c : MbxArg) (s : State) : Host.Outcome State Fault Refusal := .next (mbxRow cmdTable specCartQuery c s)
def execCartPair (c : MbxArg) (s : State) : Host.Outcome State Fault Refusal := .next (mbxRow cmdTable specCartPair c s)
def execCartUnpair (c : MbxArg) (s : State) : Host.Outcome State Fault Refusal := .next (mbxRow cmdTable specCartUnpair c s)
def execCartLifeSet (c : MbxArg) (s : State) : Host.Outcome State Fault Refusal := .next (mbxRow cmdTable specCartLifeSet c s)
def execCartTimeSet (c : MbxArg) (s : State) : Host.Outcome State Fault Refusal := .next (mbxRow cmdTable specCartTimeSet c s)
def execCartEject (c : MbxArg) (s : State) : Host.Outcome State Fault Refusal := .next (mbxRow cmdTable specCartEject c s)
def execCartQuiesce (c : MbxArg) (s : State) : Host.Outcome State Fault Refusal := .next (mbxRow cmdTable specCartQuiesce c s)
def execSealPsetSet (c : MbxArg) (s : State) : Host.Outcome State Fault Refusal := .next (mbxRow cmdTable specSealPsetSet c s)
def execSealKeyLoad (c : MbxArg) (s : State) : Host.Outcome State Fault Refusal := .next (mbxRow cmdTable specSealKeyLoad c s)
def execSealKeyDrop (c : MbxArg) (s : State) : Host.Outcome State Fault Refusal := .next (mbxRow cmdTable specSealKeyDrop c s)
def execSealQuery (c : MbxArg) (s : State) : Host.Outcome State Fault Refusal := .next (mbxRow cmdTable specSealQuery c s)
def execFaultQuery (c : MbxArg) (s : State) : Host.Outcome State Fault Refusal := .next (mbxRow cmdTable specFaultQuery c s)
def execFaultClear (c : MbxArg) (s : State) : Host.Outcome State Fault Refusal := .next (mbxRow cmdTable specFaultClear c s)
def execUnitRetire (c : MbxArg) (s : State) : Host.Outcome State Fault Refusal := .next (mbxRow cmdTable specUnitRetire c s)
def execUnitReturn (c : MbxArg) (s : State) : Host.Outcome State Fault Refusal := .next (mbxRow cmdTable specUnitReturn c s)
def execUnitQuery (c : MbxArg) (s : State) : Host.Outcome State Fault Refusal := .next (mbxRow cmdTable specUnitQuery c s)
def execAlertAck (c : MbxArg) (s : State) : Host.Outcome State Fault Refusal := .next (mbxRow cmdTable specAlertAck c s)
def execFwStage (c : MbxArg) (s : State) : Host.Outcome State Fault Refusal := .next (mbxRow cmdTable specFwStage c s)
def execFwActivate (c : MbxArg) (s : State) : Host.Outcome State Fault Refusal := .next (mbxRow cmdTable specFwActivate c s)

end Sys2Proof.Machine
end

