-- ==== Sys2Proof/Machine/Dispatch.lean ====
section
/-! DEFINITION. What a command does to everything but the queue: one arm per row of spec/opcode_table.json. -/

namespace Sys2Proof.Machine

def exec (i : Instr) (s : State) : Host.Outcome State Fault Refusal :=
  match i with
  | .vstbyPowerOn noiseOk => Sys2Proof.Machine.execVstbyPowerOn noiseOk s
  | .perstNAssert => Sys2Proof.Machine.execPerstNAssert s
  | .cayPwrEnTristate => Sys2Proof.Machine.execCayPwrEnTristate s
  | .perstNRelease railsOk => Sys2Proof.Machine.execPerstNRelease railsOk s
  | .brownout rail => Sys2Proof.Machine.execBrownout rail s
  | .vstbyBrownout => Sys2Proof.Machine.execVstbyBrownout s
  | .railMargin rail present => Sys2Proof.Machine.execRailMargin rail present s
  | .strapLatch samples => Sys2Proof.Machine.execStrapLatch samples s
  | .thermalThreshold deciC => Sys2Proof.Machine.execThermalThreshold deciC s
  | .thermtrip degC => Sys2Proof.Machine.execThermtrip degC s
  | .sensorFail sensor => Sys2Proof.Machine.execSensorFail sensor s
  | .avsCommand mV => Sys2Proof.Machine.execAvsCommand mV s
  | .avsLost => Sys2Proof.Machine.execAvsLost s
  | .telemetryRefresh t => Sys2Proof.Machine.execTelemetryRefresh t s
  | .fuses => Sys2Proof.Machine.execFuses s
  | .romLoad copy0 copy1 mfg => Sys2Proof.Machine.execRomLoad copy0 copy1 mfg s
  | .fwStart katOk cfg => Sys2Proof.Machine.execFwStart katOk cfg s
  | .fwStartTimeout => Sys2Proof.Machine.execFwStartTimeout s
  | .memTest r => Sys2Proof.Machine.execMemTest r s
  | .portTrain ports => Sys2Proof.Machine.execPortTrain ports s
  | .align => Sys2Proof.Machine.execAlign s
  | .alignTimeout => Sys2Proof.Machine.execAlignTimeout s
  | .hbmTrain failedStacks failedPcs => Sys2Proof.Machine.execHbmTrain failedStacks failedPcs s
  | .hbmZero => Sys2Proof.Machine.execHbmZero s
  | .ready => Sys2Proof.Machine.execReady s
  | .tideSyncReleaseStopped => Sys2Proof.Machine.execTideSyncReleaseStopped s
  | .configRequest req => Sys2Proof.Machine.execConfigRequest req s
  | .pushTransferDone readOk => Sys2Proof.Machine.execPushTransferDone readOk s
  | .pushVerifyDone => Sys2Proof.Machine.execPushVerifyDone s
  | .markDrive => Sys2Proof.Machine.execMarkDrive s
  | .markRelease => Sys2Proof.Machine.execMarkRelease s
  | .markDetect pulse => Sys2Proof.Machine.execMarkDetect pulse s
  | .checkMark => Sys2Proof.Machine.execCheckMark s
  | .refclkLost => Sys2Proof.Machine.execRefclkLost s
  | .epochBoundary cpAck paces => Sys2Proof.Machine.execEpochBoundary cpAck paces s
  | .completionDeadline isle => Sys2Proof.Machine.execCompletionDeadline isle s
  | .subslotStart => Sys2Proof.Machine.execSubslotStart s
  | .agreedCountProposal t h act => Sys2Proof.Machine.execAgreedCountProposal t h act s
  | .agreedCountAck t h act => Sys2Proof.Machine.execAgreedCountAck t h act s
  | .agreedCountConfirm t h act => Sys2Proof.Machine.execAgreedCountConfirm t h act s
  | .confirmDeadline t => Sys2Proof.Machine.execConfirmDeadline t s
  | .agreedCountMiss t h act => Sys2Proof.Machine.execAgreedCountMiss t h act s
  | .agreedCountCancel t h act => Sys2Proof.Machine.execAgreedCountCancel t h act s
  | .alignRequest h => Sys2Proof.Machine.execAlignRequest h s
  | .tideMark h count => Sys2Proof.Machine.execTideMark h count s
  | .slotCopy fn slot => Sys2Proof.Machine.execSlotCopy fn slot s
  | .registerWrite fn offset size value => Sys2Proof.Machine.execRegisterWrite fn offset size value s
  | .cqEnable fn value => Sys2Proof.Machine.execCqEnable fn value s
  | .cqHeadWrite fn value => Sys2Proof.Machine.execCqHeadWrite fn value s
  | .irqCauseClear fn value => Sys2Proof.Machine.execIrqCauseClear fn value s
  | .irqMaskWrite fn value => Sys2Proof.Machine.execIrqMaskWrite fn value s
  | .tideCountLoRead fn => Sys2Proof.Machine.execTideCountLoRead fn s
  | .dbStream fn handle offset size value => Sys2Proof.Machine.execDbStream fn handle offset size value s
  | .flrVf vf => Sys2Proof.Machine.execFlrVf vf s
  | .windowFence isle => Sys2Proof.Machine.execWindowFence isle s
  | .flrComplete fn => Sys2Proof.Machine.execFlrComplete fn s
  | .flrPf => Sys2Proof.Machine.execFlrPf s
  | .hotReset => Sys2Proof.Machine.execHotReset s
  | .surpriseDown => Sys2Proof.Machine.execSurpriseDown s
  | .vfEnableClear => Sys2Proof.Machine.execVfEnableClear s
  | .atsInvalidate fn stream reRequestOk => Sys2Proof.Machine.execAtsInvalidate fn stream reRequestOk s
  | .hostAccessFail fn stream => Sys2Proof.Machine.execHostAccessFail fn stream s
  | .tlpError => Sys2Proof.Machine.execTlpError s
  | .scrubEnd isle => Sys2Proof.Machine.execScrubEnd isle s
  | .tierOnePatrol addr r => Sys2Proof.Machine.execTierOnePatrol addr r s
  | .onChipPatrol space addr r => Sys2Proof.Machine.execOnChipPatrol space addr r s
  | .spareCopyDone seg bank => Sys2Proof.Machine.execSpareCopyDone seg bank s
  | .retireCopyDone pc => Sys2Proof.Machine.execRetireCopyDone pc s
  | .dirtyCopyDone pc => Sys2Proof.Machine.execDirtyCopyDone pc s
  | .stackFail stack => Sys2Proof.Machine.execStackFail stack s
  | .fatalKeyDestroy => Sys2Proof.Machine.execFatalKeyDestroy s
  | .fatalPortsIdle => Sys2Proof.Machine.execFatalPortsIdle s
  | .unitSelftestDone cls idx ok => Sys2Proof.Machine.execUnitSelftestDone cls idx ok s
  | .cayInsertion slot => Sys2Proof.Machine.execCayInsertion slot s
  | .cayPerstRelease slot => Sys2Proof.Machine.execCayPerstRelease slot s
  | .cayLinkUp slot ok capTo => Sys2Proof.Machine.execCayLinkUp slot ok capTo s
  | .nvmeReady slot ok info => Sys2Proof.Machine.execNvmeReady slot ok info s
  | .caySpdm slot r => Sys2Proof.Machine.execCaySpdm slot r s
  | .cayIdentityCompare slot => Sys2Proof.Machine.execCayIdentityCompare slot s
  | .cayHealthRead slot ok sm => Sys2Proof.Machine.execCayHealthRead slot ok sm s
  | .cayRemoval slot => Sys2Proof.Machine.execCayRemoval slot s
  | .cayPowerRelease slot => Sys2Proof.Machine.execCayPowerRelease slot s
  | .caySmartEvent slot sm => Sys2Proof.Machine.execCaySmartEvent slot sm s
  | .cayInboundRequest slot addr => Sys2Proof.Machine.execCayInboundRequest slot addr s
  | .cayIoError slot isle handle write tagFail => Sys2Proof.Machine.execCayIoError slot isle handle write tagFail s
  | .cayLinkLoss slot controller => Sys2Proof.Machine.execCayLinkLoss slot controller s
  | .governorCheckpoint slot sm => Sys2Proof.Machine.execGovernorCheckpoint slot sm s
  | .lifeDatePassed slot => Sys2Proof.Machine.execLifeDatePassed slot s
  | .parkWriteStart isle handle => Sys2Proof.Machine.execParkWriteStart isle handle s
  | .parkWriteDone isle handle => Sys2Proof.Machine.execParkWriteDone isle handle s
  | .unparkReadDone isle handle read => Sys2Proof.Machine.execUnparkReadDone isle handle read s
  | .replicaCopyDone isle handle => Sys2Proof.Machine.execReplicaCopyDone isle handle s
  | .pageMoveDone isle handle page => Sys2Proof.Machine.execPageMoveDone isle handle page s
  | .migrateImageDone slot isle handle => Sys2Proof.Machine.execMigrateImageDone slot isle handle s
  | .cayShutdownDone slot => Sys2Proof.Machine.execCayShutdownDone slot s
  | .cayDeallocDone slot => Sys2Proof.Machine.execCayDeallocDone slot s
  | .portTrainPattern r => Sys2Proof.Machine.execPortTrainPattern r s
  | .linkControlFlit port l => Sys2Proof.Machine.execLinkControlFlit port l s
  | .linkDown port => Sys2Proof.Machine.execLinkDown port s
  | .detourProbe h src dest => Sys2Proof.Machine.execDetourProbe h src dest s
  | .probeAnswer h src dest => Sys2Proof.Machine.execProbeAnswer h src dest s
  | .probeTimeout port => Sys2Proof.Machine.execProbeTimeout port s
  | .detourFlit h dest flit => Sys2Proof.Machine.execDetourFlit h dest flit s
  | .portRetrain port r => Sys2Proof.Machine.execPortRetrain port r s
  | .fseqDeliveredAck h cls fseq => Sys2Proof.Machine.execFseqDeliveredAck h cls fseq s
  | .depart h => Sys2Proof.Machine.execDepart h s
  | .incarnationAnnounce h links => Sys2Proof.Machine.execIncarnationAnnounce h links s
  | .windowWrite m => Sys2Proof.Machine.execWindowWrite m s
  | .windowRead m => Sys2Proof.Machine.execWindowRead m s
  | .readData h tag data => Sys2Proof.Machine.execReadData h tag data s
  | .writeAcknowledgement h cls tag => Sys2Proof.Machine.execWriteAcknowledgement h cls tag s
  | .windowRefusal h cls tag code => Sys2Proof.Machine.execWindowRefusal h cls tag code s
  | .collectPart m => Sys2Proof.Machine.execCollectPart m s
  | .fence h isle raised => Sys2Proof.Machine.execFence h isle raised s
  | .stepDone h isle digest inv => Sys2Proof.Machine.execStepDone h isle digest inv s
  | .stepFail h isle digest inv => Sys2Proof.Machine.execStepFail h isle digest inv s
  | .progRunAccept h isle digest mode tick => Sys2Proof.Machine.execProgRunAccept h isle digest mode tick s
  | .progRunTimeout isle prog => Sys2Proof.Machine.execProgRunTimeout isle prog s
  | .admissionList h isle digest entries => Sys2Proof.Machine.execAdmissionList h isle digest entries s
  | .replicaRewind h isle handle len boundary => Sys2Proof.Machine.execReplicaRewind h isle handle len boundary s
  | .replicaCreate h isle handle kind payload => Sys2Proof.Machine.execReplicaCreate h isle handle kind payload s
  | .move isle unit => Sys2Proof.Machine.execMove isle unit s
  | .matmul isle unit => Sys2Proof.Machine.execMatmul isle unit s
  | .attend isle unit => Sys2Proof.Machine.execAttend isle unit s
  | .verify isle unit => Sys2Proof.Machine.execVerify isle unit s
  | .combine isle unit => Sys2Proof.Machine.execCombine isle unit s
  | .vchain isle unit => Sys2Proof.Machine.execVchain isle unit s
  | .allGather isle unit => Sys2Proof.Machine.execAllGather isle unit s
  | .reduceScatter isle unit => Sys2Proof.Machine.execReduceScatter isle unit s
  | .allReduce isle unit => Sys2Proof.Machine.execAllReduce isle unit s
  | .tap isle unit => Sys2Proof.Machine.execTap isle unit s
  | .kvappend isle unit => Sys2Proof.Machine.execKvappend isle unit s
  | .kvflush isle unit => Sys2Proof.Machine.execKvflush isle unit s
  | .ntt isle unit => Sys2Proof.Machine.execNtt isle unit s
  | .intt isle unit => Sys2Proof.Machine.execIntt isle unit s
  | .add isle unit => Sys2Proof.Machine.execAdd isle unit s
  | .sub isle unit => Sys2Proof.Machine.execSub isle unit s
  | .padd isle unit => Sys2Proof.Machine.execPadd isle unit s
  | .pmul isle unit => Sys2Proof.Machine.execPmul isle unit s
  | .cmul isle unit => Sys2Proof.Machine.execCmul isle unit s
  | .mul isle unit => Sys2Proof.Machine.execMul isle unit s
  | .relin isle unit => Sys2Proof.Machine.execRelin isle unit s
  | .rotate isle unit => Sys2Proof.Machine.execRotate isle unit s
  | .rescale isle unit => Sys2Proof.Machine.execRescale isle unit s
  | .drop isle unit => Sys2Proof.Machine.execDrop isle unit s
  | .encode isle unit => Sys2Proof.Machine.execEncode isle unit s
  | .sealJobAdmit rau => Sys2Proof.Machine.execSealJobAdmit rau s
  | .sealJobEnd rau mismatch => Sys2Proof.Machine.execSealJobEnd rau mismatch s
  | .signal isle unit => Sys2Proof.Machine.execSignal isle unit s
  | .wait isle unit => Sys2Proof.Machine.execWait isle unit s
  | .taskComplete isle unit id conflicts => Sys2Proof.Machine.execTaskComplete isle unit id conflicts s
  | .healthTestFail samples => Sys2Proof.Machine.execHealthTestFail samples s
  | .startupTestDone samples => Sys2Proof.Machine.execStartupTestDone samples s
  | .entropyHoldExpiry => Sys2Proof.Machine.execEntropyHoldExpiry s
  | .drbgReseed => Sys2Proof.Machine.execDrbgReseed s
  | .lcChallengeExpiry => Sys2Proof.Machine.execLcChallengeExpiry s
  | .bypass => Sys2Proof.Machine.execBypass s
  | .idcode => Sys2Proof.Machine.execIdcode s
  | .samplePreload => Sys2Proof.Machine.execSamplePreload s
  | .extest => Sys2Proof.Machine.execExtest s
  | .setEndpointId eid => Sys2Proof.Machine.execSetEndpointId eid s
  | .getEndpointId => Sys2Proof.Machine.execGetEndpointId s
  | .getMctpVersionSupport => Sys2Proof.Machine.execGetMctpVersionSupport s
  | .getMessageTypeSupport => Sys2Proof.Machine.execGetMessageTypeSupport s
  | .getStandbyRecord => Sys2Proof.Machine.execGetStandbyRecord s
  | .clearStandbyRecord => Sys2Proof.Machine.execClearStandbyRecord s
  | .mctpAlertAck fltSeq => Sys2Proof.Machine.execMctpAlertAck fltSeq s
  | .getFaultSummary => Sys2Proof.Machine.execGetFaultSummary s
  | .getFaultWord domain inst => Sys2Proof.Machine.execGetFaultWord domain inst s
  | .getTelemetry => Sys2Proof.Machine.execGetTelemetry s
  | .getRegulator index => Sys2Proof.Machine.execGetRegulator index s
  | .bootImagePush c => Sys2Proof.Machine.execBootImagePush c s
  | .tideQuery c => Sys2Proof.Machine.execTideQuery c s
  | .tideEpochSet c => Sys2Proof.Machine.execTideEpochSet c s
  | .paceQuery c => Sys2Proof.Machine.execPaceQuery c s
  | .isleCreate c => Sys2Proof.Machine.execIsleCreate c s
  | .isleResize c => Sys2Proof.Machine.execIsleResize c s
  | .isleDestroy c => Sys2Proof.Machine.execIsleDestroy c s
  | .isleEnable c => Sys2Proof.Machine.execIsleEnable c s
  | .isleDisable c => Sys2Proof.Machine.execIsleDisable c s
  | .isleReset c => Sys2Proof.Machine.execIsleReset c s
  | .isleQosSet c => Sys2Proof.Machine.execIsleQosSet c s
  | .isleQuery c => Sys2Proof.Machine.execIsleQuery c s
  | .poolSet c => Sys2Proof.Machine.execPoolSet c s
  | .slotTableSet c => Sys2Proof.Machine.execSlotTableSet c s
  | .pressureQuery c => Sys2Proof.Machine.execPressureQuery c s
  | .memQuery c => Sys2Proof.Machine.execMemQuery c s
  | .memResidentSet c => Sys2Proof.Machine.execMemResidentSet c s
  | .memLoad c => Sys2Proof.Machine.execMemLoad c s
  | .memStore c => Sys2Proof.Machine.execMemStore c s
  | .memModeSet c => Sys2Proof.Machine.execMemModeSet c s
  | .t1Query c => Sys2Proof.Machine.execT1Query c s
  | .progLoad c => Sys2Proof.Machine.execProgLoad c s
  | .progUnload c => Sys2Proof.Machine.execProgUnload c s
  | .progRun c => Sys2Proof.Machine.execProgRun c s
  | .progQuery c => Sys2Proof.Machine.execProgQuery c s
  | .tapArm c => Sys2Proof.Machine.execTapArm c s
  | .tapClose c => Sys2Proof.Machine.execTapClose c s
  | .tapQuery c => Sys2Proof.Machine.execTapQuery c s
  | .streamCreate c => Sys2Proof.Machine.execStreamCreate c s
  | .streamDestroy c => Sys2Proof.Machine.execStreamDestroy c s
  | .streamQuery c => Sys2Proof.Machine.execStreamQuery c s
  | .seqPoolSet c => Sys2Proof.Machine.execSeqPoolSet c s
  | .seqBatchSet c => Sys2Proof.Machine.execSeqBatchSet c s
  | .seqCreate c => Sys2Proof.Machine.execSeqCreate c s
  | .seqDestroy c => Sys2Proof.Machine.execSeqDestroy c s
  | .seqBind c => Sys2Proof.Machine.execSeqBind c s
  | .seqQuery c => Sys2Proof.Machine.execSeqQuery c s
  | .seqRewind c => Sys2Proof.Machine.execSeqRewind c s
  | .seqPark c => Sys2Proof.Machine.execSeqPark c s
  | .seqWakeHint c => Sys2Proof.Machine.execSeqWakeHint c s
  | .seqPrefixDrop c => Sys2Proof.Machine.execSeqPrefixDrop c s
  | .admitSet c => Sys2Proof.Machine.execAdmitSet c s
  | .archQuery c => Sys2Proof.Machine.execArchQuery c s
  | .archForm c => Sys2Proof.Machine.execArchForm c s
  | .archLeave c => Sys2Proof.Machine.execArchLeave c s
  | .portQuery c => Sys2Proof.Machine.execPortQuery c s
  | .winOpen c => Sys2Proof.Machine.execWinOpen c s
  | .winClose c => Sys2Proof.Machine.execWinClose c s
  | .winQuery c => Sys2Proof.Machine.execWinQuery c s
  | .replayLogSet c => Sys2Proof.Machine.execReplayLogSet c s
  | .replayLogStop c => Sys2Proof.Machine.execReplayLogStop c s
  | .replayStart c => Sys2Proof.Machine.execReplayStart c s
  | .replayAdvance c => Sys2Proof.Machine.execReplayAdvance c s
  | .replayStop c => Sys2Proof.Machine.execReplayStop c s
  | .detQuery c => Sys2Proof.Machine.execDetQuery c s
  | .shardSelect c => Sys2Proof.Machine.execShardSelect c s
  | .drawSet c => Sys2Proof.Machine.execDrawSet c s
  | .lcQuery c => Sys2Proof.Machine.execLcQuery c s
  | .lcChallenge c => Sys2Proof.Machine.execLcChallenge c s
  | .lcTransition c => Sys2Proof.Machine.execLcTransition c s
  | .debugUnlock c => Sys2Proof.Machine.execDebugUnlock c s
  | .attestCerts c => Sys2Proof.Machine.execAttestCerts c s
  | .attestQuote c => Sys2Proof.Machine.execAttestQuote c s
  | .keyAdvance c => Sys2Proof.Machine.execKeyAdvance c s
  | .keyRevoke c => Sys2Proof.Machine.execKeyRevoke c s
  | .keyEpochRotate c => Sys2Proof.Machine.execKeyEpochRotate c s
  | .keyEpochRetire c => Sys2Proof.Machine.execKeyEpochRetire c s
  | .keyEpochQuery c => Sys2Proof.Machine.execKeyEpochQuery c s
  | .entropyQuery c => Sys2Proof.Machine.execEntropyQuery c s
  | .entropyRestart c => Sys2Proof.Machine.execEntropyRestart c s
  | .rngRead c => Sys2Proof.Machine.execRngRead c s
  | .cartQuery c => Sys2Proof.Machine.execCartQuery c s
  | .cartPair c => Sys2Proof.Machine.execCartPair c s
  | .cartUnpair c => Sys2Proof.Machine.execCartUnpair c s
  | .cartLifeSet c => Sys2Proof.Machine.execCartLifeSet c s
  | .cartTimeSet c => Sys2Proof.Machine.execCartTimeSet c s
  | .cartEject c => Sys2Proof.Machine.execCartEject c s
  | .cartQuiesce c => Sys2Proof.Machine.execCartQuiesce c s
  | .sealPsetSet c => Sys2Proof.Machine.execSealPsetSet c s
  | .sealKeyLoad c => Sys2Proof.Machine.execSealKeyLoad c s
  | .sealKeyDrop c => Sys2Proof.Machine.execSealKeyDrop c s
  | .sealQuery c => Sys2Proof.Machine.execSealQuery c s
  | .faultQuery c => Sys2Proof.Machine.execFaultQuery c s
  | .faultClear c => Sys2Proof.Machine.execFaultClear c s
  | .unitRetire c => Sys2Proof.Machine.execUnitRetire c s
  | .unitReturn c => Sys2Proof.Machine.execUnitReturn c s
  | .unitQuery c => Sys2Proof.Machine.execUnitQuery c s
  | .alertAck c => Sys2Proof.Machine.execAlertAck c s
  | .fwStage c => Sys2Proof.Machine.execFwStage c s
  | .fwActivate c => Sys2Proof.Machine.execFwActivate c s
  | .refusalQuantum fn => Sys2Proof.Machine.execRefusalQuantum fn s
  | .peerAnswer fn tag status found => Sys2Proof.Machine.execPeerAnswer fn tag status found s
  | .hostTransferDone fn tag ok => Sys2Proof.Machine.execHostTransferDone fn tag ok s
  | .flitCrcFail port => Sys2Proof.Machine.execFlitCrcFail port s
  | .tideSyncRise => Sys2Proof.Machine.execTideSyncRise s
  | .cayPrsntNChange slot level => Sys2Proof.Machine.execCayPrsntNChange slot level s
  | .msixMaskChange fn vector mask functionMask => Sys2Proof.Machine.execMsixMaskChange fn vector mask functionMask s

end Sys2Proof.Machine
end

