-- ==== Sys2Proof/Safety.lean ====
section
/-! DEFINITION. The vocabulary of the claims: what a safe run is, and when a mailbox command is accepted, executed and answered
(R102, R104, R107, R109, Table 5.10). -/

namespace Sys2Proof.Machine

/-- The step answers a next state. -/
def Goes (s : State) : Prop := ∃ t, step s = .next t

/-- n steps answer a next state, one after the other. -/
def SafeRun : Nat → State → Prop
  | 0, _ => True
  | n + 1, s => ∃ t, step s = .next t ∧ SafeRun n t

/-! ## Invariant -/

/-- Every memory is in its canonical form: addresses strictly rising, no entry equal to what an unlisted byte reads as. -/
def Mems.canonical (m : Mems) : Bool := Memory.wf m.host && Memory.wf m.ob && Memory.wf m.lagoon && Memory.wf m.shelf && Memory.wf m.hbm

/-- The memories are canonical, and the chip has its 32 functions (R96), 32 isles (R370), 15 ports (R317), 2 cay slots (R179) and 4 RAUs
(R424). -/
structure Sound (s : State) : Prop where
  mems : s.mems.canonical = true
  funcs : s.funcs.length = 32
  isles : s.isles.length = 32
  ports : s.ports.length = 15
  cay : s.cay.length = 2
  raus : s.raus.length = 4

/-! ## Frames -/

/-- An isle as it was, but for its fault view, its log and the record that nothing has used it. -/
def Isle.sameWork (r q : Isle) : Prop := q = { r with faults := q.faults, log := q.log, pristine := q.pristine }

/-- Posting entries and events, and raising causes and messages (R103 to R106, R117): nothing changes but the queues and registers of the
functions, host memory with the translations held for it, the logs, and what went out. -/
structure Posts (s t : State) : Prop where
  rest : t = { s with funcs := t.funcs, mems := t.mems, isles := t.isles, out := t.out }
  mems : t.mems = { s.mems with host := t.mems.host, ats := t.mems.ats }
  funcs : t.funcs.length = s.funcs.length
  isles : t.isles.length = s.isles.length
  work : ∀ k, (s.isle k).sameWork (t.isle k)

/-- Recording faults (R446): as posting does, and the fault views, ALERT_N, and the halt that a fatal fault brings (R454). -/
structure Reports (s t : State) : Prop where
  rest : t = { s with funcs := t.funcs, mems := t.mems, isles := t.isles, out := t.out, faults := t.faults, pins := t.pins,
                      standby := t.standby, halt := t.halt }
  mems : t.mems = { s.mems with host := t.mems.host, ats := t.mems.ats }
  pins : t.pins = { s.pins with alertLow := t.pins.alertLow }
  standby : t.standby = { s.standby with fatal := t.standby.fatal }
  funcs : t.funcs.length = s.funcs.length
  isles : t.isles.length = s.isles.length
  work : ∀ k, (s.isle k).sameWork (t.isle k)

/-! ## Mailbox commands -/

/-- No outstanding command of any function is held back by an order of R109. -/
def Quiet (s : State) : Prop := ∀ fn, ∀ e ∈ (s.func fn).cmds, e.phase ≠ .held

/-- The payload as the device copies it: PLEN bytes (R100). -/
def bodyOf (c : MbxArg) : Bytes := c.payload.take c.hdr.plen

/-- The command as acceptance queues it (R102). -/
def queued (spec : CmdSpec) (c : MbxArg) (s : State) : Cmd :=
  { seq := (s.func c.fn).nextSeq, slot := c.slot, hdr := { c.hdr with opcode := spec.opcode }, payload := bodyOf c,
    d := quantNow s, phase := .held, data := spec.data c.payload, view := (s.func c.fn).view }

/-- The state with the command written to its slot and outstanding. -/
def entered (spec : CmdSpec) (c : MbxArg) (s : State) : State :=
  (s.mapFunc c.fn (putSlot c.slot { c.hdr with opcode := spec.opcode } c.payload)).mapFunc c.fn fun f =>
    { f with cmds := f.cmds ++ [queued spec c s], nextSeq := f.nextSeq + 1 }

/-- The same, with its execution begun. -/
def working (spec : CmdSpec) (c : MbxArg) (s : State) : State := setPhase c.fn (s.func c.fn).nextSeq .working (entered spec c s)

/-- The same, waiting for its boundary. -/
def waiting (spec : CmdSpec) (c : MbxArg) (s : State) : State := setPhase c.fn (s.func c.fn).nextSeq .boundary (entered spec c s)

/-- The command is accepted and nothing holds it back: its function can send and the device copies its slot at once (R101, R102), it passes
checks 1 to 7, no order of R109 and no replay run holds it (R366), and no other command is held. -/
structure Accepted (spec : CmdSpec) (c : MbxArg) (s : State) : Prop where
  fn : c.fn < s.funcs.length
  alive : fnAlive s c.fn = true
  room : copiesNow (s.func c.fn) c.slot = true
  quiet : Quiet s
  passes : checkAll (entered spec c s) c.fn (some spec) (queued spec c s) = none
  order : spec.boundary = true ∨ blocked cmdTable ((entered spec c s).func c.fn) (queued spec c s) = false
  held : replayHeld cmdTable (entered spec c s) c.fn (queued spec c s) = false
  late : spec.boundary = true ∨ replayLate (entered spec c s) c.fn (queued spec c s) = false

/-- The row of the table of operations that a mailbox command of an opcode is (Table 20.2). -/
def RowOf (op : Nat) (c : MbxArg) (i : Instr) : Prop :=
  match op with
  | 0x0140 => i = .tideQuery c
  | 0x0141 => i = .tideEpochSet c
  | 0x0142 => i = .paceQuery c
  | 0x0200 => i = .isleCreate c
  | 0x0201 => i = .isleResize c
  | 0x0202 => i = .isleDestroy c
  | 0x0203 => i = .isleEnable c
  | 0x0204 => i = .isleDisable c
  | 0x0205 => i = .isleReset c
  | 0x0206 => i = .isleQosSet c
  | 0x0207 => i = .isleQuery c
  | 0x0208 => i = .poolSet c
  | 0x0209 => i = .slotTableSet c
  | 0x020A => i = .pressureQuery c
  | 0x0300 => i = .memQuery c
  | 0x0301 => i = .memResidentSet c
  | 0x0302 => i = .memLoad c
  | 0x0303 => i = .memStore c
  | 0x0304 => i = .memModeSet c
  | 0x0310 => i = .t1Query c
  | 0x0400 => i = .progLoad c
  | 0x0401 => i = .progUnload c
  | 0x0402 => i = .progRun c
  | 0x0403 => i = .progQuery c
  | 0x0410 => i = .tapArm c
  | 0x0411 => i = .tapClose c
  | 0x0412 => i = .tapQuery c
  | 0x0480 => i = .streamCreate c
  | 0x0481 => i = .streamDestroy c
  | 0x0482 => i = .streamQuery c
  | 0x0500 => i = .seqPoolSet c
  | 0x0501 => i = .seqBatchSet c
  | 0x0502 => i = .seqCreate c
  | 0x0503 => i = .seqDestroy c
  | 0x0504 => i = .seqBind c
  | 0x0505 => i = .seqQuery c
  | 0x0506 => i = .seqRewind c
  | 0x0507 => i = .seqPark c
  | 0x0508 => i = .seqWakeHint c
  | 0x0509 => i = .seqPrefixDrop c
  | 0x050A => i = .admitSet c
  | 0x0600 => i = .archQuery c
  | 0x0601 => i = .archForm c
  | 0x0602 => i = .archLeave c
  | 0x0603 => i = .portQuery c
  | 0x0610 => i = .winOpen c
  | 0x0611 => i = .winClose c
  | 0x0612 => i = .winQuery c
  | 0x0700 => i = .replayLogSet c
  | 0x0701 => i = .replayLogStop c
  | 0x0702 => i = .replayStart c
  | 0x0703 => i = .replayAdvance c
  | 0x0704 => i = .replayStop c
  | 0x0705 => i = .detQuery c
  | 0x0706 => i = .shardSelect c
  | 0x0707 => i = .drawSet c
  | 0x0800 => i = .lcQuery c
  | 0x0801 => i = .lcChallenge c
  | 0x0802 => i = .lcTransition c
  | 0x0803 => i = .debugUnlock c
  | 0x0810 => i = .attestCerts c
  | 0x0811 => i = .attestQuote c
  | 0x0818 => i = .keyAdvance c
  | 0x0819 => i = .keyRevoke c
  | 0x0820 => i = .keyEpochRotate c
  | 0x0821 => i = .keyEpochRetire c
  | 0x0822 => i = .keyEpochQuery c
  | 0x0830 => i = .entropyQuery c
  | 0x0831 => i = .entropyRestart c
  | 0x0832 => i = .rngRead c
  | 0x0900 => i = .cartQuery c
  | 0x0901 => i = .cartPair c
  | 0x0902 => i = .cartUnpair c
  | 0x0903 => i = .cartLifeSet c
  | 0x0904 => i = .cartTimeSet c
  | 0x0905 => i = .cartEject c
  | 0x0906 => i = .cartQuiesce c
  | 0x0A00 => i = .sealPsetSet c
  | 0x0A01 => i = .sealKeyLoad c
  | 0x0A02 => i = .sealKeyDrop c
  | 0x0A03 => i = .sealQuery c
  | 0x0B00 => i = .faultQuery c
  | 0x0B01 => i = .faultClear c
  | 0x0B02 => i = .unitRetire c
  | 0x0B03 => i = .unitReturn c
  | 0x0B04 => i = .unitQuery c
  | 0x0B05 => i = .alertAck c
  | 0x0C01 => i = .fwStage c
  | 0x0C02 => i = .fwActivate c
  | _ => False

/-- Commands that were held back start where they now may (R109). -/
def settle (fn : Nat) (s : State) : State := pumpAll cmdTable (pumpFn cmdTable fn 63 s)

/-- The final entry of an accepted command is posted at this tick, after an effect on the rest of the state (R103, R104). -/
def answered (spec : CmdSpec) (c : MbxArg) (st : Status) (w : Words) (effect : State → State) (s : State) : State :=
  finishAt (tideNow s) c.fn (s.func c.fn).nextSeq st 0 w (effect (working spec c s))

/-- The access of an accepted command to host memory fails: HOST_ACCESS is recorded (R98). -/
def accessFails (c : MbxArg) (s : State) : State :=
  recordFault dHost 0 0 {} [isleOf c.fn] (s.mapFunc c.fn fun f => { f with failTags := f.failTags.filter (· != c.hdr.tag) })

/-- The S_PENDING entry of an accepted command is posted at this tick (R104). -/
def pended (spec : CmdSpec) (c : MbxArg) (s : State) : State :=
  pendAt (tideNow s) c.fn (s.func c.fn).nextSeq (working spec c s)

/-- At boundary b one boundary-executed command waits alone on its function, still authorized and with its objects in the right state
(R107), and may execute. -/
structure Due (spec : CmdSpec) (ok : State → Nat → Cmd → Bool) (fn : Nat) (c : Cmd) (s : State) : Prop where
  alone : (s.func fn).cmds = [c]
  waits : c.phase = .boundary
  opcode : c.hdr.opcode = spec.opcode
  may : ok s fn c = true
  judged : rejudge s fn spec c = none

end Sys2Proof.Machine
end

