-- ==== Sys2Proof/WellFormed.lean ====
section
/-! DEFINITION. Which terms of Instr stand for something that can be sent: every operand in its range. -/

namespace Sys2Proof

/-- The function that sends a mailbox command, and the fields of its header, fit their widths (Table 5.5, R97, R100). -/
def MbxArg.wf (c : MbxArg) : Bool :=
  decide (c.fn < 32) && decide (c.slot < 16) && decide (c.hdr.opcode < 2 ^ 16) && decide (c.hdr.flags < 2 ^ 16)
    && decide (c.hdr.tag < 2 ^ 32) && decide (c.hdr.plen < 2 ^ 16) && decide (c.hdr.res0 < 2 ^ 16)
    && decide (c.hdr.token < 2 ^ 32) && decide (c.hdr.res1 < 2 ^ 128) && decide (c.payload.length ≤ 224)

def fnWf (fn : Nat) : Bool := decide (fn < 32)
def vfWf (fn : Nat) : Bool := decide (1 ≤ fn) && decide (fn < 32)
def isleWf (k : Nat) : Bool := decide (k < 32)
def portWf (p : Nat) : Bool := decide (p < 15)
def chipWf (c : Nat) : Bool := decide (c < 16)
def cayWf (s : Nat) : Bool := decide (s < 2)
def rauWf (r : Nat) : Bool := decide (r < 4)
/-- Units u = 64 h + s: 64 slots of up to 16 instances (R354). -/
def unitWf (u : Nat) : Bool := decide (u < 1024)
def tickWf (t : Nat) : Bool := decide (t < 2 ^ 64)
def sizeWf (n : Nat) : Bool := decide (n = 1) || decide (n = 2) || decide (n = 4) || decide (n = 8)

def Rail.wf : Rail → Bool
  | .vhbmc st => decide (st < 8)
  | .vhbmq st => decide (st < 8)
  | _ => true

def PortTrain.wf (r : PortTrain) : Bool := portWf r.port && chipWf r.peerChip && portWf r.peerPort && decide (r.peerInc < 2 ^ 16)

/-- The header fields of a message's flits, at their widths (Table 13.2). -/
def FlitHdr.wf (h : FlitHdr) : Bool :=
  portWf h.port && chipWf h.orig && decide (h.inc < 2 ^ 16) && decide (h.lseq < 2 ^ 16) && decide (h.fseq < 2 ^ 16)

def WinMsg.wf (m : WinMsg) : Bool :=
  m.hdr.wf && isleWf m.srcIsle && isleWf m.dstIsle && decide (m.window < 256) && decide (1 ≤ m.bytes) && decide (m.bytes ≤ 4096)

def PartMsg.wf (m : PartMsg) : Bool := m.hdr.wf && isleWf m.srcIsle && decide (m.round < 2) && decide (m.shard < 16)

def Instr.wf : Instr → Bool
  | .brownout r => r.wf && r != .vstby
  | .railMargin r _ => r.wf
  | .strapLatch l => decide (l.length = 16) && l.all fun v => decide (v < 128)
  | .sensorFail n => decide (n < 64)
  | .avsCommand mv => decide (600 ≤ mv) && decide (mv ≤ 900)
  | .portTrain ps => ps.all PortTrain.wf
  | .epochBoundary _ ps => decide (ps.length ≤ 64)
  | .completionDeadline k => isleWf k
  | .agreedCountProposal t h _ => tickWf t && h.wf
  | .agreedCountAck t h _ => tickWf t && h.wf
  | .agreedCountConfirm t h _ => tickWf t && h.wf
  | .confirmDeadline t => tickWf t
  | .agreedCountMiss t h _ => tickWf t && h.wf
  | .agreedCountCancel t h _ => tickWf t && h.wf
  | .alignRequest h => h.wf
  | .tideMark h t => h.wf && tickWf t
  | .slotCopy fn sl => fnWf fn && decide (sl < 16)
  | .registerWrite fn off n v => fnWf fn && decide (off < 2 ^ 20) && sizeWf n && decide (v < 2 ^ (8 * n))
  | .cqEnable fn v => fnWf fn && tickWf v
  | .cqHeadWrite fn v => fnWf fn && decide (v < 2 ^ 32)
  | .irqCauseClear fn v => fnWf fn && decide (v < 2 ^ 32)
  | .irqMaskWrite fn v => fnWf fn && decide (v < 2 ^ 32)
  | .tideCountLoRead fn => fnWf fn
  | .dbStream fn h off n v => fnWf fn && decide (h < 8192) && decide (off < 8) && sizeWf n && decide (v < 2 ^ (8 * n))
  | .flrVf vf => vfWf vf
  | .windowFence k => isleWf k
  | .flrComplete fn => fnWf fn
  | .atsInvalidate fn p _ => fnWf fn && decide (p < 2 ^ 52)
  | .hostAccessFail fn o => fnWf fn && (match o with | .stream h => decide (h < 8192) | _ => true)
  | .configRequest (.write _ v) => decide (v < 2 ^ 32)
  | .configRequest (.setAts fn _) => fnWf fn
  | .scrubEnd k => isleWf k
  | .tierOnePatrol a _ => decide (a < 2 ^ 39)
  | .onChipPatrol sp a _ => decide (sp < 4) && decide (a < 2 ^ 44)
  | .spareCopyDone sg b => decide (sg < 64) && decide (b < 32)
  | .retireCopyDone p => decide (p < 512)
  | .dirtyCopyDone p => decide (p < 512)
  | .stackFail st => decide (st < 8)
  | .unitSelftestDone c _ _ => decide (c < 6)
  | .cayInsertion sl => cayWf sl
  | .cayPerstRelease sl => cayWf sl
  | .cayLinkUp sl _ capTo => cayWf sl && decide (capTo < 256)
  | .nvmeReady sl _ _ => cayWf sl
  | .caySpdm sl _ => cayWf sl
  | .cayIdentityCompare sl => cayWf sl
  | .cayHealthRead sl _ _ => cayWf sl
  | .cayRemoval sl => cayWf sl
  | .cayPowerRelease sl => cayWf sl
  | .caySmartEvent sl _ => cayWf sl
  | .cayInboundRequest sl _ => cayWf sl
  | .cayIoError sl k _ _ _ => cayWf sl && isleWf k
  | .cayLinkLoss sl _ => cayWf sl
  | .governorCheckpoint sl _ => cayWf sl
  | .lifeDatePassed sl => cayWf sl
  | .parkWriteStart k _ => isleWf k
  | .parkWriteDone k _ => isleWf k
  | .unparkReadDone k _ _ => isleWf k
  | .replicaCopyDone k _ => isleWf k
  | .pageMoveDone k _ _ => isleWf k
  | .migrateImageDone sl k _ => cayWf sl && isleWf k
  | .cayShutdownDone sl => cayWf sl
  | .cayDeallocDone sl => cayWf sl
  | .portTrainPattern r => r.wf
  | .linkControlFlit p l => portWf p && decide (l.credits.length = 9)
  | .linkDown p => portWf p
  | .detourProbe h a b => h.wf && chipWf a && chipWf b
  | .probeAnswer h a b => h.wf && chipWf a && chipWf b
  | .probeTimeout p => portWf p
  | .detourFlit h b f => h.wf && chipWf b && decide (f.length ≤ 256)
  | .portRetrain p r => portWf p && r.wf
  | .fseqDeliveredAck h c f => h.wf && decide (c < 5) && decide (f < 2 ^ 16)
  | .depart h => h.wf
  | .incarnationAnnounce h l => h.wf && decide (l < 2 ^ 16)
  | .windowWrite m => m.wf && decide (m.data.length = m.bytes)
  | .windowRead m => m.wf
  | .readData h t d => h.wf && decide (t < 2 ^ 16) && decide (d.length ≤ 4096)
  | .writeAcknowledgement h c t => h.wf && decide (c < 3) && decide (t < 2 ^ 16)
  | .windowRefusal h c t co => h.wf && decide (c < 3) && decide (t < 2 ^ 16) && decide (1 ≤ co) && decide (co ≤ 3)
  | .collectPart m => m.wf
  | .fence h k _ => h.wf && isleWf k
  | .stepDone h k _ _ => h.wf && isleWf k
  | .stepFail h k _ _ => h.wf && isleWf k
  | .progRunAccept h k _ m _ => h.wf && isleWf k && decide (m < 3)
  | .progRunTimeout k _ => isleWf k
  | .admissionList h k _ _ => h.wf && isleWf k
  | .replicaRewind h k _ _ _ => h.wf && isleWf k
  | .replicaCreate h k _ kind _ => h.wf && isleWf k && decide (kind ≤ 10)
  | .move k u => isleWf k && unitWf u
  | .matmul k u => isleWf k && unitWf u
  | .attend k u => isleWf k && unitWf u
  | .verify k u => isleWf k && unitWf u
  | .combine k u => isleWf k && unitWf u
  | .vchain k u => isleWf k && unitWf u
  | .allGather k u => isleWf k && unitWf u
  | .reduceScatter k u => isleWf k && unitWf u
  | .allReduce k u => isleWf k && unitWf u
  | .tap k u => isleWf k && unitWf u
  | .kvappend k u => isleWf k && unitWf u
  | .kvflush k u => isleWf k && unitWf u
  | .ntt k u => isleWf k && unitWf u
  | .intt k u => isleWf k && unitWf u
  | .add k u => isleWf k && unitWf u
  | .sub k u => isleWf k && unitWf u
  | .padd k u => isleWf k && unitWf u
  | .pmul k u => isleWf k && unitWf u
  | .cmul k u => isleWf k && unitWf u
  | .mul k u => isleWf k && unitWf u
  | .relin k u => isleWf k && unitWf u
  | .rotate k u => isleWf k && unitWf u
  | .rescale k u => isleWf k && unitWf u
  | .drop k u => isleWf k && unitWf u
  | .encode k u => isleWf k && unitWf u
  | .sealJobAdmit r => rauWf r
  | .sealJobEnd r _ => rauWf r
  | .signal k u => isleWf k && unitWf u
  | .wait k u => isleWf k && unitWf u
  | .taskComplete k u _ l => isleWf k && unitWf u && l.all fun a => decide (a < 2 ^ 64)
  | .setEndpointId e => decide (e < 256)
  | .mctpAlertAck n => decide (n < 2 ^ 32)
  | .getFaultWord d _ => decide (d < 256)
  | .refusalQuantum fn => fnWf fn
  | .peerAnswer fn t st l => fnWf fn && decide (t < 2 ^ 32) && decide (st < 2 ^ 16) && l.all fun x => chipWf x.1
  | .hostTransferDone fn t _ => fnWf fn && decide (t < 2 ^ 32)
  | .flitCrcFail p => portWf p
  | .cayPrsntNChange sl _ => cayWf sl
  | .msixMaskChange fn v _ _ => fnWf fn && decide (v < 256)
  | .vstbyPowerOn _ | .perstNAssert | .cayPwrEnTristate | .perstNRelease _ | .vstbyBrownout | .thermalThreshold _
  | .thermtrip _ | .avsLost | .telemetryRefresh _ | .fuses | .romLoad _ _ _ | .fwStart _ _ | .fwStartTimeout | .memTest _
  | .align | .alignTimeout | .hbmTrain _ _ | .hbmZero | .ready | .tideSyncReleaseStopped | .configRequest _
  | .pushTransferDone _ | .pushVerifyDone | .markDrive | .markRelease | .markDetect _ | .checkMark | .refclkLost
  | .subslotStart | .flrPf | .hotReset | .surpriseDown | .vfEnableClear | .tlpError | .fatalKeyDestroy | .fatalPortsIdle
  | .healthTestFail _ | .startupTestDone _ | .entropyHoldExpiry | .drbgReseed | .lcChallengeExpiry | .bypass | .idcode
  | .samplePreload | .extest | .getEndpointId | .getMctpVersionSupport | .getMessageTypeSupport | .getStandbyRecord
  | .clearStandbyRecord | .getFaultSummary | .getTelemetry | .getRegulator _ | .tideSyncRise => true
  | .bootImagePush c => c.wf
  | .tideQuery c => c.wf
  | .tideEpochSet c => c.wf
  | .paceQuery c => c.wf
  | .isleCreate c => c.wf
  | .isleResize c => c.wf
  | .isleDestroy c => c.wf
  | .isleEnable c => c.wf
  | .isleDisable c => c.wf
  | .isleReset c => c.wf
  | .isleQosSet c => c.wf
  | .isleQuery c => c.wf
  | .poolSet c => c.wf
  | .slotTableSet c => c.wf
  | .pressureQuery c => c.wf
  | .memQuery c => c.wf
  | .memResidentSet c => c.wf
  | .memLoad c => c.wf
  | .memStore c => c.wf
  | .memModeSet c => c.wf
  | .t1Query c => c.wf
  | .progLoad c => c.wf
  | .progUnload c => c.wf
  | .progRun c => c.wf
  | .progQuery c => c.wf
  | .tapArm c => c.wf
  | .tapClose c => c.wf
  | .tapQuery c => c.wf
  | .streamCreate c => c.wf
  | .streamDestroy c => c.wf
  | .streamQuery c => c.wf
  | .seqPoolSet c => c.wf
  | .seqBatchSet c => c.wf
  | .seqCreate c => c.wf
  | .seqDestroy c => c.wf
  | .seqBind c => c.wf
  | .seqQuery c => c.wf
  | .seqRewind c => c.wf
  | .seqPark c => c.wf
  | .seqWakeHint c => c.wf
  | .seqPrefixDrop c => c.wf
  | .admitSet c => c.wf
  | .archQuery c => c.wf
  | .archForm c => c.wf
  | .archLeave c => c.wf
  | .portQuery c => c.wf
  | .winOpen c => c.wf
  | .winClose c => c.wf
  | .winQuery c => c.wf
  | .replayLogSet c => c.wf
  | .replayLogStop c => c.wf
  | .replayStart c => c.wf
  | .replayAdvance c => c.wf
  | .replayStop c => c.wf
  | .detQuery c => c.wf
  | .shardSelect c => c.wf
  | .drawSet c => c.wf
  | .lcQuery c => c.wf
  | .lcChallenge c => c.wf
  | .lcTransition c => c.wf
  | .debugUnlock c => c.wf
  | .attestCerts c => c.wf
  | .attestQuote c => c.wf
  | .keyAdvance c => c.wf
  | .keyRevoke c => c.wf
  | .keyEpochRotate c => c.wf
  | .keyEpochRetire c => c.wf
  | .keyEpochQuery c => c.wf
  | .entropyQuery c => c.wf
  | .entropyRestart c => c.wf
  | .rngRead c => c.wf
  | .cartQuery c => c.wf
  | .cartPair c => c.wf
  | .cartUnpair c => c.wf
  | .cartLifeSet c => c.wf
  | .cartTimeSet c => c.wf
  | .cartEject c => c.wf
  | .cartQuiesce c => c.wf
  | .sealPsetSet c => c.wf
  | .sealKeyLoad c => c.wf
  | .sealKeyDrop c => c.wf
  | .sealQuery c => c.wf
  | .faultQuery c => c.wf
  | .faultClear c => c.wf
  | .unitRetire c => c.wf
  | .unitReturn c => c.wf
  | .unitQuery c => c.wf
  | .alertAck c => c.wf
  | .fwStage c => c.wf
  | .fwActivate c => c.wf

end Sys2Proof
end

