-- ==== Sys2Proof/Certificates/Slice0/Obligations.lean ====
section
/-! DEFINITION. The statements for the provers. Each says under which conditions on the state and the operands a command has its own
effect, and what that effect is; `answered`, `pended`, `waiting` and `Accepted` are the vocabulary of Sys2Proof/Safety.lean. -/

open Sys2Proof Sys2Proof.Machine

/-- A step takes the command at the front of the queue and runs it on the state with the queue's rest; with nothing waiting, one tick of 10 ns
passes (the model's choice, log 2): the clock moves on, and the tide count with it where it counts. (95_what_each_step_holds.md,
00_scope.md.) -/
def Obligations.StepTakesTheFront : Prop :=
  (∀ (c : Instr) (rest : List Instr) (s : State), step { s with pending := c :: rest } = exec c { s with pending := rest }) ∧
  (∀ s : State, s.pending = [] → ∃ t, step s = .next t ∧ t.clk.ticks = s.clk.ticks + 1 ∧ t.pins = s.pins ∧ t.funcs = s.funcs ∧ t.isles = s.isles ∧
    t.mems = s.mems ∧ t.boot = s.boot ∧
    (s.tide.aligned = true → s.tide.frozen = false → t.tide.count = (s.tide.count + 1) % 2 ^ 64) ∧
    (s.tide.aligned = false ∨ s.tide.frozen = true → t.tide = s.tide))

/-- No command stops the block: whatever the command and whatever the state, exec answers a next state, and so does every step.
(95_what_each_step_holds.md, 20_reference_tables.md.) -/
def Obligations.EveryCommandIsTaken : Prop :=
  (∀ (c : Instr) (s : State), ∃ t, exec c s = .next t) ∧ (∀ s : State, ∃ t, step s = .next t)

/-- What reset leaves: the chip in reset with READY_N high, its count not aligned, no command waiting or outstanding, every mailbox register
of every function 0, IRQ_MASK 0x3F, no fault recorded, the isles ABSENT, the ports IDLE and the slots EMPTY. The lengths of the register
files and the values of the state that the spec gives no reset value for are the model's (logs 20 to 24). (R36, R55, R73, R99, R117, R186,
R317, R370.) -/
def Obligations.ResetState : Prop :=
  State.reset.pending = [] ∧ State.reset.boot.inReset = true ∧ State.reset.boot.fwRunning = false ∧ State.reset.pins.perstN = false ∧
  State.reset.pins.readyLow = false ∧ State.reset.pins.alertLow = false ∧ State.reset.tide.aligned = false ∧ State.reset.tide.count = 0 ∧
  State.reset.halt = none ∧ State.reset.faults.seq = 0 ∧ State.reset.faults.insts = [] ∧ State.reset.arch.formed = false ∧
  State.reset.funcs.length = 32 ∧ State.reset.isles.length = 32 ∧ State.reset.ports.length = 15 ∧ State.reset.cay.length = 2 ∧
  State.reset.raus.length = 4 ∧
  (∀ fn, (State.reset.func fn).cmds = [] ∧ (State.reset.func fn).doorbells = [] ∧ (State.reset.func fn).cqEnable = false ∧
    (State.reset.func fn).head = 0 ∧ (State.reset.func fn).tail = 0) ∧
  (∀ fn, fn < 32 → regWord State.reset fn 0x2004 = 0 ∧ regWord State.reset fn 0x2008 = 0 ∧ regWord State.reset fn 0x2010 = 0 ∧
    regWord State.reset fn 0x2018 = 0 ∧ regWord State.reset fn 0x2020 = 0 ∧ regWord State.reset fn 0x2024 = 0 ∧
    regWord State.reset fn 0x3000 = 0 ∧ regWord State.reset fn 0x3004 = 0x3F ∧ regWord State.reset fn 0x3008 = 0) ∧
  (∀ k, (State.reset.isle k).state = .absent) ∧ (∀ p, (State.reset.port p).state = .idle) ∧ (∀ i, (State.reset.caySlot i).state = .empty) ∧
  Memory.wf State.reset.mems.host = true ∧ Memory.wf State.reset.mems.lagoon = true ∧ Memory.wf State.reset.mems.shelf = true ∧
  Memory.wf State.reset.mems.hbm = true ∧ Memory.wf State.reset.mems.ob = true

/-- A memory in its canonical form reads back what was written and keeps the rest; a cleared range reads 0. In the canonical form equal
contents are equal data: writing what is there changes nothing, the later of two writes to one address counts, and writes to two addresses
commute. (R124, R127, R157.) -/
def Obligations.MemoryReadsBack : Prop :=
  (∀ m : List Host.Cell, Memory.wf m = true →
    (∀ a v, Memory.read (Memory.write m a v) a = v) ∧
    (∀ a b v, b ≠ a → Memory.read (Memory.write m a v) b = Memory.read m b) ∧
    (∀ a bs, Memory.readN (Memory.writeN m a bs) a bs.length = bs) ∧
    (∀ a b bs, b < a ∨ a + bs.length ≤ b → Memory.read (Memory.writeN m a bs) b = Memory.read m b) ∧
    (∀ a n b, a ≤ b → b < a + n → Memory.read (Memory.clear m a n) b = 0) ∧
    (∀ a n b, b < a ∨ a + n ≤ b → Memory.read (Memory.clear m a n) b = Memory.read m b))
  ∧ (∀ m : List Host.Cell, Memory.wf m = true →
    (∀ a v, Memory.read m a = v → Memory.write m a v = m) ∧
    (∀ a b v w, a ≠ b → Memory.write (Memory.write m a v) b w = Memory.write (Memory.write m b w) a v) ∧
    (∀ a v w, Memory.write (Memory.write m a v) a w = Memory.write m a w) ∧
    (∀ n : List Host.Cell, Memory.wf n = true → (∀ a, Memory.read m a = Memory.read n a) → m = n))

/-- A doorbell that is taken sets its slot's bit of MBX_SLOT_BUSY, and the copy into the command queue clears it; a busy slot takes no bytes;
a doorbell of a busy slot, one with the ring disabled, and one that is both are ignored and set their bits of MBX_ERR. (R101.) -/
def Obligations.DoorbellRule : Prop :=
  ∀ (fn slot : Nat) (s : State), fn < s.funcs.length → slot < 16 → fnAlive s fn = true →
    ((s.func fn).doorbells.contains slot = false → (s.func fn).cqEnable = true → ∃ t, exec (.registerWrite fn 0x2000 4 slot) s = .next t ∧
      (slotBusy (t.func fn)).testBit slot = true ∧ (t.func fn).slots = (s.func fn).slots ∧ (t.func fn).mbxErr = (s.func fn).mbxErr ∧
      (t.func fn).cmds = (s.func fn).cmds) ∧
    (∀ rest u, (s.func fn).doorbells = slot :: rest → rest.contains slot = false → outstanding (s.func fn) < 64 →
      u = s.mapFunc fn (fun f => { f with doorbells := rest }) →
      (slotBusy (s.func fn)).testBit slot = true ∧ (slotBusy (u.func fn)).testBit slot = false ∧
      exec (.slotCopy fn slot) s = .next (pumpAll cmdTable (acceptCmd cmdTable (cmdTable (slotHdr (s.func fn) slot).opcode) fn slot
        (slotHdr (s.func fn) slot) (slotBytes (s.func fn) slot 32 (min (slotHdr (s.func fn) slot).plen 224)) u))) ∧
    (∀ off v, (s.func fn).doorbells.contains slot = true → 256 * slot ≤ off → off < 256 * slot + 256 → off % 4 = 0 →
      exec (.registerWrite fn (0x1000 + off) 4 v) s = .next s) ∧
    ((s.func fn).doorbells.contains slot = true ∨ (s.func fn).cqEnable = false → ∃ t, exec (.registerWrite fn 0x2000 4 slot) s = .next t ∧
      (t.func fn).doorbells = (s.func fn).doorbells ∧ (t.func fn).slots = (s.func fn).slots ∧ (t.func fn).cmds = (s.func fn).cmds ∧
      ((t.func fn).mbxErr.testBit 0 = ((s.func fn).mbxErr.testBit 0 || (s.func fn).doorbells.contains slot)) ∧
      ((t.func fn).mbxErr.testBit 1 = ((s.func fn).mbxErr.testBit 1 || !(s.func fn).cqEnable)))

/-- The ring is full when TAIL + 1 equals HEAD modulo 256; with room and nothing before it an entry is written at TAIL, and then the new TAIL
as 4 bytes to the shadow; without room no byte of host memory changes, so no entry that the host has not released is overwritten. (R103.) -/
def Obligations.RingRule : Prop :=
  ∀ (fn : Nat) (e : Entry) (s : State), entriesOff fn s = false → (s.func fn).cqEnable = true → fn < s.funcs.length →
    Memory.wf s.mems.host = true →
    (ringRoom (s.func fn) = false ↔ ((s.func fn).tail + 1) % 256 = (s.func fn).head) ∧
    (((s.func fn).tail + 1) % 256 ≠ (s.func fn).head → (s.func fn).heldComps = [] →
      ((postEntry fn e s).func fn).tail = ((s.func fn).tail + 1) % 256 ∧ ((postEntry fn e s).func fn).head = (s.func fn).head ∧
      ((s.func fn).shadowEnable = true → hostRead (postEntry fn e s) fn (s.func fn).cqShadow 4 = natLe 4 (((s.func fn).tail + 1) % 256)) ∧
      ((s.func fn).shadowEnable = false ∨ (s.func fn).cqShadow + 4 ≤ (s.func fn).cqBase + 32 * (s.func fn).tail ∨
          (s.func fn).cqBase + 32 * (s.func fn).tail + 32 ≤ (s.func fn).cqShadow →
        hostRead (postEntry fn e s) fn ((s.func fn).cqBase + 32 * (s.func fn).tail) 32 = entryBytes e) ∧
      (∀ a, a < hostKey fn ((s.func fn).cqBase + 32 * (s.func fn).tail) ∨ hostKey fn ((s.func fn).cqBase + 32 * (s.func fn).tail) + 32 ≤ a →
        a < hostKey fn (s.func fn).cqShadow ∨ hostKey fn (s.func fn).cqShadow + 4 ≤ a →
        Memory.read (postEntry fn e s).mems.host a = Memory.read s.mems.host a)) ∧
    (((s.func fn).tail + 1) % 256 = (s.func fn).head ∨ (s.func fn).heldComps ≠ [] →
      (postEntry fn e s).mems = s.mems ∧ ((postEntry fn e s).func fn).tail = (s.func fn).tail ∧
      ((postEntry fn e s).func fn).heldComps = (s.func fn).heldComps ++ [e])

/-- A command that a check refuses changes nothing: with no command held back, whatever row of the mailbox it is, the state after it differs
only in the functions' queues and rings, host memory, the isles' logs and what went out. (R102, R107, R110.) -/
def Obligations.RefusedCommandsOnlyAnswer : Prop :=
  ∀ (op : Nat) (spec : CmdSpec) (c : MbxArg) (i : Instr) (s t : State) (st : Status) (d : Nat),
    cmdTable op = some spec → RowOf op c i → Quiet s → checkAll (entered spec c s) c.fn (some spec) (queued spec c s) = some (st, d) →
    exec i s = .next t → Posts s t

/-- The checks of Table 5.10 in their order: what the first check stops is not looked at by a later one; before READY only the early commands
of the PF pass; an unknown opcode is E_BADCMD; a VF's PF-only command is E_DENIED before its length is looked at, a length that is not the
command's E_BADLEN before its fields are, and a reserved field or TAG 0 is E_BADARG. (R76, R82, R107.) -/
def Obligations.ChecksInOrder : Prop :=
  ∀ (fn : Nat) (sp : CmdSpec) (c : Cmd) (s : State),
    (∀ x o, check1 s c = some x → checkAll s fn o c = some x) ∧
    (∀ t, s.sec.lcDone = none → s.boot.limbo = some t → ¬ (c.hdr.opcode = 0x0802 ∧ fieldB c.payload 0 1 = t) → check1 s c = some (.eLimbo, t)) ∧
    (∀ x, s.sec.lcDone = some x → c.hdr.opcode ≠ 0x0800 → c.hdr.opcode ≠ 0x0830 → check1 s c = some (.eState, 0)) ∧
    (check1 s c = none → s.halt = none → s.boot.limbo = none → s.boot.phase ≠ 0x09 → (fn ≠ 0 ∨ sp.early = false) →
      checkAll s fn (some sp) c = some (.eBusy, sat16 (Config.msToReady s.boot.phase))) ∧
    (check1 s c = none → s.halt = none → s.boot.phase = 0x09 → checkAll s fn none c = some (.eBadcmd, 0)) ∧
    (check1 s c = none → s.halt = none → s.boot.phase = 0x09 → sp.pfOnly = true → fn ≠ 0 → checkAll s fn (some sp) c = some (.eDenied, 0)) ∧
    (check1 s c = none → s.halt = none → s.boot.phase = 0x09 → (sp.pfOnly = false ∨ fn = 0) → sp.auth s fn c = true →
      (sp.plen c.payload c.hdr.plen = false ∨ 224 < c.hdr.plen) → checkAll s fn (some sp) c = some (.eBadlen, 0)) ∧
    (check1 s c = none → s.halt = none → s.boot.phase = 0x09 → (sp.pfOnly = false ∨ fn = 0) → sp.auth s fn c = true →
      sp.plen c.payload c.hdr.plen = true → c.hdr.plen ≤ 224 →
      (c.hdr.tag % 2 ^ 32 = 0 ∨ 4 ≤ c.hdr.flags ∨ c.hdr.res0 ≠ 0 ∨ c.hdr.res1 ≠ 0 ∨ sp.args s fn c = false) →
      checkAll s fn (some sp) c = some (.eBadarg, 0)) ∧
    (check1 s c = none → s.halt = none → s.boot.phase = 0x09 → (sp.pfOnly = false ∨ fn = 0) → sp.auth s fn c = true →
      sp.plen c.payload c.hdr.plen = true → c.hdr.plen ≤ 224 → hdrBad c.hdr = false → sp.args s fn c = true → sp.memUse = true →
      (s.isle (isleOf fn)).state = .disabled → checkAll s fn (some sp) c = some (.eState, 0))

/-- The bytes of a slot are the command: a well-formed mailbox command whose header and payload are written to its slot in the layout of Table
5.5, and whose doorbell is the first, is copied as exactly that command, on the state with the doorbell taken; with no other doorbell
waiting and the ring enabled SLOT_COPY is the command's own row. (R100, R102.) -/
def Obligations.SlotSpellsCommand : Prop :=
  ∀ (op : Nat) (spec : CmdSpec) (c : MbxArg) (i : Instr) (m : List Host.Cell) (rest : List Nat) (s : State),
    cmdTable op = some spec → RowOf op c i → c.hdr.opcode = op → c.wf = true → c.payload.length = min c.hdr.plen 224 →
    Memory.wf m = true → (s.func c.fn).slots = Memory.writeN m (256 * c.slot) (hdrBytes c.hdr ++ c.payload) →
    (s.func c.fn).doorbells = c.slot :: rest → fnAlive s c.fn = true → outstanding (s.func c.fn) < 64 →
    exec (.slotCopy c.fn c.slot) s = .next (pumpAll cmdTable (acceptCmd cmdTable (some spec) c.fn c.slot c.hdr c.payload
      (s.mapFunc c.fn fun f => { f with doorbells := rest }))) ∧
    (rest = [] → (s.func c.fn).cqEnable = true →
      exec (.slotCopy c.fn c.slot) s = exec i (s.mapFunc c.fn fun f => { f with doorbells := [] }))

/-- Program addresses stay at home: an address of a view reaches an operand buffer only of the core that executes, and the lagoons, shelf
extents and frames only that the view of its isle maps. (R128, R129, R131, R132, R134.) -/
def Obligations.AddressesStayHome : Prop :=
  ∀ (k h a x : Nat) (core : Option Nat) (s : State),
    (Machine.translate s k h core a = some (.ob x) → ∃ c o, core = some c ∧ o < 2 ^ 20 ∧ x = c * 2 ^ 20 + o) ∧
    (Machine.translate s k h core a = some (.lagoon x) → ∃ l u o, l ∈ (s.isle k).slotMap.getD h [] ∧ u ∈ l ∧ o < 2 ^ 19 ∧
      x = u / 32 * 2 ^ 24 + u % 32 * 2 ^ 19 + o) ∧
    (Machine.translate s k h core a = some (.shelf x) → ∃ e seg o, e ∈ (s.isle k).extents.getD h [] ∧ seg < 64 ∧ o < 2 ^ 20 ∧
      x = seg * 2 ^ 28 + e * 2 ^ 20 + o) ∧
    (Machine.translate s k h core a = some (.hbm x) → ∃ f o, f ∈ (s.isle k).frames.getD h [] ∧ o < 2 ^ 21 ∧ x = f * 2 ^ 21 + o)

/-- Queries leave everything as it is: an accepted query that resets no counter changes nothing but the functions' queues and rings, host
memory, the logs and what went out. (R69, R71, R348, R396, R423, R458.) -/
def Obligations.QueriesChangeNothing : Prop :=
  ∀ (op : Nat) (spec : CmdSpec) (c : MbxArg) (i : Instr) (s t : State),
    op ∈ [0x0140, 0x0142, 0x0207, 0x0403, 0x0412, 0x0482, 0x0600, 0x0800, 0x0822, 0x0830, 0x0900, 0x0B04] → cmdTable op = some spec → RowOf op c i →
    Accepted spec c s → exec i s = .next t → Posts s t

/-- Arithmetic of the number formats: a sum or product with a NaN is the canonical NaN, infinities of opposite sign and zero times an infinity
are too; the product of two infinities is the infinity of its sign; sums and products commute. (R213, R214.) -/
def Obligations.NanIsCanonical : Prop :=
  ∀ x y : F32,
    (unpack x = .nan → addF x y = 0x7FC00000 ∧ addF y x = 0x7FC00000 ∧ mulF x y = 0x7FC00000 ∧ mulF y x = 0x7FC00000) ∧
    (∀ a, unpack x = .inf a → unpack y = .inf (!a) → addF x y = 0x7FC00000) ∧
    (∀ a b e, unpack x = .inf a → unpack y = .fin b 0 e → mulF x y = 0x7FC00000 ∧ mulF y x = 0x7FC00000) ∧
    (∀ a b, unpack x = .inf a → unpack y = .inf b → mulF x y = infF (a != b)) ∧
    (addF x y = addF y x ∧ mulF x y = mulF y x)

/-- The queries without a side effect: an accepted query posts S_OK with its result words, and nothing else changes but the function's queue
and ring. (R69, R71, R113, R203, R230, R275, R314, R348, R396, R423, R458.) -/
def Obligations.QueriesAnswer : Prop :=
  ∀ (c : MbxArg) (s : State),
    (Accepted specTideQuery c s →
      exec (.tideQuery c) s = .next (answered specTideQuery c .sOk
        { w0 := s.tide.epochLen, w1 := s.tide.base % 2 ^ 32, w2 := s.tide.base / 2 ^ 32, w3 := tideStatus s } id s)) ∧
    (∀ core, paceCore s c.fn (queued specPaceQuery c s) = some core → Accepted specPaceQuery c s →
      exec (.paceQuery c) s = .next (answered specPaceQuery c .sOk
        { w0 := if unitServes s 0 core then s.tide.paces.getD core 0 else 0, w1 := vcoreNow s, w2 := sensorReading s core } id s)) ∧
    (Accepted specIsleQuery c s →
      exec (.isleQuery c) s = .next (answered specIsleQuery c .sOk (isleWords s (byteAt (bodyOf c) 0) (byteAt (bodyOf c) 1)) id s)) ∧
    (∀ g, aGet (s.isle c.fn).progs (fieldB (bodyOf c) 0 4) = some g → Accepted specProgQuery c s →
      exec (.progQuery c) s = .next (answered specProgQuery c .sOk
        { w0 := progStateCode g.state, w1 := imgBudget g.image (dNow s c.fn), w2 := sat32 g.committed, w3 := sat32 g.aborted } id s)) ∧
    (∀ t, (s.isle c.fn).taps[fieldB (bodyOf c) 0 4]? = some t → Accepted specTapQuery c s →
      exec (.tapQuery c) s = .next (answered specTapQuery c .sOk
        { w0 := tapStateCode t.state, w1 := t.captured.length, w2 := t.missed.length } id s)) ∧
    (∀ x, aGet (s.isle c.fn).streams (fieldB (bodyOf c) 0 4) = some x → Accepted specStreamQuery c s →
      exec (.streamQuery c) s = .next (answered specStreamQuery c .sOk
        { w0 := x.producer, w1 := x.consumer, w2 := x.bound.getD 0xFFFFFFFF, w3 := x.reasons } id s)) ∧
    (Accepted specArchQuery c s →
      exec (.archQuery c) s = .next (answered specArchQuery c .sOk
        { w0 := memberMask s + presentMask s * 65536, w1 := chipId s + popCount (memberMask s) 16 * 16 + b2n s.arch.formed * 512,
          w2 := orphaned s, w3 := natMask (hostedShards s) } id s)) ∧
    (Accepted specCartQuery c s →
      exec (.cartQuery c) s = .next (answered specCartQuery c .sOk
        (cartQueryWords s c.fn (byteAt (bodyOf c) 0) (byteAt (bodyOf c) 1)) id s)) ∧
    (Accepted specKeyEpochQuery c s →
      exec (.keyEpochQuery c) s = .next (answered specKeyEpochQuery c .sOk
        { w0 := (s.isle c.fn).keys.current.getD 0, w1 := (s.isle c.fn).keys.previous.getD 0 } id s)) ∧
    (Accepted specEntropyQuery c s →
      exec (.entropyQuery c) s = .next (answered specEntropyQuery c .sOk
        { w0 := entStateCode s.ent.state, w1 := s.ent.buffer.length, w2 := s.ent.queue.length, w3 := s.ent.restarts } id s)) ∧
    (Accepted specLcQuery c s →
      exec (.lcQuery c) s = .next (answered specLcQuery c .sOk
        { w0 := s.sec.lcDone.getD s.sec.lc + s.sec.keyIdx * 16 + revokedMask s * 256 + b2n s.sec.unlocked.isSome * 4096 +
            b2n (heldChallenge s).isSome * 8192,
          w1 := fieldB (natBe 48 s.fuses.deviceId) 0 4, w2 := fieldB (natBe 48 s.fuses.deviceId) 4 4 } id s)) ∧
    (Accepted specUnitQuery c s →
      exec (.unitQuery c) s = .next (answered specUnitQuery c .sOk
        { w0 := unitState s (byteAt (bodyOf c) 0) (fieldB (bodyOf c) 2 2),
          w1 := lowHalf ((pGet s.units.recs (byteAt (bodyOf c) 0, fieldB (bodyOf c) 2 2)).elim 0 fun r => r.lastT),
          w2 := highHalf ((pGet s.units.recs (byteAt (bodyOf c) 0, fieldB (bodyOf c) 2 2)).elim 0 fun r => r.lastT) } id s)) ∧
    (∀ q, seqOf s c.fn (fieldB (bodyOf c) 0 4) = some q → Accepted specSeqQuery c s →
      exec (.seqQuery c) s = .next (answered specSeqQuery c .sOk
        { w0 := seqStateCode q.state + b2n q.managed * 2 ^ 8 + b2n q.home * 2 ^ 9 + sat16 (lostPages q).length * 2 ^ 16,
          w1 := q.c, w2 := q.f, w3 := q.step } id s))

/-- The queries that reset what they report: each posts S_OK with its result words and clears the counters that its table names, and nothing
else changes. With its SEL 1, SEAL_QUERY and PRESSURE_QUERY clear nothing. FAULT_QUERY and FAULT_CLEAR: a query answers the word and GEN of
an instance, or the summary of the view, with the capture written where an address is given, and E_FAULT where host memory fails; a clear
with the current GEN clears the masked bits and keeps GEN, and one with another GEN clears nothing. (R153, R178, R314, R348, R368, R442,
R446, R447, R448, R463, R469.) -/
def Obligations.ClearingQueriesAnswer : Prop :=
  (∀ (c : MbxArg) (s : State),
    (Accepted specMemQuery c s →
      exec (.memQuery c) s = .next (answered specMemQuery c .sOk
        { w0 := (unitsHeld s c.fn).length, w1 := ((s.isle c.fn).extents.getD 0 []).length,
          w2 := b2n (s.isle c.fn).strict + (s.isle c.fn).resident.length * 2 ^ 8 + (if c.fn = 0 then s.units.withdrawn * 2 ^ 16 else 0),
          w3 := (s.isle c.fn).conflicts } (fun t => t.mapIsle c.fn fun r => { r with conflicts := 0 }) s)) ∧
    (Accepted specT1Query c s →
      exec (.t1Query c) s = .next (answered specT1Query c .sOk
        { w0 := ((s.isle c.fn).frames.getD 0 []).length, w1 := (s.isle c.fn).tableFrames.length,
          w2 := ceilDiv (tableUsed s c.fn) 1024, w3 := (s.isle c.fn).t1Corrected }
        (fun t => t.mapIsle c.fn fun r => { r with t1Corrected := 0 }) s)) ∧
    (Accepted specPortQuery c s →
      exec (.portQuery c) s = .next (answered specPortQuery c .sOk
        { w0 := portStateCode (s.port (byteAt (bodyOf c) 0)).state + (s.port (byteAt (bodyOf c) 0)).peer.1 * 16 +
            (s.port (byteAt (bodyOf c) 0)).peer.2 * 256,
          w1 := (s.port (byteAt (bodyOf c) 0)).latency, w2 := (s.port (byteAt (bodyOf c) 0)).replays,
          w3 := (s.port (byteAt (bodyOf c) 0)).stale }
        (fun t => t.mapPort (byteAt (bodyOf c) 0) fun r => { r with replays := 0, stale := 0 }) s)) ∧
    (∀ w, aGet (s.isle c.fn).windows (byteAt (bodyOf c) 0) = some w → Accepted specWinQuery c s →
      exec (.winQuery c) s = .next (answered specWinQuery c .sOk
        { w0 := 1 + w.rights * 2 + w.peerIsle * 256 + w.mask * 65536, w1 := w.len, w2 := w.refusals, w3 := w.bytes / 1024 }
        (fun t => t.mapIsle c.fn fun r => { r with
          windows := aMod (byteAt (bodyOf c) 0) (fun w => { w with refusals := 0, bytes := 0 }) r.windows }) s)) ∧
    (aGet (s.isle c.fn).windows (byteAt (bodyOf c) 0) = none → Accepted specWinQuery c s →
      exec (.winQuery c) s = .next (answered specWinQuery c .sOk {} id s)) ∧
    (∀ m, (s.isle c.fn).replay = some m → Accepted specDetQuery c s →
      exec (.detQuery c) s = .next (answered specDetQuery c .sOk
        { w0 := b2n (s.isle c.fn).log.isSome + 2, w1 := m.index, w2 := m.horizon, w3 := (s.isle c.fn).timingInvalid }
        (fun t => (drawNat (drawNat t).2).2.mapIsle c.fn fun r => { r with timingInvalid := 0 }) s)) ∧
    (byteAt (bodyOf c) 0 = 0 → Accepted specSealQuery c s →
      exec (.sealQuery c) s = .next (answered specSealQuery c .sOk
        { w0 := natMask ((s.isle c.fn).sealed.psets.map fun p => p.1), w1 := (s.isle c.fn).sealed.keys.length,
          w2 := (s.isle c.fn).sealed.jobs, w3 := (s.isle c.fn).sealed.checks }
        (mapSealed c.fn fun x => { x with jobs := 0, checks := 0 }) s)) ∧
    (∀ e, byteAt (bodyOf c) 0 = 1 → aGet (s.isle c.fn).sealed.keys (byteAt (bodyOf c) 1) = some e → Accepted specSealQuery c s →
      exec (.sealQuery c) s = .next (answered specSealQuery c .sOk
        { w0 := e.keyId, w1 := e.kind + e.pset * 256, w2 := e.auto, w3 := ceilDiv e.len 1048576 } id s)) ∧
    (seqOf s c.fn (fieldB (bodyOf c) 0 4) = none → Accepted specSeqQuery c s →
      exec (.seqQuery c) s = .next (answered specSeqQuery c .sOk
        { w0 := (s.isle c.fn).withheld.1, w1 := (s.isle c.fn).withheld.2.1, w2 := (s.isle c.fn).withheld.2.2.1,
          w3 := (s.isle c.fn).withheld.2.2.2 } (fun t => t.mapIsle c.fn fun r => { r with withheld := (0, 0, 0, 0) }) s)) ∧
    (Accepted specPressureQuery c s →
      exec (.pressureQuery c) s = .next (answered specPressureQuery c .sOk (pressureWords s c.fn (byteAt (bodyOf c) 0)).1
        (fun t => (pressureWords t c.fn (byteAt (bodyOf c) 0)).2) s)))
  ∧ (∀ (c : MbxArg) (s : State) (v : FaultView) (x : FaultInst),
    v = faultView s c.fn (fieldB (bodyOf c) 2 1) → x = instOf v (fieldB (bodyOf c) 0 1) (fieldB (bodyOf c) 1 1) →
    (fieldB (bodyOf c) 0 1 = 0xFF → Accepted specFaultQuery c s →
      exec (.faultQuery c) s = .next (answered specFaultQuery c .sOk
        { w0 := fltSummary v, w1 := v.seq, w2 := lowHalf (fltCore v), w3 := highHalf (fltCore v) } id s)) ∧
    (fieldB (bodyOf c) 0 1 ≠ 0xFF → fieldB (bodyOf c) 8 8 = 0 → Accepted specFaultQuery c s →
      exec (.faultQuery c) s = .next (answered specFaultQuery c .sOk
        { w0 := x.word, w1 := x.gen, w2 := x.cap.bit, w3 := lowHalf x.cap.tide } id s)) ∧
    (fieldB (bodyOf c) 0 1 ≠ 0xFF → fieldB (bodyOf c) 8 8 ≠ 0 → c.hdr.tag ∈ (s.func c.fn).failTags → Accepted specFaultQuery c s →
      exec (.faultQuery c) s = .next (answered specFaultQuery c .eFault {} (accessFails c) s)) ∧
    (fieldB (bodyOf c) 0 1 ≠ 0xFF → fieldB (bodyOf c) 8 8 ≠ 0 → c.hdr.tag ∉ (s.func c.fn).failTags → Accepted specFaultQuery c s →
      exec (.faultQuery c) s = .next (answered specFaultQuery c .sOk
        { w0 := x.word, w1 := x.gen, w2 := x.cap.bit, w3 := lowHalf x.cap.tide }
        (hostWrite c.fn (fieldB (bodyOf c) 8 8) (captureBytes x.cap)) s)) ∧
    (x.gen = fieldB (bodyOf c) 8 4 → c.fn = 0 → fieldB (bodyOf c) 2 1 = 0 → Accepted specFaultClear c s →
      exec (.faultClear c) s = .next (answered specFaultClear c .sOk
        { w0 := (instOf (clearInst (fieldB (bodyOf c) 0 1) (fieldB (bodyOf c) 1 1) (fieldB (bodyOf c) 4 4) v)
            (fieldB (bodyOf c) 0 1) (fieldB (bodyOf c) 1 1)).word, w1 := x.gen }
        (fun t => t.mapFaults (clearInst (fieldB (bodyOf c) 0 1) (fieldB (bodyOf c) 1 1) (fieldB (bodyOf c) 4 4))) s)) ∧
    (x.gen ≠ fieldB (bodyOf c) 8 4 → Accepted specFaultClear c s →
      exec (.faultClear c) s = .next (answered specFaultClear c .eState { w0 := x.word, w1 := x.gen } id s)))

/-- Commands of the isle chapter that execute at once: ISLE_CREATE grants what nothing stops and the isle is CREATED; ISLE_DESTROY leaves an
isle that exists no more; ISLE_ENABLE draws the keys of the isle and enables it. While the isle is QUIESCING or SCRUBBING, and no other
command waits for its end, the last two set its target and post S_PENDING. (R374, R375, R376, R377, R379.) -/
def Obligations.IsleCommandsExecute : Prop :=
  ∀ (c : MbxArg) (s : State),
    (shortOf s (recIsle (bodyOf c)) (recGrant (bodyOf c) 2000) = none → Accepted specIsleCreate c s →
      exec (.isleCreate c) s = .next (settle c.fn (answered specIsleCreate c .sOk {}
        (fun t =>
          let t := setUnits (recIsle (bodyOf c)) (regrant (recIsle (bodyOf c)) (recGrant (bodyOf c) 2000)
            (t.mapIsle (recIsle (bodyOf c)) fun r =>
              { r with state := .created, target := .absent, cls := 1, overrunLimit := 4, pristine := true }))
          isleStateEvent (recIsle (bodyOf c)) .sOk (isleStateCode .created) (tideNow t) t) s))) ∧
    (busyIsle (s.isle (byteAt (bodyOf c) 0)) = false → Accepted specIsleDestroy c s →
      exec (.isleDestroy c) s = .next (settle c.fn (answered specIsleDestroy c .sOk {}
        (fun t => isleStateEvent (byteAt (bodyOf c) 0) .sOk 0 (tideNow t) (clearIsle (byteAt (bodyOf c) 0) t)) s))) ∧
    (busyIsle (s.isle (byteAt (bodyOf c) 0)) = false → epochsLeft s (byteAt (bodyOf c) 0) = true → s.ent.state = .running →
      Accepted specIsleEnable c s →
      exec (.isleEnable c) s = .next (settle c.fn (answered specIsleEnable c .sOk {}
        (becomeEnabled (byteAt (bodyOf c) 0)) s))) ∧
    (busyIsle (s.isle (byteAt (bodyOf c) 0)) = true → (s.isle (byteAt (bodyOf c) 0)).targetCmd = none → Accepted specIsleDestroy c s →
      exec (.isleDestroy c) s = .next (settle c.fn (pendAt (tideNow s) c.fn (s.func c.fn).nextSeq
        ((working specIsleDestroy c s).mapIsle (byteAt (bodyOf c) 0) fun r =>
          { r with target := .absent, targetCmd := some { fn := c.fn, seq := (s.func c.fn).nextSeq, target := .absent } })))) ∧
    (busyIsle (s.isle (byteAt (bodyOf c) 0)) = true → (s.isle (byteAt (bodyOf c) 0)).targetCmd = none → Accepted specIsleEnable c s →
      exec (.isleEnable c) s = .next (settle c.fn (pendAt (tideNow s) c.fn (s.func c.fn).nextSeq
        ((working specIsleEnable c s).mapIsle (byteAt (bodyOf c) 0) fun r =>
          { r with target := .enabled, targetCmd := some { fn := c.fn, seq := (s.func c.fn).nextSeq, target := .enabled } }))))

/-- Commands that execute at once and change what they name: a stream is created with the lowest free handle; an alert is acknowledged; a
function selects its view; the replay horizon rises to what is named, and no lower than the index reached; a cay slot loses its pairing; the
life date is set and the cartridge's health is read for the new rate; the clock of the governor is set; a wake hint brings a parked sequence
back at its home chip. The commands of the security chapter, with the entropy service running: a challenge and random bytes are drawn and
written to host memory, or the command ends with E_FAULT where the access fails; a life-cycle transition begins to program its intent and
then its commit row; a debug token opens debug; a wrong token is denied and has used up the challenge; certificates and the signed quote are
written to host memory; the row of the next key index, and that of a key to be revoked, begin to be programmed. (R113, R201, R356, R365,
R398, R401, R402, R404, R405, R407, R410, R420, R460.) -/
def Obligations.SettersTakeEffect : Prop :=
  (∀ (c : MbxArg) (s : State),
    (∀ (h : Nat) (x : Stream), aFree (s.isle c.fn).streams (s.isle c.fn).grant.streams = some h →
      x = { ring := fieldB (bodyOf c) 0 8, shadow := fieldB (bodyOf c) 8 8, entries := fieldB (bodyOf c) 16 4,
            dirOut := fieldB (bodyOf c) 20 1 == 1, slotLog2 := fieldB (bodyOf c) 21 1, vector := fieldB (bodyOf c) 22 2,
            irqOnConsume := fieldB (bodyOf c) 24 1 == 1 } → Accepted specStreamCreate c s →
      exec (.streamCreate c) s = .next (settle c.fn (answered specStreamCreate c .sOk { w0 := h }
        (fun t => t.mapIsle c.fn fun r => { r with streams := aSet h x r.streams }) s))) ∧
    (aFree (s.isle c.fn).streams (s.isle c.fn).grant.streams = none → Accepted specStreamCreate c s →
      exec (.streamCreate c) s = .next (settle c.fn (answered specStreamCreate c .eNores {} id s))) ∧
    (fieldB (bodyOf c) 0 4 = s.faults.seq → Accepted specAlertAck c s →
      exec (.alertAck c) s = .next (settle c.fn (answered specAlertAck c .sOk { w0 := s.faults.seq }
        (fun t => t.mapPins fun p => { p with alertLow := decide (1000 ≤ s.power.hottest) || !s.standby.railsMargin.isEmpty }) s))) ∧
    (fieldB (bodyOf c) 0 4 ≠ s.faults.seq → Accepted specAlertAck c s →
      exec (.alertAck c) s = .next (settle c.fn (answered specAlertAck c .eState { w0 := s.faults.seq } id s))) ∧
    (Accepted specShardSelect c s →
      exec (.shardSelect c) s = .next (settle c.fn (answered specShardSelect c .sOk {}
        (fun t => t.mapFunc c.fn fun f => { f with view := byteAt (bodyOf c) 0 }) s))) ∧
    (∀ m, (s.isle c.fn).replay = some m → Accepted specReplayAdvance c s →
      exec (.replayAdvance c) s = .next (settle c.fn (answered specReplayAdvance c .sOk { w0 := m.index }
        (fun t => t.mapIsle c.fn fun r =>
          { r with replay := some { m with horizon := if fieldB (bodyOf c) 0 4 < m.index then m.horizon else fieldB (bodyOf c) 0 4 } }) s))) ∧
    (Accepted specCartUnpair c s →
      exec (.cartUnpair c) s = .next (settle c.fn (answered specCartUnpair c .sOk {}
        (fun t => setCayState (byteAt (bodyOf c) 0) .unpaired
          (((t.mapCay (byteAt (bodyOf c) 0) fun x => { x with
            pairing := none, wipe := true, rg := 0, certSlot := x.lowest.1,
            identity := if x.lowest.1 = 0xFF then x.identity else some x.lowest.2 }).emit
              (.cart (byteAt (bodyOf c) 0) 1 [])).emit (.cart (byteAt (bodyOf c) 0) 3 []))) s))) ∧
    (∀ u, u = (working specCartLifeSet c s).mapCay (byteAt (bodyOf c) 0) (fun x =>
        { x with pairing := x.pairing.map fun p => { p with lifeDate := fieldB (bodyOf c) 4 4 } }) →
      (u.caySlot (byteAt (bodyOf c) 0)).reading = false → Accepted specCartLifeSet c s →
      exec (.cartLifeSet c) s = .next (settle c.fn ((u.mapCay (byteAt (bodyOf c) 0) fun x => { x with reading := true }).emit
        (.cart (byteAt (bodyOf c) 0) 5 [])))) ∧
    (s.utc = none → governed s 0 = false → governed s 1 = false → (s.caySlot 0).reading = false → (s.caySlot 1).reading = false →
      Accepted specCartTimeSet c s →
      exec (.cartTimeSet c) s = .next (settle c.fn (answered specCartTimeSet c .sOk {}
        (fun t => { t with utc := some (fieldB (bodyOf c) 0 8, tideNow s) }) s))) ∧
    (∀ q, seqOf s c.fn (fieldB (bodyOf c) 0 4) = some q → q.state = .parked → q.home = true → Accepted specSeqWakeHint c s →
      exec (.seqWakeHint c) s = .next (settle c.fn (answered specSeqWakeHint c .sOk {} (queueUnpark c.fn (fieldB (bodyOf c) 0 4)) s))))
  ∧ (∀ (c : MbxArg) (s : State),
    (s.ent.state = .running → c.hdr.tag ∉ (s.func c.fn).failTags → Accepted specLcChallenge c s →
      exec (.lcChallenge c) s = .next (settle c.fn (answered specLcChallenge c .sOk {} (fun t =>
        let d := drawEntropy 32 t
        hostWrite c.fn (fieldB (bodyOf c) 0 8) (natLe 32 d.1) (d.2.mapSec fun x => { x with challenge := some (natLe 32 d.1, s.clk.ticks) })) s))) ∧
    (s.ent.state = .running → c.hdr.tag ∉ (s.func c.fn).failTags → Accepted specRngRead c s →
      exec (.rngRead c) s = .next (settle c.fn (answered specRngRead c .sOk {} (fun t =>
        let d := drawEntropy (byteAt (bodyOf c) 8) t
        hostWrite c.fn (fieldB (bodyOf c) 0 8) (natLe (byteAt (bodyOf c) 8) d.1) d.2) s))) ∧
    (s.ent.state = .failed → Accepted specRngRead c s →
      exec (.rngRead c) s = .next (settle c.fn
        (refuse c.fn (s.func c.fn).nextSeq (queued specRngRead c s) false .eRng 0 (working specRngRead c s)))) ∧
    (∀ x, x = byteAt (bodyOf c) 0 → needsToken s x = false → Accepted specLcTransition c s →
      exec (.lcTransition c) s = .next (settle c.fn
        (beginBurn c.fn (s.func c.fn).nextSeq (.transition x) [10 + x, 20 + x] (working specLcTransition c s)))) ∧
    (∀ x, x = byteAt (bodyOf c) 0 → needsToken s x = true → tokenOk s labelLc x (sliceB (bodyOf c) 8 96) = true →
      Accepted specLcTransition c s →
      exec (.lcTransition c) s = .next (settle c.fn (beginBurn c.fn (s.func c.fn).nextSeq (.transition x) [10 + x, 20 + x]
        ((working specLcTransition c s).mapSec fun x => { x with challenge := none })))) ∧
    (∀ x, x = byteAt (bodyOf c) 0 → needsToken s x = true → tokenOk s labelLc x (sliceB (bodyOf c) 8 96) = false →
      Accepted specLcTransition c s →
      exec (.lcTransition c) s = .next (settle c.fn
        (refuse c.fn (s.func c.fn).nextSeq (queued specLcTransition c s) false .eDenied 0
          ((working specLcTransition c s).mapSec fun x => { x with challenge := none })))) ∧
    (tokenOk s labelDebug (byteAt (bodyOf c) 0) (sliceB (bodyOf c) 8 96) = true → Accepted specDebugUnlock c s →
      exec (.debugUnlock c) s = .next (settle c.fn (answered specDebugUnlock c .sOk {} (fun t =>
        debugOpens (byteAt (bodyOf c) 0) (t.mapSec fun x => { x with challenge := none })) s))) ∧
    (tokenOk s labelDebug (byteAt (bodyOf c) 0) (sliceB (bodyOf c) 8 96) = false → Accepted specDebugUnlock c s →
      exec (.debugUnlock c) s = .next (settle c.fn
        (refuse c.fn (s.func c.fn).nextSeq (queued specDebugUnlock c s) false .eDenied 0
          ((working specDebugUnlock c s).mapSec fun x => { x with challenge := none })))) ∧
    (c.hdr.tag ∉ (s.func c.fn).failTags → Accepted specAttestCerts c s →
      exec (.attestCerts c) s = .next (settle c.fn (answered specAttestCerts c .sOk { w0 := (certChain s).length } (fun t =>
        hostWrite c.fn (fieldB (bodyOf c) 0 8) (certChain s) t) s))) ∧
    (c.hdr.tag ∈ (s.func c.fn).failTags →
      (s.ent.state = .running → Accepted specLcChallenge c s → exec (.lcChallenge c) s = .next (settle c.fn
        (answered specLcChallenge c .eFault {} (fun t => accessFails c (drawEntropy 32 t).2) s))) ∧
      (s.ent.state = .running → Accepted specRngRead c s → exec (.rngRead c) s = .next (settle c.fn
        (answered specRngRead c .eFault {} (fun t => accessFails c (drawEntropy (byteAt (bodyOf c) 8) t).2) s))) ∧
      (Accepted specAttestCerts c s → exec (.attestCerts c) s = .next (settle c.fn (answered specAttestCerts c .eFault {} (accessFails c) s))) ∧
      (Accepted specAttestQuote c s → exec (.attestQuote c) s = .next (settle c.fn (answered specAttestQuote c .eFault {} (accessFails c) s)))) ∧
    (c.hdr.tag ∉ (s.func c.fn).failTags → Accepted specAttestQuote c s →
      exec (.attestQuote c) s = .next (settle c.fn (answered specAttestQuote c .sOk {} (fun t =>
        hostWrite c.fn (fieldB (bodyOf c) 0 8) (quoteBody s c.fn (sliceB (bodyOf c) 16 32) ++
          ecdsaSign (attestKey s) (sha384 (quoteBody s c.fn (sliceB (bodyOf c) 16 32)))) t) s))) ∧
    (Accepted specKeyAdvance c s →
      exec (.keyAdvance c) s = .next (settle c.fn
        (beginBurn c.fn (s.func c.fn).nextSeq (.advance (s.sec.keyIdx + 1)) [31 + s.sec.keyIdx] (working specKeyAdvance c s)))) ∧
    (Accepted specKeyRevoke c s →
      exec (.keyRevoke c) s = .next (settle c.fn
        (beginBurn c.fn (s.func c.fn).nextSeq (.revoke (byteAt (bodyOf c) 0)) [40 + byteAt (bodyOf c) 0] (working specKeyRevoke c s)))))

/-- Commands whose work goes on after an entry of S_PENDING, or after an agreement: the loads and stores and FW_STAGE wait for their transfer;
UNIT_RETIRE and UNIT_RETURN, ENTROPY_RESTART, CART_EJECT, CART_QUIESCE and CART_PAIR begin. Commands that agree on a tick: a chip that is
alone chooses T itself, the T the command names or the earliest that allows for the agreement, and the action is confirmed at once; what
reports at the confirm is answered there, and POOL_SET, ARCH_LEAVE and REPLAY_START post S_PENDING first. (R64, R70, R104, R122, R155,
R195, R204, R231, R327, R329, R383, R456.) -/
def Obligations.LongCommandsBegin : Prop :=
  (∀ (c : MbxArg) (s : State),
    (Accepted specMemLoad c s → exec (.memLoad c) s = .next (settle c.fn (pended specMemLoad c s))) ∧
    (Accepted specMemStore c s → exec (.memStore c) s = .next (settle c.fn (pended specMemStore c s))) ∧
    (Accepted specProgLoad c s → exec (.progLoad c) s = .next (settle c.fn (pended specProgLoad c s))) ∧
    (Accepted specFwStage c s → exec (.fwStage c) s = .next (settle c.fn (pended specFwStage c s))) ∧
    (Accepted specUnitRetire c s →
      exec (.unitRetire c) s = .next (settle c.fn (startRetire (fieldB (bodyOf c) 0 1) (fieldB (bodyOf c) 2 2) (fieldB (bodyOf c) 8 8)
        (some (c.fn, (s.func c.fn).nextSeq)) (pended specUnitRetire c s)))) ∧
    (∀ u, u = setUnitState (fieldB (bodyOf c) 0 1) (fieldB (bodyOf c) 2 2) 3 (tideNow s) (pended specUnitReturn c s) →
      fieldB (bodyOf c) 0 1 ≠ 4 → Accepted specUnitReturn c s →
      exec (.unitReturn c) s = .next (settle c.fn (u.mapUnits fun x => { x with jobs := x.jobs ++
        [{ cls := fieldB (bodyOf c) 0 1, idx := fieldB (bodyOf c) 2 2, ret := true, since := tideNow u, reqT := fieldB (bodyOf c) 8 8,
           cmd := some (c.fn, (s.func c.fn).nextSeq) }] }))) ∧
    (Accepted specEntropyRestart c s →
      exec (.entropyRestart c) s = .next (settle c.fn ((pended specEntropyRestart c s).mapEnt fun e =>
        { e with testing := true, testTick := s.clk.ticks, restartCmd := some (s.func c.fn).nextSeq,
                 restarts := e.restarts + 1 }))) ∧
    (Accepted specCartEject c s →
      exec (.cartEject c) s = .next (settle c.fn (ejectProgress (byteAt (bodyOf c) 0) (setCayState (byteAt (bodyOf c) 0) .ejecting
        ((pended specCartEject c s).mapCay (byteAt (bodyOf c) 0) fun x =>
          { x with eject := some (discard (bodyOf c), (s.func c.fn).nextSeq), shutdown := false }))))) ∧
    (Accepted specCartQuiesce c s →
      exec (.cartQuiesce c) s = .next (settle c.fn (quiesceProgress (tideNow s)
        { pended specCartQuiesce c s with quiesce := some (some (s.func c.fn).nextSeq) }))) ∧
    (s.ent.state = .running → Accepted specCartPair c s →
      exec (.cartPair c) s = .next (settle c.fn
        (((drawEntropy 12 (working specCartPair c s)).2.mapCay (byteAt (bodyOf c) 0) fun x =>
          { x with pairCmd := some (s.func c.fn).nextSeq, step := 0, pairIv := natLe 12 (drawEntropy 12 s).1 }).emit (.cart (byteAt (bodyOf c) 0) 4 [byteAt (bodyOf c) 1])))))
  ∧ (∀ (c : MbxArg) (s : State) (t : Nat),
    (chooseT s (fieldB (bodyOf c) 8 8) = some t → Accepted specTideEpochSet c s →
      exec (.tideEpochSet c) s = .next (settle c.fn
        (propose t (.epochLen (fieldB (bodyOf c) 0 4)) (some (c.fn, (s.func c.fn).nextSeq)) (working specTideEpochSet c s)))) ∧
    (chooseT s (fieldB (bodyOf c) 8 8) = some t → Accepted specPoolSet c s →
      exec (.poolSet c) s = .next (settle c.fn
        (propose t (.pool (bodyOf c)) (some (c.fn, (s.func c.fn).nextSeq)) (pended specPoolSet c s)))) ∧
    (chooseT s (fieldB (bodyOf c) 16 8) = some t → otherPresent s = [] → Accepted specSlotTableSet c s →
      exec (.slotTableSet c) s = .next (settle c.fn
        (propose t (.slotTable (slotOwners (bodyOf c))) (some (c.fn, (s.func c.fn).nextSeq)) (working specSlotTableSet c s)))) ∧
    (chooseT s (fieldB (bodyOf c) 0 8) = some t → s.fw.staged.isSome = true → Accepted specFwActivate c s →
      exec (.fwActivate c) s = .next (settle c.fn
        (propose t .fwActivate (some (c.fn, (s.func c.fn).nextSeq)) (working specFwActivate c s)))) ∧
    (chooseT s (fieldB (bodyOf c) 8 8) = some t → (maskBits (fieldB (bodyOf c) 0 2) 16).filter (fun j => j != chipId s) = [] →
      Accepted specArchForm c s →
      exec (.archForm c) s = .next (settle c.fn
        (propose t (.archForm (fieldB (bodyOf c) 0 2)) (some (c.fn, (s.func c.fn).nextSeq)) (working specArchForm c s)))) ∧
    (otherPresent s = [] → Accepted specArchLeave c s →
      exec (.archLeave c) s = .next (settle c.fn (propose (earliestT (pended specArchLeave c s) (tideNow (pended specArchLeave c s)))
        (.archLeave (chipId (pended specArchLeave c s))) (some (c.fn, (s.func c.fn).nextSeq)) (pended specArchLeave c s)))) ∧
    ((maskBits (fieldB (bodyOf c) 8 2) 16).filter (fun j => j != chipId s) = [] → Accepted specReplayStart c s →
      exec (.replayStart c) s = .next (settle c.fn (propose (earliestT s (tideNow s))
        (.replayStart c.fn (fieldB (bodyOf c) 0 8) (fieldB (bodyOf c) 8 2)) (some (c.fn, (s.func c.fn).nextSeq)) (pended specReplayStart c s)))) ∧
    (∀ (a : Agreed) (u : State) (act : Action) (cmd : Option (Nat × Nat)), agreeMembers u act = [] →
      a = { t := t, src := chipId u, act := act, proposed := tideNow u, cmd := cmd } →
      propose t act cmd u = agreeDone (tideNow u) a (confirmAgreed t (chipId u) act (u.mapTide fun x => { x with agreed := x.agreed ++ [a] }))))

/-- Boundary-executed commands of the isles, of memory and of sealed computation wait for their boundary, and there each takes its effect with
that boundary's stamp. (R107, R374, R375, R378, R381.) -/
def Obligations.IsleBoundaryCommands : Prop :=
  ∀ (c : MbxArg) (s : State) (ok : State → Nat → Cmd → Bool) (fn b : Nat) (e : Cmd),
    (Accepted specIsleResize c s → exec (.isleResize c) s = .next (waiting specIsleResize c s)) ∧
    (∀ k g u, k = fieldB e.payload 0 1 → g = recGrant e.payload (s.isle k).grant.parkWait → u = setUnits k (regrant k g s) →
      resizeAllowed (s.isle k) g = true → shortOf s k g = none → (s.isle k).state ≠ .enabled → Due specIsleResize ok fn e s →
      boundaryCmds cmdTable ok fn b s = finishAt b fn e.seq .sOk 0 {} { u with units := { u.units with scrubs := s.units.scrubs } }) ∧
    (∀ k g, k = fieldB e.payload 0 1 → g = recGrant e.payload (s.isle k).grant.parkWait →
      resizeAllowed (s.isle k) g = true → shortOf s k g = none → (s.isle k).state = .enabled →
      g.cores = (s.isle k).grant.cores → g.lagoons = (s.isle k).grant.lagoons → Due specIsleResize ok fn e s →
      boundaryCmds cmdTable ok fn b s = finishAt b fn e.seq .sOk 0 {} (setUnits k (regrant k g s))) ∧
    (Accepted specIsleDisable c s → exec (.isleDisable c) s = .next (waiting specIsleDisable c s)) ∧
    (busyIsle (s.isle (fieldB e.payload 0 1)) = false → Due specIsleDisable ok fn e s →
      boundaryCmds cmdTable ok fn b s = finishAt b fn e.seq .sOk 0 {} (quiesceEnter (fieldB e.payload 0 1) .disabled false s)) ∧
    (Accepted specIsleReset c s → exec (.isleReset c) s = .next (waiting specIsleReset c s)) ∧
    (busyIsle (s.isle (fieldB e.payload 0 1)) = false → Due specIsleReset ok fn e s →
      boundaryCmds cmdTable ok fn b s = finishAt b fn e.seq .sOk 0 {} (quiesceEnter (fieldB e.payload 0 1) .enabled false s)) ∧
    (busyIsle (s.isle (fieldB e.payload 0 1)) = true → Due specIsleReset ok fn e s →
      boundaryCmds cmdTable ok fn b s = finishAt b fn e.seq .sOk 0 {} s) ∧
    (Accepted specIsleQosSet c s → exec (.isleQosSet c) s = .next (waiting specIsleQosSet c s)) ∧
    (Due specIsleQosSet ok fn e s →
      boundaryCmds cmdTable ok fn b s = finishAt b fn e.seq .sOk 0 {} (raiseFloor (s.mapIsle (fieldB e.payload 0 1) fun r =>
        { r with cls := fieldB e.payload 1 1,
                 overrunLimit := if fieldB e.payload 2 1 = 0 then r.overrunLimit else fieldB e.payload 2 1 })))

/-- The same of memory and of sealed computation: strict mode, resident ranges, parameter sets and keys. The same of streams, windows, replay
and isle keys. (R107, R113, R146, R154, R335, R348, R359, R368, R415, R426, R429, R430.) -/
def Obligations.MemoryBoundaryCommands : Prop :=
  (∀ (c : MbxArg) (s : State) (ok : State → Nat → Cmd → Bool) (fn b : Nat) (e : Cmd),
    (Accepted specMemModeSet c s → exec (.memModeSet c) s = .next (waiting specMemModeSet c s)) ∧
    (Due specMemModeSet ok fn e s →
      boundaryCmds cmdTable ok fn b s = finishAt b fn e.seq .sOk 0 {} (s.mapIsle fn fun r => { r with strict := fieldB e.payload 0 1 == 1 })) ∧
    (Accepted specMemResidentSet c s → exec (.memResidentSet c) s = .next (waiting specMemResidentSet c s)) ∧
    (∀ l, l = (if fieldB e.payload 16 1 == 1 then declare (s.isle fn).resident (cmdView s e) (fieldB e.payload 0 8) (fieldB e.payload 8 8)
        else undeclare (s.isle fn).resident (cmdView s e) (fieldB e.payload 0 8) (fieldB e.payload 8 8)) → Due specMemResidentSet ok fn e s →
      boundaryCmds cmdTable ok fn b s = if l.length > 64 then finishAt b fn e.seq .eNores 0 {} s
        else finishAt b fn e.seq .sOk 0 {} (s.mapIsle fn fun r => { r with resident := l })) ∧
    (Accepted specSealPsetSet c s → exec (.sealPsetSet c) s = .next (waiting specSealPsetSet c s)) ∧
    (∀ p, psetAt s fn (fieldB e.payload 8 8) = (p, true) → psetOk p = true → e.hdr.tag ∉ (s.func fn).failTags → Due specSealPsetSet ok fn e s →
      boundaryCmds cmdTable ok fn b s = finishAt b fn e.seq .sOk 0 { w0 := 2 ^ p.nLog2, w1 := p.l, w2 := p.k }
        (mapSealed fn (fun x => { x with psets := aSet (fieldB e.payload 0 1) p x.psets }) (hostTouch fn (fieldB e.payload 8 8) 400 s))) ∧
    (∀ p, psetAt s fn (fieldB e.payload 8 8) = (p, false) → e.hdr.tag ∉ (s.func fn).failTags → Due specSealPsetSet ok fn e s →
      boundaryCmds cmdTable ok fn b s = finishAt b fn e.seq .eBadarg 0 {} (hostTouch fn (fieldB e.payload 8 8) 400 s)) ∧
    (Accepted specSealKeyLoad c s → exec (.sealKeyLoad c) s = .next (waiting specSealKeyLoad c s)) ∧
    (Due specSealKeyLoad ok fn e s → boundaryCmds cmdTable ok fn b s = pendAt b fn e.seq s) ∧
    (Accepted specSealKeyDrop c s → exec (.sealKeyDrop c) s = .next (waiting specSealKeyDrop c s)) ∧
    (∀ x, aGet (s.isle fn).sealed.keys (fieldB e.payload 0 1) = some x → Due specSealKeyDrop ok fn e s →
      boundaryCmds cmdTable ok fn b s = finishAt b fn e.seq .sOk 0 {}
        (mapSealed fn (fun x => { x with keys := aDel x.keys (fieldB e.payload 0 1) })
          (writeBytes fn x.view x.base (List.replicate x.len 0) s))))
  ∧ (∀ (c : MbxArg) (s : State) (ok : State → Nat → Cmd → Bool) (fn b : Nat) (e : Cmd),
    (Accepted specStreamDestroy c s → exec (.streamDestroy c) s = .next (waiting specStreamDestroy c s)) ∧
    (Due specStreamDestroy ok fn e s →
      boundaryCmds cmdTable ok fn b s = finishAt b fn e.seq .sOk 0 {}
        (s.mapIsle fn fun r => { r with streams := aDel r.streams (fieldB e.payload 0 4) })) ∧
    (Accepted specWinOpen c s → exec (.winOpen c) s = .next (waiting specWinOpen c s)) ∧
    (∀ w old, w = winFields s e → old = (aGet (s.isle fn).windows (fieldB e.payload 0 1)).getD {} → Due specWinOpen ok fn e s →
      boundaryCmds cmdTable ok fn b s = finishAt b fn e.seq .sOk 0 {}
        (s.mapIsle fn fun r => { r with windows := aSet (fieldB e.payload 0 1) { w with refusals := old.refusals, bytes := old.bytes } r.windows })) ∧
    (Accepted specWinClose c s → exec (.winClose c) s = .next (waiting specWinClose c s)) ∧
    (Due specWinClose ok fn e s →
      boundaryCmds cmdTable ok fn b s = finishAt b fn e.seq .sOk 0 {}
        (s.mapIsle fn fun r => { r with windows := aDel r.windows (fieldB e.payload 0 1) })) ∧
    (Accepted specReplayLogSet c s → exec (.replayLogSet c) s = .next (waiting specReplayLogSet c s)) ∧
    (∀ (l : LogSession) u,
      l = { stream := fieldB e.payload 0 4, b0 := b, epoch := s.tide.epochLen, frames := (fieldB e.payload 4 1).testBit 0,
            digests := (fieldB e.payload 4 1).testBit 1, complete := (s.isle fn).pristine } →
      u = (mapStream fn l.stream (fun x => { x with bound := some logBound }) s).mapIsle fn (fun r => { r with log := some l }) →
      Due specReplayLogSet ok fn e s →
      boundaryCmds cmdTable ok fn b s = finishAt b fn e.seq .sOk 0 { w0 := b2n l.complete, w1 := b % 2 ^ 32, w2 := b / 2 ^ 32 % 2 ^ 32 }
        (logRec fn 1 0xFF b (sessionBody s fn l) u)) ∧
    (Accepted specReplayLogStop c s → exec (.replayLogStop c) s = .next (waiting specReplayLogStop c s)) ∧
    (∀ l, (s.isle fn).log = some l → Due specReplayLogStop ok fn e s →
      boundaryCmds cmdTable ok fn b s = finishAt b fn e.seq .sOk 0 { w0 := l.seqno + l.recs.length + l.cmds.length + 1 }
        (s.mapIsle fn fun r => { r with log := r.log.map fun l => { l with ending := some 0 } })) ∧
    (Accepted specReplayStop c s → exec (.replayStop c) s = .next (waiting specReplayStop c s)) ∧
    (Due specReplayStop ok fn e s →
      boundaryCmds cmdTable ok fn b s = finishAt b fn e.seq .sOk 0 {} (s.mapIsle fn fun r =>
        { r with replay := none, seqs := r.seqs.map fun q => (q.1, { q.2 with late := false, lateOn := false }) })) ∧
    (Accepted specKeyEpochRotate c s → exec (.keyEpochRotate c) s = .next (waiting specKeyEpochRotate c s)) ∧
    (∀ (key : Nat) (u v : State), rotateEpoch fn key b v = some u → v = (if e.aux = [] then (drawEntropy 32 s).2 else s) →
      (e.aux = [] → key = (drawEntropy 32 s).1) → (∀ x l, e.aux = x :: l → key = x) → s.ent.state = .running → Due specKeyEpochRotate ok fn e s →
      boundaryCmds cmdTable ok fn b s = finishAt b fn e.seq .sOk 0 { w0 := (u.isle fn).keys.current.getD 0 } u) ∧
    (Accepted specKeyEpochRetire c s → exec (.keyEpochRetire c) s = .next (waiting specKeyEpochRetire c s)) ∧
    (∀ x, (s.isle fn).keys.previous = some x → Due specKeyEpochRetire ok fn e s →
      boundaryCmds cmdTable ok fn b s = finishAt b fn e.seq .sOk 0 {}
        (destroyEpoch fn x b (s.mapIsle fn fun r => { r with keys := { r.keys with previous := none } }))))

/-- Boundary-executed commands of programs and taps: each waits for its boundary, and there takes its effect. PROG_RUN of a program whose
shards this chip hosts alone waits for nothing else. Boundary-executed commands of sequences: each waits for its boundary when no other
chip has a replica, and there takes its effect. (R107, R233, R276, R279, R282, R286, R294, R301, R306, R307, R358, R467.) -/
def Obligations.ProgramBoundaryCommands : Prop :=
  (∀ (c : MbxArg) (s : State) (ok : State → Nat → Cmd → Bool) (fn b : Nat) (e : Cmd),
    (Accepted specProgUnload c s → exec (.progUnload c) s = .next (waiting specProgUnload c s)) ∧
    (∀ g, g = fieldB e.payload 0 4 → ((s.isle fn).seqs.filter fun q => q.2.prog == some g) = [] → Due specProgUnload ok fn e s →
      boundaryCmds cmdTable ok fn b s = finishAt b fn e.seq .sOk 0 {} (s.mapIsle fn fun r => { r with
        progs := aDel r.progs g, admitLimits := aDel r.admitLimits g,
        pressure := r.pressure.map fun x => { x with gone := aDel x.gone g },
        seqs := r.seqs.map fun q => if q.2.prog == some g then (q.1, { q.2 with prog := none, eligibleSince := none }) else q })) ∧
    (∀ g, aGet (s.isle c.fn).progs (fieldB (bodyOf c) 0 4) = some g → multiPartner s g.shards = false → Accepted specProgRun c s →
      exec (.progRun c) s = .next (waiting specProgRun c s)) ∧
    (∀ g p m u, g = fieldB e.payload 0 4 → aGet (s.isle fn).progs g = some p → m = fieldB e.payload 4 1 →
      u = s.mapArch (fun a => { a with accepts := a.accepts.filter fun r => !(r.isle == fn && r.digest == p.digest) }) →
      Due specProgRun ok fn e s →
      boundaryCmds cmdTable ok fn b s = finishAt b fn e.seq .sOk 0 {} (mapProg fn g (fun x => { x with
        mode := m, oneShot := m == 2, table := if m = 0 then x.table else 0, withheldB := none,
        invCtr := if m ≠ 0 ∧ multiPartner u x.shards ∧ !hasInvs (u.isle fn) g then 0 else x.invCtr,
        state := if m = 0 then (if x.state == .faulted then .faulted else .loaded) else .running }) u)) ∧
    (Accepted specTapArm c s → exec (.tapArm c) s = .next (waiting specTapArm c s)) ∧
    (∀ i, ((List.range 8).find? fun i => ((s.isle fn).taps.getD i {}).state == .free) = some i → Due specTapArm ok fn e s →
      boundaryCmds cmdTable ok fn b s = finishAt b fn e.seq .sOk 0 { w0 := i }
        (s.mapIsle fn fun r => { r with taps := setAt r.taps i fun _ => tapRec s e })) ∧
    (((List.range 8).find? fun i => ((s.isle fn).taps.getD i {}).state == .free) = none → Due specTapArm ok fn e s →
      boundaryCmds cmdTable ok fn b s = finishAt b fn e.seq .eNores 0 {} s) ∧
    (Accepted specTapClose c s → exec (.tapClose c) s = .next (waiting specTapClose c s)) ∧
    (∀ u i, u = finishAt b fn e.seq .sOk 0 {} s → i = fieldB e.payload 0 4 → Due specTapClose ok fn e s →
      boundaryCmds cmdTable ok fn b s =
        (if ((u.isle fn).taps.getD i {}).state = .armed then tapDone fn i b u else u).mapIsle fn fun r =>
          { r with taps := setAt r.taps i fun _ => {} }) ∧
    (Accepted specDrawSet c s → exec (.drawSet c) s = .next (waiting specDrawSet c s)) ∧
    (∀ g d, aGet (s.isle fn).progs (fieldB e.payload 0 4) = some g →
      d = { nodes := fieldB e.payload 4 1, draws := fieldB e.payload 5 1, base := fieldB e.payload 8 8 } → Due specDrawSet ok fn e s →
      boundaryCmds cmdTable ok fn b s = finishAt b fn e.seq .sOk 0 {} (mapProg fn (fieldB e.payload 0 4) (fun x =>
        { x with draw := some d, regions := x.regions ++ (List.range (hostedCount s)).map fun h => (h, d.base, drawLen g d) }) s)) ∧
    (Accepted specAdmitSet c s → exec (.admitSet c) s = .next (waiting specAdmitSet c s)) ∧
    (Due specAdmitSet ok fn e s →
      boundaryCmds cmdTable ok fn b s = finishAt b fn e.seq .sOk 0 {} (s.mapIsle fn fun r => { r with
        admitLimits := if fieldB e.payload 4 4 = 0 then aDel r.admitLimits (fieldB e.payload 0 4)
          else aSet (fieldB e.payload 0 4) (fieldB e.payload 4 4) r.admitLimits })))
  ∧ (∀ (c : MbxArg) (s : State) (ok : State → Nat → Cmd → Bool) (fn b : Nat) (e : Cmd),
    (Accepted specSeqPoolSet c s → exec (.seqPoolSet c) s = .next (waiting specSeqPoolSet c s)) ∧
    (∀ p, p = poolRec e.payload → Due specSeqPoolSet ok fn e s →
      boundaryCmds cmdTable ok fn b s = finishAt b fn e.seq .sOk 0
        { w0 := pageBytes p / 256, w1 := shelfPlaces p, w2 := t1Places p, w3 := shoalCount p }
        (s.mapIsle fn fun r => { r with pool := some (p, cmdView s e), tree := [] })) ∧
    (Accepted specSeqBatchSet c s → exec (.seqBatchSet c) s = .next (waiting specSeqBatchSet c s)) ∧
    (∀ g x, aGet (s.isle fn).progs (fieldB e.payload 0 4) = some g → x = batchRec e.payload → Due specSeqBatchSet ok fn e s →
      boundaryCmds cmdTable ok fn b s = finishAt b fn e.seq .sOk 0 {} (mapProg fn (fieldB e.payload 0 4) (fun y => { y with
        batch := some x, table := 0, regions := progRegions s fn y.image ++ (List.range (hostedCount s)).flatMap fun h =>
          (batchRegions x (imgPhases g.image)).map fun r => (h, (round4k r).1, (round4k r).2) }) s)) ∧
    (replicasElsewhere s (createReplicas (bodyOf c)) = false → Accepted specSeqCreate c s →
      exec (.seqCreate c) s = .next (waiting specSeqCreate c s)) ∧
    (fieldB e.payload 16 8 ≠ 0 → Due specSeqCreate ok fn e s →
      boundaryCmds cmdTable ok fn b s = createWith fn e b (fieldB e.payload 16 8) s) ∧
    (fieldB e.payload 16 8 = 0 → e.aux.headD 0 ≠ 0 → Due specSeqCreate ok fn e s →
      boundaryCmds cmdTable ok fn b s = createWith fn e b (e.aux.headD 0 - 1) s) ∧
    (∀ d, fieldB e.payload 16 8 = 0 → e.aux.headD 0 = 0 → s.ent.state = .running → d = drawEntropy 8 s →
      Due specSeqCreate ok fn e s → boundaryCmds cmdTable ok fn b s = createWith fn e b d.1 d.2) ∧
    (seqReplicated s c.fn (bodyOf c) = false → Accepted specSeqDestroy c s →
      exec (.seqDestroy c) s = .next (waiting specSeqDestroy c s)) ∧
    (∀ q, seqOf s fn (fieldB e.payload 0 4) = some q → q.state ≠ .parking → Due specSeqDestroy ok fn e s →
      boundaryCmds cmdTable ok fn b s = freeSeq fn (fieldB e.payload 0 4) b
        (finishAt b fn e.seq .sOk 0 {} (tellReplicas fn (fieldB e.payload 0 4) 1 [] s))) ∧
    (Accepted specSeqBind c s → exec (.seqBind c) s = .next (waiting specSeqBind c s)) ∧
    (∀ h q, h = fieldB e.payload 0 4 → seqOf s fn h = some q → q.prog = optHandle e.payload 4 → Due specSeqBind ok fn e s →
      boundaryCmds cmdTable ok fn b s = finishAt b fn e.seq .sOk 0 {} (mapSeq fn h (fun x => { x with
          prog := optHandle e.payload 4, inStream := optHandle e.payload 8, outStream := optHandle e.payload 12,
          eligibleSince := if x.prog = optHandle e.payload 4 then x.eligibleSince else none })
        (bindStream fn h (optHandle e.payload 12) (bindStream fn h (optHandle e.payload 8)
          (unbindStream fn h q.outStream (unbindStream fn h q.inStream s)))))) ∧
    (∀ q, seqOf s c.fn (fieldB (bodyOf c) 0 4) = some q → q.state ≠ .parked → q.state ≠ .parking → seqReplicated s c.fn (bodyOf c) = false →
      Accepted specSeqRewind c s → exec (.seqRewind c) s = .next (waiting specSeqRewind c s)) ∧
    (∀ q u, seqOf s fn (fieldB e.payload 0 4) = some q →
      u = (if q.state = .parking then abandonPark fn (fieldB e.payload 0 4) .eRetry b s else s) → Due specSeqRewind ok fn e s →
      boundaryCmds cmdTable ok fn b s = finishAt b fn e.seq (rewindSeq fn (fieldB e.payload 0 4) (fieldB e.payload 4 4) u).1 0 {}
        (mapSeq fn (fieldB e.payload 0 4) (fun q => { q with rewindHold := false }) (rewindSeq fn (fieldB e.payload 0 4) (fieldB e.payload 4 4) u).2)) ∧
    (seqReplicated s c.fn (bodyOf c) = false → Accepted specSeqPark c s → exec (.seqPark c) s = .next (waiting specSeqPark c s)) ∧
    (∀ q, seqOf s fn (fieldB e.payload 0 4) = some q → q.state ≠ .parked → fieldB e.payload 4 1 = 0 → Due specSeqPark ok fn e s →
      boundaryCmds cmdTable ok fn b s = parkCart fn e fn (fieldB e.payload 0 4) b s) ∧
    (∀ q r, seqOf s fn (fieldB e.payload 0 4) = some q → q.state ≠ .parked → fieldB e.payload 4 1 = 1 →
      r = parkTierOne fn (fieldB e.payload 0 4) s → Due specSeqPark ok fn e s →
      boundaryCmds cmdTable ok fn b s = finishAt b fn e.seq r.1 0 {}
        (if r.1 = .sOk then tellReplicas fn (fieldB e.payload 0 4) 4 [] r.2 else r.2)) ∧
    (Accepted specSeqPrefixDrop c s → exec (.seqPrefixDrop c) s = .next (waiting specSeqPrefixDrop c s)) ∧
    (∀ hit : TreeNode → Bool, (∀ n, hit n = (n.inTree && (fieldB e.payload 0 8 == 0 || n.domain == fieldB e.payload 0 8))) →
      Due specSeqPrefixDrop ok fn e s →
      boundaryCmds cmdTable ok fn b s = finishAt b fn e.seq .sOk 0 { w0 := ((s.isle fn).tree.filter hit).length }
        (pruneTree fn (s.mapIsle fn fun r => { r with tree := r.tree.map fun n => if hit n then { n with inTree := false } else n }))))

/-- Peer-checked commands with other chips to ask: accepted, the command goes to them, a SEQ_CREATE with the tokens of its prefix, and waits
until its Q = (floor(d / 6,400) + 4) times 6,400 for their answers; nothing else changes. The peers answer in time: S_OK lets the command
wait for its boundary or execute, a SEQ_CREATE with what the replica chips found; a replica chip of it without a window refuses it with
E_STATE, a chip of an ARCH_FORM with another firmware version or epoch length refuses it with E_STATE and the lowest such chip, and another
status makes it a refusal that is posted at its Q, and no entry is written before. An answer later than Q - 6,400 changes nothing. (R111,
R288, R305, R327, R329, R364, R383.) -/
def Obligations.PeerCheckedCommands : Prop :=
  (∀ (c : MbxArg) (s : State) (asked : CmdSpec → State),
    (∀ spec, asked spec = (setPhase c.fn (s.func c.fn).nextSeq (.peer (peerQuantum (quantNow s))) (entered spec c s)).emit
      (.peer 0xFF spec.opcode [c.fn, c.hdr.tag] (spec.peerData (entered spec c s) c.fn (bodyOf c)))) →
    (otherPresent s ≠ [] → Accepted specSlotTableSet c s → exec (.slotTableSet c) s = .next (asked specSlotTableSet)) ∧
    (otherPresent s ≠ [] → Accepted specArchLeave c s → exec (.archLeave c) s = .next (asked specArchLeave)) ∧
    (∀ j, j < 16 → j ≠ chipId s → (fieldB (bodyOf c) 0 2).testBit j = true → Accepted specArchForm c s →
      exec (.archForm c) s = .next (asked specArchForm)) ∧
    (∀ j, j < 16 → j ≠ chipId s → (fieldB (bodyOf c) 8 2).testBit j = true → Accepted specReplayStart c s →
      exec (.replayStart c) s = .next (asked specReplayStart)) ∧
    (specArchForm.peerData (entered specArchForm c s) c.fn (bodyOf c) = bodyOf c ++ natLe 4 s.fw.ifVersion ++ natLe 4 s.tide.epochLen) ∧
    (∀ spec, spec ∈ [specSlotTableSet, specArchLeave, specReplayStart, specSeqDestroy, specSeqPark, specSeqRewind] →
      spec.peerData (entered spec c s) c.fn (bodyOf c) = bodyOf c) ∧
    (∀ bytes, bytes = hostRead s c.fn (fieldB (bodyOf c) 32 8) (4 * fieldB (bodyOf c) 40 4) →
      specSeqCreate.peerData (entered specSeqCreate c s) c.fn (bodyOf c) =
        bodyOf c ++ (if (fieldB (bodyOf c) 0 1).testBit 2 then tokensOf bytes else []).flatMap (natLe 4)) ∧
    (replicasElsewhere s (createReplicas (bodyOf c)) = true → Accepted specSeqCreate c s →
      exec (.seqCreate c) s = .next (asked specSeqCreate)) ∧
    (seqReplicated s c.fn (bodyOf c) = true → Accepted specSeqDestroy c s → exec (.seqDestroy c) s = .next (asked specSeqDestroy)) ∧
    (seqReplicated s c.fn (bodyOf c) = true → Accepted specSeqPark c s → exec (.seqPark c) s = .next (asked specSeqPark)) ∧
    (∀ q, seqOf s c.fn (fieldB (bodyOf c) 0 4) = some q → q.state ≠ .parked → q.state ≠ .parking → seqReplicated s c.fn (bodyOf c) = true →
      Accepted specSeqRewind c s → exec (.seqRewind c) s = .next (asked specSeqRewind)))
  ∧ (∀ (fn tag status q : Nat) (found : List (Nat × Nat × Nat)) (c : Cmd) (spec : CmdSpec) (s u : State),
    ((s.func fn).cmds.find? fun c => c.hdr.tag == tag && awaitsPeer c) = some c →
    c.phase = .peer q → cmdTable c.hdr.opcode = some spec →
    (status = statusCode .sOk → quantNow s ≤ q - 6400 → spec.boundary = true → c.hdr.opcode ≠ 0x0502 → u = setPhase fn c.seq .boundary s →
      exec (.peerAnswer fn tag status found) s = .next (nameRewinds (tideNow s) s.tide.nextB u)) ∧
    (status = statusCode .sOk → quantNow s ≤ q - 6400 → c.hdr.opcode = 0x0502 →
      (∀ j ∈ otherPartners s (createReplicas c.payload), ∃ x ∈ found, x.1 = j) →
      u = setPhase fn c.seq .boundary (setAux fn c.seq (0 :: found.flatMap fun x => [x.1, x.2.1, x.2.2]) s) →
      exec (.peerAnswer fn tag status found) s = .next (nameRewinds (tideNow s) s.tide.nextB u)) ∧
    (∀ j, status = statusCode .sOk → quantNow s ≤ q - 6400 → c.hdr.opcode = 0x0502 → j ∈ otherPartners s (createReplicas c.payload) →
      (∀ x ∈ found, x.1 ≠ j) → exec (.peerAnswer fn tag status found) s = .next (setPhase fn c.seq (.refusal q .eState 0) s)) ∧
    (∀ j, status = statusCode .sOk → quantNow s ≤ q - 6400 → c.hdr.opcode = 0x0601 →
      (found.filter fun x => x.2.1 != s.fw.ifVersion || x.2.2 != s.tide.epochLen).map (fun x => x.1) ≠ [] →
      j ∈ (found.filter fun x => x.2.1 != s.fw.ifVersion || x.2.2 != s.tide.epochLen).map (fun x => x.1) →
      (∀ x ∈ found, x.2.1 ≠ s.fw.ifVersion ∨ x.2.2 ≠ s.tide.epochLen → j ≤ x.1) →
      exec (.peerAnswer fn tag status found) s = .next (setPhase fn c.seq (.refusal q .eState j) s)) ∧
    (status = statusCode .sOk → quantNow s ≤ q - 6400 → spec.boundary = false → c.hdr.opcode ≠ 0x0502 →
      (c.hdr.opcode = 0x0601 → ∀ x ∈ found, x.2.1 = s.fw.ifVersion ∧ x.2.2 = s.tide.epochLen) →
      u = pumpAll cmdTable (spec.run fn c (tideNow s) (setPhase fn c.seq .working s)) →
      exec (.peerAnswer fn tag status found) s = .next (nameRewinds (tideNow s) s.tide.nextB u)) ∧
    (∀ st, st ≠ .sOk → statusOf status = some st → quantNow s ≤ q - 6400 → c.hdr.opcode ≠ 0x0601 →
      exec (.peerAnswer fn tag status found) s = .next (setPhase fn c.seq (.refusal q st 0) s)) ∧
    (∀ st x rest, st ≠ .sOk → statusOf status = some st → quantNow s ≤ q - 6400 → c.hdr.opcode = 0x0601 → found = x :: rest →
      exec (.peerAnswer fn tag status found) s = .next (setPhase fn c.seq (.refusal q st x.1) s)) ∧
    (∀ st, statusOf status = some st → q - 6400 < quantNow s → exec (.peerAnswer fn tag status found) s = .next s))

/-- A refusal of a quantized class waits for its Q: at that tick, and not before, its entry is posted with its status and detail, stamped with
Q, and it is the only command of its function here; a peer-checked command whose peers have not answered ends there with E_PEER_LOST. With
nothing due, no quantum comes. The model's choice (log 91): on the PF the row also comes for fuse programming that has ended, and then the
command that asked for it ends with S_OK when every row verifies, else with E_FAULT, and the rows hold what has been programmed. (R110,
R111, R404, R405, R407.) -/
def Obligations.RefusalQuantumPosts : Prop :=
  ∀ (fn q : Nat) (s u : State) (c : Cmd),
    (s.func fn).cmds = [c] → (fn = 0 → s.sec.burns = []) → quantNow s ≤ q → (s.tide.aligned = true → s.tide.frozen = false ∧ q < 2 ^ 64) → s.boot.t2 ≤ s.clk.ticks →
    u = advanceTicks (s.clk.ticks + (q - quantNow s)) s →
    quantNow u = q ∧
    (∀ st detail, c.phase = .refusal q st detail → c.aux = [] →
      exec (.refusalQuantum fn) s = .next (pumpAll cmdTable (refuseAt (if s.tide.aligned then q else 0) fn c.seq st detail u))) ∧
    (c.phase = .peer q →
      exec (.refusalQuantum fn) s = .next (pumpAll cmdTable (refuseAt (if s.tide.aligned then q else 0) fn c.seq .ePeerLost 0 u))) ∧
    (c.phase = .held → s.sec.burns = [] → exec (.refusalQuantum fn) s = .next s) ∧
    (∀ (b : Burn) (v : State), fn = 0 → b.fn = 0 → b.seq = c.seq → c.phase = .working → s.sec.burns = [b] → s.clk.ticks ≤ b.stop →
      v = ((advanceTicks b.stop s).mapFuses fun f => b.settle b.stop f).mapSec (fun x => { x with burns := [] }) →
      (b.verifies = false → exec (.refusalQuantum 0) s = .next (pumpAll cmdTable (finish 0 c.seq .eFault 0 {} v))) ∧
      (∀ n, b.verifies = true → b.what = .advance n →
        exec (.refusalQuantum 0) s = .next (pumpAll cmdTable (finish 0 c.seq .sOk 0 { w0 := n } v))) ∧
      (∀ slot, b.verifies = true → b.what = .revoke slot →
        exec (.refusalQuantum 0) s = .next (pumpAll cmdTable (finish 0 c.seq .sOk 0 {} v))) ∧
      (∀ x, b.verifies = true → b.what = .transition x →
        exec (.refusalQuantum 0) s = .next (pumpAll cmdTable (finish 0 c.seq .sOk 0 {} (afterTransition x v)))))

/-- The transfer of a command that posted S_PENDING has ended: with the host's memory at fault the command ends with E_FAULT and HOST_ACCESS
is recorded; a MEM_LOAD has written what it read, a MEM_STORE has written what it read, a program that passes its checks is loaded under
the lowest free handle, a firmware image that passes is staged, and a key that is well formed is registered and copied. (R98, R122, R155,
R231, R429.) -/
def Obligations.TransfersEnd : Prop :=
  ∀ (fn tag : Nat) (c : Cmd) (s : State),
    ((s.func fn).cmds.find? fun c => c.hdr.tag == tag && c.phase == .final) = some c →
    (c.hdr.opcode ∈ [0x0302, 0x0303, 0x0400, 0x0C01, 0x0A01] → exec (.hostTransferDone fn tag false) s = .next (pumpAll cmdTable
      (finish fn c.seq .eFault 0 {} (recordFault dHost 0 0 {} [fn] s)))) ∧
    (c.hdr.opcode = 0x0302 → exec (.hostTransferDone fn tag true) s = .next (pumpAll cmdTable (finish fn c.seq .sOk 0 {}
      (writeBytes fn (cmdView s c) (fieldB c.payload 8 8) (hostRead s fn (fieldB c.payload 0 8) (fieldB c.payload 16 4))
        (hostTouch fn (fieldB c.payload 0 8) (fieldB c.payload 16 4) s))))) ∧
    (∀ bs, c.hdr.opcode = 0x0303 → readProg s fn (cmdView s c) none (fieldB c.payload 8 8) (fieldB c.payload 16 4) = some bs →
      (bs.all fun x => !x.2) = true → exec (.hostTransferDone fn tag true) s = .next (pumpAll cmdTable (finish fn c.seq .sOk 0 {}
        (hostWrite fn (fieldB c.payload 0 8) (bs.map fun x => if x.2 then 0 else x.1) s)))) ∧
    (∀ bs i, c.hdr.opcode = 0x0303 → readProg s fn (cmdView s c) none (fieldB c.payload 8 8) (fieldB c.payload 16 4) = some bs →
      (bs.findIdx? fun x => x.2) = some i → exec (.hostTransferDone fn tag true) s = .next (pumpAll cmdTable (finish fn c.seq .ePoison 0 { w0 := i }
        (hostWrite fn (fieldB c.payload 0 8) (bs.map fun x => if x.2 then 0 else x.1) s)))) ∧
    (∀ b h g u, c.hdr.opcode = 0x0400 → b = hostRead s fn (fieldB c.payload 0 8) (fieldB c.payload 8 4) →
      u = setNote fn c.seq (imgDigest b) (hostTouch fn (fieldB c.payload 0 8) (fieldB c.payload 8 4) s) → loadCheck u fn b = none →
      aFree (u.isle fn).progs 16 = some h → g = { image := b, regions := progRegions u fn b, shards := progShards u fn b } →
      exec (.hostTransferDone fn tag true) s = .next (pumpAll cmdTable (finish fn c.seq .sOk 0 { w0 := h }
        (u.mapIsle fn fun r => { r with progs := aSet h g r.progs })))) ∧
    (∀ b u st detail w q, c.hdr.opcode = 0x0400 → b = hostRead s fn (fieldB c.payload 0 8) (fieldB c.payload 8 4) →
      u = setNote fn c.seq (imgDigest b) (hostTouch fn (fieldB c.payload 0 8) (fieldB c.payload 8 4) s) → loadCheck u fn b = some (st, detail, w) →
      q = (c.d / 6400 + 2 + ceilDiv (fieldB c.payload 8 4) 4194304) * 6400 →
      exec (.hostTransferDone fn tag true) s = .next (pumpAll cmdTable
        (setPhase fn c.seq (.refusal q st detail) (setAux fn c.seq [w.w0, w.w1, w.w2] u)))) ∧
    (∀ d, c.hdr.opcode = 0x0C01 → d = parseImage s (fieldB c.payload 0 8) (fieldB c.payload 8 4) → imageCode s d = 0 →
      exec (.hostTransferDone fn tag true) s = .next (pumpAll cmdTable (finish fn c.seq .sOk 0
        { w0 := d.ifVersion, w1 := d.build % 2 ^ 32, w2 := d.build / 2 ^ 32 % 2 ^ 32 }
        ((hostTouch fn (fieldB c.payload 0 8) (fieldB c.payload 8 4) s).mapFw fun f =>
          { f with staged := some (d.ifVersion, d.build, d.measurement), stagedKeys := imageKeysOf d })))) ∧
    (∀ d, c.hdr.opcode = 0x0C01 → d = parseImage s (fieldB c.payload 0 8) (fieldB c.payload 8 4) → imageCode s d ≠ 0 →
      exec (.hostTransferDone fn tag true) s = .next (pumpAll cmdTable (finish fn c.seq .eDenied 0 {}
        (hostTouch fn (fieldB c.payload 0 8) (fieldB c.payload 8 4) s)))) ∧
    (∀ b x, c.hdr.opcode = 0x0A01 → b = hostRead s fn (fieldB c.payload 8 8) (fieldB c.payload 24 8) → keyObjOk (s.isle fn).sealed b = true →
      x = { base := fieldB c.payload 16 8, len := fieldB c.payload 24 8, view := cmdView s c, kind := fieldB b 4 1, pset := fieldB b 5 1,
            auto := fieldB b 8 4, keyId := fieldB b 12 4 } →
      exec (.hostTransferDone fn tag true) s = .next (pumpAll cmdTable (finish fn c.seq .sOk 0 (w64 (leNat ((sha384 b).take 8)))
        (mapSealed fn (fun y => { y with keys := aSet (fieldB c.payload 0 1) x y.keys }) (writeBytes fn (cmdView s c) (fieldB c.payload 16 8) b
          (hostTouch fn (fieldB c.payload 8 8) (fieldB c.payload 24 8) s))))))

/-- What a reset of the device leaves. VSTBY at power-on, and a brown-out of it, leave the whole chip at its reset state, with the
fuses (programmed as far as it has come), the memories, the seated cartridges, the board's temperature and the bank relocations marked in
nonvolatile form as they were; the incarnation number is drawn at power-on, and without noise it is 0 and STARTUP_FAIL is recorded; a
brown-out of VSTBY releases TIDE_SYNC. PERST_N low, a brown-out of another rail and a thermal trip leave every register, queue, isle,
counter, port and agreement at its reset value, with READY_N and ALERT_N released, TIDE_SYNC and the CAY_PERST_N pins low and the
incarnation number one up; the rest of the standby island, the fuses, the entropy source, the clock, the memories, the latched straps,
the VCORE command and the boundary register stay, and a member of an archipelago announces that it departs. A brown-out and a trip
leave their records; where the device is in reset already only the record is new. (R35, R36, R38, R39, R44, R325, R346.) -/
def Obligations.ResetsClear : Prop :=
  ∀ (s base cold : State),
    base = { State.reset with
      pending := s.pending, clk := s.clk, fuses := fusesNow s, ent := s.ent, mems := s.mems,
      out := (if s.arch.formed then [OutMsg.peer 0xFF pmDepart [chipId s] []] else []) ++ s.out,
      pins := { s.pins with readyLow := false, alertLow := false, syncHold := true, syncHigh := false, markSince := none,
                            cayPerst := [false, false] },
      standby := { s.standby with incarnation := (s.standby.incarnation + 1) % 65536 },
      power := { State.reset.power with vcore := vcoreNow s, avsTick := (avsDue s).power.avsTick, hottest := s.power.hottest },
      boot := { State.reset.boot with archEn := s.boot.archEn, bootSrc := s.boot.bootSrc, chipIdStrap := s.boot.chipIdStrap, t2 := s.boot.t2 },
      units := { State.reset.units with relocPending := s.units.relocPending },
      sec := { State.reset.sec with jtagIr := s.sec.jtagIr, boundary := s.sec.boundary } } →
    cold = { State.reset with
      pending := s.pending, clk := { ticks := 0, freeCtr := s.clk.freeCtr }, fuses := fusesNow s, out := s.out,
      mems := s.mems, pins := { State.reset.pins with cayPrsnt := s.pins.cayPrsnt },
      power := { State.reset.power with hottest := s.power.hottest },
      units := { State.reset.units with relocPending := s.units.relocPending } } →
    -- what every reset leaves as at reset, and what it keeps
    (∀ t, t = base ∨ t = cold → t.boot.inReset = true ∧ t.funcs = State.reset.funcs ∧ t.isles = State.reset.isles ∧
      t.ports = State.reset.ports ∧ t.cay = State.reset.cay ∧ t.raus = State.reset.raus ∧ t.pool = State.reset.pool ∧
      t.tide = State.reset.tide ∧ t.arch = State.reset.arch ∧ t.faults = State.reset.faults ∧ t.halt = none ∧ t.fw = State.reset.fw ∧
      t.mems = s.mems ∧ t.fuses = fusesNow s ∧ t.pending = s.pending) ∧
    (∃ t, exec (.vstbyPowerOn true) s = .next t ∧
      t = { cold with
        clk := { ticks := 100000, freeCtr := s.clk.freeCtr + 1 },
        standby := { State.reset.standby with incarnation := leNat ((drawBlocks 1 cold).1.take 2) } }) ∧
    (exec (.vstbyPowerOn false) s = .next (recordFault dEntropy 0 2 {} [] { cold with clk := { cold.clk with ticks := 100000 } })) ∧
    (exec .vstbyBrownout s = .next { cold with
      standby := { State.reset.standby with vstbyUp := false },
      pins := { State.reset.pins with cayPrsnt := s.pins.cayPrsnt, syncHold := false } }) ∧
    (exec (.brownout .vstby) s = exec .vstbyBrownout s) ∧
    (s.pins.perstN = true → exec .perstNAssert s = .next { base with pins := { base.pins with perstN := false } }) ∧
    (s.pins.perstN = false → exec .perstNAssert s = .next s) ∧
    (∀ (rail : Rail) (t u : State), rail ≠ .vstby → (s.boot.inReset = true → t = s) → (s.boot.inReset = false → t = base) →
      u = { t with standby := { t.standby with
        brownout := true, recFresh := true, rail := (railCode rail).1, railStack := (railCode rail).2,
        brownouts := min 255 (t.standby.brownouts + 1),
        railsLow := if t.standby.railsLow.contains rail then t.standby.railsLow else rail :: t.standby.railsLow } } →
      exec (.brownout rail) s = .next u ∧ u.boot.inReset = true) ∧
    (∀ (degC : Nat) (t u : State), s.standby.thermtrip = false → (s.boot.inReset = true → t = s) → (s.boot.inReset = false → t = base) →
      u = { t with standby := { t.standby with thermtrip := true, tripTemp := degC % 256 } } →
      exec (.thermtrip degC) s = .next u ∧ u.boot.inReset = true) ∧
    (∀ degC, s.standby.thermtrip = true → exec (.thermtrip degC) s = .next s)

/-- What follows the release of PERST_N: with the rails good and no thermal trip latched the sequence starts with the straps; they are taken
when every sample agrees, and the chip stays in reset with its link down and STRAP_UNSTABLE recorded when one does not; in reset the cay
supplies are off; a marginal rail is a fault outside reset. The core supply, the sensors and telemetry: a voltage command goes out 20 µs
after the last one, and a threshold that is crossed seeks its cap. (R32, R33, R36, R38, R40, R41, R48, R73, R445, R462.) -/
def Obligations.StrapsAndSupplies : Prop :=
  (∀ s : State,
    (s.pins.perstN = false → s.standby.thermtrip = false →
      exec (.perstNRelease true) s = .next { s with
        pins := { s.pins with perstN := true }, standby := { s.standby with railsLow := [] },
        boot := { s.boot with inReset := false, phase := 0x01, t2 := s.clk.ticks, phaseTick := s.clk.ticks, strapsLatched := false },
        pcie := { s.pcie with linkUp := true }, tide := { s.tide with refclkOk := true },
        ent := { testing := true, testTick := s.clk.ticks } }) ∧
    (∀ ok, s.pins.perstN = false → ok = false ∨ s.standby.thermtrip = true → exec (.perstNRelease ok) s = .next { s with
        pins := { s.pins with perstN := true }, ent := { testing := true, testTick := s.clk.ticks } }) ∧
    (∀ ok, s.pins.perstN = true → exec (.perstNRelease ok) s = .next s) ∧
    (∀ v rest, s.boot.inReset = false → s.boot.phase = 0x01 → s.boot.strapsLatched = false → (∀ x ∈ rest, x = v) →
      exec (.strapLatch (v :: rest)) s = .next { s with
        boot := { s.boot with strapsLatched := true, phase := 0x02, phaseTick := s.clk.ticks,
                              chipIdStrap := bitsOf v 0 4, bootSrc := bitsOf v 4 2, archEn := v.testBit 6 },
        standby := { s.standby with recFresh := false } }) ∧
    (∀ v rest x, s.boot.inReset = false → s.boot.phase = 0x01 → s.boot.strapsLatched = false → x ∈ rest → x ≠ v →
      exec (.strapLatch (v :: rest)) s = .next { s with
        boot := { s.boot with inReset := true }, pcie := { s.pcie with linkUp := false }, standby := { s.standby with strapUnstable := true, recFresh := true } }) ∧
    (s.boot.inReset = true → exec .cayPwrEnTristate s = .next { s with pins := { s.pins with cayPwr := [false, false], cayRefclk := [false, false] } }) ∧
    (∀ rail, s.boot.inReset = false → s.standby.railsMargin.contains rail = false →
      exec (.railMargin rail true) s = .next (recordFault dDev 0 1 {} []
        { s with standby := { s.standby with railsMargin := rail :: s.standby.railsMargin } })) ∧
    (∀ rail, exec (.railMargin rail false) s = .next
      { s with standby := { s.standby with railsMargin := s.standby.railsMargin.filter (· != rail) } }))
  ∧ (∀ s : State,
    (∀ mV u, avsLegal mV (avsDue s) = true → u = advanceTicks ((avsDue s).power.avsTick + 2000) (avsDue s) →
      exec (.avsCommand mV) s = .next ((u.mapPower fun p => { p with
        vcore := mV, avsTick := u.clk.ticks, vGoal := if p.vGoal = some mV then none else p.vGoal,
        paceOut := p.paceOut || decide (p.vcore < 650) || decide (mV < 650) }).emit (.avs mV))) ∧
    (∀ mV, vcoreNow s + 50 < mV → exec (.avsCommand mV) s = .next (avsDue s)) ∧
    (∀ mV, 900 < mV → exec (.avsCommand mV) s = .next (avsDue s)) ∧
    (s.boot.fwRunning = true → s.power.avsStopped = false → exec .avsLost s = .next
      (recordFault dDev 0 0 {} [] ((avsDue s).mapPower fun p => { p with avsStopped := true, vGoal := none }))) ∧
    (∀ n, s.boot.fwRunning = true → exec (.sensorFail n) s = .next
      (recordFault dDev 0 3 { info := n } [] { s with power := { s.power with sensorsLost := insNat n s.power.sensorsLost } })) ∧
    (∀ t, s.boot.fwRunning = true → exec (.telemetryRefresh t) s = .next ((avsDue s).mapPower fun p =>
      { p with tele := t, teleTick := s.clk.ticks, hottest := t.hottest, paceOut := p.paceOut || decide (1050 < t.hottest) })) ∧
    (∀ d, s.boot.fwRunning = true → d < 970 → exec (.thermalThreshold d) s = .next
      (avsDue { s with power := { s.power with hottest := d, over100 := false, over105 := false } })) ∧
    (∀ d u, s.boot.fwRunning = true → 1000 ≤ d → d < 1050 → s.power.over100 = false → s.power.over105 = false →
      u = { s with power := { s.power with hottest := d, over100 := true, over105 := false }, pins := { s.pins with alertLow := true } } →
      (vcoreNow s ≤ 750 → exec (.thermalThreshold d) s = .next (avsDue u)) ∧
      (750 < vcoreNow s → exec (.thermalThreshold d) s = .next (seekVcore 750 u))) ∧
    (∀ d u, s.boot.fwRunning = true → 1050 ≤ d → s.power.over105 = false →
      u = recordFault dDev 0 2 {} [] { s with
        power := { s.power with hottest := d, over100 := true, over105 := true, paceOut := s.power.paceOut || decide (1050 < d) },
        pins := { s.pins with alertLow := true } } →
      (vcoreNow s ≤ 670 → exec (.thermalThreshold d) s = .next (avsDue u)) ∧
      (670 < vcoreNow s → exec (.thermalThreshold d) s = .next (seekVcore 670 u))) ∧
    (∀ g v, (avsDue s).power.avsStopped = false → vcoreNow s ≠ g → (avsDue s).power.avsTick + 2000 ≤ (avsDue s).clk.ticks →
      v = (if vcoreNow s < g then min g (vcoreNow s + 50) else max g (vcoreNow s - 50)) →
      vcoreNow (seekVcore g s) = v ∧ (seekVcore g s).power.avsTick = (avsDue s).clk.ticks ∧
        (seekVcore g s).power.vGoal = (if v = g then none else some g)))

/-- The phases of start-up up to the firmware: the fuses decide the life cycle and the key, and the straps where the image comes from; the ROM
copy that verifies starts, copy 0 first; a stop leaves FAIL_CODE and ALERT_N; the stopped part releases TIDE_SYNC. The push interface: a
well-formed BOOT_IMAGE_PUSH starts a transfer and anything else leaves its status; the transfer and the verification end with theirs, and
an image that verifies starts. Once the firmware runs it knows no such opcode. In UNPROVISIONED with BOOT_SRC 0b11 the manufacturing path
writes the unique device secret, the certificates and the slots' digests instead of starting an image. (R74, R75, R77, R78, R79, R89.) -/
def Obligations.BootFindsFirmware : Prop :=
  (∀ s : State, s.boot.inReset = false →
    (∀ u, u = ((s.mapSec fun c => { c with lc := fusedState s.fuses, keyIdx := keyIndex s.fuses }).mapBoot fun b => { b with limbo := tornTarget s.fuses }) →
      s.boot.phase = 0x02 →
      (fusedState s.fuses = 5 → tornTarget s.fuses = none → exec .fuses s = .next (bootFails 0x0A u)) ∧
      (fusedState s.fuses ≠ 5 → s.boot.bootSrc = 2 → exec .fuses s = .next (bootFails 0x01 u)) ∧
      (fusedState s.fuses ≠ 5 → fusedState s.fuses ≠ 0 → s.boot.bootSrc = 3 → exec .fuses s = .next (bootFails 0x02 u)) ∧
      (fusedState s.fuses = 0 → s.boot.bootSrc = 3 → exec .fuses s = .next (enterPhase 0x03 u)) ∧
      (fusedState s.fuses ≠ 5 → s.boot.bootSrc = 0 → exec .fuses s = .next (enterPhase 0x03 u)) ∧
      (fusedState s.fuses ≠ 5 → s.boot.bootSrc = 1 →
        exec .fuses s = .next ((enterPhase 0x0C u).mapBoot fun b => { b with loader := true, cfgReachable := true }))) ∧
    (∀ c0 c1 m d0 d1, d0 = parseCopy s c0 → d1 = parseCopy s c1 → s.boot.phase = 0x03 → s.boot.bootSrc = 0 →
      (imageCode s d0 = 0 → exec (.romLoad c0 c1 m) s = .next (acceptImage d0 s)) ∧
      (imageCode s d0 ≠ 0 → imageCode s d1 = 0 → exec (.romLoad c0 c1 m) s = .next ((acceptImage d1 s).mapBoot fun b => { b with imageCopy := 1 })) ∧
      (imageCode s d0 ≠ 0 → imageCode s d1 ≠ 0 → exec (.romLoad c0 c1 m) s = .next (bootFails (max (imageCode s d0) (imageCode s d1)) s)) ∧
      (c0 = none → imageCode s d0 = 3)) ∧
    (∀ c0 c1 m, s.boot.phase = 0x03 → s.boot.bootSrc = 3 → exec (.romLoad c0 c1 (some m)) s = .next (manufacture m s) ∧
      (manufacture m s).fuses.uds = m.uds ∧ (manufacture m s).fuses.certStore = m.certs.take 8192 ∧ (∀ i < 4, (manufacture m s).fuses.slotDigests.getD i none = some (m.slots.getD i 0))) ∧
    (s.boot.phase = 0x04 → exec .fwStartTimeout s = .next (bootFails 0x06 (advanceTicks (s.boot.phaseTick + 10000000) s))) ∧
    (s.boot.stoppedReleased = false → s.boot.phase = 0x0F →
      exec .tideSyncReleaseStopped s = .next
        (((advanceTicks (s.boot.phaseTick + 10000000) s).mapPins fun p => { p with syncHold := false }).mapBoot fun b => { b with stoppedReleased := true })) ∧
    (∀ code, (bootFails code s).boot.phase = 0x0F ∧ (bootFails code s).boot.failCode = code ∧ (bootFails code s).boot.loader = decide (3 ≤ code ∧ code ≤ 6) ∧
      (bootFails code s).pins.alertLow = true))
  ∧ (∀ (c : MbxArg) (s : State),
    (loaderServes s c.fn c.slot = true → s.boot.pushStatus ≠ 1 → s.boot.pushStatus ≠ 2 →
      fieldB (bodyOf c) 0 8 % 4096 = 0 → 1 ≤ fieldB (bodyOf c) 8 4 → fieldB (bodyOf c) 8 4 ≤ 67108864 → fieldB (bodyOf c) 12 4 = 0 →
      c.hdr.flags < 4 → c.hdr.res0 = 0 → c.hdr.res1 = 0 → exec (.bootImagePush c) s = .next (s.mapBoot fun b => { b with pushStatus := 1, push := (fieldB (bodyOf c) 0 8, fieldB (bodyOf c) 8 4) })) ∧
    (loaderServes s c.fn c.slot = true → s.boot.pushStatus ≠ 1 → s.boot.pushStatus ≠ 2 →
      fieldB (bodyOf c) 0 8 % 4096 ≠ 0 ∨ fieldB (bodyOf c) 8 4 = 0 ∨ 67108864 < fieldB (bodyOf c) 8 4 ∨ fieldB (bodyOf c) 12 4 ≠ 0 ∨
        4 ≤ c.hdr.flags ∨ c.hdr.res0 ≠ 0 ∨ c.hdr.res1 ≠ 0 →
      exec (.bootImagePush c) s = .next (s.mapBoot fun b => { b with pushStatus := 0x10 })) ∧
    (loaderServes s c.fn c.slot = true → s.boot.pushStatus = 1 ∨ s.boot.pushStatus = 2 → exec (.bootImagePush c) s = .next s) ∧
    (loaderServes s c.fn c.slot = false → fnAlive s c.fn = true → copiesNow (s.func c.fn) c.slot = true → s.sec.lcDone = none → s.boot.limbo = none →
      s.halt = none → s.boot.phase = 0x09 →
      ∀ e, e = { queued specTideQuery c s with hdr := { c.hdr with opcode := 0x0C00 }, data := false } →
      exec (.bootImagePush c) s = .next (pumpAll cmdTable (refuseAt (tideNow s) c.fn (s.func c.fn).nextSeq .eBadcmd 0
        ((s.mapFunc c.fn (putSlot c.slot { c.hdr with opcode := 0x0C00 } c.payload)).mapFunc c.fn fun f =>
          { f with cmds := f.cmds ++ [e], nextSeq := f.nextSeq + 1 })))) ∧
    (∀ ok, s.boot.inReset = false → s.boot.loader = true → s.boot.pushStatus = 1 →
      exec (.pushTransferDone ok) s = .next (s.mapBoot fun b => { b with pushStatus := if ok then 2 else 0x11 })) ∧
    (∀ d, d = parseImage s s.boot.push.1 s.boot.push.2 → s.boot.inReset = false → s.boot.loader = true → s.boot.pushStatus = 2 →
      (imageCode s d = 0 → exec .pushVerifyDone s = .next
        ((acceptImage d (hostTouch 0 s.boot.push.1 s.boot.push.2 s)).mapBoot fun b => { b with pushStatus := 3 })) ∧
      (imageCode s d ≠ 0 → exec .pushVerifyDone s = .next ((hostTouch 0 s.boot.push.1 s.boot.push.2 s).mapBoot fun b => { b with pushStatus := 0x12, failCode := imageCode s d }))))

/-- The firmware starts, memory and ports are tested, the chip aligns, the stacks are trained and zeroed, and the part is READY: each phase
enters the next, or stops the part with its code. (R80, R83, R84, R85, R86, R88, R90, R91, R92.) -/
def Obligations.StartUpReachesReady : Prop :=
  ∀ s : State, s.boot.inReset = false →
    (s.boot.phase = 0x04 → s.boot.imageAccepted = true → s.boot.limbo = none → s.ent.testing = false → s.ent.state = .unstarted →
      ∀ cfg, ∃ t, exec (.fwStart true cfg) s = .next t ∧ t.boot.phase = 0x05 ∧ t.boot.fwRunning = true ∧ t.boot.cfg = cfg ∧ t.boot.cfgReachable = true ∧
        t.fw.ifVersion = s.fw.image.1 ∧ t.fw.build = s.fw.image.2 ∧ t.arch.member = 2 ^ chipId s ∧ t.arch.present = 2 ^ chipId s ∧
        t.ent.state = .running ∧ t.ent.drbg.isSome = true ∧
        (s.ent.drbg = none → s.ent.buffer = [] → t.ent.buffer.length = 2048) ∧ t.funcs = s.funcs ∧ t.isles = s.isles ∧ t.mems = s.mems) ∧
    (∀ r, s.boot.phase = 0x05 → r.cpOk = false → exec (.memTest r) s = .next (bootFails 0x07 s)) ∧
    (∀ r u, s.boot.phase = 0x05 → r.cpOk = true → u = zeroOnChip (testCores r (testShelf r s)) →
      ((∀ c < 64, unitState u 0 c ≠ 0) → exec (.memTest r) s = .next (bootFails 0x08 u)) ∧
      (∀ c < 64, unitState u 0 c = 0 → exec (.memTest r) s = .next (enterPhase (if u.boot.archEn then 0x06 else 0x07) u))) ∧
    (∀ ports, s.boot.phase = 0x06 → s.boot.archEn = true →
      exec (.portTrain ports) s = .next (enterPhase 0x07 (ports.foldl (fun s r => trainPort r s) s))) ∧
    (s.boot.phase = 0x07 → s.tide.aligned = false →
      (s.boot.archEn = false → exec .align s = .next ((alignAt 0 false s).mapPins fun p => { p with syncHold := false })) ∧
      (s.boot.archEn = true → (s.ports.any fun p => p.state == .active && p.peerAligned) = true → exec .align s = .next (askLinkMark s)) ∧
      (s.boot.archEn = true → (s.ports.any fun p => p.state == .active && p.peerAligned) = false →
        exec .align s = .next (((s.mapPins fun p => { p with syncHold := false }).mapTide fun t => { t with coldWait := true }).mapBoot
          fun b => { b with alignTick := s.clk.ticks }))) ∧
    (∀ u, u = recordFault dTide 0 1 {} [] (advanceTicks (s.boot.alignTick + 5000000) s) → s.tide.aligned = false → s.tide.coldWait = true →
      s.boot.alignByLink = false → exec .alignTimeout s = .next (u.mapBoot fun b => { b with alignTick := u.clk.ticks })) ∧
    (∀ u, u = recordFault dTide 0 1 {} [] (advanceTicks (s.boot.alignTick + 5000000) s) → s.tide.aligned = false →
      s.boot.alignByLink = true → exec .alignTimeout s = .next (askLinkMark u)) ∧
    (∀ bin, s.boot.phase = 0x08 → s.boot.bin = 0 →
      bin = (match s.boot.trialBin with | some b => b | none => min s.fuses.binRating s.boot.cfg.binCap) →
      exec (.hbmTrain [] []) s = .next (s.mapBoot fun b => { b with bin := bin })) ∧
    (∀ bin l p, s.boot.phase = 0x08 → s.boot.bin = 0 →
      bin = (match s.boot.trialBin with | some b => b | none => min s.fuses.binRating s.boot.cfg.binCap) → (∃ st < 8, st ∈ l) →
      (0x50 < bin → exec (.hbmTrain l p) s = .next (s.mapBoot fun b => { b with trialBin := some (bin - 10) })) ∧
      (∀ u, bin ≤ 0x50 → u = retireHbm ((List.range 8).filter fun st => l.contains st) p s →
        exec (.hbmTrain l p) s = .next (if stacksInService u = 0 then bootFails 0x09 u else u.mapBoot fun b => { b with bin := bin }))) ∧
    (s.boot.phase = 0x08 → s.boot.bin ≠ 0 → exec .hbmZero s = .next
      ((s.mapMems fun m => { m with hbm := [], hbmPoison := [], stackFail := [] }).mapBoot fun b => { b with phaseDone := true })) ∧
    (∀ u, s.boot.phase = 0x08 → s.boot.phaseDone = true → s.pins.cayPrsnt = [true, true] →
      u = isle0Keys (((((enterPhase 0x09 s).mapPins fun p => { p with readyLow := !(anyFatal s || s.halt.isSome) }).mapEnt fun e =>
        { e with restarts := 0 }).mapIsle 0 fun r => { r with state := .enabled, target := .enabled })) →
      exec .ready s = .next (raiseFloor (isleStateEvent 0 .sOk 2 (tideNow u) u)))

/-- Alignment and check marks: the waiting leader drives a mark and releases it after 100 ticks; a mark that is detected aligns a waiting
chip at count 0, with the ready chips on its ports, and compares an aligned one, where a line that stays low says nothing; at a check mark
the leader drives the line when it has been high, and a tenth mark skipped is MARK_MISSED; a link mark aligns a chip that asked for one; a
lost reference clock freezes the count. The line, the clock and the link marks. (R56, R58, R59, R60, R61, R72, R87, R384.) -/
def Obligations.MarksAlign : Prop :=
  (∀ s : State,
    (∀ u, u = advanceTicks (s.pins.syncSince + 10000) s → s.boot.phase = 0x07 → s.tide.coldWait = true → s.pins.syncHigh = true →
      s.pins.syncHold = false → lowerPeerReady s = false →
      exec .markDrive s = .next ((u.mapPins fun p => { p with markSince := some u.clk.ticks, syncHigh := false }).emit (.strobe 0 false))) ∧
    (∀ t0 u, s.pins.markSince = some t0 → u = advanceTicks (t0 + 100) s →
      exec .markRelease s = .next
        ((u.mapPins fun p => { p with markSince := none, syncHigh := true, syncSince := u.clk.ticks }).emit (.strobe 0 true))) ∧
    (s.pins.markSince = none → exec .markRelease s = .next s) ∧
    (∀ pulse, s.tide.coldWait = true →
      exec (.markDetect pulse) s = .next (alignAt 0 false ((s.mapPins fun p => { p with syncHigh := false }).mapPorts fun p =>
        { p with peerAligned := p.peerAligned || (p.state == .active && p.peerReady) }))) ∧
    (∀ n byLink t, t = alignAt n byLink s → t.tide.count = n % 2 ^ 64 ∧ t.tide.aligned = true ∧
      t.tide.linkAligned = byLink ∧ t.tide.coldWait = false ∧ t.tide.epochLen = s.tide.epochLen ∧ t.tide.base = s.tide.base ∧
      t.tide.leader ≤ chipId s ∧ (∀ p ∈ s.ports, reaches p = true → p.peerAligned = true → t.tide.leader ≤ p.peer.1) ∧
      (t.tide.leader = chipId s ∨ ∃ p ∈ s.ports, reaches p = true ∧ p.peerAligned = true ∧ t.tide.leader = p.peer.1) ∧
      (s.boot.phase = 0x07 → t.boot.phase = 0x08)) ∧
    (∀ m, s.tide.coldWait = false → counting s = true → m = (s.tide.count + 5000000) / 10000000 * 10000000 →
      s.tide.count + 1 < m ∨ m + 1 < s.tide.count →
      exec (.markDetect true) s = .next (syncSlip ((s.mapPins fun p => { p with syncHigh := false }).mapTide fun x => { x with marksSkipped := 0, lastCheck := m }))) ∧
    (∀ m, s.tide.coldWait = false → counting s = true → m = (s.tide.count + 5000000) / 10000000 * 10000000 →
      s.tide.count ≤ m + 1 → m ≤ s.tide.count + 1 →
      exec (.markDetect true) s = .next ((s.mapPins fun p => { p with syncHigh := false }).mapTide fun x =>
        { x with marksSkipped := 0, lastCheck := m })) ∧
    (s.tide.coldWait = false → exec (.markDetect false) s = .next (s.mapPins fun p => { p with syncHigh := false })) ∧
    (∀ m u, m = s.tide.lastCheck + 10000000 → counting s = true → u = (advanceCount m s).mapTide (fun x => { x with lastCheck := m }) →
      s.pins.syncHigh = true → s.pins.syncSince + 10000 ≤ u.clk.ticks → s.tide.leader = chipId s →
      exec .checkMark s = .next (((u.mapTide fun x => { x with marksSkipped := 0 }).mapPins fun p =>
        { p with markSince := some u.clk.ticks, syncHigh := false }).emit (.strobe 0 false))) ∧
    (∀ m u, m = s.tide.lastCheck + 10000000 → counting s = true → u = (advanceCount m s).mapTide (fun x => { x with lastCheck := m }) →
      s.pins.syncHigh = false → (s.tide.marksSkipped + 1) % 10 ≠ 0 →
      exec .checkMark s = .next (u.mapTide fun x => { x with marksSkipped := s.tide.marksSkipped + 1 })) ∧
    (∀ m u, m = s.tide.lastCheck + 10000000 → counting s = true → u = (advanceCount m s).mapTide (fun x => { x with lastCheck := m }) →
      s.pins.syncHigh = false → (s.tide.marksSkipped + 1) % 10 = 0 →
      exec .checkMark s = .next (recordFault dTide 0 3 {} [] (u.mapTide fun x => { x with marksSkipped := s.tide.marksSkipped + 1 }))))
  ∧ (∀ s : State,
    (s.pins.syncHold = false → s.pins.markSince = none → s.pins.syncHigh = false →
      exec .tideSyncRise s = .next (s.mapPins fun p => { p with syncHigh := true, syncSince := s.clk.ticks })) ∧
    (s.boot.inReset = false → s.tide.refclkOk = true → exec .refclkLost s = .next
      (portsIdle ((recordFault dTide 0 0 {} [] s).mapTide fun x => { x with refclkOk := false, frozen := true }))) ∧
    (∀ h v, v = (receive h 3 false 1 s).1 → (receive h 3 false 1 s).2 = true → counting v = true → v.tide.leader = chipId v →
      (v.port h.port).state = .active → h.orig = peerAt v h.port →
      exec (.alignRequest h) s = .next (ackPast h 3 (peerReports h.port true false
        (tideTo [h.orig] (fun _ => .tideMark h.port v.tide.count) v)))) ∧
    (∀ h v, v = (receive h 3 false 1 s).1 → (receive h 3 false 1 s).2 = true → v.tide.leader ≠ chipId v →
      exec (.alignRequest h) s = .next (ackPast h 3 v)) ∧
    (∀ h n, (receive h 3 false 1 s).2 = false → exec (.alignRequest h) s = .next (receive h 3 false 1 s).1 ∧
      exec (.tideMark h n) s = .next (receive h 3 false 1 s).1) ∧
    (∀ h n v u, v = (receive h 3 false 1 s).1 → (receive h 3 false 1 s).2 = true → v.tide.aligned = false → (v.port h.port).state = .active →
      h.orig = peerAt v h.port → v.boot.alignByLink = true →
      u = (alignAt (n + (v.port h.port).latency) true (v.mapPort h.port fun r => { r with peerAligned := true })).mapPins
        (fun p => { p with syncHold := false }) →
      (u.arch.formed = false ∨ isReady u = false → exec (.tideMark h n) s = .next (ackPast h 3 u)) ∧
      (u.arch.formed = true → isReady u = true →
        exec (.tideMark h n) s = .next (ackPast h 3 (propose (earliestT u (tideNow u)) (.rejoin (chipId u)) none u))) ∧
      u.tide.count = (n + (v.port h.port).latency) % 2 ^ 64 ∧ u.tide.linkAligned = true ∧ u.tide.aligned = true) ∧
    (∀ h n v, v = (receive h 3 false 1 s).1 → (receive h 3 false 1 s).2 = true → v.tide.aligned = true →
      exec (.tideMark h n) s = .next (ackPast h 3 v)) ∧
    (∀ len here, counting s = true → len = s.tide.epochLen / 16 → here = (s.tide.count - s.tide.base) / len → here % 16 = s.tide.subslot →
      exec .subslotStart s = .next (pumpPorts ((advanceCount (s.tide.base + (here + 1) * len) s).mapTide fun x =>
        { x with subslot := (here + 1) % 16 }))) ∧
    (∀ len here, counting s = true → len = s.tide.epochLen / 16 → here = (s.tide.count - s.tide.base) / len → here % 16 ≠ s.tide.subslot →
      exec .subslotStart s = .next (pumpPorts (s.mapTide fun x => { x with subslot := here % 16 }))))

/-- The epoch boundary: the count comes to it and the next is one epoch on; before READY the firmware reads the paces and nothing else
happens; READY, the firmware that acknowledges carries out the steps, opens the records of the new epoch and starts what waited, and the
fourth boundary in a row that it misses is WATCHDOG. Fuse programming that has ended is settled there too (the model's choice, log 91). The
completion deadline: a release that has not completed 325 ticks before its boundary is an overrun: OVERRUN is posted with the count of the
boundaries missed, the isle stays held, and at the limit its work is stopped: what has not issued is dropped, and what runs ends (the
model's choice, log 89); nothing happens where nothing is left. (R61, R62, R66, R67, R68, R445.) -/
def Obligations.BoundaryComes : Prop :=
  (∀ (s u : State) (paces : List Nat), counting s = true →
    u = settleBurns ((advanceCount s.tide.nextB s).mapTide (fun x => { x with nextB := s.tide.nextB + s.tide.epochLen })) →
    (s.sec.burns = [] → u = (advanceCount s.tide.nextB s).mapTide (fun x => { x with nextB := s.tide.nextB + s.tide.epochLen })) ∧
    (isReady u = false → u.halt = none → exec (.epochBoundary false paces) s = .next u) ∧
    (isReady u = false → u.halt = none → exec (.epochBoundary true paces) s = .next (if u.boot.fwRunning then readPaces paces u else u)) ∧
    (∀ ack, isReady u = false → u.halt ≠ none → exec (.epochBoundary ack paces) s = .next (loseStackPages s.tide.nextB u)) ∧
    (isReady u = true → exec (.epochBoundary true paces) s = .next (pumpAll cmdTable (newPressure
      (boundarySteps s.tide.nextB paces (u.mapTide fun x => { x with cpMissed := 0 }))))) ∧
    (isReady u = true → u.tide.cpMissed + 1 ≠ 4 →
      exec (.epochBoundary false paces) s = .next (u.mapTide fun x => { x with cpMissed := u.tide.cpMissed + 1 })) ∧
    (isReady u = true → u.tide.cpMissed = 3 →
      exec (.epochBoundary false paces) s = .next (recordFault dCp 0 0 {} [] (u.mapTide fun x => { x with cpMissed := 4 }))) ∧
    (s.sec.burns = [] → s.tide.count ≤ s.tide.nextB → s.tide.nextB < 2 ^ 64 → u.tide.count = s.tide.nextB))
  ∧ (∀ (k b n : Nat) (s u v w : State) (late : List (Nat × Nat)),
    (s.isle k).released = some b → workLeft (s.isle k) = true → s.halt = none → late = lateInvs (s.isle k) →
    ((s.isle k).overrun = none → n = 1) → (∀ o, (s.isle k).overrun = some o → n = o.2 + 1) →
    u = (advanceCount (b + n * s.tide.epochLen - 325) s).mapIsle k (fun r => { r with
        overrun := some (b, n),
        invs := r.invs.map fun i => if late.contains (i.prog, i.num) then { i with overrun := n, flags := setBit i.flags 0 } else i }) →
    v = addPressure k (fun x => { x with late := x.late + 1 }) (postEvent k .eOverrun n 1 (lateProg (s.isle k)) 0 0 u) →
    w = (if (s.isle k).cls = 2 then v else v.mapIsles fun q => if q.cls = 2 ∧ q.grant.pool then { q with yield := true } else q) →
    (n < (s.isle k).overrunLimit → exec (.completionDeadline k) s = .next w) ∧
    ((s.isle k).overrunLimit ≤ n → exec (.completionDeadline k) s = .next (late.eraseDups.foldl (fun s i => tellFail k i.1 i.2 2 s)
      (w.mapIsle k fun r => { r with
          units := r.units.map fun u => (u.1, { u.2 with queue := [], later := [] }),
          invs := r.invs.map fun i => if late.contains (i.prog, i.num) then { i with stopped := true } else i }))) ∧
    (∀ t : State, (t.isle k).released = none → exec (.completionDeadline k) t = .next t) ∧
    (∀ t : State, workLeft (t.isle k) = false → exec (.completionDeadline k) t = .next t))

/-- Agreed counts: a member notes and acknowledges a proposal; the proposer confirms when the last member has acknowledged, no later than
40,000 ticks before T; a confirm is noted, a cancel forgets it, and a member that misses it, or a deadline that passes, makes the proposer
cancel. A message that its link, its incarnation or its flow discards does nothing more. A record is that of one proposer, one T and one
action. (R64.) -/
def Obligations.AgreedCountsAgree : Prop :=
  ∀ (t src : Nat) (h : FlitHdr) (act : Action) (s v : State), h.orig = src → v = (receive h 3 false 1 s).1 →
    ((receive h 3 false 1 s).2 = false →
      exec (.agreedCountProposal t h act) s = .next v ∧ exec (.agreedCountConfirm t h act) s = .next v ∧ exec (.agreedCountCancel t h act) s = .next v ∧
      exec (.agreedCountAck t h act) s = .next (pumpAll cmdTable (settleJobs v)) ∧
      exec (.agreedCountMiss t h act) s = .next (pumpAll cmdTable (settleJobs v))) ∧
    ((receive h 3 false 1 s).2 = true →
      (∀ e, act = .epochLen e → isReady v = true → src ≠ chipId v → findAgreed v t src act = none → epochBad v e = false →
        exec (.agreedCountProposal t h act) s = .next (ackPast h 3 (tideTo [src] (fun j => .ack t j act) (v.mapTide fun x => { x with
          agreed := x.agreed ++ [{ t := t, src := src, act := act, proposed := tideNow v }] })))) ∧
      (∀ e, act = .epochLen e → epochBad v e = true → exec (.agreedCountProposal t h act) s = .next (ackPast h 3 v)) ∧
      (∀ a acks u, findAgreed v t (chipId v) act = some a → a.confirmed = false → acks = insNat src a.acks →
        u = mapAgreed t (chipId v) act (fun a => { a with acks := acks }) v →
        (agreeMembers u act).all (fun c => acks.contains c) = false ∨ t < tideNow u + 40000 →
        exec (.agreedCountAck t h act) s = .next (pumpAll cmdTable (settleJobs (ackPast h 3 u)))) ∧
      (∀ a acks u, findAgreed v t (chipId v) act = some a → a.confirmed = false → acks = insNat src a.acks →
        u = mapAgreed t (chipId v) act (fun a => { a with acks := acks }) v →
        (agreeMembers u act).all (fun c => acks.contains c) = true → tideNow u + 40000 ≤ t →
        exec (.agreedCountAck t h act) s = .next (pumpAll cmdTable (settleJobs (ackPast h 3
          (tideTo (agreeMembers u act) (fun j => .confirm t j act) (confirmAgreed t (chipId v) act u)))))) ∧
      (∀ a, findAgreed v t src act = some a → a.confirmed = false → src ≠ chipId v →
        exec (.agreedCountConfirm t h act) s = .next (ackPast h 3 (confirmAgreed t src act v))) ∧
      (src ≠ chipId v → exec (.agreedCountCancel t h act) s = .next (ackPast h 3 (dropAgreed t src act v))) ∧
      (∀ a, findAgreed v t (chipId v) act = some a → (agreeMembers v act).contains src = true →
        exec (.agreedCountMiss t h act) s = .next (pumpAll cmdTable (settleJobs (ackPast h 3
          (agreeFails a (tideTo (agreeMembers v act) (fun j => .cancel t j act) (dropAgreed t (chipId v) act v))))))) ∧
      (findAgreed v t (chipId v) act = none →
        exec (.agreedCountMiss t h act) s = .next (pumpAll cmdTable (settleJobs (ackPast h 3 v))))) ∧
    ((s.tide.agreed.any fun a => a.t == t && !a.confirmed) = false → exec (.confirmDeadline t) s = .next (pumpAll cmdTable (settleJobs s))) ∧
    (∀ u, (s.tide.agreed.any fun a => a.t == t && !a.confirmed) = true → u = advanceCount (t - 20000) s →
      exec (.confirmDeadline t) s = .next (pumpAll cmdTable (settleJobs ((u.tide.agreed.filter fun a => a.t == t && !a.confirmed).foldl (fun s a =>
        if a.src = chipId (dropAgreed t a.src a.act s) then
          agreeFails a (tideTo (agreeMembers (dropAgreed t a.src a.act s) a.act) (fun j => .cancel t j a.act) (dropAgreed t a.src a.act s))
        else tideTo [a.src] (fun j => .miss t j a.act) (dropAgreed t a.src a.act s)) u)))) ∧
    (∀ a u, findAgreed (confirmAgreed t src act s) t src act = some a → u = confirmAgreed t src act s →
      a.confirmed = true ∧ u.tide.confirms = s.tide.confirms + 1)

/-- Mailbox registers: the doorbell of a free slot with the ring enabled takes its place behind those that were rung before; a busy slot or a
ring that is off sets the error bits and MBX_ERR's cause; a slot that is not busy takes the bytes written and a busy one does not; what is
not aligned, of another size or beyond the stream doorbells is ignored, and so is a write to a function that is not there; the slot that
was rung first is copied and its command accepted, unless 64 are outstanding. (R99, R101, R102, R114, R483.) -/
def Obligations.MailboxRegisters : Prop :=
  ∀ (fn v slot : Nat) (s : State), slot = v % 16 →
    (fnAlive s fn = true → (s.func fn).doorbells.contains slot = false → (s.func fn).cqEnable = true →
      exec (.registerWrite fn 0x2000 4 v) s = .next (s.mapFunc fn fun f => { f with doorbells := f.doorbells ++ [slot] })) ∧
    (fnAlive s fn = true → (s.func fn).doorbells.contains slot = true → (s.func fn).cqEnable = true →
      exec (.registerWrite fn 0x2000 4 v) s = .next (setCause fn 3 (s.mapFunc fn fun f => { f with mbxErr := setBit (s.func fn).mbxErr 0 }))) ∧
    (fnAlive s fn = true → (s.func fn).doorbells.contains slot = false → (s.func fn).cqEnable = false →
      exec (.registerWrite fn 0x2000 4 v) s = .next (setCause fn 3 (s.mapFunc fn fun f => { f with mbxErr := setBit (s.func fn).mbxErr 1 }))) ∧
    (∀ off, fnAlive s fn = true → 0x1000 ≤ off → off < 0x2000 → off % 4 = 0 → (s.func fn).doorbells.contains ((off - 0x1000) / 256) = false →
      exec (.registerWrite fn off 4 v) s = .next (s.mapFunc fn fun f => { f with slots := Memory.writeN f.slots (off - 0x1000) (natLe 4 v) })) ∧
    (∀ off, fnAlive s fn = true → 0x1000 ≤ off → off < 0x2000 → off % 4 = 0 → (s.func fn).doorbells.contains ((off - 0x1000) / 256) = true →
      exec (.registerWrite fn off 4 v) s = .next s) ∧
    (∀ off size, off % size ≠ 0 → exec (.registerWrite fn off size v) s = .next s) ∧
    (∀ off size, size ∉ [1, 2, 4, 8] → off < 0x10000 → exec (.registerWrite fn off size v) s = .next s) ∧
    (∀ off size, 0x90000 ≤ off → exec (.registerWrite fn off size v) s = .next s) ∧
    (∀ off size, fnAlive s fn = false → s.boot.loader = false → exec (.registerWrite fn off size v) s = .next s) ∧
    (∀ off h, fnAlive s fn = true → 0x10000 ≤ off → off < 0x90000 → off % 64 = 0 → h = (off - 0x10000) / 64 →
      exec (.registerWrite fn off 4 v) s = .next (ringStream fn h (v % 2 ^ 32) s)) ∧
    (∀ rest h, fnAlive s fn = true → outstanding (s.func fn) < 64 → (s.func fn).doorbells = slot :: rest → h = slotHdr (s.func fn) slot →
      exec (.slotCopy fn slot) s = .next (pumpAll cmdTable (acceptCmd cmdTable (cmdTable h.opcode) fn slot h
        (slotBytes (s.func fn) slot 32 (min h.plen 224)) (s.mapFunc fn fun f => { f with doorbells := rest })))) ∧
    (outstanding (s.func fn) = (s.func fn).cmds.length + ((s.func fn).heldComps.filter fun e => e.final).length) ∧
    (64 ≤ outstanding (s.func fn) → exec (.slotCopy fn slot) s = .next (pumpAll cmdTable s)) ∧
    (∀ n, (s.func fn).doorbells.head? ≠ some n → exec (.slotCopy fn n) s = .next (pumpAll cmdTable s))

/-- The completion ring: a ring that is enabled starts with HEAD and TAIL 0 at the base written, and takes what was held; a base written while
the ring is on is kept out; a HEAD within the entries written releases them and lets what waits be written; a HEAD beyond TAIL is
HOST_ACCESS and the ring counts as empty there. Stream doorbells: an output stream's consumer count and an input stream's producer count
take the value; a sequence that waits for it is woken; a count that cannot be is BAD_COUNT. (R103, R105, R114.) -/
def Obligations.RingAndStreamDoorbells : Prop :=
  (∀ (fn v : Nat) (s : State), fnAlive s fn = true →
    ((s.func fn).cqEnable = false → v < 2 ^ 64 → v.testBit 0 = true → exec (.cqEnable fn v) s = .next (drainEnabled fn
      (s.mapFunc fn fun f => { f with cqBase := v / 4096 * 4096, cqEnable := true, head := 0, tail := 0, unread := 0 }))) ∧
    ((s.func fn).cqEnable = true → v < 2 ^ 64 → exec (.cqEnable fn v) s = .next (s.mapFunc fn fun f => { f with cqEnable := v.testBit 0 })) ∧
    (∀ n, v < 256 → n = (v + 256 - (s.func fn).head) % 256 → n ≤ (s.func fn).unread →
      exec (.cqHeadWrite fn v) s = .next (drainRing 256 fn (s.mapFunc fn fun f => { f with head := v, unread := f.unread - n }))) ∧
    (∀ n, v < 256 → n = (v + 256 - (s.func fn).head) % 256 → (s.func fn).unread < n →
      exec (.cqHeadWrite fn v) s = .next (drainRing 256 fn ((recordFault dHost 0 0 {} [isleOf fn] s).mapFunc fn fun f =>
        { f with head := v, unread := 0 }))))
  ∧ (∀ (fn h n : Nat) (s : State) (x : Stream), fnAlive s fn = true → n < 2 ^ 32 → aGet (s.isle (isleOf fn)).streams h = some x →
    (badCount x n = true → exec (.dbStream fn h 0 4 n) s = .next (streamEvent (isleOf fn) h 2 .eBadarg n (tideNow s) s)) ∧
    (badCount x n = false → x.dirOut = true →
      exec (.dbStream fn h 0 4 n) s = .next (mapStream (isleOf fn) h (fun x => { x with lastDb := n, consumer := n }) s)) ∧
    (badCount x n = false → x.dirOut = false → x.bound = none → exec (.dbStream fn h 0 4 n) s =
      .next (mapStream (isleOf fn) h (fun x => { x with lastDb := n, producer := n, dbTicks := x.dbTicks ++ [(n, tideNow s)] }) s)) ∧
    (∀ q, badCount x n = false → x.dirOut = false → x.bound = some q → exec (.dbStream fn h 0 4 n) s = .next (wakeSeq (isleOf fn) q
      (mapStream (isleOf fn) h (fun x => { x with lastDb := n, producer := n, dbTicks := x.dbTicks ++ [(n, tideNow s)] }) s))) ∧
    (∀ off, off ≠ 0 → exec (.dbStream fn h off 4 n) s = .next s))

/-- Causes, masks and vectors: a cause written with 1 is cleared, and CQ_HELD sets again at once while entries wait; a cause that is unmasked
while it is set sends its message; a vector whose mask is cleared is sent when it was pending; a read of TIDE_COUNT_LO keeps the upper
half for TIDE_COUNT_HI. A function that is in reset takes none of these. (R55, R105, R117, R119.) -/
def Obligations.InterruptRegisters : Prop :=
  ∀ (fn v : Nat) (s : State),
    (fnAlive s fn = true → (v % 256).testBit 1 = false → exec (.irqCauseClear fn v) s = .next (s.mapFunc fn fun f =>
      { f with irqCause := natMask ((List.range 6).filter fun b => f.irqCause.testBit b && !(v % 256).testBit b) })) ∧
    (fnAlive s fn = true → (v % 256).testBit 1 = true → (s.func fn).heldComps = [] → (s.func fn).heldEvents = [] →
      exec (.irqCauseClear fn v) s = .next (s.mapFunc fn fun f =>
        { f with irqCause := natMask ((List.range 6).filter fun b => f.irqCause.testBit b && !(v % 256).testBit b) })) ∧
    (∀ e es u, fnAlive s fn = true → (v % 256).testBit 1 = true → (u.func fn).heldComps = e :: es →
      u = s.mapFunc fn (fun f => { f with irqCause := natMask ((List.range 6).filter fun b => f.irqCause.testBit b && !(v % 256).testBit b) }) →
      exec (.irqCauseClear fn v) s = .next (setCause fn 1 u)) ∧
    (∀ raised, fnAlive s fn = true → raised = ((List.range 6).filter fun b =>
        (s.func fn).irqCause.testBit b && (s.func fn).irqMask.testBit b && !(v % 64).testBit b) →
      exec (.irqMaskWrite fn v) s = .next (raised.foldl (fun s b => sendVector fn (causeVector b) s)
        (s.mapFunc fn fun f => { f with irqMask := v % 64 }))) ∧
    (∀ msk fm, barReadable s fn = true → (s.func fn).flr = none → exec (.msixMaskChange fn v msk fm) s =
      .next (setVectorMask fn v msk (s.mapFunc fn fun f => { f with msixFnMask := fm }))) ∧
    (∀ msk fm, barReadable s fn = false ∨ (s.func fn).flr ≠ none → exec (.msixMaskChange fn v msk fm) s = .next s) ∧
    ((s.func fn).flr ≠ none → exec (.irqCauseClear fn v) s = .next s ∧ exec (.irqMaskWrite fn v) s = .next s) ∧
    (barReadable s fn = true → (s.func fn).flr ≠ none →
      exec (.tideCountLoRead fn) s = .next (s.emit (.regRead fn (barRead s fn 0x4000 4)))) ∧
    (barReadable s fn = true → (s.func fn).flr = none → exec (.tideCountLoRead fn) s =
      .next ((s.mapFunc fn fun f => { f with tideShadow := highHalf s.tide.count }).emit (.regRead fn (barRead s fn 0x4000 4)))) ∧
    (barReadable s fn = false → exec (.tideCountLoRead fn) s = .next s)

/-- Configuration requests: the identity registers, the capability fields of Table 5.1 and BAR0 answer, and BAR0 takes a base aligned to its
1 MiB; NumVFs is taken while VF Enable is 0; clearing VF Enable takes the tenants with it; before firmware is reachable nothing answers.
Faults of the host's side: a transaction error is HOST_LINK; a host access that fails is recorded as HOST_ACCESS against the isle and stops
the stream that made it, and one of a command waits for that command; an invalidated translation is dropped, the objects that still use its
page request it again, and a refused request is a failed access of each. (R81, R96, R97, R98, R445.) -/
def Obligations.ConfigurationSpace : Prop :=
  (∀ (s u : State), s.boot.inReset = false → u = { s with pcie := { s.pcie with linkUp := true } } →
    (∀ r, s.boot.cfgReachable = false → exec (.configRequest r) s = .next (u.emit (.config none))) ∧
    (s.boot.cfgReachable = true → exec (.configRequest (.read 0)) s = .next (u.emit (.config (some 0x0D011D7A)))) ∧
    (s.boot.cfgReachable = true → exec (.configRequest (.read 8)) s = .next (u.emit (.config (some (0x12000000 + u.fuses.stepping))))) ∧
    (∀ r v, s.boot.cfgReachable = true → (r, v) ∈ [(CfgReg.totalVFs, 31), (.firstVfOffset, 1), (.vfStride, 1), (.vfDeviceId, 0x0D02),
        (.numVFs, s.pcie.numVFs), (.bar0Size, 2 ^ 20), (.vfBar0Size, 2 ^ 20), (.pfVectors, 256), (.vfVectors, 64), (.maxPayload, 512),
        (.maxReadRequest, 4096), (.tagBits, 10), (.linkSpeed, 64), (.linkWidth, 16), (.flitMode, 1), (.errorReporting, 1), (.msi, 0), (.intx, 0),
        (.pri, 0), (.pasid, 0)] →
      exec (.configRequest (.register r)) s = .next (u.emit (.config (some v)))) ∧
    (∀ fn, s.boot.cfgReachable = true → s.pcie.vfEnable = true → 0 < fn → fn ≤ s.pcie.numVFs →
      exec (.configRequest (.readVf fn 0)) s = .next (u.emit (.config (some 0x0D021D7A))) ∧
      exec (.configRequest (.readVf fn 8)) s = .next (u.emit (.config (some (0x12000000 + u.fuses.stepping))))) ∧
    (∀ v a b, s.boot.cfgReachable = true → a = { u.pcie with bar0 := u.pcie.bar0 / 2 ^ 32 * 2 ^ 32 + v % 2 ^ 32 / 2 ^ 20 * 2 ^ 20 } →
      b = { u.pcie with bar0 := v % 2 ^ 32 * 2 ^ 32 + u.pcie.bar0 % 2 ^ 32 } →
      exec (.configRequest (.write 0x10 v)) s = .next ({ u with pcie := a }.emit (.config (some 0))) ∧
      exec (.configRequest (.write 0x14 v)) s = .next ({ u with pcie := b }.emit (.config (some 0)))) ∧
    (s.boot.cfgReachable = true → exec (.configRequest (.read 0x10)) s = .next (u.emit (.config (some (s.pcie.bar0 % 2 ^ 32 + 4)))) ∧
      exec (.configRequest (.read 0x14)) s = .next (u.emit (.config (some (s.pcie.bar0 / 2 ^ 32))))) ∧
    (∀ fn on, s.boot.cfgReachable = true →
      exec (.configRequest (.setAts fn on)) s = .next ((u.mapFunc fn fun f => { f with atsEnable := on }).emit (.config (some 0)))) ∧
    (∀ n p, s.boot.cfgReachable = true → s.pcie.vfEnable = false → n ≤ 31 → p = { u.pcie with numVFs := n } →
      exec (.configRequest (.setNumVFs n)) s = .next ({ u with pcie := p }.emit (.config (some 0)))) ∧
    (∀ n, s.boot.cfgReachable = true → s.pcie.vfEnable = true →
      exec (.configRequest (.setNumVFs n)) s = .next (u.emit (.config (some 0)))) ∧
    (∀ p, s.boot.cfgReachable = true → p = { u.pcie with vfEnable := true } →
      exec (.configRequest (.setVfEnable true)) s = .next ({ u with pcie := p }.emit (.config (some 0)))) ∧
    (s.boot.cfgReachable = true → s.pcie.vfEnable = true →
      exec (.configRequest (.setVfEnable false)) s = .next ((clearVfs u).emit (.config (some 0)))))
  ∧ (∀ (fn h : Nat) (s : State), s.boot.inReset = false → s.boot.fwRunning = true →
    (exec .tlpError s = .next (recordFault dHost 0 1 {} [] s)) ∧
    (exec (.hostAccessFail fn (.stream h)) s = .next (streamStops fn h (recordFault dHost 0 0 {} [isleOf fn] s))) ∧
    (exec (.hostAccessFail fn .ring) s = .next (recordFault dHost 0 0 {} [isleOf fn] s)) ∧
    (exec (.hostAccessFail fn .shadow) s = .next (recordFault dHost 0 0 {} [isleOf fn] s)) ∧
    (∀ tag, exec (.hostAccessFail fn (.command tag)) s = .next (s.mapFunc fn fun f => { f with failTags := insNat tag f.failTags })) ∧
    (∀ x, aGet (s.isle fn).streams h = some x → streamStops fn h s = streamEvent fn h 4 .eFault (if x.dirOut then x.producer else x.consumer)
      (tideNow s) (mapStream fn h (fun x => { x with stopped := true }) s)) ∧
    (∀ p, (s.func fn).atsEnable = false → exec (.atsInvalidate fn p true) s = .next s ∧ exec (.atsInvalidate fn p false) s = .next s) ∧
    (∀ p u, (s.func fn).atsEnable = true → u = s.mapMems (fun m => { m with ats := m.ats.filter fun x => x != fn * 2 ^ 52 + p }) →
      (∀ ok, pageUsers s fn p = [] → exec (.atsInvalidate fn p ok) s = .next u) ∧
      (pageUsers s fn p ≠ [] → exec (.atsInvalidate fn p true) s = .next (hostTouch fn (p * 4096) 4096 u)) ∧
      (∀ x, pageUsers s fn p = [.stream x] →
        exec (.atsInvalidate fn p false) s = .next (streamStops fn x (recordFault dHost 0 0 {} [isleOf fn] u))) ∧
      ((∀ x ∈ pageUsers s fn p, x = .ring ∨ x = .shadow) → pageUsers s fn p ≠ [] →
        exec (.atsInvalidate fn p false) s = .next (recordFault dHost 0 0 {} [isleOf fn] u))) ∧
    (∀ p x, aGet (s.isle fn).streams h = some x → x.ring / 4096 ≤ p → p ≤ (x.ring + x.entries * 2 ^ x.slotLog2 - 1) / 4096 →
      HostObj.stream h ∈ pageUsers s fn p))

/-- Resets of functions: a VF's reset clears its function and, READY, quiesces its isle; a PF reset, a hot reset and a surprise link down
reset the board's functions; the fence of a reset isle's windows closes them; FLR completion lets BAR0 answer; clearing VF Enable disables
the tenants; at the end of its scrub an isle reaches its target. (R96, R119, R120, R379, R380, R445.) -/
def Obligations.FunctionsReset : Prop :=
  ∀ s : State,
    (∀ vf, s.boot.inReset = false → s.boot.fwRunning = true → vf ≠ 0 → vfAllows s vf = true → isReady (resetFunc vf true s) = true →
      (((resetFunc vf true s).isle vf).state = .enabled →
        exec (.flrVf vf) s = .next (quiesceEnter vf .enabled true (resetFunc vf true s))) ∧
      (((resetFunc vf true s).isle vf).state ≠ .enabled → exec (.flrVf vf) s = .next (resetFunc vf true s))) ∧
    (∀ fn, fn < s.funcs.length → ((resetFunc fn true s).func fn).cmds = [] ∧ ((resetFunc fn true s).func fn).cqEnable = false ∧
      ((resetFunc fn true s).func fn).irqMask = 0x3F ∧ ((resetFunc fn true s).func fn).flr = some s.clk.ticks ∧
      ((resetFunc fn true s).func fn).nextSeq = (s.func fn).nextSeq) ∧
    (∀ fn, exec (.flrComplete fn) s = .next (s.mapFunc fn fun f => { f with flr := none })) ∧
    (s.boot.inReset = false → isReady s = true → exec .flrPf s = .next (pfReset s)) ∧
    (∀ p, s.boot.inReset = false → isReady s = false → p = { s.pcie with vfEnable := false } →
      exec .flrPf s = .next { resetFunc 0 true s with pcie := p }) ∧
    (exec .hotReset s = exec .flrPf s) ∧
    (∀ u, s.boot.inReset = false → s.boot.fwRunning = true → s.pcie.linkUp = true → u = { s with pcie := { s.pcie with linkUp := false } } →
      exec .surpriseDown s = .next (pfResetNow (recordFault dHost 0 2 {} [0] u))) ∧
    (s.pcie.vfEnable = true → s.boot.inReset = false → exec .vfEnableClear s = .next (clearVfs s)) ∧
    (s.pcie.vfEnable = false → exec .vfEnableClear s = .next s) ∧
    (∀ k t, (s.isle k).fenceDue = some t → exec (.windowFence k) s = .next (ctrlAll pmFence [chipId (advanceCount t s), k, 1] []
      ((advanceCount t s).mapIsle k fun r => { r with fenceDue := none, windows := [] }))) ∧
    (∀ k, (s.isle k).fenceDue = none → exec (.windowFence k) s = .next s) ∧
    (∀ k u, counting s = true → s.halt = none → (s.isle k).state = .scrubbing → u = advanceCount (s.isle k).scrubEnd s →
      ((u.isle k).keysHeld = false → exec (.scrubEnd k) s = .next (dropScrubs (scrubDone k u))) ∧
      ((u.isle k).keysHeld = true → exec (.scrubEnd k) s = .next (dropScrubs u)))

/-- Copies that end: a unit's copy that has ended lets the retirement be agreed; a dirty channel's copy ends its job, and the next one that
waits is retired; a returned unit that passes its test is agreed, a port with a fresh link, one that fails stays retired, with the fault
recorded and E_FAULT; no job, no change. Patrol reads: a clean word changes nothing; the control processor's memory counts corrections, over
100 an hour are CP_ECC, and an uncorrectable word is CP's; over 1,000 corrections an hour of a tier-one channel set its fault and retire it,
fewer count against the isle that holds the frame; an uncorrectable tier-one word is recorded and marked, and a second word of a day retires
the channel; nothing comes from a channel that is out of service. (R138, R163, R165, R166, R450, R456, R458.) -/
def Obligations.ServiceFindsErrors : Prop :=
  (∀ (seg bank pc cls idx : Nat) (j : UnitJob) (s : State),
    (findJob s 1 (34 * seg + bank) = some j → j.t = none → j.ret = false → counting s = true →
      exec (.spareCopyDone seg bank) s = .next (agreeJob j s)) ∧
    (findJob s 1 (34 * seg + bank) = none → exec (.spareCopyDone seg bank) s = .next s) ∧
    (findJob s 2 pc = some j → j.t = none → j.ret = false → counting s = true → exec (.retireCopyDone pc) s = .next (agreeJob j s)) ∧
    (findJob s 2 pc = none → exec (.retireCopyDone pc) s = .next s) ∧
    (∀ u, findJob s 2 pc = some j → j.hold ≠ [] → u = dropJob 2 pc s →
      exec (.dirtyCopyDone pc) s = .next (nextPcRetire u) ∧ (u.units.pcQueue = [] → nextPcRetire u = u) ∧
      (∀ q, u.units.pcQueue = [q] → (∀ x ∈ u.units.jobs, x.cls ≠ 2) →
        nextPcRetire u = autoRetire 2 q (u.mapUnits fun x => { x with pcQueue := [] }))) ∧
    (findJob s 2 pc = none → exec (.dirtyCopyDone pc) s = .next s) ∧
    (findJob s cls idx = some j → j.ret = true → j.t = none →
      exec (.unitSelftestDone cls idx true) s = .next (agreeJob j (if cls = 3 then retrainedPort idx s else s))) ∧
    (findJob s cls idx = some j → j.ret = true → j.t = none → exec (.unitSelftestDone cls idx false) s = .next
      (nextPcRetire (jobEnds j (tideNow s) .eFault 0 {} (returnFailure cls idx (setUnitState cls idx 2 (tideNow s) (dropJob cls idx s)))))) ∧
    (findJob s cls idx = none → ∀ ok, exec (.unitSelftestDone cls idx ok) s = .next s))
  ∧ (∀ (space addr : Nat) (s : State), isReady s = true →
    (exec (.onChipPatrol space addr .clean) s = .next s) ∧ (exec (.tierOnePatrol addr .clean) s = .next s) ∧
    (∀ n u, 2 ≤ space → space ≠ 3 → noteCe dCp 0 s = (n, u) → n ≤ 100 → exec (.onChipPatrol space addr .corrected) s = .next u) ∧
    (∀ n u, 2 ≤ space → space ≠ 3 → noteCe dCp 0 s = (n, u) → 100 < n →
      exec (.onChipPatrol space addr .corrected) s = .next (recordFault dCp 0 2 {} [] u)) ∧
    (2 ≤ space → space ≠ 3 → exec (.onChipPatrol space addr .uncorrectable) s = .next (recordFault dCp 0 1 {} [] s)) ∧
    (∀ r p, p = addr / 2 ^ 21 % 512 → unitServes s 2 p = false ∨ s.mems.stackFail.contains (p / 64) = true →
      exec (.tierOnePatrol addr r) s = .next s) ∧
    (384 * 2 ^ 30 ≤ addr → ∀ r, exec (.tierOnePatrol addr r) s = .next s) ∧
    (∀ p, addr < 384 * 2 ^ 30 → p = addr / 2 ^ 21 % 512 → unitServes s 2 p = true → s.mems.stackFail.contains (p / 64) = false →
      (∀ n u, frameOwner s (addr / 2 ^ 21) = none → noteCe dHbm p s = (n, u) → n ≤ 1000 → exec (.tierOnePatrol addr .corrected) s = .next u) ∧
      (∀ n u, frameOwner s (addr / 2 ^ 21) = none → noteCe dHbm p s = (n, u) → 1000 < n →
        exec (.tierOnePatrol addr .corrected) s = .next (autoRetire 2 p (recordFault dHbm 0 2 { unit := p } (islesOnPc u p) u))) ∧
      (∀ k v n u, frameOwner s (addr / 2 ^ 21) = some (k, v) → noteCe dHbm p s = (n, u) → n ≤ 1000 →
        exec (.tierOnePatrol addr .corrected) s = .next (u.mapIsle k fun x => { x with t1Corrected := sat32 (x.t1Corrected + 1) })) ∧
      (∀ u v, frameOwner s (addr / 2 ^ 21) = none → (∀ g < 512, rowZeroAt s g ≠ addr / 2 ^ 21) →
        u = recordFault dHbm 0 3 { unit := p, phys := physAddr (.hbm addr), isle := 0xFF, prog := 0 } [] (s.mapMems fun m => physMark m (.hbm addr)) →
        (noteUe dHbm p (addr / 64) u = (false, v) → exec (.tierOnePatrol addr .uncorrectable) s = .next v) ∧
        (noteUe dHbm p (addr / 64) u = (true, v) → exec (.tierOnePatrol addr .uncorrectable) s = .next (autoRetire 2 p v))) ∧
      (∀ k a u v, frameOwner s (addr / 2 ^ 21) = some (k, a) → a ≠ 0 →
        u = recordFault dHbm 0 3 { unit := p, phys := physAddr (.hbm addr), isle := k, prog := a + addr % 2 ^ 21 } [k]
          (s.mapMems fun m => physMark m (.hbm addr)) →
        (noteUe dHbm p (addr / 64) u = (false, v) → exec (.tierOnePatrol addr .uncorrectable) s = .next v) ∧
        (noteUe dHbm p (addr / 64) u = (true, v) → exec (.tierOnePatrol addr .uncorrectable) s = .next (autoRetire 2 p v)))) ∧
    (∀ c o bank n u, c = addr / 2 ^ 24 % 64 → o = addr % 2 ^ 24 → bank = (o / 256 % 32) ^^^ (o / 8192 % 32) → noteCe dCore (c * 32 + bank) s = (n, u) →
      (n ≤ 1000 → exec (.onChipPatrol 0 addr .corrected) s = .next u) ∧
      (1000 < n → exec (.onChipPatrol 0 addr .corrected) s = .next (recordFault dCore c 5 { unit := c, info := bank } (islesOnCore u c) u))) ∧
    (∀ seg bank n u, seg = addr / 2 ^ 28 % 64 → bank = shelfBank s seg (addr % 2 ^ 28) → noteCe dShelf (seg * 34 + bank) s = (n, u) →
      (n ≤ 1000 → exec (.onChipPatrol 1 addr .corrected) s = .next u) ∧
      (1000 < n → exec (.onChipPatrol 1 addr .corrected) s = .next
        (autoRetire 1 (seg * 34 + bank) (recordFault dShelf 0 2 { unit := seg, info := bank } [] u)))) ∧
    (∀ c, c = addr / 2 ^ 20 % 64 → exec (.onChipPatrol 3 addr .uncorrectable) s = .next (recordFault dCore c 6
      { unit := c, phys := physAddr (.ob (addr % 2 ^ 26)), isle := (obUser s c).getD 0xFF, prog := addr % 2 ^ 20 } (obUser s c).toList
      (s.mapMems fun m => physMark m (.ob (addr % 2 ^ 26))))))

/-- A stack fails: it is out of use and STACK is recorded, which is fatal; at the boundary that follows each sequence with pages in it loses
them with E_POISON and the tree forgets its nodes there; a stack that failed before changes nothing. After a fatal fault: within 100 ticks
the keys go, READY_N rises and each outstanding command ends with E_FAULT; within 200 ticks the ports go idle, and a formed archipelago is
told; without a fatal fault neither comes. A PROG_RUN that other chips have not accepted one second after it ends with E_RETRY, and its
acceptance is dropped; one that is agreed, or none, changes nothing. (R165, R331, R454.) -/
def Obligations.FatalFaultsAndStacks : Prop :=
  (∀ (stack : Nat) (s : State),
    (s.mems.stackFail.contains stack = true → exec (.stackFail stack) s = .next s) ∧
    (isReady s = false → exec (.stackFail stack) s = .next s) ∧
    (isReady s = true → s.mems.stackFail.contains stack = false →
      exec (.stackFail stack) s = .next (recordFault dHbm 0 5 { unit := stack } []
        (s.mapMems fun m => { m with stackFail := insNat stack m.stackFail }))) ∧
    (∀ b, s.mems.stackFail = [] → loseStackPages b s = s) ∧
    (∀ b, (∀ k, k < 32 → (s.isle k).pool = none) → loseStackPages b s = s) ∧
    (∀ (b : Nat) (lose : State → Nat → State), s.mems.stackFail = [stack] →
      (∀ (w : State) k, lose w k = (w.isle k).seqs.foldl (fun s q =>
        let idx := (List.range q.2.pages.length).filter fun i => pageInStack s k (poolView w k) (pageAt q.2 i).addr (pageBytes (poolOf w k)) stack
        if idx.isEmpty then s else losePages k q.1 idx .ePoison b s) w) →
      loseStackPages b s = (List.range 32).foldl (fun s k =>
        if (s.isle k).pool.isNone then s else pruneTree k ((lose s k).mapIsle k fun r =>
          { r with tree := r.tree.map fun x => if pageInStack (lose s k) k (poolView s k) x.addr (pageBytes (poolOf s k)) stack then
                                                { x with inTree := false, poisoned := true } else x })) s))
  ∧ (∀ (f : Nat) (s : State),
    (s.halt = some f → exec .fatalKeyDestroy s = .next ((List.range 32).foldl
      (fun s fn => (s.func fn).cmds.foldl (fun s c => finish fn c.seq .eFault 0 {} s) s)
      (destroyAllKeys ((advanceTicks (f + 100) s).mapPins fun p => { p with readyLow := false })))) ∧
    (s.halt = none → exec .fatalKeyDestroy s = .next s) ∧
    (∀ u, s.halt = some f → u = advanceTicks (f + 200) s →
      exec .fatalPortsIdle s = .next (portsIdle ((otherPresent u).foldl (fun s j => ctrlTo j pmDepart [chipId u] [] s) u))) ∧
    (∀ p, p < s.ports.length → p < 15 → (s.port p).state ≠ .retired → ((portsIdle s).port p).state = .idle ∧ ((portsIdle s).port p).linkUp = false) ∧
    (s.halt = none → exec .fatalPortsIdle s = .next s))
  ∧ (∀ (k g : Nat) (s : State),
    (∀ c u dg, ((s.func k).cmds.find? fun c => c.hdr.opcode == 0x0402 && c.phase == .boundary && handleArg c == g) = some c →
      runAgreed s k g (runMode c) (tideNow s + 2 ^ 63) = false → u = advanceQuant (c.d + 100000000) s →
      dg = leNat (imgDigest ((aGet (u.isle k).progs g).getD {}).image) →
      exec (.progRunTimeout k g) s = .next (pumpAll cmdTable (refuseAt
        (tideNow (u.mapArch fun a => { a with accepts := a.accepts.filter fun r => !(r.isle == k && r.digest == dg && r.chip == chipId u) }))
        k c.seq .eRetry 0
        (u.mapArch fun a => { a with accepts := a.accepts.filter fun r => !(r.isle == k && r.digest == dg && r.chip == chipId u) })))) ∧
    (∀ c, ((s.func k).cmds.find? fun c => c.hdr.opcode == 0x0402 && c.phase == .boundary && handleArg c == g) = some c →
      runAgreed s k g (runMode c) (tideNow s + 2 ^ 63) = true → exec (.progRunTimeout k g) s = .next (pumpAll cmdTable s)) ∧
    (((s.func k).cmds.find? fun c => c.hdr.opcode == 0x0402 && c.phase == .boundary && handleArg c == g) = none →
      exec (.progRunTimeout k g) s = .next (pumpAll cmdTable s)))

/-- Parking images move: writing starts when the slot's bucket pays for the image, takes the image's blocks and its nonce, captures its
pages and seals them, and waits where the slot has no run of blocks; the write that ended waits for its flush; a read whose tag fails is a
CAY fault and the loss with E_DENIED; a page copied is noted. An image that was read in full with a good tag: its pages and its shoal
positions are written where the sequence has them, it keeps their tokens, and the pages go to the replica chips; a sequence without replicas
elsewhere is ready to be resident, and one with them once every copy has been acknowledged, of which the replicas are told. What a home
tells the replicas of a sequence (the exchange is the model's, log 102): an order waits for the isle's next boundary, and for an isle
without a pool changes nothing; there a creation adds the sequence, a message about one that this chip is home to changes nothing, a
destroyed one is freed, a parked one gives up its places or moves to tier one, and an unparked one is filled. (R193, R287, R288, R307, R308,
R310, R311, R312.) -/
def Obligations.ParkImagesMove : Prop :=
  (∀ (k h : Nat) (q : Seq) (s : State), seqOf s k h = some q →
    (∀ i b bl u v w x y n pages shoal, q.parkImage = some i → q.state = .parking → q.parkStart = none → q.abandon = none → q.lossDue = none →
      b = bucketNow s i.slot k → (i.bytes : Int) ≤ b.credit →
      (i.blocks ≠ [] → bl = i.blocks) → (i.blocks = [] → freeRun s i.slot (imageBlocks i.bytes) = some bl) →
      u = setBucket i.slot k (fun b => { b with
        credit := b.credit - i.bytes, queued := b.queued - i.bytes, written := b.written + i.bytes }) s →
      v = u.mapCay i.slot (fun x => { x with sinceRead := x.sinceRead + i.bytes }) → n = (aGet (v.isle k).keys.images i.epoch).getD 0 →
      w = v.mapIsle k (fun r => { r with keys := { r.keys with images := aSet i.epoch (n + 1) r.keys.images } }) →
      captureImage w k q = (pages, shoal, false) → x = { i with blocks := bl, nonce := n, pages := pages, shoal := shoal } →
      y = { x with sealed := sealImage w h (poolOf w k) x } →
      exec (.parkWriteStart k h) s = .next (checkWear i.slot (mapSeq k h (fun q => { q with parkStart := some w.clk.ticks, parkImage := some y })
        (w.mapClk fun c => { c with freeCtr := c.freeCtr + 1 })))) ∧
    (∀ i, q.parkImage = some i → i.blocks = [] → freeRun s i.slot (imageBlocks i.bytes) = none → exec (.parkWriteStart k h) s = .next s) ∧
    (q.parkImage = none → exec (.parkWriteStart k h) s = .next s) ∧
    (∀ i t, q.parkImage = some i → q.state = .parking → q.parkStart = some t → q.parkFlush = false → q.abandon = none → q.lossDue = none →
      exec (.parkWriteDone k h) s = .next (checkWear i.slot (mapSeq k h (fun q => { q with parkFlush := true }) s))) ∧
    (q.parkStart = none → exec (.parkWriteDone k h) s = .next s) ∧
    (∀ i read, q.image = some i → q.state = .unparking → q.unparkRead = false → q.lossDue = none → q.unparkEnd = none →
      openImage s k i read = false → exec (.unparkReadDone k h read) s = .next
        (mapSeq k h (fun q => { q with lossDue := some .eDenied }) (recordFault dCay i.slot 7 { unit := i.slot } [] s))) ∧
    (q.image = none → ∀ read, exec (.unparkReadDone k h read) s = .next s) ∧
    (∀ i, q.content = some i → q.state = .unparking → q.unparkRead = true → q.unparkDone = false → copiesOut s k h = false →
      (∀ j ∈ replicaChips s q, q.farSent.contains j = true) →
      exec (.replicaCopyDone k h) s = .next (tellReplicas k h 9 (unparkWords q i) (mapSeq k h (fun q => { q with unparkDone := true }) s))) ∧
    (q.unparkRead = false ∨ copiesOut s k h = true → exec (.replicaCopyDone k h) s = .next s) ∧
    (∀ page, exec (.pageMoveDone k h page) s = .next
      (mapSeq k h (fun q => if q.moves.contains page then { q with moved := insNat page q.moved } else q) s)))
  ∧ (∀ (k h : Nat) (q : Seq) (i : Image) (s t u v : State), seqOf s k h = some q → q.image = some i → q.state = .unparking →
    q.unparkRead = false → q.lossDue = none → q.unparkEnd = none →
    t = (List.range q.pages.length).foldl (fun w j =>
      writeBytes k (poolView s k) (pageAt q j).addr (((i.pages[j]?).map fun x => x.1).getD []) w) s →
    u = (List.range q.shoal.length).foldl (fun w j => writeBytes k (poolView s k)
      (shoalAddr (poolOf s k) q.owner ((q.shoal[j]?.map fun x => x.slot).getD 0)) (((i.shoal[j]?).map fun x => x.1).getD []) w) t →
    v = mapSeq k h (fun q => { q with
      unparkRead := true, unparkDone := (replicaChips u q).isEmpty, content := some i,
      pages := q.pages.mapIdx (fun j x => { x with tokens := ((i.pages[j]?).map fun y => y.2).getD [] }),
      shoal := q.shoal.mapIdx fun j x => { x with token := ((i.shoal[j]?).map fun y => y.2).getD 0 } }) u →
    ∀ read, openImage s k i read = true → exec (.unparkReadDone k h read) s = .next (sendCopies k h v))
  ∧ (∀ (k h : Nat) (b : Bytes) (s : State),
    (∀ (hd : FlitHdr) (kind : Nat), (receive hd 4 false (1 + b.length / 240) s).2 = false →
      exec (.replicaCreate hd k h kind b) s = .next (receive hd 4 false (1 + b.length / 240) s).1) ∧
    (∀ (hd : FlitHdr) (kind : Nat) (u : State), receive hd 4 false (1 + b.length / 240) s = (u, true) →
      (u.isle k).state ≠ .enabled ∨ (u.isle k).pool = none → exec (.replicaCreate hd k h kind b) s = .next (ackPast hd 4 u)) ∧
    (∀ (hd : FlitHdr) p who (u : State), receive hd 4 false (1 + b.length / 240) s = (u, true) → who = hd.orig →
      (u.isle k).state = .enabled → (u.isle k).pool = some p →
      (∀ kind, kind ∉ [6, 8, 10] → exec (.replicaCreate hd k h kind b) s = .next
        (ackPast hd 4 (u.mapArch fun a => { a with creates := a.creates ++ [(k, h, kind, b)] }))) ∧
      exec (.replicaCreate hd k h 6 b) s = .next (ackPast hd 4 (answerCreate k h b u)) ∧
      exec (.replicaCreate hd k h 10 b) s = .next
        (ackPast hd 4 (mapSeq k h (fun q => if q.home then { q with farDone := insNat who q.farDone } else q) u)) ∧
      (∀ places, places = (List.range (b.length / 8)).map (fun n => fieldB b (8 * n) 8) →
        exec (.replicaCreate hd k h 8 b) s = .next (ackPast hd 4 (sendCopies k h (mapSeq k h (fun q =>
          if q.home && q.state == .unparking then { q with farPlaces := aSet who places q.farPlaces } else q) u))))) ∧
    (∀ t q, seqOf s k h = some q → q.home = true → ∀ kind, kind ≠ 7 → applyTold k h kind t b s = some s) ∧
    (∀ t q, seqOf s k h = some q → q.home = false →
      applyTold k h 1 t b s = some (freeSeq k h t s) ∧ applyTold k h 2 t b s = some (parkFree k h s) ∧
      applyTold k h 4 t b s = some (parkTierOne k h s).2 ∧
      (q.state = .unparking → applyTold k h 9 t b s = some (tellHome k h 10 [] (replicaUnpark k h t b s)))) ∧
    (∀ t, seqOf s k h = none → applyTold k h 0 t b s = some (replicaCreate k h t b s)) ∧
    (∀ t u v n len, seqOf s k h = none → u = s.mapIsle k (fun r => { r with seqs := aSet h (createSeq b false) r.seqs }) →
      v = (openTable k h u).getD u → n = (b.drop 48).length / (4 * pageTok (poolOf v k)) →
      len = n * pageTok (poolOf (adoptRun k h (tokensOf (b.drop 48)) n 0 v) k) →
      (∀ q w, w = (allocStaging k h (mapSeq k h (fun q => { q with c := len, f := len }) (adoptRun k h (tokensOf (b.drop 48)) n 0 v))).2 →
        seqOf w k h = some q → pagesReady (poolOf w k) q = true → replicaCreate k h t b s = w)))

/-- A cartridge comes up: insertion powers the slot 100 ms after its pin settled, PERST is released 100 ms later, the link trains, the
controller answers and is of the form that Table 8.1 asks for, and the device is measured; what fails or does not fit is FAILED or REFUSED
with its own fault bit, a clone with CLONE too, and a step that is not the slot's changes nothing. Identity and health: a slot that is no
clone and has no pairing is UNPAIRED, with one it goes on to its health log; clones are refused with CLONE; a health log that is read sets
the governor's clock from the pairing where it is not ahead of it, makes the checkpoint and lets the slot serve; a reading that a checkpoint
asked for makes it. (R45, R93, R94, R179, R183, R184, R185, R186, R194.) -/
def Obligations.CartridgeComesUp : Prop :=
  (∀ (i : Nat) (s : State),
    (∀ u, i < 2 → s.boot.phase = 0x09 → s.pins.cayPrsnt.getD i true = false → unitState s 4 i ≠ 2 → (s.caySlot i).state = .empty →
      u = advanceTicks (max (s.pins.cayPrsntSince.getD i 0) s.boot.phaseTick + 10000000) s →
      exec (.cayInsertion i) s = .next ((setCayState i .bringup (cayStep i 2 (u.mapCay i fun c => { c with authOnly := false }))).mapPins
        fun p => { p with cayPwr := setAt p.cayPwr i fun _ => true, cayRefclk := setAt p.cayRefclk i fun _ => true })) ∧
    (s.pins.cayPrsnt.getD i true = true → exec (.cayInsertion i) s = .next s) ∧
    (∀ u, atStep s i 2 = true → u = advanceTicks ((s.caySlot i).stepTick + 10000000) s →
      exec (.cayPerstRelease i) s = .next (cayStep i 3 (u.mapPins fun p => { p with cayPerst := setAt p.cayPerst i fun _ => true }))) ∧
    (atStep s i 2 = false → exec (.cayPerstRelease i) s = .next s) ∧
    (∀ cap, atStep s i 3 = true → exec (.cayLinkUp i true cap) s = .next (cayStep i 4 (s.mapCay i fun c => { c with capTo := cap }))) ∧
    (∀ cap, atStep s i 3 = true → exec (.cayLinkUp i false cap) s = .next (cayFails i 0 (advanceTicks ((s.caySlot i).stepTick + 10000000) s))) ∧
    (∀ info, atStep s i 4 = true → info.meetsTable81 = true → 256 ≤ info.capacityGiB → info.capacityGiB ≤ 2048 →
      exec (.nvmeReady i true info) s = .next (cayStep i 5 (s.mapCay i fun c => { c with info := info, identified := true }))) ∧
    (∀ info, atStep s i 4 = true → info.meetsTable81 = false ∨ info.capacityGiB < 256 ∨ 2048 < info.capacityGiB →
      exec (.nvmeReady i true info) s = .next (refuseBringup i 2 .eCart (s.mapCay i fun c => { c with info := info, identified := true }))) ∧
    (∀ bit st u, u = cayRefused i bit st s → (isClone u i = false → refuseBringup i bit st s = u) ∧
      (isClone u i = true → refuseBringup i bit st s = refuseClones i u)) ∧
    (∀ info, atStep s i 4 = true → exec (.nvmeReady i false info) s = .next (cayFails i 1 s)) ∧
    (∀ r u, atStep s i 5 = true →
      u = s.mapCay i (fun c => { c with
        lowest := (r.certSlot, r.lowest), identity := if r.ok then some r.digest else none,
        pairing := validRecord s r, certSlot := match validRecord s r with | some x => x.certSlot | none => r.certSlot }) →
      (r.recordMatch = true → r.ok = true → (∀ p, validRecord s r = some p → p.cart = r.digest) → exec (.caySpdm i r) s = .next (cayStep i 6 u)) ∧
      (r.recordMatch = false → exec (.caySpdm i r) s = .next (refuseBringup i 2 .eCart u)) ∧
      (r.recordMatch = true → r.ok = false ∨ (∃ p, validRecord s r = some p ∧ p.cart ≠ r.digest) →
        exec (.caySpdm i r) s = .next (refuseBringup i 3 .eCartAuth u))))
  ∧ (∀ (i : Nat) (s : State),
    (atStep s i 6 = true → ((s.caySlot (1 - i)).state = .bringup → (s.caySlot (1 - i)).identity.isSome = true) →
      (isClone s i = true → exec (.cayIdentityCompare i) s = .next (refuseClones i s)) ∧
      (isClone s i = false → (s.caySlot i).pairing = none → exec (.cayIdentityCompare i) s = .next (setCayState i .unpaired (cayStep i 0 s))) ∧
      (∀ p, isClone s i = false → (s.caySlot i).pairing = some p → exec (.cayIdentityCompare i) s = .next (cayStep i 7 s))) ∧
    (atStep s i 6 = false → exec (.cayIdentityCompare i) s = .next s) ∧
    (∀ sm p u, atStep s i 7 = true → (s.caySlot i).pairCmd = none → (s.caySlot i).pairing = some p →
      u = s.mapCay i (fun c => { c with
        smart := sm, sinceRead := 0, authOnly := false, dealloc := [], wipe := true,
        clock := if p.checkUtc ≤ clockAt s (s.caySlot i).clock then (s.caySlot i).clock else (p.checkUtc, tideNow s) }) →
      exec (.cayHealthRead i true sm) s = .next ((cayServes i (checkpoint i none u)).emit (.cart i 3 []))) ∧
    (∀ sm, atStep s i 7 = true → exec (.cayHealthRead i false sm) s = .next (cayFails i 1 s)) ∧
    (∀ sm ok, atStep s i 7 = false → (s.caySlot i).pairCmd = none → (s.caySlot i).reading = false →
      exec (.cayHealthRead i ok sm) s = .next s) ∧
    (∀ sm, atStep s i 7 = false → (s.caySlot i).pairCmd = none → (s.caySlot i).reading = true →
      exec (.cayHealthRead i true sm) s = .next (checkRead i sm s) ∧ exec (.cayHealthRead i false sm) s = .next (cayFails i 1 s)) ∧
    (∀ u, worn (u.caySlot i) = false → (u.caySlot i).wornOut = false → cayServes i u = setCayState i .online u) ∧
    (∀ u, worn (u.caySlot i) = true ∨ (u.caySlot i).wornOut = true →
      cayServes i u = setCayState i .readOnly (recordFault dCay i 8 { unit := i } [] (u.mapCay i fun c => { c with wornOut := true }))))

/-- The governor: a checkpoint comes 3,600 seconds after the one before, a health event reads the wear, the life date passed sets its bit
once. Images on a cartridge at fault: a write that fails abandons the image with E_CART and IO_ERROR, a read that fails is the loss, with
IO_ERROR and E_CART, or with TAG and E_DENIED, or of a shadow image that a migration reads the loss of that image; a migration's write that
fails ends it; a migrated image has its place on the other slot, as long as its isle's credit there stays at or above minus one depth.
(R190, R192, R194, R195, R196, R197, R200.) -/
def Obligations.GovernorAndImages : Prop :=
  (∀ (i : Nat) (s : State),
    (∀ sm u, governed s i = true → u = advanceCount ((s.caySlot i).checkTick + 360000000000) s →
      exec (.governorCheckpoint i sm) s = .next (checkpoint i none (u.mapCay i fun c => { c with smart := sm, sinceRead := 0 }))) ∧
    (∀ sm, governed s i = false → exec (.governorCheckpoint i sm) s = .next s) ∧
    (∀ sm, governed s i = true → exec (.caySmartEvent i sm) s = .next (wearCheck i (s.mapCay i fun c => { c with smart := sm, sinceRead := 0 }))) ∧
    (∀ sm, governed s i = false → exec (.caySmartEvent i sm) s = .next s) ∧
    (∀ u, governed s i = true → (faultWord s.faults dCay i).testBit 9 = false →
      u = advanceCount (tideNow s + (lifeDate s i * 86400 - governorClock s i) * 100000000) s →
      exec (.lifeDatePassed i) s = .next (recordFault dCay i 9 { unit := i } [] u)) ∧
    ((faultWord s.faults dCay i).testBit 9 = true → exec (.lifeDatePassed i) s = .next s))
  ∧ (∀ (i k h : Nat) (q : Seq) (s : State), seqOf s k h = some q →
    (∀ img t tag, q.parkImage = some img → img.slot = i → q.state = .parking → q.parkFlush = false → q.parkStart = some t →
      exec (.cayIoError i k h true tag) s = .next (mapSeq k h (fun q => { q with abandon := some .eCart }) (recordFault dCay i 6 { unit := i } [k] s))) ∧
    (∀ img, q.image = some img → img.slot = i → q.state = .unparking → q.unparkRead = false →
      exec (.cayIoError i k h false false) s = .next
        (mapSeq k h (fun q => { q with lossDue := some .eCart }) (recordFault dCay i 6 { unit := i } [k] s)) ∧
      exec (.cayIoError i k h false true) s = .next
        (mapSeq k h (fun q => { q with lossDue := some .eDenied }) (recordFault dCay i 7 { unit := i } [] s))) ∧
    (∀ img e, q.image = some img → img.slot = i → q.state = .parked → q.tierOnePark = false → (s.caySlot i).eject = some (false, e) →
      exec (.cayIoError i k h false false) s = .next
        (mapSeq k h (fun q => { q with lossDue := some .eCart }) (recordFault dCay i 6 { unit := i } [k] s))) ∧
    (∀ img e tag, q.image = some img → img.slot = i → q.state = .resident → (s.caySlot i).eject = some (false, e) →
      exec (.cayIoError i k h false tag) s = .next (deallocBlocks i img.blocks (mapSeq k h (fun q => { q with image := none })
        (recordFault dCay i (if tag then 7 else 6) { unit := i } [] s)))) ∧
    (∀ img e tag, i < 2 → q.image = some img → img.slot = 1 - i → q.state ≠ .parking → (s.caySlot (1 - i)).eject = some (false, e) →
      exec (.cayIoError i k h true tag) s = .next (migrationEnds i .eCart (tideNow s) (recordFault dCay i 6 { unit := i } [] s))) ∧
    (q.image = none → ∀ tag, exec (.cayIoError i k h false tag) s = .next s) ∧
    (∀ e img t, t = 1 - i → (s.caySlot i).eject = some (false, e) → q.image = some img →
      (bucketNow s t k).credit - img.bytes < -(bucketDepth s t k : Int) → exec (.migrateImageDone i k h) s = .next s) ∧
    (∀ e img bl t u, t = 1 - i → (s.caySlot i).eject = some (false, e) → q.image = some img → img.slot = i → takesParks s t = true → q.parkImage = none →
      q.lossDue = none → epochLive s k img.epoch = true → ((s.caySlot t).migrated.any fun m => m.1 == (k, h)) = false →
      -(bucketDepth s t k : Int) ≤ (bucketNow s t k).credit - img.bytes → freeRun s t img.blocks.length = some bl →
      u = setBucket t k (fun b => { b with credit := b.credit - img.bytes, written := b.written + img.bytes }) s →
      exec (.migrateImageDone i k h) s = .next (checkWear t (u.mapCay t fun c => { c with
        sinceRead := c.sinceRead + img.bytes, migrated := c.migrated ++ [((k, h), { img with slot := t, blocks := bl })] }))) ∧
    (q.image = none → exec (.migrateImageDone i k h) s = .next s))

/-- A cartridge leaves: its pin is followed; a removal of one that was not ejected is REMOVED with its losses and ends its commands with
E_CART_LOST; power goes off at its time, and the reference clock with it; a lost link or controller fails a linked slot and is recorded on a
refused one; a request of the device outside the staging frames is INBOUND_BLOCKED (which frames of row 0 those are is the model's choice,
log 104); an ejection ends 10 microseconds after the shutdown with S_OK, and the images' deallocation clears the list. (R45, R181,
R187, R195, R199, R200, R201.) -/
def Obligations.CartridgeLeaves : Prop :=
  ∀ (i : Nat) (s : State),
    (∀ level u, i < 2 → s.pins.cayPrsnt.getD i true ≠ level → ¬ (level = true ∧ (s.caySlot i).state = .bringup ∧ (s.caySlot i).step = 1) →
      u = s.mapPins (fun p => { p with
        cayPrsnt := setAt p.cayPrsnt i fun _ => level, cayPrsntSince := setAt p.cayPrsntSince i fun _ => s.clk.ticks }) →
      (u.caySlot i) = (s.caySlot i) ∧ exec (.cayPrsntNChange i level) s = .next u) ∧
    (exec (.cayPrsntNChange i (s.pins.cayPrsnt.getD i true)) s = .next s) ∧
    (∀ u v, i < 2 → s.pins.cayPrsnt.getD i true = true → (s.caySlot i).state ≠ .empty → (s.caySlot i).state ≠ .ejected →
      s.pins.cayPwr.getD i false = false →
      u = advanceTicks (s.pins.cayPrsntSince.getD i 0 + 2000) s →
      v = (recordFault dCay i 5 { unit := i } (islesHit u i) u).mapCay i (fun c => { c with lossDue := some .eCartLost }) →
      v.pins.cayPwr.getD i false = false →
      exec (.cayRemoval i) s = .next (setCayState i .empty ((endPair i .eCartLost {} (endReading i .eCartLost v)).mapCay i forgetCart)) ∧
        ((v.caySlot i).reading = false → endReading i .eCartLost v = v)) ∧
    (s.pins.cayPrsnt.getD i true = false → exec (.cayRemoval i) s = .next s) ∧
    (∀ t, (s.caySlot i).powerOffAt = some t → exec (.cayPowerRelease i) s = .next
      (((advanceTicks t s).mapCay i fun c => { c with powerOffAt := none }).mapPins fun p => { p with cayPwr := setAt p.cayPwr i fun _ => false, cayRefclk := setAt p.cayRefclk i fun _ => false })) ∧
    ((s.caySlot i).powerOffAt = none → exec (.cayPowerRelease i) s = .next s) ∧
    (cayLinked s i = true → exec (.cayLinkLoss i true) s = .next (cayFails i 1 s) ∧ exec (.cayLinkLoss i false) s = .next (cayFails i 0 s)) ∧
    (cayLinked s i = false → (s.caySlot i).state ≠ .refused → ∀ c, exec (.cayLinkLoss i c) s = .next s) ∧
    (∀ u, (s.caySlot i).state = .refused → u = recordFault dCay i 0 { unit := i } (islesHit s i) s →
      exec (.cayLinkLoss i false) s = .next (endPair i .eCartLost {} u) ∧ ((u.caySlot i).pairCmd = none → endPair i .eCartLost {} u = u)) ∧
    (∀ addr, cayLinked s i = true → stagingFrame s (addr / 2 ^ 21) = false → exec (.cayInboundRequest i addr) s = .next (cayFails i 10 s)) ∧
    (∀ addr, stagingFrame s (addr / 2 ^ 21) = true → exec (.cayInboundRequest i addr) s = .next s) ∧
    (∀ f, s.units.rowZero = [] → stagingFrame s f = decide (f < 512)) ∧
    (∀ u v, (s.caySlot i).shutdown = true → (s.caySlot i).state = .ejecting → u = advanceTicks (s.clk.ticks + 1000) s →
      v = u.mapPins (fun p => { p with
        cayPerst := setAt p.cayPerst i fun _ => false, cayPwr := setAt p.cayPwr i fun _ => false,
        cayRefclk := setAt p.cayRefclk i fun _ => false }) →
      exec (.cayShutdownDone i) s = .next (endEject i .sOk (tideNow v) (setCayState i .ejected v))) ∧
    ((s.caySlot i).shutdown = false → exec (.cayShutdownDone i) s = .next s) ∧
    (exec (.cayDeallocDone i) s = .next (s.mapCay i fun c => { c with dealloc := [], wipe := false }))

/-- Ports train and go down: an idle port whose lanes and peer fit becomes ACTIVE with a fresh link, one that meets the wrong peer is WIRING
and stays idle; a trained port brings what its peer reports, and a chip in cold wait with an aligned peer asks for a link mark; an active
port that goes down is LINK_DOWN; a peer that is in the archipelago and has a chip between is probed, one without is CUT; a probe that is
answered within 100 ticks detours the port and hands its flits and messages over, one that is not, cuts it. A down port
trains again 100 ms after it went down: the lower of the two chips proposes its return; a wrong peer is WIRING; once the flows that were
detoured are acknowledged the port is ACTIVE and what waited goes out in order. (R58, R85, R317, R318, R322, R344, R345, R347.) -/
def Obligations.PortsTrainAndFail : Prop :=
  (∀ (p : Nat) (s : State),
    (∀ r t, s.boot.inReset = false → s.boot.fwRunning = true → s.halt = none → s.tide.frozen = false → (s.port r.port).state ≠ .active →
      (s.port r.port).state ≠ .retired → t = trainPort r s →
      ((t.port r.port).state = .active → t.tide.coldWait = false → t.boot.alignByLink = true → t.tide.aligned = false →
        exec (.portTrainPattern r) s = .next (tideTo [peerAt t r.port] (fun _ => .alignRequest r.port) t)) ∧
      ((t.port r.port).state = .active → t.tide.coldWait = true → r.peerAligned = true → t.tide.aligned = false →
        exec (.portTrainPattern r) s = .next (askLinkMark (t.mapTide fun x => { x with coldWait := false }))) ∧
      (t.tide.aligned = true ∨ (t.port r.port).state ≠ .active → exec (.portTrainPattern r) s = .next t)) ∧
    (∀ r t, s.boot.inReset = false → s.boot.fwRunning = true → s.halt = none → s.tide.frozen = false → (s.port r.port).state = .active →
      t = peerReports r.port r.peerAligned r.peerReady s →
      (r.peerChip ≠ (s.port r.port).peer.1 → exec (.portTrainPattern r) s = .next s) ∧
      (r.peerChip = (s.port r.port).peer.1 → t.tide.coldWait = false → exec (.portTrainPattern r) s = .next t) ∧
      (r.peerChip = (s.port r.port).peer.1 → t.tide.coldWait = true → t.tide.aligned = false → r.peerAligned = true →
        exec (.portTrainPattern r) s = .next (askLinkMark (t.mapTide fun x => { x with coldWait := false })))) ∧
    (∀ r, s.boot.inReset = false → s.boot.fwRunning = true → s.halt = none → s.tide.frozen = false → (s.port r.port).state = .retired →
      (r.lanesOk = true → r.peerChip = peerAt s r.port → r.peerPort = 14 - r.port → exec (.portTrainPattern r) s = .next (linkTrained r s)) ∧
      (r.lanesOk = false ∨ r.peerChip ≠ peerAt s r.port ∨ r.peerPort ≠ 14 - r.port → exec (.portTrainPattern r) s = .next s)) ∧
    (∀ r u, s.boot.archEn = true → (s.port r.port).state = .idle → (s.port r.port).wiring = false → u = setPortState r.port .training s →
      r.lanesOk = true → (r.peerChip ≠ peerAt u r.port ∨ r.peerPort ≠ 14 - r.port) →
      trainPort r s = setPortState r.port .idle (linkFault r.port 1 (u.mapPort r.port fun q => { q with wiring := true }))) ∧
    (∀ r u, s.boot.archEn = true → (s.port r.port).state = .idle → (s.port r.port).wiring = false → u = setPortState r.port .training s →
      r.lanesOk = true → r.peerChip = peerAt u r.port → r.peerPort = 14 - r.port →
      trainPort r s = setPortState r.port .active (linkTrained r (u.mapPort r.port fun q => { q with detour := none, retrained := false }))) ∧
    (∀ r u, s.boot.archEn = true → (s.port r.port).state = .idle → (s.port r.port).wiring = false → u = setPortState r.port .training s →
      r.lanesOk = false → trainPort r s = setPortState r.port .idle (linkFault r.port 0 u)) ∧
    (∀ r, s.boot.archEn = false → trainPort r s = s) ∧
    ((s.port p).linkUp = false → exec (.linkDown p) s = .next s) ∧
    (∀ t v u, (s.port p).linkUp = true →
      t = loseForwards p ((linkFault p 2 s).mapPort p fun r => { r with
        linkUp := false, lcfFails := 0, returning := false, heldFlows := [], heldMsgs := [] }) →
      v = t.emit (.peer (chipId t) pmMarker [p] []) → u = v.mapPort p (fun r => { r with downTick := v.clk.ticks, retrained := false }) →
      ((s.port p).state ≠ .active → exec (.linkDown p) s = .next ((s.port p).heldMsgs.foldl (fun s m => sendMsg m s) v)) ∧
      ((s.port p).state = .active → u.arch.member = 0 ∨ u.arch.present.testBit (peerAt u p) = false →
        exec (.linkDown p) s = .next (restartFlows (peerAt u p) (setPortState p .cut (u.mapPort p fun r => { r with txq := [], replay := [] })))) ∧
      ((s.port p).state = .active → u.arch.member ≠ 0 → u.arch.present.testBit (peerAt u p) = true →
        exec (.linkDown p) s = .next (announce (detoursBreak p (probePeer p u))))) ∧
    (∀ k, intermediate s (peerAt s p) = some k →
      probePeer p s = ctrlTo k pmProbe [chipId s, peerAt s p] [] (s.mapPort p fun r => { r with probe := some (k, s.clk.ticks) })) ∧
    (intermediate s (peerAt s p) = none → probePeer p s = portCut p s) ∧
    (∀ k, intermediate s (peerAt s p) = some k → s.arch.present.testBit k = true ∧ k ≠ chipId s ∧ k ≠ peerAt s p ∧
      (s.port (myPort s k)).state = .active ∧ (s.port (myPort s k)).linkUp = true ∧ (∀ l, aGet s.arch.links k = some l → l.testBit (peerAt s p) = true)) ∧
    (∀ (hd : FlitHdr) (src dest : Nat), (receive hd 4 false 1 s).2 = false →
      exec (.probeAnswer hd src dest) s = .next (receive hd 4 false 1 s).1) ∧
    (∀ (hd : FlitHdr) (src dest port : Nat) (v : State), receive hd 4 false 1 s = (v, true) → port = myPort v dest →
      (src ≠ chipId v → exec (.probeAnswer hd src dest) s = .next (ackPast hd 4 (ctrlTo src pmProbeAnswer [src, dest] [] v))) ∧
      (∀ k t, src = chipId v → (v.port port).probe = some (k, t) → v.clk.ticks ≤ t + 100 → hd.orig = k →
        exec (.probeAnswer hd src dest) s = .next (ackPast hd 4 (goByDetour port k
          (noteRemap 3 port (carrier v dest) (myPort v k) (tideNow v) (setPortState port .detoured v))))) ∧
      (∀ k t, src = chipId v → (v.port port).probe = some (k, t) → t + 100 < v.clk.ticks ∨ hd.orig ≠ k →
        exec (.probeAnswer hd src dest) s = .next (ackPast hd 4 v)) ∧
      (src = chipId v → (v.port port).probe = none → exec (.probeAnswer hd src dest) s = .next (ackPast hd 4 v))) ∧
    (∀ k j c d u w flits, j = peerAt s p → c = carrier s j → d = myPort s k →
      flits = ((s.port p).replay.filter fun f => !f.fwd).map (fun f => ({
        ch := f.ch, cls := f.cls, isle := f.isle, dest := f.dest, left := 1, begun := true, again := some f.fseq,
        msg := .peer f.dest pmResend [p, f.fseq] [] } : TxMsg)) →
      u = s.mapPort p (fun r => { r with probe := none, detour := some k, replay := [] }) → w = u.mapPort d (fun r => { r with txq := r.txq ++ flits }) →
      (c = d → goByDetour p k s = moveTx j p d w) ∧ (c ≠ d → goByDetour p k s = moveTx j p d (moveTx j c d w))) ∧
    ((s.port p).probe = none → exec (.probeTimeout p) s = .next s) ∧
    (∀ x, (s.port p).probe = some x → exec (.probeTimeout p) s = .next (portCut p s)))
  ∧ (∀ (p : Nat) (s : State),
    (∀ r u w, (s.port p).state = .detoured ∨ (s.port p).state = .cut → (s.port p).retrained = false → r.lanesOk = true →
      u = (advanceTicks ((s.port p).downTick + 10000000) s).mapPort p (fun q => { q with retrained := true }) →
      r.peerChip = peerAt u p → r.peerPort = 14 - p → w = linkTrained { r with port := p } u →
      (chipId w < peerAt w p → exec (.portRetrain p r) s = .next (propose (earliestT w (tideNow w)) (.portReturn p) none w)) ∧
      (peerAt w p ≤ chipId w → exec (.portRetrain p r) s = .next w)) ∧
    (∀ r u, (s.port p).state = .detoured ∨ (s.port p).state = .cut → (s.port p).retrained = false →
      u = (advanceTicks ((s.port p).downTick + 10000000) s).mapPort p (fun q => { q with retrained := true }) →
      (r.lanesOk = false → exec (.portRetrain p r) s = .next (linkFault p 0 u)) ∧
      (r.lanesOk = true → r.peerChip ≠ peerAt u p ∨ r.peerPort ≠ 14 - p →
        exec (.portRetrain p r) s = .next (linkFault p 1 (u.mapPort p fun q => { q with wiring := true })))) ∧
    (∀ r, (s.port p).state = .active → exec (.portRetrain p r) s = .next s) ∧
    (∀ r, (s.port p).retrained = true → exec (.portRetrain p r) s = .next s) ∧
    (∀ (hd : FlitHdr) (cls fseq : Nat), (receive hd 4 false 1 s).2 = false →
      exec (.fseqDeliveredAck hd cls fseq) s = .next (receive hd 4 false 1 s).1) ∧
    (∀ (hd : FlitHdr) (cls fseq : Nat) (v w : State), receive hd 4 false 1 s = (v, true) → p = myPort v hd.orig →
      ((v.port p).returning = true → (v.port p).heldFlows.contains (cls, fseq) = true → w = releaseFlow p cls v) →
      ((v.port p).returning = false ∨ (v.port p).heldFlows.contains (cls, fseq) = false → w = v) →
      (chipId w < hd.orig ∨ flowHeld w hd.orig 4 = false → exec (.fseqDeliveredAck hd cls fseq) s = .next (ackPast hd 4 w)) ∧
      (hd.orig ≤ chipId w → flowHeld w hd.orig 4 = true → exec (.fseqDeliveredAck hd cls fseq) s = .next w)) ∧
    (∀ cls held u, held = ((s.port p).heldMsgs.filter fun m => m.cls == cls) →
      u = s.mapPort p (fun r => { r with
        heldFlows := r.heldFlows.filter fun h => h.1 != cls, heldMsgs := r.heldMsgs.filter fun m => m.cls != cls }) →
      ((u.port p).heldFlows.isEmpty = false → releaseFlow p cls s = held.foldl (fun s m => sendMsg m s) u) ∧
      ((u.port p).heldFlows.isEmpty = true → releaseFlow p cls s = held.foldl (fun s m => sendMsg m s)
        (announce (setPortState p .active (u.mapPort p fun r => { r with returning := false, detour := none }))))))

/-- Flits: a control flit that is good returns credits and releases what is acknowledged, the port sends what it now may, and each is answered
by one of its own (the model's choice, log 37); the eighth bad one in a row takes the port down, and
so does the eighth replay of one sequence number, with REPLAY_STORM; a flit whose CRC fails is asked for again in the next control flit, and
more than 1,000 in a second are CRC_RATE, as more than 10^6 corrected codewords are FEC_RATE. A control flit, a bad flit: nothing where the
link does not run. A message that comes in is delivered in the order of its flow, once; behind a link-down marker and out of the link's
order it is discarded, and one of another incarnation is counted. A chip between answers a probe, passes it on over its active port, or
says that it cannot reach; a detoured flit waits for its turn on the port onward. (R321, R322, R323, R325, R344, R345, R349.) -/
def Obligations.FlitsAreReplayed : Prop :=
  (∀ (p : Nat) (l : Lcf) (s x : State), (s.port p).linkUp = true → x = countFec p l.corrected s →
    (l.corrected = 0 → x = s) ∧
    (∀ ts, l.corrected ≠ 0 → ts = (s.clk.ticks, l.corrected) :: ((s.port p).fecTimes.filter fun y => decide (s.clk.ticks < y.1 + 100000000)) →
      ((ts.map fun y => y.2).sum ≤ 1000000 → x = s.mapPort p fun r => { r with fecTimes := ts }) ∧
      (1000000 < (ts.map fun y => y.2).sum → x = linkFault p 4 (s.mapPort p fun r => { r with fecTimes := [] }))) ∧
    (∀ n u, l.crcOk = false → n = (x.port p).lcfFails + 1 → u = x.mapPort p (fun r => { r with lcfFails := n }) →
      (n < 8 → exec (.linkControlFlit p l) s = .next (sendLcf p u)) ∧ (8 ≤ n → exec (.linkControlFlit p l) s = .next (linkDownAt p u))) ∧
    (∀ left u, l.crcOk = true → left = ((x.port p).replay.filter fun f => !seqBefore f.lseq l.acked) →
      u = x.mapPort p (fun r => { r with
        lcfFails := 0, replay := left, credits := l.credits,
        ackTick := if left.length < (x.port p).replay.length then x.clk.ticks else (x.port p).ackTick }) →
      (l.replay = none → exec (.linkControlFlit p l) s = .next (sendLcf p (pumpPort p u))) ∧
      (∀ q n v, l.replay = some q → n = (if (u.port p).replayed.1 = q then (u.port p).replayed.2 + 1 else 1) →
        v = u.mapPort p (fun r => { r with replayed := (q, n), replays := sat32 (r.replays + 1) }) →
        (n < 8 → exec (.linkControlFlit p l) s = .next (sendLcf p (pumpPort p (v.emit (.peer (peerAt v p) pmResend [p, q] []))))) ∧
        (8 ≤ n → exec (.linkControlFlit p l) s = .next (linkDownAt p (linkFault p 5 v))))) ∧
    (sendLcf p s = (s.mapPort p fun r => { r with wantReplay := false }).emit (.lcf p {
      crcOk := true, acked := (s.port p).rxCount, replay := if (s.port p).wantReplay then some (s.port p).rxSeq else none,
      credits := (s.port p).freed })) ∧
    (∀ ts u, ts = s.clk.ticks :: ((s.port p).crcTimes.filter fun t => decide (s.clk.ticks < t + 100000000)) →
      u = s.mapPort p (fun r => { r with wantReplay := true, crcTimes := ts }) →
      (ts.length ≤ 1000 → exec (.flitCrcFail p) s = .next u) ∧
      (1000 < ts.length → exec (.flitCrcFail p) s = .next (linkFault p 3 (u.mapPort p fun r => { r with crcTimes := [] })))))
  ∧ (∀ (p src dest : Nat) (hd : FlitHdr) (s v : State),
    ((s.port p).linkUp = false → (∀ l, exec (.linkControlFlit p l) s = .next s) ∧ exec (.flitCrcFail p) s = .next s) ∧
    ((s.port p).txq = [] → pumpPort p s = s) ∧ (pickTx s p = none → pumpPort p s = s) ∧
    (∀ n f, pickTx s p = some f → pumpTx p (n + 1) s = pumpTx p n (sendFlit p f s)) ∧
    ((receive hd 4 false 1 s).2 = false → exec (.detourProbe hd src dest) s = .next (receive hd 4 false 1 s).1) ∧
    (receive hd 4 false 1 s = (v, true) →
      (dest = chipId v → exec (.detourProbe hd src dest) s = .next (ackPast hd 4 (ctrlTo hd.orig pmProbeAnswer [src, dest] [] v))) ∧
      (dest ≠ chipId v → (v.port (myPort v dest)).state = .active → (v.port (myPort v dest)).linkUp = true →
        exec (.detourProbe hd src dest) s = .next (ackPast hd 4 (ctrlTo dest pmProbe [src, dest] [] v))) ∧
      (dest ≠ chipId v → (v.port (myPort v dest)).state ≠ .active ∨ (v.port (myPort v dest)).linkUp = false →
        exec (.detourProbe hd src dest) s = .next (ackPast hd 4 (ctrlTo src pmUnreachable [dest] [] v)))) ∧
    (∀ flit cls ch, s.boot.inReset = false → (s.port hd.port).linkUp = true → hd.lseq = (s.port hd.port).rxSeq →
      cls = fieldB flit 0 1 % 8 → ch = channelOf cls ((fieldB flit 0 1).testBit 6) →
      v = s.mapPort hd.port (fun r => { r with rxSeq := (r.rxSeq + 1) % 65536, rxCount := (r.rxCount + 1) % 65536 }) →
      ((v.port (myPort v dest)).state = .active → (v.port (myPort v dest)).linkUp = true →
        exec (.detourFlit hd dest flit) s = .next (enqueue (myPort v dest) {
          ch := ch, cls := cls, isle := fieldB flit 1 1 % 32, dest := dest,
          left := 1, begun := true, again := some hd.fseq, fwd := some hd.port, msg := .peer dest pmForward [hd.orig, dest] flit } v)) ∧
      ((v.port (myPort v dest)).state ≠ .active ∨ (v.port (myPort v dest)).linkUp = false →
        exec (.detourFlit hd dest flit) s = .next (freeCredit hd.port (creditOf ch true) 1 v))) ∧
    (∀ flit, s.boot.inReset = true ∨ (s.port hd.port).linkUp = false ∨ hd.lseq ≠ (s.port hd.port).rxSeq →
      exec (.detourFlit hd dest flit) s = .next s))
  ∧ (∀ (hd : FlitHdr) (cls n had before : Nat) (reply : Bool) (s t : State), s.boot.inReset = false → hd.orig ≠ chipId s →
    had = ((s.port hd.port).rxSeq + 65536 - hd.lseq) % 65536 → before = (fseqNext t hd.orig cls + 65536 - hd.fseq) % 65536 →
    t = s.mapPort hd.port (fun r => { r with rxSeq := (hd.lseq + n) % 65536, rxCount := (r.rxCount + (n - had)) % 65536 }) →
    ((s.port hd.port).linkUp = false ∨ n ≤ had → receive hd cls reply n s = (s, false)) ∧
    ((s.port hd.port).linkUp = true → had < n → incOf t hd.orig ≠ hd.inc → receive hd cls reply n s = (freeCredit hd.port (channelOf cls reply)
      (n - had) (t.mapPort hd.port fun r => { r with stale := sat32 (r.stale + (n - had)) }), false)) ∧
    ((s.port hd.port).linkUp = true → had < n → incOf t hd.orig = hd.inc →
      (before < n → receive hd cls reply n s = (freeCredit hd.port (channelOf cls reply) (n - had) (t.mapArch fun a =>
        { a with fseqRx := pSet (hd.orig, cls) ((hd.fseq + n) % 65536) a.fseqRx }), true)) ∧
      (n ≤ before → before < 32768 → receive hd cls reply n s = (freeCredit hd.port (channelOf cls reply) (n - had) t, false)) ∧
      (n ≤ before → 32768 ≤ before → receive hd cls reply n s = (t.mapPort hd.port fun r => { r with rxHeld := r.rxHeld ++
        [{ orig := hd.orig, cls := cls, fseq := hd.fseq, ch := channelOf cls reply, left := n - had }] }, false))))

/-- Window requests: one that passes its checks is done and answered, one to an isle that resets or from one that is fenced is refused as
fenced, one to a window that is not open for it is refused, and one that its link, its incarnation or its flow discards does nothing more.
What comes back: the data of a read is written where its task asked for it and the request is over, an acknowledgement ends a write, a
refusal faults the task that sent it with reason 2, a fenced one is lost. A part of a collective is a
window write: one that passes is written, noted under its isle, collective, boundary, round and position, acknowledged, and lets the task
that waits for it go on; else it is answered as a window write is. (R325, R335, R336, R337, R338, R341.) -/
def Obligations.WindowRequestsAnswered : Prop :=
  (∀ (m : WinMsg) (s u v : State) (o : Nat), o = m.hdr.orig → u = (receive m.hdr 0 false (flitsOf m.bytes) s).1 → v = (receive m.hdr 1 false 1 s).1 →
    ((receive m.hdr 0 false (flitsOf m.bytes) s).2 = false → exec (.windowWrite m) s = .next u) ∧
    ((receive m.hdr 1 false 1 s).2 = false → exec (.windowRead m) s = .next v) ∧
    ((receive m.hdr 0 false (flitsOf m.bytes) s).2 = true → u.halt = none →
      (∀ w, windowCheck u o m.srcIsle m.dstIsle m.hdr.inc m.window m.offset m.bytes 0 m.kv = .ok w →
        exec (.windowWrite m) s = .next (ackPast m.hdr 0 (replyTo o 0 m.dstIsle pmWriteAck [chipId u, m.tag] []
          (windowPut m.dstIsle m.window m.offset w (plainBytes m.data) u)))) ∧
      ((u.isle m.dstIsle).state = .quiescing ∨ (u.isle m.dstIsle).state = .scrubbing ∨ u.arch.fenced.contains (o, m.srcIsle) = true →
        exec (.windowWrite m) s = .next (ackPast m.hdr 0 (refuseReq o 0 m.dstIsle m.window m.tag 2 u))) ∧
      ((u.isle m.dstIsle).state = .enabled → u.arch.fenced.contains (o, m.srcIsle) = false → aGet (u.isle m.dstIsle).windows m.window = none →
        exec (.windowWrite m) s = .next (ackPast m.hdr 0 (refuseReq o 0 m.dstIsle m.window m.tag 1 u)))) ∧
    ((receive m.hdr 1 false 1 s).2 = true → v.halt = none →
      (∀ w, windowCheck v o m.srcIsle m.dstIsle m.hdr.inc m.window m.offset m.bytes 1 m.kv = .ok w →
        exec (.windowRead m) s = .next (ackPast m.hdr 1 (replyTo o 1 m.dstIsle pmReadData [chipId v, m.tag]
          (readBytes v m.dstIsle w.view (winAddr (v.isle m.dstIsle) w m.offset) m.bytes) v))) ∧
      ((v.isle m.dstIsle).state = .quiescing ∨ (v.isle m.dstIsle).state = .scrubbing ∨ v.arch.fenced.contains (o, m.srcIsle) = true →
        exec (.windowRead m) s = .next (ackPast m.hdr 1 (refuseReq o 1 m.dstIsle m.window m.tag 2 v))) ∧
      ((v.isle m.dstIsle).state = .enabled → v.arch.fenced.contains (o, m.srcIsle) = false → aGet (v.isle m.dstIsle).windows m.window = none →
        exec (.windowRead m) s = .next (ackPast m.hdr 1 (refuseReq o 1 m.dstIsle m.window m.tag 1 v)))))
  ∧ (∀ (hd : FlitHdr) (cls tag : Nat) (d : Bytes) (s u v : State),
    u = (receive hd 1 true (flitsOf d.length) s).1 → v = (receive hd cls true 1 s).1 →
    ((receive hd 1 true (flitsOf d.length) s).2 = false → exec (.readData hd tag d) s = .next u) ∧
    ((receive hd cls true 1 s).2 = false → exec (.writeAcknowledgement hd cls tag) s = .next v ∧
      (∀ code, exec (.windowRefusal hd cls tag code) s = .next v)) ∧
    ((receive hd 1 true (flitsOf d.length) s).2 = true →
      (findReq u hd.orig tag = none → exec (.readData hd tag d) s = .next (ackPast hd 1 u)) ∧
      (∀ r view a, findReq u hd.orig tag = some r → r.read = some (view, a) → exec (.readData hd tag d) s =
        .next (ackPast hd 1 (reqDone r (writeProg r.isle view (coreOf u r.isle r.unit) a (plainBytes d) u))))) ∧
    ((receive hd cls true 1 s).2 = true →
      (findReq v hd.orig tag = none → exec (.writeAcknowledgement hd cls tag) s = .next (ackPast hd cls v) ∧
        (∀ code, exec (.windowRefusal hd cls tag code) s = .next (ackPast hd cls v))) ∧
      (∀ r, findReq v hd.orig tag = some r → r.read = none → exec (.writeAcknowledgement hd cls tag) s = .next (ackPast hd cls (reqDone r v))) ∧
      (∀ r w t, findReq v hd.orig tag = some r → w = endReqs (fun q => q.tag == r.tag) v → r.unit ≠ 0xFFFF →
        ((aGet (w.isle r.isle).units r.unit).bind fun x => x.running.find? fun t => t.id == r.task) = some t →
        exec (.windowRefusal hd cls tag 1) s = .next (ackPast hd cls (taskFault r.isle r.unit t 2 w))) ∧
      (∀ r, findReq v hd.orig tag = some r → r.unit = 0xFFFF →
        exec (.windowRefusal hd cls tag 1) s = .next (ackPast hd cls (copyFailed r (endReqs (fun q => q.tag == r.tag) v)))) ∧
      (∀ r, findReq v hd.orig tag = some r → exec (.windowRefusal hd cls tag 2) s = .next (ackPast hd cls (peerLost r true 4 v))) ∧
      (∀ r code, findReq v hd.orig tag = some r → code ≠ 1 → code ≠ 2 →
        exec (.windowRefusal hd cls tag code) s = .next (ackPast hd cls (peerLost r false 3 v)))))
  ∧ (∀ (m : PartMsg) (s t : State) (o : Nat), o = m.hdr.orig → t = (receive m.hdr 2 false (flitsOf m.data.length) s).1 →
    ((receive m.hdr 2 false (flitsOf m.data.length) s).2 = false → exec (.collectPart m) s = .next t) ∧
    ((receive m.hdr 2 false (flitsOf m.data.length) s).2 = true → t.halt = none →
      (∀ w u v x, windowCheck t o m.srcIsle m.srcIsle m.hdr.inc m.window m.offset m.data.length 0 false = .ok w →
        u = windowPut m.srcIsle m.window m.offset w (plainBytes m.data) t →
        x = { isle := m.srcIsle, collId := m.collId, boundary := m.boundary, round := m.round, pos := m.position, shard := m.shard, data := m.data } →
        v = u.mapArch (fun a => { a with parts := a.parts ++ [x] }) →
        exec (.collectPart m) s = .next (ackPast m.hdr 2 (pumpColl m.srcIsle (replyTo o 2 m.srcIsle pmWriteAck [chipId v, m.tag] [] v)))) ∧
      (windowCheck t o m.srcIsle m.srcIsle m.hdr.inc m.window m.offset m.data.length 0 false = .fenced →
        exec (.collectPart m) s = .next (ackPast m.hdr 2 (refuseReq o 2 m.srcIsle m.window m.tag 2 t))) ∧
      (windowCheck t o m.srcIsle m.srcIsle m.hdr.inc m.window m.offset m.data.length 0 false = .notOpen →
        exec (.collectPart m) s = .next (ackPast m.hdr 2 (refuseReq o 2 m.srcIsle m.window m.tag 1 t)))))

/-- Announcements of other chips: with a departure the chip no longer counts as aligned or ready, so that the tide goes to the lowest aligned
chip left, and it is lost, but one whose leave is agreed leaves at the next boundary (the model's choice, log 134); an incarnation with the
chips that its ports reach, a fence raised or taken back, a step done or failed, an accepted run, an admission list and a rewind are noted; a
fence fails the steps that use the isle there, and all 32 fences of a chip are its departure. (R55, R297, R302, R325, R331, R332, R338,
R346.) -/
def Obligations.PeersAnnounce : Prop :=
  (∀ (h : FlitHdr) (chip k dg n : Nat) (s v : State), chip = h.orig → v = (receive h 4 false 1 s).1 →
    ((receive h 4 false 1 s).2 = false →
      exec (.depart h) s = .next v ∧ (∀ up, exec (.fence h k up) s = .next v) ∧ exec (.stepDone h k dg n) s = .next v ∧
      exec (.stepFail h k dg n) s = .next v ∧ (∀ mode t, exec (.progRunAccept h k dg mode t) s = .next v) ∧
      (∀ a len b, exec (.replicaRewind h k a len b) s = .next v)) ∧
    ((receive h 4 false 1 s).2 = true →
      (∀ u, chip ≠ chipId v → u = peerReports (myPort v chip) false false v →
        (v.arch.leavers.contains chip = false → exec (.depart h) s = .next (ackPast h 4 (chipDeparts chip u)) ∧
          (v.tide.aligned = true → u.tide.leader ≤ chipId v)) ∧
        (v.arch.leavers.contains chip = true →
          exec (.depart h) s = .next (ackPast h 4 (v.mapArch fun a => { a with left := insNat chip a.left })))) ∧
      (chip = chipId v → exec (.depart h) s = .next v) ∧
      (∀ u, chip ≠ chipId v →
        u = failFenced chip k (v.mapArch fun a => { a with
          fenced := if a.fenced.contains (chip, k) then a.fenced else (chip, k) :: a.fenced }) →
        (((List.range 32).all fun k => u.arch.fenced.contains (chip, k)) = false → exec (.fence h k true) s = .next (ackPast h 4 u)) ∧
        (((List.range 32).all fun k => u.arch.fenced.contains (chip, k)) = true →
          exec (.fence h k true) s = .next (ackPast h 4 (chipDeparts chip u)))) ∧
      (chip ≠ chipId v → exec (.fence h k false) s = .next (ackPast h 4 (v.mapArch fun a =>
        { a with fenced := a.fenced.filter (· != (chip, k)) }))) ∧
      ((v.isle k).invs = [] → failFenced chip k v = v) ∧
      (((v.isle k).invs.any (Inv.isOf (v.isle k) dg n)) = true →
        exec (.stepDone h k dg n) s = .next (ackPast h 4 (v.mapIsle k fun r => { r with
          invs := r.invs.map fun i => if i.isOf r dg n then { i with doneFrom := insNat chip i.doneFrom } else i })) ∧
        exec (.stepFail h k dg n) s = .next (ackPast h 4 (v.mapIsle k fun r => { r with
          invs := r.invs.map fun i => if i.isOf r dg n then { i with failFrom := aSet chip 2 i.failFrom } else i }))) ∧
      (((v.isle k).invs.any (Inv.isOf (v.isle k) dg n)) = false → invToCome (v.isle k) dg n = true →
        exec (.stepDone h k dg n) s = .next (ackPast h 4 (v.mapArch fun a => { a with early := (k, dg, n, chip, false) :: a.early })) ∧
        exec (.stepFail h k dg n) s = .next (ackPast h 4 (v.mapArch fun a => { a with early := (k, dg, n, chip, true) :: a.early }))) ∧
      (∀ mode t, exec (.progRunAccept h k dg mode t) s = .next (ackPast h 4 (v.mapArch fun a => { a with
        accepts := (a.accepts.filter fun r => !(r.isle == k && r.chip == chip && r.digest == dg)) ++
          [{ isle := k, chip := chip, digest := dg, mode := mode, tick := t }] }))) ∧
      (∀ a len b, exec (.replicaRewind h k a len b) s = .next (ackPast h 4 (v.mapArch fun x => { x with rewinds := x.rewinds ++ [(k, a, len, b)] })))))
  ∧ (∀ (h : FlitHdr) (s u v : State) (links : Nat), u = recordInc h.orig h.inc s → v = (receive h 4 false 1 u).1 →
    (s.boot.inReset = false → h.orig ≠ chipId s → (s.port h.port).linkUp = true →
      ((receive h 4 false 1 u).2 = true → exec (.incarnationAnnounce h links) s = .next (ackPast h 4 (v.mapArch fun a =>
        { a with links := aSet h.orig links a.links }))) ∧
      ((receive h 4 false 1 u).2 = false → exec (.incarnationAnnounce h links) s = .next v)) ∧
    (s.boot.inReset = true ∨ h.orig = chipId s ∨ (s.port h.port).linkUp = false → exec (.incarnationAnnounce h links) s = .next s) ∧
    (aGet u.arch.incs h.orig = some h.inc))
  ∧ (∀ (h : FlitHdr) (k dg : Nat) (es : List Admitted) (s v : State) (n : Nat),
    n = 1 + (es.flatMap fun e => e.frames.map fun f => f.length).sum / 240 → v = (receive h 4 false n s).1 →
    ((receive h 4 false n s).2 = false → exec (.admissionList h k dg es) s = .next v) ∧
    ((receive h 4 false n s).2 = true → exec (.admissionList h k dg es) s = .next (ackPast h 4 (v.mapArch fun a => { a with
      admissions := (a.admissions.filter fun r => !(r.1 == k && r.2.1 == dg && r.2.2.1 == h.orig)) ++ [(k, dg, h.orig, es)] }))))

/-- The entropy source: a window of samples that fails a health test restarts the source and counts the restart, with how much of the buffer
is left free (the model's choice, log 67); start-up tests that pass let a service whose known answers hold run, ones that fail during a hold
test again while the 20 ms allow; the hold that ends unserved fails the service, with ENTROPY's bits and what waited refused; a running
service reseeds its generator from three conditioned blocks and counts anew; a challenge lives 60 seconds. 81 equal samples in a row fail
the one test, 840 of 1,024 that equal the first the other. (R407, R418, R419, R423.) -/
def Obligations.EntropyServiceMoves : Prop :=
  (∀ s : State,
    (∀ sm v w x u, s.standby.vstbyUp = true → s.ent.testing = false → s.ent.state ≠ .failed → s.ent.state ≠ .restarting →
      rctFails sm = true ∨ aptFails sm = true → w = (if rctFails sm then recordFault dEntropy 0 0 {} [] s else s) →
      x = (if aptFails sm then recordFault dEntropy 0 1 {} [] w else w) → drawNat x = (v, u) →
      exec (.healthTestFail sm) s = .next (u.mapEnt fun e => { e with
        state := .restarting, testing := true, failTick := u.clk.ticks, testTick := u.clk.ticks, restarts := e.restarts + 1,
        buffer := e.buffer.take (v % (e.buffer.length + 1)) })) ∧
    (∀ sm, rctFails sm = false → aptFails sm = false → exec (.healthTestFail sm) s = .next s) ∧
    (∀ sm, s.ent.state = .failed → exec (.healthTestFail sm) s = .next s) ∧
    (∀ good bad u, rctFails good = false → aptFails good = false → rctFails bad = true ∨ aptFails bad = true →
      s.standby.vstbyUp = true → s.ent.testing = true → u = advanceTicks (s.ent.testTick + 101200) s →
      (s.ent.state = .unstarted → s.ent.kat = true → exec (.startupTestDone good) s = .next (pumpAll cmdTable (serviceRuns u))) ∧
      (s.ent.state = .unstarted → s.ent.kat = false →
        exec (.startupTestDone good) s = .next (pumpAll cmdTable (u.mapEnt fun e => { e with testing := false }))) ∧
      (∀ w, s.ent.state = .unstarted → w = (if u.boot.inReset then recordFault dEntropy 0 2 {} [] u else u) →
        exec (.startupTestDone bad) s = .next (pumpAll cmdTable (w.mapEnt fun e =>
          { e with state := .restarting, failTick := u.clk.ticks, testTick := u.clk.ticks }))) ∧
      (s.ent.state = .restarting → u.clk.ticks ≤ s.ent.failTick + 2000000 → s.ent.kat = true →
        exec (.startupTestDone good) s = .next (pumpAll cmdTable (serviceRuns (advanceTicks (u.clk.ticks + 38400) u)))) ∧
      (s.ent.state = .restarting → u.clk.ticks ≤ s.ent.failTick + 2000000 →
        exec (.startupTestDone bad) s = .next (pumpAll cmdTable (u.mapEnt fun e => { e with testTick := u.clk.ticks }))) ∧
      (s.ent.state = .restarting → s.ent.failTick + 2000000 < u.clk.ticks →
        exec (.startupTestDone bad) s = .next (pumpAll cmdTable (serviceFails u))) ∧
      (s.ent.state = .failed → exec (.startupTestDone good) s = .next (pumpAll cmdTable (restartDone true u)) ∧
        exec (.startupTestDone bad) s = .next (pumpAll cmdTable (restartDone false u)))) ∧
    (∀ sm, s.ent.testing = false → exec (.startupTestDone sm) s = .next (pumpAll cmdTable s)) ∧
    (s.ent.state = .restarting → exec .entropyHoldExpiry s = .next (serviceFails s)) ∧
    (s.ent.state ≠ .restarting → exec .entropyHoldExpiry s = .next s) ∧
    (s.ent.state = .running → 65536 ≤ s.ent.calls → exec .drbgReseed s = .next (seedDrbg s)) ∧
    (∀ u, s.ent.state = .running → s.ent.calls < 65536 → u = advanceTicks (s.ent.seedTick + 100000000) s →
      exec .drbgReseed s = .next (seedDrbg u)) ∧
    ((seedDrbg s).ent.calls = 0 ∧ (seedDrbg s).ent.seedTick = s.clk.ticks ∧
      (seedDrbg s).ent.drbg = some (drbgSeed s.ent.drbg (drawBlocks 3 s).1) ∧ (seedDrbg s).clk.freeCtr = s.clk.freeCtr + 3) ∧
    (∀ x, s.sec.challenge = some x →
      exec .lcChallengeExpiry s = .next ((advanceTicks (x.2 + 6000000000) s).mapSec fun c => { c with challenge := none })) ∧
    (s.sec.challenge = none → exec .lcChallengeExpiry s = .next s))
  ∧ (∀ (l r : List Bool) (b : Bool), rctFails (l ++ List.replicate 81 b ++ r) = true) ∧
    (∀ l : List Bool, l.length = 1024 → (aptFails l = true ↔ 840 ≤ l.countP fun b => some b == l.head?))

/-- JTAG: BYPASS and IDCODE answer always, with the number of the stepping; the boundary register is sampled and driven only where it is open:
in reset, or where the life-cycle state or an unlocked debug scope gives it. The standby controller: with VSTBY up it answers the MCTP
control messages and gives and clears its record, and an alert is acknowledged with the sequence number that is current; what firmware
tells it answers only while firmware runs, else the code 1; with VSTBY down nothing answers. (R411, R447, R460, R461, R462, R481.) -/
def Obligations.SidebandsAnswer : Prop :=
  (∀ s : State,
    (exec .bypass s = .next ((s.mapSec fun c => { c with jtagIr := 0 }).emit (.jtag 0))) ∧
    (s.fuses.stepping = 0xA1 → exec .idcode s = .next ((s.mapSec fun c => { c with jtagIr := 1 }).emit (.jtag 0x1D01098B))) ∧
    (s.fuses.stepping ≠ 0xA1 → exec .idcode s = .next ((s.mapSec fun c => { c with jtagIr := 1 }).emit (.jtag 0x2D01098B))) ∧
    (s.pins.perstN = false → exec .samplePreload s = .next
      ((s.mapSec fun c => { c with jtagIr := 2, boundary := pinLevels s }).emit (.jtag (pinLevels s)))) ∧
    (s.pins.perstN = false → exec .extest s = .next ((List.range 12).foldl (fun s i => s.emit (.strobe (16 + i) (s.sec.boundary.testBit i)))
      (s.mapSec fun c => { c with jtagIr := 3 }))) ∧
    (s.pins.perstN = true → jtagFull s = false → exec .samplePreload s = .next s ∧ exec .extest s = .next s) ∧
    (∀ sc, s.boot.inReset = false → s.sec.lc ≠ 0 → s.sec.lc ≠ 1 → s.sec.lc ≠ 4 → s.sec.unlocked = some sc → sc.testBit 0 = false →
      jtagFull s = false))
  ∧ (∀ (eid seq d i : Nat) (s : State),
    (s.standby.vstbyUp = true →
      (exec (.setEndpointId eid) s = .next ((s.mapStandby fun r => { r with eid := eid }).emit (.mctp ([0, 0] ++ natLe 1 eid ++ [0])))) ∧
      (exec .getEndpointId s = .next (s.emit (.mctp ([0] ++ natLe 1 s.standby.eid ++ [0, 0])))) ∧
      (∀ v u, drawNat s = (v, u) → exec .getMctpVersionSupport s = .next (u.emit (.mctp ([0, 1] ++ natLe 4 v)))) ∧
      (exec .getMessageTypeSupport s = .next (s.emit (.mctp [0, 1, 0x7E]))) ∧
      (exec .getStandbyRecord s = .next (s.emit (.mctp (0 :: standbyBytes s.standby)))) ∧
      (exec .clearStandbyRecord s = .next ((s.mapStandby fun r =>
        { r with brownout := false, strapUnstable := false, fatal := none, recFresh := false }).emit (.mctp [0]))) ∧
      (seq = s.faults.seq → exec (.mctpAlertAck seq) s = .next ((s.mapPins fun p => { p with alertLow := alertHeld s }).emit (.mctp [0]))) ∧
      (seq ≠ s.faults.seq → exec (.mctpAlertAck seq) s = .next (s.emit (.mctp [1])))) ∧
    (s.standby.vstbyUp = true → s.boot.fwRunning = true → s.boot.inReset = false →
      (exec .getFaultSummary s = .next (s.emit (.mctp (0 :: (natLe 4 (fltSummary s.faults) ++ natLe 4 s.faults.seq ++
        natLe 8 (fltCore s.faults) ++ natLe 4 (fltPorts s.faults) ++ natLe 4 (devBoot s 0)))))) ∧
      (exec (.getFaultWord d i) s = .next (s.emit (.mctp (0 :: (natLe 4 (instOf s.faults d i).word ++ natLe 4 (instOf s.faults d i).gen ++
        captureBytes (instOf s.faults d i).cap))))) ∧
      (exec .getTelemetry s = .next (s.emit (.mctp (0 :: telemetryBytes s)))) ∧
      (i < s.boot.cfg.regulators.length →
        exec (.getRegulator i) s = .next (s.emit (.mctp (0 :: s.power.tele.regulators.getD i [])))) ∧
      (s.boot.cfg.regulators.length ≤ i → exec (.getRegulator i) s = .next (s.emit (.mctp [1])))) ∧
    (s.standby.vstbyUp = true → s.boot.fwRunning = false →
      exec .getFaultSummary s = .next (s.emit (.mctp [1])) ∧ exec (.getFaultWord d i) s = .next (s.emit (.mctp [1])) ∧
      exec .getTelemetry s = .next (s.emit (.mctp [1])) ∧ exec (.getRegulator i) s = .next (s.emit (.mctp [1]))) ∧
    (s.standby.vstbyUp = false →
      exec (.setEndpointId eid) s = .next s ∧ exec .getEndpointId s = .next s ∧ exec .getMessageTypeSupport s = .next s ∧
      exec .getStandbyRecord s = .next s ∧ exec .clearStandbyRecord s = .next s ∧ exec (.mctpAlertAck seq) s = .next s ∧
      exec .getFaultSummary s = .next s ∧ exec (.getFaultWord d i) s = .next s ∧ exec .getTelemetry s = .next s ∧
      exec (.getRegulator i) s = .next s))

/-- Tasks issue in the order of their queue: the task that an engine takes is the first of its unit's window and of the engine's class, on a
unit that is not stopped of a chip that is READY, on a core whose turn is the isle's; a fenced one finds nothing running on its unit, a
WAIT finds its counter at VALUE, and no other slot of the core runs a task on the engine; no unit that the dispatcher offers issue to
before it, round robin after the unit that issued last, can take it. Issued, it leaves the window and runs, and the dispatcher goes on
after its unit. A window is refilled in list order, and holds no more queue entries than the unit has. (R235, R236, R237, R238, R240.) -/
def Obligations.TasksIssueInOrder : Prop :=
  (∀ (k u cls : Nat) (t : Task) (s : State), front s k u cls = some t →
    (unitOf s k u).queue.head? = some t ∧ dClass t.desc = cls ∧ isReady s = true ∧ (unitOf s k u).stopped = false ∧ poolTurn s k u = true ∧
    (dFence t.desc = true → (unitOf s k u).running = []) ∧
    (cls = 12 → fieldB t.desc 20 4 ≤ ctrOf s k u (bitsOf (fieldB t.desc 16 1) 0 6)) ∧
    (cls ≠ 10 → cls ≠ 11 → cls ≠ 12 → ∀ x r y, (x, r) ∈ (s.isle k).units → coreOf s k x = coreOf s k u → y ∈ r.running →
      ∀ g ∈ enginesOf y.desc, g ∉ enginesOf t.desc) ∧
    (cls = 10 → ∀ c r, coreOf s k u = some c → rauOf s c = some r → (s.rau r).queue.length < 256) ∧
    (∀ l, l = ((s.isle k).units.map fun x => x.1).filter (fun x => coreOf s k x == coreOf s k u) →
      (∀ c v, coreOf s k u = some c → aGet (s.isle k).turn c = some v →
        ∀ x ∈ ((l.filter (fun x => decide (v < x)) ++ l.filter fun x => decide (x ≤ v)).takeWhile fun x => x != u), readyTask s k x = none) ∧
      (∀ c, coreOf s k u = some c → aGet (s.isle k).turn c = none → ∀ x ∈ l.takeWhile (fun x => x != u), readyTask s k x = none)) ∧
    (∀ r, aGet (s.isle k).units u = some r → k < s.isles.length →
      (unitOf (issueTask k u t s) k u).queue = r.queue.drop 1 ∧ (unitOf (issueTask k u t s) k u).running = r.running ++ [t] ∧
      (∀ c, coreOf s k u = some c → aGet ((issueTask k u t s).isle k).turn c = some u) ∧
      (∀ x, x ≠ u → unitOf (issueTask k u t s) k x = unitOf s k x)))
  ∧ (∀ x : TUnit, x.refill.tasks = x.tasks ∧ x.refill.running = x.running ∧
    (entriesOf (x.running ++ x.queue) ≤ x.window → entriesOf (x.refill.running ++ x.refill.queue) ≤ x.window) ∧
    (∀ t, x.refill.later.head? = some t → x.window < entriesOf (x.refill.running ++ x.refill.queue) + entriesOf [t]))

/-- MOVE, MATMUL, ATTEND and verify do their own work when they issue. MOVE: with one repeat between memories of the chip, each element of the
destination takes the source's, transposed where the descriptor says so; a side outside its task's reach faults with reason 2, and on A1 a
column stride of 0 outside an operand buffer with reason 5; more repeats follow one another. MATMUL: tiles are loaded at issue and each row
of sums is written in turn; with RING it holds its tile and moves by its counters; a nest whose ranges are not the task's faults with
reason 2. ATTEND and verify: entries in table order, and the first that faults ends the task with its reason. An engine with nothing to
take does nothing. (R208, R241, R242, R244, R252, R258, R259, R267, R273.) -/
def Obligations.EngineTasksRun : Prop :=
  ∀ (k u : Nat) (t : Task) (s v : State) (w : Site), v = issueTask k u t s → w = siteOf v k u t →
    (∀ m src dst n vals, front s k u 1 = some t → m = moveOf t.desc → src = m.srcBlock 0 → dst = m.dstBlock 0 → m.rep = 0 → m.perEn = false →
      ¬ (v.fuses.stepping = 0xA1 ∧ ((m.scs = 0 ∧ spaceOf m.src ≠ 0) ∨ (m.dcs = 0 ∧ spaceOf m.dst ≠ 0))) →
      spaceOf src.base ≠ 5 → spaceOf dst.base ≠ 5 →
      n = w.noteReads (src.order.map fun x => (src.addr x.1 x.2, m.esz)) v →
      vals = dst.order.map (fun x => w.read n (if m.transpose then src.addr x.2 x.1 else src.addr x.1 x.2) m.esz) →
      (w.blockOk v src = true → w.blockOk v dst = true → exec (.move k u) s = .next
        (w.scatter ((dst.order.zip vals).flatMap fun x => x.2.mapIdx fun i b => (dst.addr x.1.1 x.1.2 + i, b)) n)) ∧
      ((w.blockOk v src && w.blockOk v dst) = false → exec (.move k u) s = .next (taskFault k u t 2 v))) ∧
    (∀ m, front s k u 1 = some t → m = moveOf t.desc → v.fuses.stepping = 0xA1 →
      (m.scs = 0 ∧ spaceOf m.src ≠ 0) ∨ (m.dcs = 0 ∧ spaceOf m.dst ≠ 0) → exec (.move k u) s = .next (taskFault k u t 5 v)) ∧
    (∀ (m : MoveD) (f : Nat → State), front s k u 1 = some t → m = moveOf t.desc →
      ¬ (v.fuses.stepping = 0xA1 ∧ ((m.scs = 0 ∧ spaceOf m.src ≠ 0) ∨ (m.dcs = 0 ∧ spaceOf m.dst ≠ 0))) → f 0 = v →
      (∀ i, f (i + 1) = countRepeat k u t m ((waitTags (moveOnce w t m i (f i)) k u t.id).filter fun x =>
        !(waitTags (f i) k u t.id).contains x) (moveOnce w t m i (f i))) →
      exec (.move k u) s = .next (f (m.rep + 1))) ∧
    (∀ m l n tiles bad (f : Nat → State), front s k u 2 = some t → hasExt t.desc = false → m = matOf t.desc → m.ring = false → l = stages t.desc →
      n = addPressure k (fun p => { p with mat := p.mat + matSteps m l }) (w.noteReads (matFixedReads m l) v) →
      tiles = loadTiles w m n → bad = w.anyPoison n (matFixedReads m l) → f 0 = n →
      (∀ r, f (r + 1) = w.write (obAddr 2 (m.outOff + r * outRow l m.n)) (matFinishRow w m l tiles bad r r (f r)).1
        (matFinishRow w m l tiles bad r r (f r)).2) →
      exec (.matmul k u) s = .next (countLoads k u t m m.passes (f m.rows))) ∧
    (∀ m l n (ring : RingRun), front s k u 2 = some t → hasExt t.desc = false → m = matOf t.desc → m.ring = true → l = stages t.desc →
      n = addPressure k (fun p => { p with mat := p.mat + matSteps m l }) (w.noteReads (matFixedReads m l) v) →
      ring = { tile := (w.bytes n (m.tileAt 0).1 (m.tileAt 0).2).1, scales := (w.bytes n (m.scalesAt 0).1 (m.scalesAt 0).2).1,
               poison := w.anyPoison n (matFixedReads m l) } →
      exec (.matmul k u) s = .next (countLoads k u t m 1
        (pumpRings k (mapTask k u t.id (fun t => { t with ring := some ring, busy := true }) n)))) ∧
    (∀ m e l, front s k u 2 = some t → hasExt t.desc = true → m = matOf t.desc → e = nestOf t.ext → l = stages t.desc →
      (((nestRanges m e l ++ nestScratch m e l).all fun r => w.ok v r.1 r.2) = true → exec (.matmul k u) s = .next (matNest k u t v)) ∧
      (((nestRanges m e l ++ nestScratch m e l).all fun r => w.ok v r.1 r.2) = false →
        exec (.matmul k u) s = .next (taskFault k u t 2 v))) ∧
    (∀ a, front s k u 3 = some t → a = attOf t.desc → a.subop = 0 →
      (∀ r, attEnv w a v = .error r → exec (.attend k u) s = .next (taskFault k u t r v)) ∧
      (∀ e n (f : Nat → State × Nat) j, attEnv w a v = .ok (e, n) → f 0 = (addPressure k (fun p => { p with att := p.att + 24 }) n, 0) →
        j ≤ a.entries → (∀ i, i < j → attEntry w t e i (f i) = .ok (f (i + 1))) →
        (j = a.entries → exec (.attend k u) s = .next (f j).1) ∧
        (∀ r, j < a.entries → attEntry w t e j (f j) = .error r → exec (.attend k u) s = .next (taskFault k u t r (f j).1)))) ∧
    (∀ a (f : Nat → State) j, front s k u 3 = some t → a = attOf t.desc → a.subop = 1 →
      f 0 = addPressure k (fun p => { p with att := p.att + 16 + 4 * a.entries }) v →
      j ≤ a.entries → (∀ i, i < j → verifyEntry w a i (f i) = .ok (f (i + 1))) →
      (j = a.entries → exec (.verify k u) s = .next (f j)) ∧
      (∀ r, j < a.entries → verifyEntry w a j (f j) = .error r → exec (.verify k u) s = .next (taskFault k u t r (f j)))) ∧
    (front s k u 1 = none → exec (.move k u) s = .next s) ∧ (front s k u 2 = none → exec (.matmul k u) s = .next s) ∧
    (front s k u 3 = none → exec (.attend k u) s = .next s ∧ exec (.verify k u) s = .next s)

/-- A row task writes row after row: COMBINE the pairwise sum of its parts through its stages, or the join of their statistics, VCHAIN its
chain of operations on each row; a range that is not the task's faults it with reason 2 and writes nothing. (R241, R245, R246, R248.) -/
def Obligations.RowTasksWrite : Prop :=
  ∀ (k u : Nat) (t : Task) (s v : State) (w : Site), v = issueTask k u t s → w = siteOf v k u t →
    (∀ c ins ra rb ro n, front s k u 5 = some t → c = chainOf' t.desc → ra = c.cols * fmtBytes c.afmt → rb = c.cols * fmtBytes c.bfmt →
      ro = chainRow t.desc → ins = [(c.a, c.rows * ra)] ++ (if chainUsesB t.desc then [(c.b, c.rows * rb)] else []) → n = w.noteReads ins v →
      (((ins ++ [(c.out, c.rows * ro)]).all fun r => w.ok v r.1 r.2) = true →
        exec (.vchain k u) s = .next ((List.range c.rows).foldl (fun s r => w.write (c.out + r * ro) (chainOut c (chainOps t.desc)
          ((chainOps t.desc).foldl (fun v word => chainOp c.consts (if chainUsesB t.desc then elemsF c.bfmt (w.read s (c.b + r * rb) rb) else []) word v)
            { x := elemsF c.afmt (w.read s (c.a + r * ra) ra) })) s) n)) ∧
      (((ins ++ [(c.out, c.rows * ro)]).all fun r => w.ok v r.1 r.2) = false → exec (.vchain k u) s = .next (taskFault k u t 2 v))) ∧
    (∀ c ins, front s k u 4 = some t → c = combOf t.desc → c.stats = true →
      ins = (List.range c.parts).map (fun p => (c.base + p * c.stride, c.rows * 16)) →
      (((ins ++ [(c.out, c.rows * 16)]).all fun r => w.ok v r.1 r.2) = true →
        exec (.combine k u) s = .next ((List.range c.rows).foldl (fun s r =>
          let row := (List.range c.parts).map fun p => w.read s (c.base + p * c.stride + r * 16) 16
          let b := combineStats (row.map fun x => (x.map fun y => y.1, x.any fun y => y.2))
          w.write (c.out + 16 * r) (flagBytes b.2 b.1) s) (w.noteReads ins v))) ∧
      (((ins ++ [(c.out, c.rows * 16)]).all fun r => w.ok v r.1 r.2) = false → exec (.combine k u) s = .next (taskFault k u t 2 v))) ∧
    (∀ c l ins ro (f : Nat → State), front s k u 4 = some t → c = combOf t.desc → c.stats = false → l = stages t.desc → ro = outRow l c.cols →
      ins = (List.range c.parts).map (fun p => (c.base + p * c.stride, c.rows * (4 * c.cols))) →
      f 0 = w.noteReads (ins ++ stageReads l c.rows c.cols) v →
      (∀ r y, y = runStages w l r (combineRow ((List.range c.parts).map fun p =>
        elemsF 6 (w.read (f r) (c.base + p * c.stride + r * (4 * c.cols)) (4 * c.cols)))) (f r) →
        f (r + 1) = w.write (c.out + r * ro) (rowBytes l y.1) y.2) →
      (((ins ++ [(c.out, c.rows * ro)]).all fun r => w.ok v r.1 r.2) = true → exec (.combine k u) s = .next (f c.rows)) ∧
      (((ins ++ [(c.out, c.rows * ro)]).all fun r => w.ok v r.1 r.2) = false → exec (.combine k u) s = .next (taskFault k u t 2 v))) ∧
    (front s k u 4 = none → exec (.combine k u) s = .next s) ∧ (front s k u 5 = none → exec (.vchain k u) s = .next s)

/-- Counters: SIGNAL adds to the counter it names and is complete; WAIT is complete once its counter has the value, and holds until then; a
task that is over leaves its unit, whose window is refilled; a task that completes bumps the counter it names when done, and a counter
that would pass 2^32 - 1 faults the task with reason 4. Conflicts count in strict mode only, those of an address that a bank of the
lagoons or of the shelf serves; the addresses are the row's operand by log 79. (R145, R146, R236, R238, R239, R240, R241.) -/
def Obligations.TaskCounters : Prop :=
  ∀ (k u : Nat) (t : Task) (s : State) (done : State → State),
    done = (fun v => announceDone k
      (if dDone t.desc then taskBump k u t (u / 64 * 64 + dDoneSlot t.desc) (dDoneCtr t.desc) (dDoneInc t.desc) v else v)) →
    (∀ f c n, front s k u 11 = some t → f = fieldB t.desc 16 2 → c = u / 64 * 64 + bitsOf f 6 6 → n = fieldB t.desc 18 2 →
      (∀ v, bumpCtr k c (bitsOf f 0 6) n (popTask k u s) = some v → exec (.signal k u) s = .next (done (pumpRings k v))) ∧
      (bumpCtr k c (bitsOf f 0 6) n (popTask k u s) = none →
        exec (.signal k u) s = .next (announceDone k (taskFault k u t 4 (popTask k u s))))) ∧
    (front s k u 12 = some t → exec (.wait k u) s = .next (done (popTask k u s))) ∧
    (front s k u 11 = none → exec (.signal k u) s = .next s) ∧
    ((unitOf s k u).queue.head? = some t → dClass t.desc = 12 → ctrOf s k u (bitsOf (fieldB t.desc 16 1) 0 6) < fieldB t.desc 20 4 →
      exec (.wait k u) s = .next s) ∧
    (∀ id cs, ((unitOf s k u).running.find? fun t => t.id == id) = some t → pastReady s = true → taskOver t = true →
      exec (.taskComplete k u id cs) s = .next (done
        (mapUnit k u (fun x => ({ x with running := x.running.filter (fun t => t.id != id) } : TUnit).refill) (noteConflicts k u t cs s)))) ∧
    (∀ id cs, ((unitOf s k u).running.find? fun t => t.id == id) = some t → taskOver t = false → exec (.taskComplete k u id cs) s = .next s) ∧
    (∀ id cs, ((unitOf s k u).running.find? fun t => t.id == id) = none → exec (.taskComplete k u id cs) s = .next s) ∧
    (∀ tu c n, ctrOf s k tu c + n ≤ 0xFFFFFFFF → ∃ v, bumpCtr k tu c n s = some v ∧ taskBump k u t tu c n s = pumpRings k v ∧
      (k < s.isles.length → ctrOf v k tu c = ctrOf s k tu c + n)) ∧
    (∀ tu c n, 0xFFFFFFFF < ctrOf s k tu c + n → bumpCtr k tu c n s = none ∧ taskBump k u t tu c n s = taskFault k u t 4 s) ∧
    (∀ cs, (s.isle k).strictRel = false → noteConflicts k u t cs s = s) ∧
    (∀ cs, (s.isle k).strictRel = true → k < s.isles.length → (s.isle k).conflicts ≤ 0xFFFFFFFF →
      ((noteConflicts k u t cs s).isle k).conflicts = min ((s.isle k).conflicts +
        (cs.filter fun a => ((Machine.translate s k (u / 64) (coreOf s k u) a).bind fun p => bankAt s p).isSome).length) 0xFFFFFFFF)

/-- Operations on ciphertexts. NTT, INTT, ADD, SUB, PADD, PMUL, CMUL, MUL, RELIN, ROTATE, RESCALE, DROP and ENCODE are each the SEAL task
whose operation field has its number. At the front of its unit, with the ranges that its shape names its isle's and in the shelf (SPACE 0x2
or 0x3), it leaves its window, runs, and joins the end of the queue of the RAU of its core, which the other tasks keep their places in; no
byte of host memory, lagoon, shelf or HBM changes by that. Where no RAU serves it ends at once with E_FAULT and no job run; a range elsewhere
faults it with reason 2. With no such task at the front nothing happens. (R432, R433, R436, R438, R441.) -/
def Obligations.SealTasksRun : Prop :=
  ∀ (k u : Nat) (s : State),
    (∀ (r : Nat) (t : Task) (v x : State) (w : Site), front s k u 10 = some t → v = issueTask k u t s → w = siteOf v k u t →
      (sealInIsle v w (sealOf t.desc) = true ∧ rauOf v w.core = some r ∧
        x = mapTask k u t.id (fun t => { t with busy := true }) (v.mapRau r fun x => { x with queue := x.queue ++ [sealTaskOf w t] })) ∨
      (sealInIsle v w (sealOf t.desc) = true ∧ rauOf v w.core = none ∧
        x = failSeal (2 * (w.core / 32) + w.core % 8 / 4) (sealTaskOf w t) none (statusCode .eFault) 0 v) ∨
      (sealInIsle v w (sealOf t.desc) = false ∧ x = taskFault k u t 2 v) →
      ((sealOf t.desc).op = 1 → exec (.ntt k u) s = .next x) ∧
      ((sealOf t.desc).op = 2 → exec (.intt k u) s = .next x) ∧
      ((sealOf t.desc).op = 3 → exec (.add k u) s = .next x) ∧
      ((sealOf t.desc).op = 4 → exec (.sub k u) s = .next x) ∧
      ((sealOf t.desc).op = 5 → exec (.padd k u) s = .next x) ∧
      ((sealOf t.desc).op = 6 → exec (.pmul k u) s = .next x) ∧
      ((sealOf t.desc).op = 7 → exec (.cmul k u) s = .next x) ∧
      ((sealOf t.desc).op = 8 → exec (.mul k u) s = .next x) ∧
      ((sealOf t.desc).op = 9 → exec (.relin k u) s = .next x) ∧
      ((sealOf t.desc).op = 10 → exec (.rotate k u) s = .next x) ∧
      ((sealOf t.desc).op = 11 → exec (.rescale k u) s = .next x) ∧
      ((sealOf t.desc).op = 12 → exec (.drop k u) s = .next x) ∧
      ((sealOf t.desc).op = 13 → exec (.encode k u) s = .next x)) ∧
    (∀ (r : Nat) (t : Task) (v x : State) (w : Site), front s k u 10 = some t → v = issueTask k u t s → w = siteOf v k u t →
      sealInIsle v w (sealOf t.desc) = true → rauOf v w.core = some r → r < s.raus.length →
      x = mapTask k u t.id (fun t => { t with busy := true }) (v.mapRau r fun x => { x with queue := x.queue ++ [sealTaskOf w t] }) →
      (x.rau r).queue = (s.rau r).queue ++ [sealTaskOf w t] ∧ (∀ i, i ≠ r → x.rau i = s.rau i) ∧ x.mems.host = s.mems.host ∧
      x.mems.lagoon = s.mems.lagoon ∧ x.mems.shelf = s.mems.shelf ∧ x.mems.hbm = s.mems.hbm ∧ x.funcs = s.funcs ∧ x.faults = s.faults ∧
      (k < s.isles.length → (aGet (s.isle k).units u).isSome = true → ∃ y ∈ (unitOf x k u).running, y.id = t.id ∧ y.busy = true)) ∧
    (∀ (t : Task) (v : State) (w : Site), v = issueTask k u t s → w = siteOf v k u t →
      (∃ x ∈ sealAddrs (sealOf t.desc) ++ [((sealOf t.desc).out, 64)], spaceOf x.1 ≠ 2 ∧ spaceOf x.1 ≠ 3) →
      sealInIsle v w (sealOf t.desc) = false) ∧
    (front s k u 10 = none →
      exec (.ntt k u) s = .next s ∧ exec (.intt k u) s = .next s ∧ exec (.add k u) s = .next s ∧
      exec (.sub k u) s = .next s ∧ exec (.padd k u) s = .next s ∧ exec (.pmul k u) s = .next s ∧
      exec (.cmul k u) s = .next s ∧ exec (.mul k u) s = .next s ∧ exec (.relin k u) s = .next s ∧
      exec (.rotate k u) s = .next s ∧ exec (.rescale k u) s = .next s ∧ exec (.drop k u) s = .next s ∧
      exec (.encode k u) s = .next s)

/-- The RAUs take jobs. SEAL_JOB_ADMIT drops what no longer runs; with a task that waits on a retired RAU it ends that with E_FAULT. No job is
admitted while one runs, while the count stands still, or with no task whose turn it is. The task whose turn it is first passes its header
checks: one that fails ends with the check's status and no job run; its ranges must be its isle's, or it faults with reason 2; a poisoned
line in them ends it with E_POISON; else its plan of jobs and its headers are kept. Its next job is admitted where its bound and 25 ticks
more fit the sub-slot. At its bound SEAL_JOB_END counts the job for its isle and its bound for the isle's pressure. A job whose operands
stand runs: a poisoned line, a residue at or above its prime or a value that ENCODE refuses ends the operation with its jobs so far in the
record; else the limbs it makes are stored, intermediate ones in the task, and the last job ends the operation with S_OK. A job of a task
that is gone only leaves the queue; a mismatch writes no result and ends the operation with E_SEAL_CHECK. (R433, R434, R437, R438, R440,
R441.) -/
def Obligations.SealJobsRun : Prop :=
  (∀ (r : Nat) (s u : State), u = s.mapRau r (fun x => { x with queue := x.queue.filter (sealLive s) }) →
    (4 ≤ r ∨ pastReady s = false → exec (.sealJobAdmit r) s = .next s) ∧
    (r < 4 → pastReady s = true →
      (∀ t, unitState u 5 r = 2 → ((u.rau r).queue.find? fun t => !t.started) = some t →
        exec (.sealJobAdmit r) s = .next (failSeal r t none (statusCode .eFault) 0 u)) ∧
      ((unitState u 5 r = 2 → ((u.rau r).queue.find? fun t => !t.started) = none) →
        (counting u = false ∨ ((u.rau r).queue.any fun t => t.admitted.isSome) = true ∨ rauTurn u (runnable u (u.rau r)) = none →
          exec (.sealJobAdmit r) s = .next u) ∧
        (∀ t, counting u = true → ((u.rau r).queue.any fun t => t.admitted.isSome) = false → rauTurn u (runnable u (u.rau r)) = some t →
          (∀ job rest, t.started = true → t.plan = job :: rest →
            (tideNow u + job.bound + 25 ≤ (subslotAt u).2 → exec (.sealJobAdmit r) s = .next
              (mapSeal r t (fun x => { x with plan := rest, admitted := some (tideNow u), job := some job })
                (u.mapRau r fun x => { x with lastIsle := some t.isle }))) ∧
            ((subslotAt u).2 < tideNow u + job.bound + 25 → exec (.sealJobAdmit r) s = .next u)) ∧
          (∀ x v, t.started = false → v = startSeal r t u →
            (v.rau r).queue.find? (fun x => x.isle == t.isle && x.unit == t.unit && x.task == t.task) = some x →
            exec (.sealJobAdmit r) s = .next (if x.started then admitJob r x v else v)) ∧
          (∀ v, t.started = false → v = startSeal r t u →
            (v.rau r).queue.find? (fun x => x.isle == t.isle && x.unit == t.unit && x.task == t.task) = none →
            exec (.sealJobAdmit r) s = .next v)))))
  ∧ (∀ (r : Nat) (t : SealTask) (s : State) (w : Site), w = sealSite s t →
    (sealOp s t = none → startSeal r t s = failSeal r t none (statusCode .eBadarg) 0 s) ∧
    (∀ o, sealOp s t = some o →
      (∀ st, sealChecks o s w = some (1, st) → startSeal r t s = failSeal r t none st 0 s) ∧
      (∀ n st, sealChecks o s w = some (n + 2, st) → startSeal r t s = failSeal r t (some o) st 0 s) ∧
      (∀ ok lines, sealChecks o s w = none → ok = ([o.ranges.1, o.ranges.2.1, o.ranges.2.2].all fun x => w.ok s x.1 x.2) →
        lines = readPoison s t.isle (o.reads s w) →
        (ok = true → lines = [] → startSeal r t s = mapSeal r t (fun x => { x with
          started := true, plan := o.plan, headA := readBytes s w.k w.h o.d.a 64, headB := readBytes s w.k w.h o.d.b 64 }) s) ∧
        (ok = true → lines ≠ [] → startSeal r t s = failSeal r t (some o) (statusCode .ePoison) 0 (poisonInv t.isle t.prog t.inv lines s)) ∧
        (∀ x, ok = false → ((unitOf s t.isle t.unit).running.find? fun x => x.id == t.task) = some x →
          startSeal r t s = taskFault t.isle t.unit x 2
            (s.mapRau r fun x => { x with queue := x.queue.filter fun y => !(y.unit == t.unit && y.isle == t.isle && y.task == t.task) })))))
  ∧ (∀ (r b : Nat) (s v x y : State) (t t' : SealTask) (job : SealJob), ((s.rau r).queue.find? fun t => t.admitted.isSome) = some t →
    pastReady s = true → t.admitted = some b → t.job = some job →
    v = (if tideNow s < b + job.bound then advanceCount (b + job.bound) s else s) →
    x = addPressure t.isle (fun p => { p with rau := p.rau + job.bound })
      (v.mapIsle t.isle fun r => { r with sealed := { r.sealed with jobs := sat32 (r.sealed.jobs + 1) } }) →
    t' = { t with ended := t.ended + 1, admitted := none, job := none } → y = mapSeal r t (fun _ => t') x →
    (sealLive x t = false → ∀ mm, exec (.sealJobEnd r mm) s = .next (x.mapRau r fun r =>
      { r with queue := r.queue.filter fun y => y.admitted.isNone })) ∧
    (sealLive x t = true → exec (.sealJobEnd r true) s = .next (sealMismatch r t (sealOp x t) x)) ∧
    (sealLive x t = true → sealOp y t' = none →
      exec (.sealJobEnd r false) s = .next (failSeal r t' none (statusCode .eBadarg) (t.ended + 1) y)) ∧
    (∀ o w lines, sealLive x t = true → sealOp y t' = some o → w = sealSite y t' → lines = readPoison y t.isle (o.jobSpans y w job.work) →
      (lines ≠ [] → exec (.sealJobEnd r false) s = .next
        (failSeal r t' (some o) (statusCode .ePoison) (t.ended + 1) (poisonInv t.isle t.prog t.inv lines y))) ∧
      (lines = [] → o.jobOk y w t' job.work = false ∨ o.jobResults y w t' job.work = none → exec (.sealJobEnd r false) s = .next
        (failSeal r t' (some o) (statusCode .eBadarg) (t.ended + 1) (scribbleBody t' o y))) ∧
      (∀ rs, lines = [] → o.jobOk y w t' job.work = true → o.jobResults y w t' job.work = some rs →
        (t.plan = [] → exec (.sealJobEnd r false) s = .next (endSeal r t' (settleDepth o o.result) 0 (t.ended + 1) (rs.foldl (o.store w) y))) ∧
        (t.plan ≠ [] → exec (.sealJobEnd r false) s = .next
          (mapSeal r t' (fun x => { x with temps := rs.foldl (keepTemps o.n) x.temps }) (rs.foldl (o.store w) y))))))
  ∧ (∀ (r : Nat) (mm : Bool) (s : State), ((s.rau r).queue.find? fun t => t.admitted.isSome) = none ∨ pastReady s = false →
    exec (.sealJobEnd r mm) s = .next s)
  ∧ (∀ (o : SealOp) (s : State) (w : Site) (t : SealTask) (q : Nat) (x y z : SealLoc) (c m : Nat) (a b : Limb),
    m = min 16384 (o.n - c * 16384) → a = o.load s w t x (c * 16384) m → b = o.load s w t y (c * 16384) m →
    o.jobResults s w t (.point .copy q x y z c) = some [(z, c * 16384, a)] ∧
    (∃ l, o.jobResults s w t (.point .add q x y z c) = some [(z, c * 16384, l)] ∧ l.length = m ∧
      ∀ i, i < m → l.getD i 0 = (a.getD i 0 + b.getD i 0) % o.q q) ∧
    (∃ l, o.jobResults s w t (.point .sub q x y z c) = some [(z, c * 16384, l)] ∧ l.length = m ∧
      ∀ i, i < m → l.getD i 0 = (a.getD i 0 + o.q q - b.getD i 0 % o.q q) % o.q q) ∧
    (∃ l, o.jobResults s w t (.point .mul q x y z c) = some [(z, c * 16384, l)] ∧ l.length = m ∧
      ∀ i, i < m → l.getD i 0 = a.getD i 0 * b.getD i 0 % o.q q))
  ∧ (∀ (o : SealOp) (w : Site) (s : State) (i j c0 : Nat) (l : Limb),
    o.store w s (.out i j, c0, l) = writeBytes w.k w.h (o.d.out + 64 + (i * (o.result.level + 1) + j) * (8 * o.n) + 8 * c0)
      (l.flatMap fun x => natLe 8 x) s ∧ (∀ c, o.store w s (.tmp c i j, c0, l) = s))
  ∧ (∀ (r status jobs : Nat) (t : SealTask) (h : SealHdr) (d : SealD) (s u v : State), d = sealOf t.desc →
    u = writeBytes t.isle (t.unit / 64) d.recAt (natLe 2 status ++ natLe 2 0 ++ natLe 4 jobs ++ natLe 1 r ++ List.replicate 7 0) s →
    v = endSeal r t h status jobs s →
    (inSealed u t.isle (t.unit / 64) d.out 64 = true → v.mems = u.mems) ∧
    (inSealed u t.isle (t.unit / 64) d.out 64 = false →
      v.mems = (writeBytes t.isle (t.unit / 64) d.out (sealHdrBytes { h with status := status }) u).mems) ∧
    (∀ i, t ∉ (v.rau i).queue) ∧ (∀ y ∈ (unitOf v t.isle t.unit).running, y.id = t.task → y.busy = false))

/-- The striped view is a view of the same bytes: offset x of it is the byte that the segment view names at isle extent x >> 26, segment c mod
64 and slice offset (c >> 6) × 4,096 + (y mod 4,096), with y = x mod 2^26 and c = y >> 12, and 4 KiB further on it is the same place of
the next segment's slice, round after round of the 64. (R135.) -/
def Obligations.StripedView : Prop :=
  ∀ (k h x y c n : Nat) (core : Option Nat) (s : State), x < 2 ^ 34 → y = x % 2 ^ 26 → c = y / 2 ^ 12 → n = (c + 1) % 64 →
    Machine.translate s k h core (3 * 2 ^ 44 + x) =
      Machine.translate s k h core (2 * 2 ^ 44 + c % 64 * 2 ^ 38 + x / 2 ^ 26 * 2 ^ 20 + (c / 64 * 4096 + y % 4096)) ∧
    (y + 4096 < 2 ^ 26 → Machine.translate s k h core (3 * 2 ^ 44 + (x + 4096)) =
      Machine.translate s k h core (2 * 2 ^ 44 + n * 2 ^ 38 + x / 2 ^ 26 * 2 ^ 20 + ((c + 1) / 64 * 4096 + y % 4096)))

/-- PACE_QUERY: from the physical function it takes a core's number, below 64; from a virtual function an index into the list of its isle's
own dedicated cores, and any other index is refused with E_DENIED; the pace of a core that is not in service is 0. (R71.) -/
def Obligations.PaceQueryIndex : Prop :=
  ∀ (c : MbxArg) (n : Nat) (s : State), n = fieldB (bodyOf c) 0 2 →
    (c.fn = 0 → Accepted specPaceQuery c s → n < 64 ∧ exec (.paceQuery c) s = .next (answered specPaceQuery c .sOk
      { w0 := if unitServes s 0 n then s.tide.paces.getD n 0 else 0, w1 := vcoreNow s, w2 := sensorReading s n } id s)) ∧
    (c.fn ≠ 0 → Accepted specPaceQuery c s → ∃ core, (dedicated (s.isle c.fn))[n]? = some core ∧
      exec (.paceQuery c) s = .next (answered specPaceQuery c .sOk
        { w0 := if unitServes s 0 core then s.tide.paces.getD core 0 else 0, w1 := vcoreNow s, w2 := sensorReading s core } id s)) ∧
    (c.fn ≠ 0 → (dedicated (s.isle c.fn))[n]? = none → s.boot.phase = 0x09 → s.halt = none → check1 (entered specPaceQuery c s) (queued specPaceQuery c s) = none →
      checkAll (entered specPaceQuery c s) c.fn (some specPaceQuery) (queued specPaceQuery c s) = some (.eDenied, 0))

/-- The overrun limit: at its boundary ISLE_QOS_SET sets the limit to the value it carries, from 1 to 16, and a value of 0 keeps the limit
that was; no other isle's limit changes; a value above 16 does not pass its checks. (R382.) -/
def Obligations.OverrunLimitIsSet : Prop :=
  ∀ (c : MbxArg) (s : State) (ok : State → Nat → Cmd → Bool) (fn b : Nat) (e : Cmd),
    (16 < fieldB (bodyOf c) 2 1 → ¬ Accepted specIsleQosSet c s) ∧
    (∀ k v, k = fieldB e.payload 0 1 → v = fieldB e.payload 2 1 → k < s.isles.length → Due specIsleQosSet ok fn e s →
      (1 ≤ v → ((boundaryCmds cmdTable ok fn b s).isle k).overrunLimit = v) ∧
      (v = 0 → ((boundaryCmds cmdTable ok fn b s).isle k).overrunLimit = (s.isle k).overrunLimit) ∧
      (∀ j, j ≠ k → ((boundaryCmds cmdTable ok fn b s).isle j).overrunLimit = (s.isle j).overrunLimit))

/-- FAULT_CLEAR: no class F bit of any view goes, no bit is set in any view, and no unit's retirement changes; from a virtual function only
the view of its own isle can change, and from the physical function only the view it names: its own view of the chip, or isle 0's. (R449.) -/
def Obligations.FaultClearKeeps : Prop :=
  ∀ (c : MbxArg) (s t : State), Accepted specFaultClear c s → exec (.faultClear c) s = .next t →
    t.units = s.units ∧
    (∀ d i b, fatalBit d b = true → b < 32 → ((instOf t.faults d i).word.testBit b = (instOf s.faults d i).word.testBit b ∧
      ∀ k, (instOf (t.isle k).faults d i).word.testBit b = (instOf (s.isle k).faults d i).word.testBit b)) ∧
    (∀ d i b, ((instOf t.faults d i).word.testBit b = true → (instOf s.faults d i).word.testBit b = true) ∧
      ∀ k, (instOf (t.isle k).faults d i).word.testBit b = true → (instOf (s.isle k).faults d i).word.testBit b = true) ∧
    (c.fn ≠ 0 ∨ fieldB (bodyOf c) 2 1 ≠ 0 → t.faults = s.faults) ∧
    (∀ k, (c.fn = 0 ∧ fieldB (bodyOf c) 2 1 = 0) ∨ k ≠ c.fn → (t.isle k).faults = (s.isle k).faults)

/-- Refusals wait for their Q: a command that one of checks 1 to 7 stops, outside LIMBO, is outstanding as a refusal that is due at Q =
(floor(d / 6,400) + 2) times 6,400 of its doorbell's d where its class is quantized (opcodes 0x0200 to 0x0AFF, and every E_DENIED),
whatever stopped it; any other is answered at once. Nothing else happens. (R110.) -/
def Obligations.RefusalsWaitForQ : Prop :=
  ∀ (op : Nat) (spec : CmdSpec) (c : MbxArg) (i : Instr) (s : State) (st : Status) (d : Nat),
    cmdTable op = some spec → RowOf op c i → fnAlive s c.fn = true → copiesNow (s.func c.fn) c.slot = true → c.fn < s.funcs.length → Quiet s → s.boot.limbo = none →
    checkAll (entered spec c s) c.fn (some spec) (queued spec c s) = some (st, d) →
    ((0x0200 ≤ op ∧ op ≤ 0x0AFF ∨ st = .eDenied) → spec.peerMark = false → spec.peer (entered spec c s) c.fn (bodyOf c) = false →
      exec i s = .next (setPhase c.fn (s.func c.fn).nextSeq (.refusal ((quantNow s / 6400 + 2) * 6400) st d) (entered spec c s))) ∧
    (¬ (0x0200 ≤ op ∧ op ≤ 0x0AFF ∨ st = .eDenied) →
      exec i s = .next (refuseAt (tideNow s) c.fn (s.func c.fn).nextSeq st d (entered spec c s)))

/-- Peer-checked commands use Q = (floor(d / 6,400) + 4) times 6,400: what a check or a peer's answer refuses is due at that Q, an answer
after Q - 6,400 counts for nothing, and a command that has none by then completes at Q with E_PEER_LOST. (R111.) -/
def Obligations.PeerChecksEndByQ : Prop :=
  (∀ (op : Nat) (spec : CmdSpec) (c : MbxArg) (i : Instr) (s : State) (q : Nat), cmdTable op = some spec → RowOf op c i →
    q = (quantNow s / 6400 + 4) * 6400 →
    (∀ st d, fnAlive s c.fn = true → copiesNow (s.func c.fn) c.slot = true → c.fn < s.funcs.length → Quiet s → s.boot.limbo = none → 0x0200 ≤ op → op ≤ 0x0AFF →
      spec.peerMark = true ∨ spec.peer (entered spec c s) c.fn (bodyOf c) = true →
      checkAll (entered spec c s) c.fn (some spec) (queued spec c s) = some (st, d) →
      exec i s = .next (setPhase c.fn (s.func c.fn).nextSeq (.refusal q st d) (entered spec c s))) ∧
    (spec.accepted c.fn (queued spec c s) (entered spec c s) = entered spec c s → spec.peer (entered spec c s) c.fn (bodyOf c) = true → Accepted spec c s → exec i s = .next
      ((setPhase c.fn (s.func c.fn).nextSeq (.peer q) (entered spec c s)).emit
        (.peer 0xFF op [c.fn, c.hdr.tag] (spec.peerData (entered spec c s) c.fn (bodyOf c))))))
  ∧ (∀ (fn q status : Nat) (found : List (Nat × Nat × Nat)) (c : Cmd) (spec : CmdSpec) (st : Status) (s u : State),
    (s.func fn).cmds = [c] → c.phase = .peer q → (fn = 0 → s.sec.burns = []) →
    (quantNow s ≤ q - 6400 → statusOf status = some st → st ≠ .sOk → cmdTable c.hdr.opcode = some spec →
      exec (.peerAnswer fn c.hdr.tag status found) s =
        .next (setPhase fn c.seq (.refusal q st (if c.hdr.opcode = 0x0601 then (found.headD (0, 0, 0)).1 else 0)) s)) ∧
    (q - 6400 < quantNow s → statusOf status = some st → cmdTable c.hdr.opcode = some spec →
      exec (.peerAnswer fn c.hdr.tag status found) s = .next s) ∧
    (quantNow s ≤ q → (s.tide.aligned = true → s.tide.frozen = false ∧ q < 2 ^ 64) → s.boot.t2 ≤ s.clk.ticks →
      u = advanceTicks (s.clk.ticks + (q - quantNow s)) s →
      quantNow u = q ∧ exec (.refusalQuantum fn) s = .next (pumpAll cmdTable (refuseAt (if s.tide.aligned then q else 0) fn c.seq .ePeerLost 0 u))))

/-- TAP, KVAPPEND, KVFLUSH and COLLECT do their own work when they issue. TAP: the rows that its unit captured are finished, tap by tap, by the
accept records; a record outside its reach faults with reason 2, one with reserved bytes set with reason 3. KVAPPEND: each vector goes to
its provisional slot, with its token where the descriptor names some, and the entry holds what was written; slots beyond the entry's A or
no pool fault with reason 2, a layer or head that the pool lacks with reason 3. KVFLUSH: its layers of as many pages as are flushable go
to their STAGING pages, and the entry counts them; layers that the pool lacks fault with reason 3, and an entry that the batch lacks gets
nothing. COLLECT: a member's parts of round 0 go out, and the task is busy; on a chip whose shard is no member it faults with reason 3, on
ranges not its own with reason 2, and a poisoned contribution sends nothing. An engine with nothing to take does nothing. (R241, R277,
R278, R298, R299, R341, R452.) -/
def Obligations.KvAndCollectTasksRun : Prop :=
  ∀ (k u : Nat) (t : Task) (s v : State) (w : Site), v = issueTask k u t s → w = siteOf v k u t →
    (∀ acc (mine : TapRow → Bool) (tap : Nat → Tap) ids entries own n, front s k u 7 = some t → acc = fieldB t.desc 16 8 →
      mine = (fun r => r.prog == t.prog && r.inv == t.inv && r.unit == u && !r.fin) → tap = (fun i => (v.isle k).taps.getD i {}) →
      ids = ((List.range 8).filter fun i => (tap i).pendingRows.any mine) →
      entries = (ids.flatMap fun i => (tap i).pendingRows.filterMap fun r =>
        if mine r && r.node.isSome && acc != 0 then some (acc + 32 * r.entry, 32) else none) →
      own = (ids.flatMap fun i => ((tap i).pendingRows.filter mine).flatMap fun r =>
        let n := match r.node with | some j => (tap i).qn + j | none => r.pos - (tap i).qf
        [((tap i).view, (tap i).rowAt n, 4 * (tap i).kn), ((tap i).view, (tap i).recAt n, 8)]) →
      n = addPressure k (fun p => { p with att := p.att +
          (ids.map fun i => ((tap i).pendingRows.filter mine).length * ceilDiv (tap i).kn 128).sum })
        (poisonInv k t.prog t.inv ((own.flatMap fun r => progLines v k r.1 none r.2.1 r.2.2).foldl (fun l x => insNat x l) []) (w.noteReads entries v)) →
      ((entries.all fun r => w.ok v r.1 r.2) = false → exec (.tap k u) s = .next (taskFault k u t 2 v)) ∧
      ((entries.all fun r => w.ok v r.1 r.2) = true → (entries.all fun r => acceptOk (w.bytes v r.1 r.2).1) = false →
        exec (.tap k u) s = .next (taskFault k u t 3 v)) ∧
      ((entries.all fun r => w.ok v r.1 r.2) = true → (entries.all fun r => acceptOk (w.bytes v r.1 r.2).1) = true →
        exec (.tap k u) s = .next (ids.foldl (fun s i => finishTap w t i acc s) n))) ∧
    (∀ a, front s k u 8 = some t → a = appOf t.desc →
      (batchEntry v w a.entry = none → exec (.kvappend k u) s = .next (taskFault k u t 2 v)) ∧
      (∀ x, batchEntry v w a.entry = some x →
        (x.a < a.first + a.count ∨ (v.isle k).pool = none → exec (.kvappend k u) s = .next (taskFault k u t 2 v)) ∧
        (∀ g vecs rows (f : Nat → State), a.first + a.count ≤ x.a → (v.isle k).pool ≠ none → g = poolOf v k →
          vecs = ((List.range a.count).map fun i => (a.src + i * a.stride, g.vec)) →
          rows = (if a.tok = 0 then (0, 0) else (a.tok, 4 * a.count)) :: vecs →
          (g.layers ≤ a.layer ∨ g.heads ≤ a.head ∨ a.stride < g.vec → exec (.kvappend k u) s = .next (taskFault k u t 3 v)) ∧
          (a.layer < g.layers → a.head < g.heads → g.vec ≤ a.stride →
            ((rows.all fun r => w.ok v r.1 r.2) = false → exec (.kvappend k u) s = .next (taskFault k u t 2 v)) ∧
            ((rows.all fun r => w.ok v r.1 r.2) = true → f 0 = w.noteReads rows v → (∀ i, f (i + 1) = appendOne w a x i (f i)) →
              exec (.kvappend k u) s = .next (mapEntry w a.entry (fun e => { e with
                wrote := e.wrote ++ ((List.range a.count).map fun i => ((hostedShards (f a.count)).getD w.h 0, a.layer, a.first + i, a.head)).filter fun y =>
                  !e.wrote.contains y }) (f a.count))))))) ∧
    (∀ n l0 nl g, front s k u 9 = some t → n = fieldB t.desc 16 2 → l0 = fieldB t.desc 19 1 → nl = fieldB t.desc 20 2 → g = poolOf v k →
      (batchEntry v w n = none → exec (.kvflush k u) s = .next v) ∧
      (∀ x, batchEntry v w n = some x →
        (g.layers < l0 + nl → exec (.kvflush k u) s = .next (taskFault k u t 3 v)) ∧
        (l0 + nl ≤ g.layers → seqOf v k x.seq = none → exec (.kvflush k u) s = .next v) ∧
        (∀ q pages (f : Nat → State), l0 + nl ≤ g.layers → seqOf v k x.seq = some q → pages = min (fieldB t.desc 18 1) x.flushable →
          f 0 = poisonInv k t.prog t.inv (flushLines v k q l0 nl pages) v → (∀ j, f (j + 1) = flushPage k q l0 nl j (f j)) →
          exec (.kvflush k u) s = .next (mapEntry w n (fun e => { e with
            flushed := e.flushed ++ (List.range pages).map fun j => (x.f / pageTok g + j, l0, nl) }) (f pages))))) ∧
    (∀ (op : Nat) (i : Instr) (c : Coll), (op, i) ∈ ([(0, .allGather k u), (1, .reduceScatter k u), (2, .allReduce k u)] : List (Nat × Instr)) →
      c = collOfTask v k u t →
      (front s k u 6 = some t → fieldB t.desc 16 1 = op →
        (c.mem.contains c.shard = false → exec i s = .next (taskFault k u t 3 v)) ∧
        (c.mem.contains c.shard = true → (w.ok v c.d.src c.d.bytes && w.ok v c.d.dst c.outLen) = false →
          exec i s = .next (taskFault k u t 2 v)) ∧
        (∀ n b, c.mem.contains c.shard = true → (w.ok v c.d.src c.d.bytes && w.ok v c.d.dst c.outLen) = true →
          n = w.noteReads [(c.d.src, c.d.bytes)] v → b = (w.bytes v c.d.src c.d.bytes).1 →
          ((w.bytes v c.d.src c.d.bytes).2 = true → exec i s = .next n) ∧
          ((w.bytes v c.d.src c.d.bytes).2 = false → exec i s = .next (pumpColl k (beginRound w t c 0
            (fun q => if op = 0 then b else sliceB b (q * c.chunk) c.chunk)
            (mapTask k u t.id (fun t => { t with busy := true }) n)))))) ∧
      (front s k u 6 = none → exec i s = .next s)) ∧
    (front s k u 7 = none → exec (.tap k u) s = .next s) ∧ (front s k u 8 = none → exec (.kvappend k u) s = .next s) ∧
    (front s k u 9 = none → exec (.kvflush k u) s = .next s)
end

