-- ==== Sys2Proof/Laws/State.lean ====
section
/-! SUPPORT. One lemma per field per update of State, true by rfl, so that no later proof unfolds a record update. -/

namespace Sys2Proof.Machine

/-! ## mapClk -/

section
variable (f : Clk → Clk) (s : State)

@[simp] theorem State.mapClk_pending : (s.mapClk f).pending = s.pending := rfl
@[simp] theorem State.mapClk_clk : (s.mapClk f).clk = f s.clk := rfl
@[simp] theorem State.mapClk_pins : (s.mapClk f).pins = s.pins := rfl
@[simp] theorem State.mapClk_standby : (s.mapClk f).standby = s.standby := rfl
@[simp] theorem State.mapClk_power : (s.mapClk f).power = s.power := rfl
@[simp] theorem State.mapClk_boot : (s.mapClk f).boot = s.boot := rfl
@[simp] theorem State.mapClk_fw : (s.mapClk f).fw = s.fw := rfl
@[simp] theorem State.mapClk_tide : (s.mapClk f).tide = s.tide := rfl
@[simp] theorem State.mapClk_pcie : (s.mapClk f).pcie = s.pcie := rfl
@[simp] theorem State.mapClk_funcs : (s.mapClk f).funcs = s.funcs := rfl
@[simp] theorem State.mapClk_mems : (s.mapClk f).mems = s.mems := rfl
@[simp] theorem State.mapClk_units : (s.mapClk f).units = s.units := rfl
@[simp] theorem State.mapClk_isles : (s.mapClk f).isles = s.isles := rfl
@[simp] theorem State.mapClk_pool : (s.mapClk f).pool = s.pool := rfl
@[simp] theorem State.mapClk_subslots : (s.mapClk f).subslots = s.subslots := rfl
@[simp] theorem State.mapClk_faults : (s.mapClk f).faults = s.faults := rfl
@[simp] theorem State.mapClk_cay : (s.mapClk f).cay = s.cay := rfl
@[simp] theorem State.mapClk_quiesce : (s.mapClk f).quiesce = s.quiesce := rfl
@[simp] theorem State.mapClk_utc : (s.mapClk f).utc = s.utc := rfl
@[simp] theorem State.mapClk_unparkQ : (s.mapClk f).unparkQ = s.unparkQ := rfl
@[simp] theorem State.mapClk_stu : (s.mapClk f).stu = s.stu := rfl
@[simp] theorem State.mapClk_ports : (s.mapClk f).ports = s.ports := rfl
@[simp] theorem State.mapClk_arch : (s.mapClk f).arch = s.arch := rfl
@[simp] theorem State.mapClk_remaps : (s.mapClk f).remaps = s.remaps := rfl
@[simp] theorem State.mapClk_fuses : (s.mapClk f).fuses = s.fuses := rfl
@[simp] theorem State.mapClk_sec : (s.mapClk f).sec = s.sec := rfl
@[simp] theorem State.mapClk_ent : (s.mapClk f).ent = s.ent := rfl
@[simp] theorem State.mapClk_raus : (s.mapClk f).raus = s.raus := rfl
@[simp] theorem State.mapClk_halt : (s.mapClk f).halt = s.halt := rfl
@[simp] theorem State.mapClk_out : (s.mapClk f).out = s.out := rfl

end

/-! ## mapPins -/

section
variable (f : Pins → Pins) (s : State)

@[simp] theorem State.mapPins_pending : (s.mapPins f).pending = s.pending := rfl
@[simp] theorem State.mapPins_clk : (s.mapPins f).clk = s.clk := rfl
@[simp] theorem State.mapPins_pins : (s.mapPins f).pins = f s.pins := rfl
@[simp] theorem State.mapPins_standby : (s.mapPins f).standby = s.standby := rfl
@[simp] theorem State.mapPins_power : (s.mapPins f).power = s.power := rfl
@[simp] theorem State.mapPins_boot : (s.mapPins f).boot = s.boot := rfl
@[simp] theorem State.mapPins_fw : (s.mapPins f).fw = s.fw := rfl
@[simp] theorem State.mapPins_tide : (s.mapPins f).tide = s.tide := rfl
@[simp] theorem State.mapPins_pcie : (s.mapPins f).pcie = s.pcie := rfl
@[simp] theorem State.mapPins_funcs : (s.mapPins f).funcs = s.funcs := rfl
@[simp] theorem State.mapPins_mems : (s.mapPins f).mems = s.mems := rfl
@[simp] theorem State.mapPins_units : (s.mapPins f).units = s.units := rfl
@[simp] theorem State.mapPins_isles : (s.mapPins f).isles = s.isles := rfl
@[simp] theorem State.mapPins_pool : (s.mapPins f).pool = s.pool := rfl
@[simp] theorem State.mapPins_subslots : (s.mapPins f).subslots = s.subslots := rfl
@[simp] theorem State.mapPins_faults : (s.mapPins f).faults = s.faults := rfl
@[simp] theorem State.mapPins_cay : (s.mapPins f).cay = s.cay := rfl
@[simp] theorem State.mapPins_quiesce : (s.mapPins f).quiesce = s.quiesce := rfl
@[simp] theorem State.mapPins_utc : (s.mapPins f).utc = s.utc := rfl
@[simp] theorem State.mapPins_unparkQ : (s.mapPins f).unparkQ = s.unparkQ := rfl
@[simp] theorem State.mapPins_stu : (s.mapPins f).stu = s.stu := rfl
@[simp] theorem State.mapPins_ports : (s.mapPins f).ports = s.ports := rfl
@[simp] theorem State.mapPins_arch : (s.mapPins f).arch = s.arch := rfl
@[simp] theorem State.mapPins_remaps : (s.mapPins f).remaps = s.remaps := rfl
@[simp] theorem State.mapPins_fuses : (s.mapPins f).fuses = s.fuses := rfl
@[simp] theorem State.mapPins_sec : (s.mapPins f).sec = s.sec := rfl
@[simp] theorem State.mapPins_ent : (s.mapPins f).ent = s.ent := rfl
@[simp] theorem State.mapPins_raus : (s.mapPins f).raus = s.raus := rfl
@[simp] theorem State.mapPins_halt : (s.mapPins f).halt = s.halt := rfl
@[simp] theorem State.mapPins_out : (s.mapPins f).out = s.out := rfl

end

/-! ## mapStandby -/

section
variable (f : Standby → Standby) (s : State)

@[simp] theorem State.mapStandby_pending : (s.mapStandby f).pending = s.pending := rfl
@[simp] theorem State.mapStandby_clk : (s.mapStandby f).clk = s.clk := rfl
@[simp] theorem State.mapStandby_pins : (s.mapStandby f).pins = s.pins := rfl
@[simp] theorem State.mapStandby_standby : (s.mapStandby f).standby = f s.standby := rfl
@[simp] theorem State.mapStandby_power : (s.mapStandby f).power = s.power := rfl
@[simp] theorem State.mapStandby_boot : (s.mapStandby f).boot = s.boot := rfl
@[simp] theorem State.mapStandby_fw : (s.mapStandby f).fw = s.fw := rfl
@[simp] theorem State.mapStandby_tide : (s.mapStandby f).tide = s.tide := rfl
@[simp] theorem State.mapStandby_pcie : (s.mapStandby f).pcie = s.pcie := rfl
@[simp] theorem State.mapStandby_funcs : (s.mapStandby f).funcs = s.funcs := rfl
@[simp] theorem State.mapStandby_mems : (s.mapStandby f).mems = s.mems := rfl
@[simp] theorem State.mapStandby_units : (s.mapStandby f).units = s.units := rfl
@[simp] theorem State.mapStandby_isles : (s.mapStandby f).isles = s.isles := rfl
@[simp] theorem State.mapStandby_pool : (s.mapStandby f).pool = s.pool := rfl
@[simp] theorem State.mapStandby_subslots : (s.mapStandby f).subslots = s.subslots := rfl
@[simp] theorem State.mapStandby_faults : (s.mapStandby f).faults = s.faults := rfl
@[simp] theorem State.mapStandby_cay : (s.mapStandby f).cay = s.cay := rfl
@[simp] theorem State.mapStandby_quiesce : (s.mapStandby f).quiesce = s.quiesce := rfl
@[simp] theorem State.mapStandby_utc : (s.mapStandby f).utc = s.utc := rfl
@[simp] theorem State.mapStandby_unparkQ : (s.mapStandby f).unparkQ = s.unparkQ := rfl
@[simp] theorem State.mapStandby_stu : (s.mapStandby f).stu = s.stu := rfl
@[simp] theorem State.mapStandby_ports : (s.mapStandby f).ports = s.ports := rfl
@[simp] theorem State.mapStandby_arch : (s.mapStandby f).arch = s.arch := rfl
@[simp] theorem State.mapStandby_remaps : (s.mapStandby f).remaps = s.remaps := rfl
@[simp] theorem State.mapStandby_fuses : (s.mapStandby f).fuses = s.fuses := rfl
@[simp] theorem State.mapStandby_sec : (s.mapStandby f).sec = s.sec := rfl
@[simp] theorem State.mapStandby_ent : (s.mapStandby f).ent = s.ent := rfl
@[simp] theorem State.mapStandby_raus : (s.mapStandby f).raus = s.raus := rfl
@[simp] theorem State.mapStandby_halt : (s.mapStandby f).halt = s.halt := rfl
@[simp] theorem State.mapStandby_out : (s.mapStandby f).out = s.out := rfl

end

/-! ## mapPower -/

section
variable (f : Power → Power) (s : State)

@[simp] theorem State.mapPower_pending : (s.mapPower f).pending = s.pending := rfl
@[simp] theorem State.mapPower_clk : (s.mapPower f).clk = s.clk := rfl
@[simp] theorem State.mapPower_pins : (s.mapPower f).pins = s.pins := rfl
@[simp] theorem State.mapPower_standby : (s.mapPower f).standby = s.standby := rfl
@[simp] theorem State.mapPower_power : (s.mapPower f).power = f s.power := rfl
@[simp] theorem State.mapPower_boot : (s.mapPower f).boot = s.boot := rfl
@[simp] theorem State.mapPower_fw : (s.mapPower f).fw = s.fw := rfl
@[simp] theorem State.mapPower_tide : (s.mapPower f).tide = s.tide := rfl
@[simp] theorem State.mapPower_pcie : (s.mapPower f).pcie = s.pcie := rfl
@[simp] theorem State.mapPower_funcs : (s.mapPower f).funcs = s.funcs := rfl
@[simp] theorem State.mapPower_mems : (s.mapPower f).mems = s.mems := rfl
@[simp] theorem State.mapPower_units : (s.mapPower f).units = s.units := rfl
@[simp] theorem State.mapPower_isles : (s.mapPower f).isles = s.isles := rfl
@[simp] theorem State.mapPower_pool : (s.mapPower f).pool = s.pool := rfl
@[simp] theorem State.mapPower_subslots : (s.mapPower f).subslots = s.subslots := rfl
@[simp] theorem State.mapPower_faults : (s.mapPower f).faults = s.faults := rfl
@[simp] theorem State.mapPower_cay : (s.mapPower f).cay = s.cay := rfl
@[simp] theorem State.mapPower_quiesce : (s.mapPower f).quiesce = s.quiesce := rfl
@[simp] theorem State.mapPower_utc : (s.mapPower f).utc = s.utc := rfl
@[simp] theorem State.mapPower_unparkQ : (s.mapPower f).unparkQ = s.unparkQ := rfl
@[simp] theorem State.mapPower_stu : (s.mapPower f).stu = s.stu := rfl
@[simp] theorem State.mapPower_ports : (s.mapPower f).ports = s.ports := rfl
@[simp] theorem State.mapPower_arch : (s.mapPower f).arch = s.arch := rfl
@[simp] theorem State.mapPower_remaps : (s.mapPower f).remaps = s.remaps := rfl
@[simp] theorem State.mapPower_fuses : (s.mapPower f).fuses = s.fuses := rfl
@[simp] theorem State.mapPower_sec : (s.mapPower f).sec = s.sec := rfl
@[simp] theorem State.mapPower_ent : (s.mapPower f).ent = s.ent := rfl
@[simp] theorem State.mapPower_raus : (s.mapPower f).raus = s.raus := rfl
@[simp] theorem State.mapPower_halt : (s.mapPower f).halt = s.halt := rfl
@[simp] theorem State.mapPower_out : (s.mapPower f).out = s.out := rfl

end

/-! ## mapBoot -/

section
variable (f : Boot → Boot) (s : State)

@[simp] theorem State.mapBoot_pending : (s.mapBoot f).pending = s.pending := rfl
@[simp] theorem State.mapBoot_clk : (s.mapBoot f).clk = s.clk := rfl
@[simp] theorem State.mapBoot_pins : (s.mapBoot f).pins = s.pins := rfl
@[simp] theorem State.mapBoot_standby : (s.mapBoot f).standby = s.standby := rfl
@[simp] theorem State.mapBoot_power : (s.mapBoot f).power = s.power := rfl
@[simp] theorem State.mapBoot_boot : (s.mapBoot f).boot = f s.boot := rfl
@[simp] theorem State.mapBoot_fw : (s.mapBoot f).fw = s.fw := rfl
@[simp] theorem State.mapBoot_tide : (s.mapBoot f).tide = s.tide := rfl
@[simp] theorem State.mapBoot_pcie : (s.mapBoot f).pcie = s.pcie := rfl
@[simp] theorem State.mapBoot_funcs : (s.mapBoot f).funcs = s.funcs := rfl
@[simp] theorem State.mapBoot_mems : (s.mapBoot f).mems = s.mems := rfl
@[simp] theorem State.mapBoot_units : (s.mapBoot f).units = s.units := rfl
@[simp] theorem State.mapBoot_isles : (s.mapBoot f).isles = s.isles := rfl
@[simp] theorem State.mapBoot_pool : (s.mapBoot f).pool = s.pool := rfl
@[simp] theorem State.mapBoot_subslots : (s.mapBoot f).subslots = s.subslots := rfl
@[simp] theorem State.mapBoot_faults : (s.mapBoot f).faults = s.faults := rfl
@[simp] theorem State.mapBoot_cay : (s.mapBoot f).cay = s.cay := rfl
@[simp] theorem State.mapBoot_quiesce : (s.mapBoot f).quiesce = s.quiesce := rfl
@[simp] theorem State.mapBoot_utc : (s.mapBoot f).utc = s.utc := rfl
@[simp] theorem State.mapBoot_unparkQ : (s.mapBoot f).unparkQ = s.unparkQ := rfl
@[simp] theorem State.mapBoot_stu : (s.mapBoot f).stu = s.stu := rfl
@[simp] theorem State.mapBoot_ports : (s.mapBoot f).ports = s.ports := rfl
@[simp] theorem State.mapBoot_arch : (s.mapBoot f).arch = s.arch := rfl
@[simp] theorem State.mapBoot_remaps : (s.mapBoot f).remaps = s.remaps := rfl
@[simp] theorem State.mapBoot_fuses : (s.mapBoot f).fuses = s.fuses := rfl
@[simp] theorem State.mapBoot_sec : (s.mapBoot f).sec = s.sec := rfl
@[simp] theorem State.mapBoot_ent : (s.mapBoot f).ent = s.ent := rfl
@[simp] theorem State.mapBoot_raus : (s.mapBoot f).raus = s.raus := rfl
@[simp] theorem State.mapBoot_halt : (s.mapBoot f).halt = s.halt := rfl
@[simp] theorem State.mapBoot_out : (s.mapBoot f).out = s.out := rfl

end

/-! ## mapFw -/

section
variable (f : Fw → Fw) (s : State)

@[simp] theorem State.mapFw_pending : (s.mapFw f).pending = s.pending := rfl
@[simp] theorem State.mapFw_clk : (s.mapFw f).clk = s.clk := rfl
@[simp] theorem State.mapFw_pins : (s.mapFw f).pins = s.pins := rfl
@[simp] theorem State.mapFw_standby : (s.mapFw f).standby = s.standby := rfl
@[simp] theorem State.mapFw_power : (s.mapFw f).power = s.power := rfl
@[simp] theorem State.mapFw_boot : (s.mapFw f).boot = s.boot := rfl
@[simp] theorem State.mapFw_fw : (s.mapFw f).fw = f s.fw := rfl
@[simp] theorem State.mapFw_tide : (s.mapFw f).tide = s.tide := rfl
@[simp] theorem State.mapFw_pcie : (s.mapFw f).pcie = s.pcie := rfl
@[simp] theorem State.mapFw_funcs : (s.mapFw f).funcs = s.funcs := rfl
@[simp] theorem State.mapFw_mems : (s.mapFw f).mems = s.mems := rfl
@[simp] theorem State.mapFw_units : (s.mapFw f).units = s.units := rfl
@[simp] theorem State.mapFw_isles : (s.mapFw f).isles = s.isles := rfl
@[simp] theorem State.mapFw_pool : (s.mapFw f).pool = s.pool := rfl
@[simp] theorem State.mapFw_subslots : (s.mapFw f).subslots = s.subslots := rfl
@[simp] theorem State.mapFw_faults : (s.mapFw f).faults = s.faults := rfl
@[simp] theorem State.mapFw_cay : (s.mapFw f).cay = s.cay := rfl
@[simp] theorem State.mapFw_quiesce : (s.mapFw f).quiesce = s.quiesce := rfl
@[simp] theorem State.mapFw_utc : (s.mapFw f).utc = s.utc := rfl
@[simp] theorem State.mapFw_unparkQ : (s.mapFw f).unparkQ = s.unparkQ := rfl
@[simp] theorem State.mapFw_stu : (s.mapFw f).stu = s.stu := rfl
@[simp] theorem State.mapFw_ports : (s.mapFw f).ports = s.ports := rfl
@[simp] theorem State.mapFw_arch : (s.mapFw f).arch = s.arch := rfl
@[simp] theorem State.mapFw_remaps : (s.mapFw f).remaps = s.remaps := rfl
@[simp] theorem State.mapFw_fuses : (s.mapFw f).fuses = s.fuses := rfl
@[simp] theorem State.mapFw_sec : (s.mapFw f).sec = s.sec := rfl
@[simp] theorem State.mapFw_ent : (s.mapFw f).ent = s.ent := rfl
@[simp] theorem State.mapFw_raus : (s.mapFw f).raus = s.raus := rfl
@[simp] theorem State.mapFw_halt : (s.mapFw f).halt = s.halt := rfl
@[simp] theorem State.mapFw_out : (s.mapFw f).out = s.out := rfl

end

/-! ## mapTide -/

section
variable (f : Tide → Tide) (s : State)

@[simp] theorem State.mapTide_pending : (s.mapTide f).pending = s.pending := rfl
@[simp] theorem State.mapTide_clk : (s.mapTide f).clk = s.clk := rfl
@[simp] theorem State.mapTide_pins : (s.mapTide f).pins = s.pins := rfl
@[simp] theorem State.mapTide_standby : (s.mapTide f).standby = s.standby := rfl
@[simp] theorem State.mapTide_power : (s.mapTide f).power = s.power := rfl
@[simp] theorem State.mapTide_boot : (s.mapTide f).boot = s.boot := rfl
@[simp] theorem State.mapTide_fw : (s.mapTide f).fw = s.fw := rfl
@[simp] theorem State.mapTide_tide : (s.mapTide f).tide = f s.tide := rfl
@[simp] theorem State.mapTide_pcie : (s.mapTide f).pcie = s.pcie := rfl
@[simp] theorem State.mapTide_funcs : (s.mapTide f).funcs = s.funcs := rfl
@[simp] theorem State.mapTide_mems : (s.mapTide f).mems = s.mems := rfl
@[simp] theorem State.mapTide_units : (s.mapTide f).units = s.units := rfl
@[simp] theorem State.mapTide_isles : (s.mapTide f).isles = s.isles := rfl
@[simp] theorem State.mapTide_pool : (s.mapTide f).pool = s.pool := rfl
@[simp] theorem State.mapTide_subslots : (s.mapTide f).subslots = s.subslots := rfl
@[simp] theorem State.mapTide_faults : (s.mapTide f).faults = s.faults := rfl
@[simp] theorem State.mapTide_cay : (s.mapTide f).cay = s.cay := rfl
@[simp] theorem State.mapTide_quiesce : (s.mapTide f).quiesce = s.quiesce := rfl
@[simp] theorem State.mapTide_utc : (s.mapTide f).utc = s.utc := rfl
@[simp] theorem State.mapTide_unparkQ : (s.mapTide f).unparkQ = s.unparkQ := rfl
@[simp] theorem State.mapTide_stu : (s.mapTide f).stu = s.stu := rfl
@[simp] theorem State.mapTide_ports : (s.mapTide f).ports = s.ports := rfl
@[simp] theorem State.mapTide_arch : (s.mapTide f).arch = s.arch := rfl
@[simp] theorem State.mapTide_remaps : (s.mapTide f).remaps = s.remaps := rfl
@[simp] theorem State.mapTide_fuses : (s.mapTide f).fuses = s.fuses := rfl
@[simp] theorem State.mapTide_sec : (s.mapTide f).sec = s.sec := rfl
@[simp] theorem State.mapTide_ent : (s.mapTide f).ent = s.ent := rfl
@[simp] theorem State.mapTide_raus : (s.mapTide f).raus = s.raus := rfl
@[simp] theorem State.mapTide_halt : (s.mapTide f).halt = s.halt := rfl
@[simp] theorem State.mapTide_out : (s.mapTide f).out = s.out := rfl

end

/-! ## mapPcie -/

section
variable (f : Pcie → Pcie) (s : State)

@[simp] theorem State.mapPcie_pending : (s.mapPcie f).pending = s.pending := rfl
@[simp] theorem State.mapPcie_clk : (s.mapPcie f).clk = s.clk := rfl
@[simp] theorem State.mapPcie_pins : (s.mapPcie f).pins = s.pins := rfl
@[simp] theorem State.mapPcie_standby : (s.mapPcie f).standby = s.standby := rfl
@[simp] theorem State.mapPcie_power : (s.mapPcie f).power = s.power := rfl
@[simp] theorem State.mapPcie_boot : (s.mapPcie f).boot = s.boot := rfl
@[simp] theorem State.mapPcie_fw : (s.mapPcie f).fw = s.fw := rfl
@[simp] theorem State.mapPcie_tide : (s.mapPcie f).tide = s.tide := rfl
@[simp] theorem State.mapPcie_pcie : (s.mapPcie f).pcie = f s.pcie := rfl
@[simp] theorem State.mapPcie_funcs : (s.mapPcie f).funcs = s.funcs := rfl
@[simp] theorem State.mapPcie_mems : (s.mapPcie f).mems = s.mems := rfl
@[simp] theorem State.mapPcie_units : (s.mapPcie f).units = s.units := rfl
@[simp] theorem State.mapPcie_isles : (s.mapPcie f).isles = s.isles := rfl
@[simp] theorem State.mapPcie_pool : (s.mapPcie f).pool = s.pool := rfl
@[simp] theorem State.mapPcie_subslots : (s.mapPcie f).subslots = s.subslots := rfl
@[simp] theorem State.mapPcie_faults : (s.mapPcie f).faults = s.faults := rfl
@[simp] theorem State.mapPcie_cay : (s.mapPcie f).cay = s.cay := rfl
@[simp] theorem State.mapPcie_quiesce : (s.mapPcie f).quiesce = s.quiesce := rfl
@[simp] theorem State.mapPcie_utc : (s.mapPcie f).utc = s.utc := rfl
@[simp] theorem State.mapPcie_unparkQ : (s.mapPcie f).unparkQ = s.unparkQ := rfl
@[simp] theorem State.mapPcie_stu : (s.mapPcie f).stu = s.stu := rfl
@[simp] theorem State.mapPcie_ports : (s.mapPcie f).ports = s.ports := rfl
@[simp] theorem State.mapPcie_arch : (s.mapPcie f).arch = s.arch := rfl
@[simp] theorem State.mapPcie_remaps : (s.mapPcie f).remaps = s.remaps := rfl
@[simp] theorem State.mapPcie_fuses : (s.mapPcie f).fuses = s.fuses := rfl
@[simp] theorem State.mapPcie_sec : (s.mapPcie f).sec = s.sec := rfl
@[simp] theorem State.mapPcie_ent : (s.mapPcie f).ent = s.ent := rfl
@[simp] theorem State.mapPcie_raus : (s.mapPcie f).raus = s.raus := rfl
@[simp] theorem State.mapPcie_halt : (s.mapPcie f).halt = s.halt := rfl
@[simp] theorem State.mapPcie_out : (s.mapPcie f).out = s.out := rfl

end

/-! ## mapFunc -/

section
variable (i : Nat) (f : Func → Func) (s : State)

@[simp] theorem State.mapFunc_pending : (s.mapFunc i f).pending = s.pending := rfl
@[simp] theorem State.mapFunc_clk : (s.mapFunc i f).clk = s.clk := rfl
@[simp] theorem State.mapFunc_pins : (s.mapFunc i f).pins = s.pins := rfl
@[simp] theorem State.mapFunc_standby : (s.mapFunc i f).standby = s.standby := rfl
@[simp] theorem State.mapFunc_power : (s.mapFunc i f).power = s.power := rfl
@[simp] theorem State.mapFunc_boot : (s.mapFunc i f).boot = s.boot := rfl
@[simp] theorem State.mapFunc_fw : (s.mapFunc i f).fw = s.fw := rfl
@[simp] theorem State.mapFunc_tide : (s.mapFunc i f).tide = s.tide := rfl
@[simp] theorem State.mapFunc_pcie : (s.mapFunc i f).pcie = s.pcie := rfl
@[simp] theorem State.mapFunc_funcs : (s.mapFunc i f).funcs = setAt s.funcs i f := rfl
@[simp] theorem State.mapFunc_mems : (s.mapFunc i f).mems = s.mems := rfl
@[simp] theorem State.mapFunc_units : (s.mapFunc i f).units = s.units := rfl
@[simp] theorem State.mapFunc_isles : (s.mapFunc i f).isles = s.isles := rfl
@[simp] theorem State.mapFunc_pool : (s.mapFunc i f).pool = s.pool := rfl
@[simp] theorem State.mapFunc_subslots : (s.mapFunc i f).subslots = s.subslots := rfl
@[simp] theorem State.mapFunc_faults : (s.mapFunc i f).faults = s.faults := rfl
@[simp] theorem State.mapFunc_cay : (s.mapFunc i f).cay = s.cay := rfl
@[simp] theorem State.mapFunc_quiesce : (s.mapFunc i f).quiesce = s.quiesce := rfl
@[simp] theorem State.mapFunc_utc : (s.mapFunc i f).utc = s.utc := rfl
@[simp] theorem State.mapFunc_unparkQ : (s.mapFunc i f).unparkQ = s.unparkQ := rfl
@[simp] theorem State.mapFunc_stu : (s.mapFunc i f).stu = s.stu := rfl
@[simp] theorem State.mapFunc_ports : (s.mapFunc i f).ports = s.ports := rfl
@[simp] theorem State.mapFunc_arch : (s.mapFunc i f).arch = s.arch := rfl
@[simp] theorem State.mapFunc_remaps : (s.mapFunc i f).remaps = s.remaps := rfl
@[simp] theorem State.mapFunc_fuses : (s.mapFunc i f).fuses = s.fuses := rfl
@[simp] theorem State.mapFunc_sec : (s.mapFunc i f).sec = s.sec := rfl
@[simp] theorem State.mapFunc_ent : (s.mapFunc i f).ent = s.ent := rfl
@[simp] theorem State.mapFunc_raus : (s.mapFunc i f).raus = s.raus := rfl
@[simp] theorem State.mapFunc_halt : (s.mapFunc i f).halt = s.halt := rfl
@[simp] theorem State.mapFunc_out : (s.mapFunc i f).out = s.out := rfl

end

/-! ## mapMems -/

section
variable (f : Mems → Mems) (s : State)

@[simp] theorem State.mapMems_pending : (s.mapMems f).pending = s.pending := rfl
@[simp] theorem State.mapMems_clk : (s.mapMems f).clk = s.clk := rfl
@[simp] theorem State.mapMems_pins : (s.mapMems f).pins = s.pins := rfl
@[simp] theorem State.mapMems_standby : (s.mapMems f).standby = s.standby := rfl
@[simp] theorem State.mapMems_power : (s.mapMems f).power = s.power := rfl
@[simp] theorem State.mapMems_boot : (s.mapMems f).boot = s.boot := rfl
@[simp] theorem State.mapMems_fw : (s.mapMems f).fw = s.fw := rfl
@[simp] theorem State.mapMems_tide : (s.mapMems f).tide = s.tide := rfl
@[simp] theorem State.mapMems_pcie : (s.mapMems f).pcie = s.pcie := rfl
@[simp] theorem State.mapMems_funcs : (s.mapMems f).funcs = s.funcs := rfl
@[simp] theorem State.mapMems_mems : (s.mapMems f).mems = f s.mems := rfl
@[simp] theorem State.mapMems_units : (s.mapMems f).units = s.units := rfl
@[simp] theorem State.mapMems_isles : (s.mapMems f).isles = s.isles := rfl
@[simp] theorem State.mapMems_pool : (s.mapMems f).pool = s.pool := rfl
@[simp] theorem State.mapMems_subslots : (s.mapMems f).subslots = s.subslots := rfl
@[simp] theorem State.mapMems_faults : (s.mapMems f).faults = s.faults := rfl
@[simp] theorem State.mapMems_cay : (s.mapMems f).cay = s.cay := rfl
@[simp] theorem State.mapMems_quiesce : (s.mapMems f).quiesce = s.quiesce := rfl
@[simp] theorem State.mapMems_utc : (s.mapMems f).utc = s.utc := rfl
@[simp] theorem State.mapMems_unparkQ : (s.mapMems f).unparkQ = s.unparkQ := rfl
@[simp] theorem State.mapMems_stu : (s.mapMems f).stu = s.stu := rfl
@[simp] theorem State.mapMems_ports : (s.mapMems f).ports = s.ports := rfl
@[simp] theorem State.mapMems_arch : (s.mapMems f).arch = s.arch := rfl
@[simp] theorem State.mapMems_remaps : (s.mapMems f).remaps = s.remaps := rfl
@[simp] theorem State.mapMems_fuses : (s.mapMems f).fuses = s.fuses := rfl
@[simp] theorem State.mapMems_sec : (s.mapMems f).sec = s.sec := rfl
@[simp] theorem State.mapMems_ent : (s.mapMems f).ent = s.ent := rfl
@[simp] theorem State.mapMems_raus : (s.mapMems f).raus = s.raus := rfl
@[simp] theorem State.mapMems_halt : (s.mapMems f).halt = s.halt := rfl
@[simp] theorem State.mapMems_out : (s.mapMems f).out = s.out := rfl

end

/-! ## mapUnits -/

section
variable (f : Units → Units) (s : State)

@[simp] theorem State.mapUnits_pending : (s.mapUnits f).pending = s.pending := rfl
@[simp] theorem State.mapUnits_clk : (s.mapUnits f).clk = s.clk := rfl
@[simp] theorem State.mapUnits_pins : (s.mapUnits f).pins = s.pins := rfl
@[simp] theorem State.mapUnits_standby : (s.mapUnits f).standby = s.standby := rfl
@[simp] theorem State.mapUnits_power : (s.mapUnits f).power = s.power := rfl
@[simp] theorem State.mapUnits_boot : (s.mapUnits f).boot = s.boot := rfl
@[simp] theorem State.mapUnits_fw : (s.mapUnits f).fw = s.fw := rfl
@[simp] theorem State.mapUnits_tide : (s.mapUnits f).tide = s.tide := rfl
@[simp] theorem State.mapUnits_pcie : (s.mapUnits f).pcie = s.pcie := rfl
@[simp] theorem State.mapUnits_funcs : (s.mapUnits f).funcs = s.funcs := rfl
@[simp] theorem State.mapUnits_mems : (s.mapUnits f).mems = s.mems := rfl
@[simp] theorem State.mapUnits_units : (s.mapUnits f).units = f s.units := rfl
@[simp] theorem State.mapUnits_isles : (s.mapUnits f).isles = s.isles := rfl
@[simp] theorem State.mapUnits_pool : (s.mapUnits f).pool = s.pool := rfl
@[simp] theorem State.mapUnits_subslots : (s.mapUnits f).subslots = s.subslots := rfl
@[simp] theorem State.mapUnits_faults : (s.mapUnits f).faults = s.faults := rfl
@[simp] theorem State.mapUnits_cay : (s.mapUnits f).cay = s.cay := rfl
@[simp] theorem State.mapUnits_quiesce : (s.mapUnits f).quiesce = s.quiesce := rfl
@[simp] theorem State.mapUnits_utc : (s.mapUnits f).utc = s.utc := rfl
@[simp] theorem State.mapUnits_unparkQ : (s.mapUnits f).unparkQ = s.unparkQ := rfl
@[simp] theorem State.mapUnits_stu : (s.mapUnits f).stu = s.stu := rfl
@[simp] theorem State.mapUnits_ports : (s.mapUnits f).ports = s.ports := rfl
@[simp] theorem State.mapUnits_arch : (s.mapUnits f).arch = s.arch := rfl
@[simp] theorem State.mapUnits_remaps : (s.mapUnits f).remaps = s.remaps := rfl
@[simp] theorem State.mapUnits_fuses : (s.mapUnits f).fuses = s.fuses := rfl
@[simp] theorem State.mapUnits_sec : (s.mapUnits f).sec = s.sec := rfl
@[simp] theorem State.mapUnits_ent : (s.mapUnits f).ent = s.ent := rfl
@[simp] theorem State.mapUnits_raus : (s.mapUnits f).raus = s.raus := rfl
@[simp] theorem State.mapUnits_halt : (s.mapUnits f).halt = s.halt := rfl
@[simp] theorem State.mapUnits_out : (s.mapUnits f).out = s.out := rfl

end

/-! ## mapIsle -/

section
variable (i : Nat) (f : Isle → Isle) (s : State)

@[simp] theorem State.mapIsle_pending : (s.mapIsle i f).pending = s.pending := rfl
@[simp] theorem State.mapIsle_clk : (s.mapIsle i f).clk = s.clk := rfl
@[simp] theorem State.mapIsle_pins : (s.mapIsle i f).pins = s.pins := rfl
@[simp] theorem State.mapIsle_standby : (s.mapIsle i f).standby = s.standby := rfl
@[simp] theorem State.mapIsle_power : (s.mapIsle i f).power = s.power := rfl
@[simp] theorem State.mapIsle_boot : (s.mapIsle i f).boot = s.boot := rfl
@[simp] theorem State.mapIsle_fw : (s.mapIsle i f).fw = s.fw := rfl
@[simp] theorem State.mapIsle_tide : (s.mapIsle i f).tide = s.tide := rfl
@[simp] theorem State.mapIsle_pcie : (s.mapIsle i f).pcie = s.pcie := rfl
@[simp] theorem State.mapIsle_funcs : (s.mapIsle i f).funcs = s.funcs := rfl
@[simp] theorem State.mapIsle_mems : (s.mapIsle i f).mems = s.mems := rfl
@[simp] theorem State.mapIsle_units : (s.mapIsle i f).units = s.units := rfl
@[simp] theorem State.mapIsle_isles : (s.mapIsle i f).isles = setAt s.isles i f := rfl
@[simp] theorem State.mapIsle_pool : (s.mapIsle i f).pool = s.pool := rfl
@[simp] theorem State.mapIsle_subslots : (s.mapIsle i f).subslots = s.subslots := rfl
@[simp] theorem State.mapIsle_faults : (s.mapIsle i f).faults = s.faults := rfl
@[simp] theorem State.mapIsle_cay : (s.mapIsle i f).cay = s.cay := rfl
@[simp] theorem State.mapIsle_quiesce : (s.mapIsle i f).quiesce = s.quiesce := rfl
@[simp] theorem State.mapIsle_utc : (s.mapIsle i f).utc = s.utc := rfl
@[simp] theorem State.mapIsle_unparkQ : (s.mapIsle i f).unparkQ = s.unparkQ := rfl
@[simp] theorem State.mapIsle_stu : (s.mapIsle i f).stu = s.stu := rfl
@[simp] theorem State.mapIsle_ports : (s.mapIsle i f).ports = s.ports := rfl
@[simp] theorem State.mapIsle_arch : (s.mapIsle i f).arch = s.arch := rfl
@[simp] theorem State.mapIsle_remaps : (s.mapIsle i f).remaps = s.remaps := rfl
@[simp] theorem State.mapIsle_fuses : (s.mapIsle i f).fuses = s.fuses := rfl
@[simp] theorem State.mapIsle_sec : (s.mapIsle i f).sec = s.sec := rfl
@[simp] theorem State.mapIsle_ent : (s.mapIsle i f).ent = s.ent := rfl
@[simp] theorem State.mapIsle_raus : (s.mapIsle i f).raus = s.raus := rfl
@[simp] theorem State.mapIsle_halt : (s.mapIsle i f).halt = s.halt := rfl
@[simp] theorem State.mapIsle_out : (s.mapIsle i f).out = s.out := rfl

end

/-! ## mapIsles -/

section
variable (f : Isle → Isle) (s : State)

@[simp] theorem State.mapIsles_pending : (s.mapIsles f).pending = s.pending := rfl
@[simp] theorem State.mapIsles_clk : (s.mapIsles f).clk = s.clk := rfl
@[simp] theorem State.mapIsles_pins : (s.mapIsles f).pins = s.pins := rfl
@[simp] theorem State.mapIsles_standby : (s.mapIsles f).standby = s.standby := rfl
@[simp] theorem State.mapIsles_power : (s.mapIsles f).power = s.power := rfl
@[simp] theorem State.mapIsles_boot : (s.mapIsles f).boot = s.boot := rfl
@[simp] theorem State.mapIsles_fw : (s.mapIsles f).fw = s.fw := rfl
@[simp] theorem State.mapIsles_tide : (s.mapIsles f).tide = s.tide := rfl
@[simp] theorem State.mapIsles_pcie : (s.mapIsles f).pcie = s.pcie := rfl
@[simp] theorem State.mapIsles_funcs : (s.mapIsles f).funcs = s.funcs := rfl
@[simp] theorem State.mapIsles_mems : (s.mapIsles f).mems = s.mems := rfl
@[simp] theorem State.mapIsles_units : (s.mapIsles f).units = s.units := rfl
@[simp] theorem State.mapIsles_isles : (s.mapIsles f).isles = s.isles.map f := rfl
@[simp] theorem State.mapIsles_pool : (s.mapIsles f).pool = s.pool := rfl
@[simp] theorem State.mapIsles_subslots : (s.mapIsles f).subslots = s.subslots := rfl
@[simp] theorem State.mapIsles_faults : (s.mapIsles f).faults = s.faults := rfl
@[simp] theorem State.mapIsles_cay : (s.mapIsles f).cay = s.cay := rfl
@[simp] theorem State.mapIsles_quiesce : (s.mapIsles f).quiesce = s.quiesce := rfl
@[simp] theorem State.mapIsles_utc : (s.mapIsles f).utc = s.utc := rfl
@[simp] theorem State.mapIsles_unparkQ : (s.mapIsles f).unparkQ = s.unparkQ := rfl
@[simp] theorem State.mapIsles_stu : (s.mapIsles f).stu = s.stu := rfl
@[simp] theorem State.mapIsles_ports : (s.mapIsles f).ports = s.ports := rfl
@[simp] theorem State.mapIsles_arch : (s.mapIsles f).arch = s.arch := rfl
@[simp] theorem State.mapIsles_remaps : (s.mapIsles f).remaps = s.remaps := rfl
@[simp] theorem State.mapIsles_fuses : (s.mapIsles f).fuses = s.fuses := rfl
@[simp] theorem State.mapIsles_sec : (s.mapIsles f).sec = s.sec := rfl
@[simp] theorem State.mapIsles_ent : (s.mapIsles f).ent = s.ent := rfl
@[simp] theorem State.mapIsles_raus : (s.mapIsles f).raus = s.raus := rfl
@[simp] theorem State.mapIsles_halt : (s.mapIsles f).halt = s.halt := rfl
@[simp] theorem State.mapIsles_out : (s.mapIsles f).out = s.out := rfl

end

/-! ## mapFaults -/

section
variable (f : FaultView → FaultView) (s : State)

@[simp] theorem State.mapFaults_pending : (s.mapFaults f).pending = s.pending := rfl
@[simp] theorem State.mapFaults_clk : (s.mapFaults f).clk = s.clk := rfl
@[simp] theorem State.mapFaults_pins : (s.mapFaults f).pins = s.pins := rfl
@[simp] theorem State.mapFaults_standby : (s.mapFaults f).standby = s.standby := rfl
@[simp] theorem State.mapFaults_power : (s.mapFaults f).power = s.power := rfl
@[simp] theorem State.mapFaults_boot : (s.mapFaults f).boot = s.boot := rfl
@[simp] theorem State.mapFaults_fw : (s.mapFaults f).fw = s.fw := rfl
@[simp] theorem State.mapFaults_tide : (s.mapFaults f).tide = s.tide := rfl
@[simp] theorem State.mapFaults_pcie : (s.mapFaults f).pcie = s.pcie := rfl
@[simp] theorem State.mapFaults_funcs : (s.mapFaults f).funcs = s.funcs := rfl
@[simp] theorem State.mapFaults_mems : (s.mapFaults f).mems = s.mems := rfl
@[simp] theorem State.mapFaults_units : (s.mapFaults f).units = s.units := rfl
@[simp] theorem State.mapFaults_isles : (s.mapFaults f).isles = s.isles := rfl
@[simp] theorem State.mapFaults_pool : (s.mapFaults f).pool = s.pool := rfl
@[simp] theorem State.mapFaults_subslots : (s.mapFaults f).subslots = s.subslots := rfl
@[simp] theorem State.mapFaults_faults : (s.mapFaults f).faults = f s.faults := rfl
@[simp] theorem State.mapFaults_cay : (s.mapFaults f).cay = s.cay := rfl
@[simp] theorem State.mapFaults_quiesce : (s.mapFaults f).quiesce = s.quiesce := rfl
@[simp] theorem State.mapFaults_utc : (s.mapFaults f).utc = s.utc := rfl
@[simp] theorem State.mapFaults_unparkQ : (s.mapFaults f).unparkQ = s.unparkQ := rfl
@[simp] theorem State.mapFaults_stu : (s.mapFaults f).stu = s.stu := rfl
@[simp] theorem State.mapFaults_ports : (s.mapFaults f).ports = s.ports := rfl
@[simp] theorem State.mapFaults_arch : (s.mapFaults f).arch = s.arch := rfl
@[simp] theorem State.mapFaults_remaps : (s.mapFaults f).remaps = s.remaps := rfl
@[simp] theorem State.mapFaults_fuses : (s.mapFaults f).fuses = s.fuses := rfl
@[simp] theorem State.mapFaults_sec : (s.mapFaults f).sec = s.sec := rfl
@[simp] theorem State.mapFaults_ent : (s.mapFaults f).ent = s.ent := rfl
@[simp] theorem State.mapFaults_raus : (s.mapFaults f).raus = s.raus := rfl
@[simp] theorem State.mapFaults_halt : (s.mapFaults f).halt = s.halt := rfl
@[simp] theorem State.mapFaults_out : (s.mapFaults f).out = s.out := rfl

end

/-! ## mapCay -/

section
variable (i : Nat) (f : CaySlot → CaySlot) (s : State)

@[simp] theorem State.mapCay_pending : (s.mapCay i f).pending = s.pending := rfl
@[simp] theorem State.mapCay_clk : (s.mapCay i f).clk = s.clk := rfl
@[simp] theorem State.mapCay_pins : (s.mapCay i f).pins = s.pins := rfl
@[simp] theorem State.mapCay_standby : (s.mapCay i f).standby = s.standby := rfl
@[simp] theorem State.mapCay_power : (s.mapCay i f).power = s.power := rfl
@[simp] theorem State.mapCay_boot : (s.mapCay i f).boot = s.boot := rfl
@[simp] theorem State.mapCay_fw : (s.mapCay i f).fw = s.fw := rfl
@[simp] theorem State.mapCay_tide : (s.mapCay i f).tide = s.tide := rfl
@[simp] theorem State.mapCay_pcie : (s.mapCay i f).pcie = s.pcie := rfl
@[simp] theorem State.mapCay_funcs : (s.mapCay i f).funcs = s.funcs := rfl
@[simp] theorem State.mapCay_mems : (s.mapCay i f).mems = s.mems := rfl
@[simp] theorem State.mapCay_units : (s.mapCay i f).units = s.units := rfl
@[simp] theorem State.mapCay_isles : (s.mapCay i f).isles = s.isles := rfl
@[simp] theorem State.mapCay_pool : (s.mapCay i f).pool = s.pool := rfl
@[simp] theorem State.mapCay_subslots : (s.mapCay i f).subslots = s.subslots := rfl
@[simp] theorem State.mapCay_faults : (s.mapCay i f).faults = s.faults := rfl
@[simp] theorem State.mapCay_cay : (s.mapCay i f).cay = setAt s.cay i f := rfl
@[simp] theorem State.mapCay_quiesce : (s.mapCay i f).quiesce = s.quiesce := rfl
@[simp] theorem State.mapCay_utc : (s.mapCay i f).utc = s.utc := rfl
@[simp] theorem State.mapCay_unparkQ : (s.mapCay i f).unparkQ = s.unparkQ := rfl
@[simp] theorem State.mapCay_stu : (s.mapCay i f).stu = s.stu := rfl
@[simp] theorem State.mapCay_ports : (s.mapCay i f).ports = s.ports := rfl
@[simp] theorem State.mapCay_arch : (s.mapCay i f).arch = s.arch := rfl
@[simp] theorem State.mapCay_remaps : (s.mapCay i f).remaps = s.remaps := rfl
@[simp] theorem State.mapCay_fuses : (s.mapCay i f).fuses = s.fuses := rfl
@[simp] theorem State.mapCay_sec : (s.mapCay i f).sec = s.sec := rfl
@[simp] theorem State.mapCay_ent : (s.mapCay i f).ent = s.ent := rfl
@[simp] theorem State.mapCay_raus : (s.mapCay i f).raus = s.raus := rfl
@[simp] theorem State.mapCay_halt : (s.mapCay i f).halt = s.halt := rfl
@[simp] theorem State.mapCay_out : (s.mapCay i f).out = s.out := rfl

end

/-! ## mapPort -/

section
variable (i : Nat) (f : Port → Port) (s : State)

@[simp] theorem State.mapPort_pending : (s.mapPort i f).pending = s.pending := rfl
@[simp] theorem State.mapPort_clk : (s.mapPort i f).clk = s.clk := rfl
@[simp] theorem State.mapPort_pins : (s.mapPort i f).pins = s.pins := rfl
@[simp] theorem State.mapPort_standby : (s.mapPort i f).standby = s.standby := rfl
@[simp] theorem State.mapPort_power : (s.mapPort i f).power = s.power := rfl
@[simp] theorem State.mapPort_boot : (s.mapPort i f).boot = s.boot := rfl
@[simp] theorem State.mapPort_fw : (s.mapPort i f).fw = s.fw := rfl
@[simp] theorem State.mapPort_tide : (s.mapPort i f).tide = s.tide := rfl
@[simp] theorem State.mapPort_pcie : (s.mapPort i f).pcie = s.pcie := rfl
@[simp] theorem State.mapPort_funcs : (s.mapPort i f).funcs = s.funcs := rfl
@[simp] theorem State.mapPort_mems : (s.mapPort i f).mems = s.mems := rfl
@[simp] theorem State.mapPort_units : (s.mapPort i f).units = s.units := rfl
@[simp] theorem State.mapPort_isles : (s.mapPort i f).isles = s.isles := rfl
@[simp] theorem State.mapPort_pool : (s.mapPort i f).pool = s.pool := rfl
@[simp] theorem State.mapPort_subslots : (s.mapPort i f).subslots = s.subslots := rfl
@[simp] theorem State.mapPort_faults : (s.mapPort i f).faults = s.faults := rfl
@[simp] theorem State.mapPort_cay : (s.mapPort i f).cay = s.cay := rfl
@[simp] theorem State.mapPort_quiesce : (s.mapPort i f).quiesce = s.quiesce := rfl
@[simp] theorem State.mapPort_utc : (s.mapPort i f).utc = s.utc := rfl
@[simp] theorem State.mapPort_unparkQ : (s.mapPort i f).unparkQ = s.unparkQ := rfl
@[simp] theorem State.mapPort_stu : (s.mapPort i f).stu = s.stu := rfl
@[simp] theorem State.mapPort_ports : (s.mapPort i f).ports = setAt s.ports i f := rfl
@[simp] theorem State.mapPort_arch : (s.mapPort i f).arch = s.arch := rfl
@[simp] theorem State.mapPort_remaps : (s.mapPort i f).remaps = s.remaps := rfl
@[simp] theorem State.mapPort_fuses : (s.mapPort i f).fuses = s.fuses := rfl
@[simp] theorem State.mapPort_sec : (s.mapPort i f).sec = s.sec := rfl
@[simp] theorem State.mapPort_ent : (s.mapPort i f).ent = s.ent := rfl
@[simp] theorem State.mapPort_raus : (s.mapPort i f).raus = s.raus := rfl
@[simp] theorem State.mapPort_halt : (s.mapPort i f).halt = s.halt := rfl
@[simp] theorem State.mapPort_out : (s.mapPort i f).out = s.out := rfl

end

/-! ## mapPorts -/

section
variable (f : Port → Port) (s : State)

@[simp] theorem State.mapPorts_pending : (s.mapPorts f).pending = s.pending := rfl
@[simp] theorem State.mapPorts_clk : (s.mapPorts f).clk = s.clk := rfl
@[simp] theorem State.mapPorts_pins : (s.mapPorts f).pins = s.pins := rfl
@[simp] theorem State.mapPorts_standby : (s.mapPorts f).standby = s.standby := rfl
@[simp] theorem State.mapPorts_power : (s.mapPorts f).power = s.power := rfl
@[simp] theorem State.mapPorts_boot : (s.mapPorts f).boot = s.boot := rfl
@[simp] theorem State.mapPorts_fw : (s.mapPorts f).fw = s.fw := rfl
@[simp] theorem State.mapPorts_tide : (s.mapPorts f).tide = s.tide := rfl
@[simp] theorem State.mapPorts_pcie : (s.mapPorts f).pcie = s.pcie := rfl
@[simp] theorem State.mapPorts_funcs : (s.mapPorts f).funcs = s.funcs := rfl
@[simp] theorem State.mapPorts_mems : (s.mapPorts f).mems = s.mems := rfl
@[simp] theorem State.mapPorts_units : (s.mapPorts f).units = s.units := rfl
@[simp] theorem State.mapPorts_isles : (s.mapPorts f).isles = s.isles := rfl
@[simp] theorem State.mapPorts_pool : (s.mapPorts f).pool = s.pool := rfl
@[simp] theorem State.mapPorts_subslots : (s.mapPorts f).subslots = s.subslots := rfl
@[simp] theorem State.mapPorts_faults : (s.mapPorts f).faults = s.faults := rfl
@[simp] theorem State.mapPorts_cay : (s.mapPorts f).cay = s.cay := rfl
@[simp] theorem State.mapPorts_quiesce : (s.mapPorts f).quiesce = s.quiesce := rfl
@[simp] theorem State.mapPorts_utc : (s.mapPorts f).utc = s.utc := rfl
@[simp] theorem State.mapPorts_unparkQ : (s.mapPorts f).unparkQ = s.unparkQ := rfl
@[simp] theorem State.mapPorts_stu : (s.mapPorts f).stu = s.stu := rfl
@[simp] theorem State.mapPorts_ports : (s.mapPorts f).ports = s.ports.map f := rfl
@[simp] theorem State.mapPorts_arch : (s.mapPorts f).arch = s.arch := rfl
@[simp] theorem State.mapPorts_remaps : (s.mapPorts f).remaps = s.remaps := rfl
@[simp] theorem State.mapPorts_fuses : (s.mapPorts f).fuses = s.fuses := rfl
@[simp] theorem State.mapPorts_sec : (s.mapPorts f).sec = s.sec := rfl
@[simp] theorem State.mapPorts_ent : (s.mapPorts f).ent = s.ent := rfl
@[simp] theorem State.mapPorts_raus : (s.mapPorts f).raus = s.raus := rfl
@[simp] theorem State.mapPorts_halt : (s.mapPorts f).halt = s.halt := rfl
@[simp] theorem State.mapPorts_out : (s.mapPorts f).out = s.out := rfl

end

/-! ## mapArch -/

section
variable (f : Arch → Arch) (s : State)

@[simp] theorem State.mapArch_pending : (s.mapArch f).pending = s.pending := rfl
@[simp] theorem State.mapArch_clk : (s.mapArch f).clk = s.clk := rfl
@[simp] theorem State.mapArch_pins : (s.mapArch f).pins = s.pins := rfl
@[simp] theorem State.mapArch_standby : (s.mapArch f).standby = s.standby := rfl
@[simp] theorem State.mapArch_power : (s.mapArch f).power = s.power := rfl
@[simp] theorem State.mapArch_boot : (s.mapArch f).boot = s.boot := rfl
@[simp] theorem State.mapArch_fw : (s.mapArch f).fw = s.fw := rfl
@[simp] theorem State.mapArch_tide : (s.mapArch f).tide = s.tide := rfl
@[simp] theorem State.mapArch_pcie : (s.mapArch f).pcie = s.pcie := rfl
@[simp] theorem State.mapArch_funcs : (s.mapArch f).funcs = s.funcs := rfl
@[simp] theorem State.mapArch_mems : (s.mapArch f).mems = s.mems := rfl
@[simp] theorem State.mapArch_units : (s.mapArch f).units = s.units := rfl
@[simp] theorem State.mapArch_isles : (s.mapArch f).isles = s.isles := rfl
@[simp] theorem State.mapArch_pool : (s.mapArch f).pool = s.pool := rfl
@[simp] theorem State.mapArch_subslots : (s.mapArch f).subslots = s.subslots := rfl
@[simp] theorem State.mapArch_faults : (s.mapArch f).faults = s.faults := rfl
@[simp] theorem State.mapArch_cay : (s.mapArch f).cay = s.cay := rfl
@[simp] theorem State.mapArch_quiesce : (s.mapArch f).quiesce = s.quiesce := rfl
@[simp] theorem State.mapArch_utc : (s.mapArch f).utc = s.utc := rfl
@[simp] theorem State.mapArch_unparkQ : (s.mapArch f).unparkQ = s.unparkQ := rfl
@[simp] theorem State.mapArch_stu : (s.mapArch f).stu = s.stu := rfl
@[simp] theorem State.mapArch_ports : (s.mapArch f).ports = s.ports := rfl
@[simp] theorem State.mapArch_arch : (s.mapArch f).arch = f s.arch := rfl
@[simp] theorem State.mapArch_remaps : (s.mapArch f).remaps = s.remaps := rfl
@[simp] theorem State.mapArch_fuses : (s.mapArch f).fuses = s.fuses := rfl
@[simp] theorem State.mapArch_sec : (s.mapArch f).sec = s.sec := rfl
@[simp] theorem State.mapArch_ent : (s.mapArch f).ent = s.ent := rfl
@[simp] theorem State.mapArch_raus : (s.mapArch f).raus = s.raus := rfl
@[simp] theorem State.mapArch_halt : (s.mapArch f).halt = s.halt := rfl
@[simp] theorem State.mapArch_out : (s.mapArch f).out = s.out := rfl

end

/-! ## mapFuses -/

section
variable (f : Fuses → Fuses) (s : State)

@[simp] theorem State.mapFuses_pending : (s.mapFuses f).pending = s.pending := rfl
@[simp] theorem State.mapFuses_clk : (s.mapFuses f).clk = s.clk := rfl
@[simp] theorem State.mapFuses_pins : (s.mapFuses f).pins = s.pins := rfl
@[simp] theorem State.mapFuses_standby : (s.mapFuses f).standby = s.standby := rfl
@[simp] theorem State.mapFuses_power : (s.mapFuses f).power = s.power := rfl
@[simp] theorem State.mapFuses_boot : (s.mapFuses f).boot = s.boot := rfl
@[simp] theorem State.mapFuses_fw : (s.mapFuses f).fw = s.fw := rfl
@[simp] theorem State.mapFuses_tide : (s.mapFuses f).tide = s.tide := rfl
@[simp] theorem State.mapFuses_pcie : (s.mapFuses f).pcie = s.pcie := rfl
@[simp] theorem State.mapFuses_funcs : (s.mapFuses f).funcs = s.funcs := rfl
@[simp] theorem State.mapFuses_mems : (s.mapFuses f).mems = s.mems := rfl
@[simp] theorem State.mapFuses_units : (s.mapFuses f).units = s.units := rfl
@[simp] theorem State.mapFuses_isles : (s.mapFuses f).isles = s.isles := rfl
@[simp] theorem State.mapFuses_pool : (s.mapFuses f).pool = s.pool := rfl
@[simp] theorem State.mapFuses_subslots : (s.mapFuses f).subslots = s.subslots := rfl
@[simp] theorem State.mapFuses_faults : (s.mapFuses f).faults = s.faults := rfl
@[simp] theorem State.mapFuses_cay : (s.mapFuses f).cay = s.cay := rfl
@[simp] theorem State.mapFuses_quiesce : (s.mapFuses f).quiesce = s.quiesce := rfl
@[simp] theorem State.mapFuses_utc : (s.mapFuses f).utc = s.utc := rfl
@[simp] theorem State.mapFuses_unparkQ : (s.mapFuses f).unparkQ = s.unparkQ := rfl
@[simp] theorem State.mapFuses_stu : (s.mapFuses f).stu = s.stu := rfl
@[simp] theorem State.mapFuses_ports : (s.mapFuses f).ports = s.ports := rfl
@[simp] theorem State.mapFuses_arch : (s.mapFuses f).arch = s.arch := rfl
@[simp] theorem State.mapFuses_remaps : (s.mapFuses f).remaps = s.remaps := rfl
@[simp] theorem State.mapFuses_fuses : (s.mapFuses f).fuses = f s.fuses := rfl
@[simp] theorem State.mapFuses_sec : (s.mapFuses f).sec = s.sec := rfl
@[simp] theorem State.mapFuses_ent : (s.mapFuses f).ent = s.ent := rfl
@[simp] theorem State.mapFuses_raus : (s.mapFuses f).raus = s.raus := rfl
@[simp] theorem State.mapFuses_halt : (s.mapFuses f).halt = s.halt := rfl
@[simp] theorem State.mapFuses_out : (s.mapFuses f).out = s.out := rfl

end

/-! ## mapSec -/

section
variable (f : Sec → Sec) (s : State)

@[simp] theorem State.mapSec_pending : (s.mapSec f).pending = s.pending := rfl
@[simp] theorem State.mapSec_clk : (s.mapSec f).clk = s.clk := rfl
@[simp] theorem State.mapSec_pins : (s.mapSec f).pins = s.pins := rfl
@[simp] theorem State.mapSec_standby : (s.mapSec f).standby = s.standby := rfl
@[simp] theorem State.mapSec_power : (s.mapSec f).power = s.power := rfl
@[simp] theorem State.mapSec_boot : (s.mapSec f).boot = s.boot := rfl
@[simp] theorem State.mapSec_fw : (s.mapSec f).fw = s.fw := rfl
@[simp] theorem State.mapSec_tide : (s.mapSec f).tide = s.tide := rfl
@[simp] theorem State.mapSec_pcie : (s.mapSec f).pcie = s.pcie := rfl
@[simp] theorem State.mapSec_funcs : (s.mapSec f).funcs = s.funcs := rfl
@[simp] theorem State.mapSec_mems : (s.mapSec f).mems = s.mems := rfl
@[simp] theorem State.mapSec_units : (s.mapSec f).units = s.units := rfl
@[simp] theorem State.mapSec_isles : (s.mapSec f).isles = s.isles := rfl
@[simp] theorem State.mapSec_pool : (s.mapSec f).pool = s.pool := rfl
@[simp] theorem State.mapSec_subslots : (s.mapSec f).subslots = s.subslots := rfl
@[simp] theorem State.mapSec_faults : (s.mapSec f).faults = s.faults := rfl
@[simp] theorem State.mapSec_cay : (s.mapSec f).cay = s.cay := rfl
@[simp] theorem State.mapSec_quiesce : (s.mapSec f).quiesce = s.quiesce := rfl
@[simp] theorem State.mapSec_utc : (s.mapSec f).utc = s.utc := rfl
@[simp] theorem State.mapSec_unparkQ : (s.mapSec f).unparkQ = s.unparkQ := rfl
@[simp] theorem State.mapSec_stu : (s.mapSec f).stu = s.stu := rfl
@[simp] theorem State.mapSec_ports : (s.mapSec f).ports = s.ports := rfl
@[simp] theorem State.mapSec_arch : (s.mapSec f).arch = s.arch := rfl
@[simp] theorem State.mapSec_remaps : (s.mapSec f).remaps = s.remaps := rfl
@[simp] theorem State.mapSec_fuses : (s.mapSec f).fuses = s.fuses := rfl
@[simp] theorem State.mapSec_sec : (s.mapSec f).sec = f s.sec := rfl
@[simp] theorem State.mapSec_ent : (s.mapSec f).ent = s.ent := rfl
@[simp] theorem State.mapSec_raus : (s.mapSec f).raus = s.raus := rfl
@[simp] theorem State.mapSec_halt : (s.mapSec f).halt = s.halt := rfl
@[simp] theorem State.mapSec_out : (s.mapSec f).out = s.out := rfl

end

/-! ## mapEnt -/

section
variable (f : Entropy → Entropy) (s : State)

@[simp] theorem State.mapEnt_pending : (s.mapEnt f).pending = s.pending := rfl
@[simp] theorem State.mapEnt_clk : (s.mapEnt f).clk = s.clk := rfl
@[simp] theorem State.mapEnt_pins : (s.mapEnt f).pins = s.pins := rfl
@[simp] theorem State.mapEnt_standby : (s.mapEnt f).standby = s.standby := rfl
@[simp] theorem State.mapEnt_power : (s.mapEnt f).power = s.power := rfl
@[simp] theorem State.mapEnt_boot : (s.mapEnt f).boot = s.boot := rfl
@[simp] theorem State.mapEnt_fw : (s.mapEnt f).fw = s.fw := rfl
@[simp] theorem State.mapEnt_tide : (s.mapEnt f).tide = s.tide := rfl
@[simp] theorem State.mapEnt_pcie : (s.mapEnt f).pcie = s.pcie := rfl
@[simp] theorem State.mapEnt_funcs : (s.mapEnt f).funcs = s.funcs := rfl
@[simp] theorem State.mapEnt_mems : (s.mapEnt f).mems = s.mems := rfl
@[simp] theorem State.mapEnt_units : (s.mapEnt f).units = s.units := rfl
@[simp] theorem State.mapEnt_isles : (s.mapEnt f).isles = s.isles := rfl
@[simp] theorem State.mapEnt_pool : (s.mapEnt f).pool = s.pool := rfl
@[simp] theorem State.mapEnt_subslots : (s.mapEnt f).subslots = s.subslots := rfl
@[simp] theorem State.mapEnt_faults : (s.mapEnt f).faults = s.faults := rfl
@[simp] theorem State.mapEnt_cay : (s.mapEnt f).cay = s.cay := rfl
@[simp] theorem State.mapEnt_quiesce : (s.mapEnt f).quiesce = s.quiesce := rfl
@[simp] theorem State.mapEnt_utc : (s.mapEnt f).utc = s.utc := rfl
@[simp] theorem State.mapEnt_unparkQ : (s.mapEnt f).unparkQ = s.unparkQ := rfl
@[simp] theorem State.mapEnt_stu : (s.mapEnt f).stu = s.stu := rfl
@[simp] theorem State.mapEnt_ports : (s.mapEnt f).ports = s.ports := rfl
@[simp] theorem State.mapEnt_arch : (s.mapEnt f).arch = s.arch := rfl
@[simp] theorem State.mapEnt_remaps : (s.mapEnt f).remaps = s.remaps := rfl
@[simp] theorem State.mapEnt_fuses : (s.mapEnt f).fuses = s.fuses := rfl
@[simp] theorem State.mapEnt_sec : (s.mapEnt f).sec = s.sec := rfl
@[simp] theorem State.mapEnt_ent : (s.mapEnt f).ent = f s.ent := rfl
@[simp] theorem State.mapEnt_raus : (s.mapEnt f).raus = s.raus := rfl
@[simp] theorem State.mapEnt_halt : (s.mapEnt f).halt = s.halt := rfl
@[simp] theorem State.mapEnt_out : (s.mapEnt f).out = s.out := rfl

end

/-! ## mapRau -/

section
variable (i : Nat) (f : Rau → Rau) (s : State)

@[simp] theorem State.mapRau_pending : (s.mapRau i f).pending = s.pending := rfl
@[simp] theorem State.mapRau_clk : (s.mapRau i f).clk = s.clk := rfl
@[simp] theorem State.mapRau_pins : (s.mapRau i f).pins = s.pins := rfl
@[simp] theorem State.mapRau_standby : (s.mapRau i f).standby = s.standby := rfl
@[simp] theorem State.mapRau_power : (s.mapRau i f).power = s.power := rfl
@[simp] theorem State.mapRau_boot : (s.mapRau i f).boot = s.boot := rfl
@[simp] theorem State.mapRau_fw : (s.mapRau i f).fw = s.fw := rfl
@[simp] theorem State.mapRau_tide : (s.mapRau i f).tide = s.tide := rfl
@[simp] theorem State.mapRau_pcie : (s.mapRau i f).pcie = s.pcie := rfl
@[simp] theorem State.mapRau_funcs : (s.mapRau i f).funcs = s.funcs := rfl
@[simp] theorem State.mapRau_mems : (s.mapRau i f).mems = s.mems := rfl
@[simp] theorem State.mapRau_units : (s.mapRau i f).units = s.units := rfl
@[simp] theorem State.mapRau_isles : (s.mapRau i f).isles = s.isles := rfl
@[simp] theorem State.mapRau_pool : (s.mapRau i f).pool = s.pool := rfl
@[simp] theorem State.mapRau_subslots : (s.mapRau i f).subslots = s.subslots := rfl
@[simp] theorem State.mapRau_faults : (s.mapRau i f).faults = s.faults := rfl
@[simp] theorem State.mapRau_cay : (s.mapRau i f).cay = s.cay := rfl
@[simp] theorem State.mapRau_quiesce : (s.mapRau i f).quiesce = s.quiesce := rfl
@[simp] theorem State.mapRau_utc : (s.mapRau i f).utc = s.utc := rfl
@[simp] theorem State.mapRau_unparkQ : (s.mapRau i f).unparkQ = s.unparkQ := rfl
@[simp] theorem State.mapRau_stu : (s.mapRau i f).stu = s.stu := rfl
@[simp] theorem State.mapRau_ports : (s.mapRau i f).ports = s.ports := rfl
@[simp] theorem State.mapRau_arch : (s.mapRau i f).arch = s.arch := rfl
@[simp] theorem State.mapRau_remaps : (s.mapRau i f).remaps = s.remaps := rfl
@[simp] theorem State.mapRau_fuses : (s.mapRau i f).fuses = s.fuses := rfl
@[simp] theorem State.mapRau_sec : (s.mapRau i f).sec = s.sec := rfl
@[simp] theorem State.mapRau_ent : (s.mapRau i f).ent = s.ent := rfl
@[simp] theorem State.mapRau_raus : (s.mapRau i f).raus = setAt s.raus i f := rfl
@[simp] theorem State.mapRau_halt : (s.mapRau i f).halt = s.halt := rfl
@[simp] theorem State.mapRau_out : (s.mapRau i f).out = s.out := rfl

end

/-! ## emit -/

section
variable (m : OutMsg) (s : State)

@[simp] theorem State.emit_pending : (s.emit m).pending = s.pending := rfl
@[simp] theorem State.emit_clk : (s.emit m).clk = s.clk := rfl
@[simp] theorem State.emit_pins : (s.emit m).pins = s.pins := rfl
@[simp] theorem State.emit_standby : (s.emit m).standby = s.standby := rfl
@[simp] theorem State.emit_power : (s.emit m).power = s.power := rfl
@[simp] theorem State.emit_boot : (s.emit m).boot = s.boot := rfl
@[simp] theorem State.emit_fw : (s.emit m).fw = s.fw := rfl
@[simp] theorem State.emit_tide : (s.emit m).tide = s.tide := rfl
@[simp] theorem State.emit_pcie : (s.emit m).pcie = s.pcie := rfl
@[simp] theorem State.emit_funcs : (s.emit m).funcs = s.funcs := rfl
@[simp] theorem State.emit_mems : (s.emit m).mems = s.mems := rfl
@[simp] theorem State.emit_units : (s.emit m).units = s.units := rfl
@[simp] theorem State.emit_isles : (s.emit m).isles = s.isles := rfl
@[simp] theorem State.emit_pool : (s.emit m).pool = s.pool := rfl
@[simp] theorem State.emit_subslots : (s.emit m).subslots = s.subslots := rfl
@[simp] theorem State.emit_faults : (s.emit m).faults = s.faults := rfl
@[simp] theorem State.emit_cay : (s.emit m).cay = s.cay := rfl
@[simp] theorem State.emit_quiesce : (s.emit m).quiesce = s.quiesce := rfl
@[simp] theorem State.emit_utc : (s.emit m).utc = s.utc := rfl
@[simp] theorem State.emit_unparkQ : (s.emit m).unparkQ = s.unparkQ := rfl
@[simp] theorem State.emit_stu : (s.emit m).stu = s.stu := rfl
@[simp] theorem State.emit_ports : (s.emit m).ports = s.ports := rfl
@[simp] theorem State.emit_arch : (s.emit m).arch = s.arch := rfl
@[simp] theorem State.emit_remaps : (s.emit m).remaps = s.remaps := rfl
@[simp] theorem State.emit_fuses : (s.emit m).fuses = s.fuses := rfl
@[simp] theorem State.emit_sec : (s.emit m).sec = s.sec := rfl
@[simp] theorem State.emit_ent : (s.emit m).ent = s.ent := rfl
@[simp] theorem State.emit_raus : (s.emit m).raus = s.raus := rfl
@[simp] theorem State.emit_halt : (s.emit m).halt = s.halt := rfl
@[simp] theorem State.emit_out : (s.emit m).out = m :: s.out := rfl

end

end Sys2Proof.Machine
end

