-- ==== Sys2Proof/Laws/Mailbox.lean ====
section
/-! SUPPORT. What acceptance does with a mailbox command that nothing holds back (R102, R107, R109), said once for every row. -/

namespace Sys2Proof.Machine

theorem setAt_length {α : Type} (l : List α) (i : Nat) (f : α → α) : (setAt l i f).length = l.length := by
  simp [setAt]

theorem getD_setAt_self {α : Type} (l : List α) (i : Nat) (f : α → α) (d : α) (h : i < l.length) :
    (setAt l i f).getD i d = f (l.getD i d) := by
  simp [setAt, List.getD_eq_getElem?_getD, h]

theorem getD_setAt_ne {α : Type} (l : List α) (i j : Nat) (f : α → α) (d : α) (h : i ≠ j) :
    (setAt l i f).getD j d = l.getD j d := by
  simp [setAt, List.getD_eq_getElem?_getD, h]

theorem func_mapFunc_self (s : State) (fn : Nat) (f : Func → Func) (h : fn < s.funcs.length) :
    (s.mapFunc fn f).func fn = f (s.func fn) := getD_setAt_self _ _ _ _ h

theorem func_mapFunc_ne (s : State) (fn k : Nat) (f : Func → Func) (h : fn ≠ k) : (s.mapFunc fn f).func k = s.func k :=
  getD_setAt_ne _ _ _ _ _ h

/-- An update that keeps the commands keeps them in every function, existing or not. -/
theorem func_mapFunc_cmds (s : State) (fn k : Nat) (f : Func → Func) (h : ∀ x, (f x).cmds = x.cmds) :
    ((s.mapFunc fn f).func k).cmds = (s.func k).cmds := by
  by_cases e : fn = k
  · subst e
    by_cases l : fn < s.funcs.length
    · rw [func_mapFunc_self _ _ _ l, h]
    · simp [State.func, State.mapFunc, setAt, List.getD_eq_getElem?_getD, l]
  · rw [func_mapFunc_ne _ _ _ _ e]

/-! ## Nothing held, nothing started -/

theorem pumpFn_quiet (tbl : CmdTable) (fn n : Nat) (s : State) (h : ∀ e ∈ (s.func fn).cmds, e.phase ≠ .held) :
    pumpFn tbl fn n s = s := by
  cases n with
  | zero => rfl
  | succ n =>
    have : ((s.func fn).cmds.find? fun c => c.phase == .held && !replayHeld tbl s fn c && (atBoundary tbl c || !blocked tbl (s.func fn) c)) = none := by
      rw [List.find?_eq_none]
      intro e he
      simp [h e he]
    simp only [pumpFn]
    rw [this]

theorem pumpAll_quiet (tbl : CmdTable) (s : State) (h : Quiet s) : pumpAll tbl s = s := by
  have : ∀ l : List Nat, l.foldl (fun s fn => if (s.func fn).cmds.isEmpty then s else pumpFn tbl fn 64 s) s = s := by
    intro l
    induction l with
    | nil => rfl
    | cons fn l ih =>
      rw [List.foldl_cons]
      have e : (if (s.func fn).cmds.isEmpty then s else pumpFn tbl fn 64 s) = s := by
        split
        · rfl
        · exact pumpFn_quiet tbl fn 64 s (h fn)
      rw [e]
      exact ih
  exact this _

theorem settle_quiet (fn : Nat) (s : State) (h : Quiet s) : settle fn s = s := by
  unfold settle
  rw [pumpFn_quiet _ _ _ _ (h fn), pumpAll_quiet _ _ h]

/-! ## Acceptance -/

/-- Writing a slot changes the slots alone. -/
theorem putSlot_eq (slot : Nat) (h : Hdr) (payload : Bytes) (f : Func) :
    putSlot slot h payload f = { f with slots := (putSlot slot h payload f).slots } := by
  unfold putSlot
  generalize Memory.writeN f.slots (256 * slot) ((hdrBytes h ++ payload).take 256) = m
  split <;> rfl

theorem putSlot_cmds (slot : Nat) (h : Hdr) (payload : Bytes) (f : Func) : (putSlot slot h payload f).cmds = f.cmds := by
  rw [putSlot_eq]

theorem putSlot_nextSeq (slot : Nat) (h : Hdr) (payload : Bytes) (f : Func) : (putSlot slot h payload f).nextSeq = f.nextSeq := by
  rw [putSlot_eq]

theorem putSlot_view (slot : Nat) (h : Hdr) (payload : Bytes) (f : Func) : (putSlot slot h payload f).view = f.view := by
  rw [putSlot_eq]

theorem entered_cmds {spec : CmdSpec} {c : MbxArg} {s : State} (h : c.fn < s.funcs.length) :
    ((entered spec c s).func c.fn).cmds = (s.func c.fn).cmds ++ [queued spec c s] := by
  unfold entered
  rw [func_mapFunc_self _ _ _ (by simpa [State.mapFunc, setAt_length] using h), func_mapFunc_self _ _ _ h, putSlot_cmds]

/-- The one held command is the one that came. -/
theorem entered_found {spec : CmdSpec} {c : MbxArg} {s : State} (h : Accepted spec c s) (ht : cmdTable spec.opcode = some spec) :
    (((entered spec c s).func c.fn).cmds.find? fun e => e.phase == .held && !replayHeld cmdTable (entered spec c s) c.fn e &&
      (atBoundary cmdTable e || !blocked cmdTable ((entered spec c s).func c.fn) e)) = some (queued spec c s) := by
  rw [entered_cmds h.fn, List.find?_append]
  have q : ((s.func c.fn).cmds.find? fun e => e.phase == .held && !replayHeld cmdTable (entered spec c s) c.fn e &&
      (atBoundary cmdTable e || !blocked cmdTable ((entered spec c s).func c.fn) e)) = none := by
    rw [List.find?_eq_none]
    intro e he
    simp [h.quiet c.fn e he]
  have b : atBoundary cmdTable (queued spec c s) = spec.boundary := by
    simp [atBoundary, queued, ht]
  have p : (queued spec c s).phase = .held := rfl
  rw [q]
  rcases h.order with o | o
  · simp [b, o, h.held, p]
  · simp [o, h.held, p]

/-- What acceptance does with a command that has been written to its slot. -/
theorem acceptCmd_eq {spec : CmdSpec} {c : MbxArg} {s : State} (h : c.fn < s.funcs.length) :
    acceptCmd cmdTable (some spec) c.fn c.slot { c.hdr with opcode := spec.opcode } c.payload
        (s.mapFunc c.fn (putSlot c.slot { c.hdr with opcode := spec.opcode } c.payload)) =
      match checkAll (entered spec c s) c.fn (some spec) (queued spec c s) with
      | some (st, d) => refuse c.fn (s.func c.fn).nextSeq (queued spec c s)
          (spec.peerMark || spec.peer (entered spec c s) c.fn (bodyOf c)) st d (entered spec c s)
      | none => pumpFn cmdTable c.fn 64 (spec.accepted c.fn (queued spec c s) (entered spec c s)) := by
  unfold acceptCmd
  have e : ((s.mapFunc c.fn (putSlot c.slot { c.hdr with opcode := spec.opcode } c.payload)).mapFunc c.fn fun f =>
    { f with cmds := f.cmds ++ [queued spec c s], nextSeq := f.nextSeq + 1 }) = entered spec c s := rfl
  have q : ({ seq := (s.func c.fn).nextSeq, slot := c.slot, hdr := { c.hdr with opcode := spec.opcode }, payload := c.payload.take c.hdr.plen,
              d := quantNow s, phase := .held, data := spec.data c.payload, view := (s.func c.fn).view } : Cmd) = queued spec c s := rfl
  have d : quantNow (s.mapFunc c.fn (putSlot c.slot { c.hdr with opcode := spec.opcode } c.payload)) = quantNow s := rfl
  simp only [func_mapFunc_self _ _ _ h, putSlot_nextSeq, putSlot_view, d, q, e]
  rfl

/-- A function that copies a slot exists. -/
theorem copiesNow_lt {s : State} {fn slot : Nat} (h : copiesNow (s.func fn) slot = true) : fn < s.funcs.length := by
  by_cases l : fn < s.funcs.length
  · exact l
  · have : s.func fn = {} := by simp [State.func, List.getD, List.getElem?_eq_none (Nat.le_of_not_lt l)]
    rw [this] at h
    simp [copiesNow] at h

/-- Acceptance queues the command and starts it. -/
theorem mbxRow_starts {spec : CmdSpec} {c : MbxArg} {s : State} (h : Accepted spec c s) (ht : cmdTable spec.opcode = some spec)
    (ha : spec.accepted c.fn (queued spec c s) (entered spec c s) = entered spec c s) :
    mbxRow cmdTable spec c s = settle c.fn (startCmd spec c.fn (queued spec c s) (entered spec c s)) := by
  have acc := acceptCmd_eq (spec := spec) (c := c) (s := s) h.fn
  simp only [h.passes, ha] at acc
  rw [pumpFn] at acc
  simp only [entered_found h ht] at acc
  have o : cmdTable (queued spec c s).hdr.opcode = some spec := ht
  rw [o] at acc
  unfold mbxRow hostRow settle
  simp [h.alive, h.room, acc]

/-- A command that is neither peer-checked nor boundary-executed executes at once. -/
theorem mbxRow_runs {spec : CmdSpec} {c : MbxArg} {s : State} (h : Accepted spec c s) (ht : cmdTable spec.opcode = some spec)
    (ha : spec.accepted c.fn (queued spec c s) (entered spec c s) = entered spec c s) (hb : spec.boundary = false) (hp : spec.peer (entered spec c s) c.fn (bodyOf c) = false) :
    mbxRow cmdTable spec c s = settle c.fn (spec.run c.fn (queued spec c s) (tideNow s) (working spec c s)) := by
  rw [mbxRow_starts h ht ha]
  have l : replayLate (entered spec c s) c.fn (queued spec c s) = false := by
    rcases h.late with l | l
    · simp [hb] at l
    · exact l
  have p : spec.peer (entered spec c s) c.fn (queued spec c s).payload = false := hp
  simp only [startCmd, p, hb, l]
  rfl

/-! ## What posting an entry leaves as it was -/

theorem sendVector_cmds (fn v k : Nat) (s : State) : ((sendVector fn v s).func k).cmds = (s.func k).cmds := by
  unfold sendVector
  dsimp only
  split
  · rfl
  · split
    · exact func_mapFunc_cmds _ _ _ _ (fun _ => rfl)
    · rfl

theorem setCause_cmds (fn b k : Nat) (s : State) : ((setCause fn b s).func k).cmds = (s.func k).cmds := by
  unfold setCause
  dsimp only
  split
  · rfl
  · split
    · exact func_mapFunc_cmds _ _ _ _ (fun _ => rfl)
    · split
      · exact func_mapFunc_cmds _ _ _ _ (fun _ => rfl)
      · rw [sendVector_cmds]; exact func_mapFunc_cmds _ _ _ _ (fun _ => rfl)

/-- A write to host memory changes that memory and the translations held for it, unless the function is in reset. -/
theorem hostWrite_eq (fn a : Nat) (bs : Bytes) (s : State) :
    hostWrite fn a bs s = { s with mems := { s.mems with
      host := (hostWrite fn a bs s).mems.host, ats := (hostWrite fn a bs s).mems.ats } } := by
  unfold hostWrite hostTouch
  dsimp only
  split
  · rfl
  · split <;> rfl

theorem hostWrite_func (fn a : Nat) (bs : Bytes) (k : Nat) (s : State) : (hostWrite fn a bs s).func k = s.func k := by
  rw [hostWrite_eq]; rfl

theorem writeEntry_cmds (fn : Nat) (e : Entry) (k : Nat) (s : State) : ((writeEntry fn e s).func k).cmds = (s.func k).cmds := by
  have b : ∀ t : State, ((t.mapFunc fn fun f => { f with tail := (f.tail + 1) % 256, unread := f.unread + 1 }).func k).cmds
      = (t.func k).cmds := fun t => func_mapFunc_cmds _ _ _ _ (fun _ => rfl)
  unfold writeEntry
  generalize entryBytes e = eb
  dsimp only
  split <;> split <;> (try rw [setCause_cmds]) <;> (try rw [hostWrite_func]) <;> rw [b, hostWrite_func]

theorem postEntry_cmds (fn : Nat) (e : Entry) (k : Nat) (s : State) : ((postEntry fn e s).func k).cmds = (s.func k).cmds := by
  unfold postEntry
  dsimp only
  split
  · rfl
  · split
    · exact writeEntry_cmds _ _ _ _
    · rw [setCause_cmds]; exact func_mapFunc_cmds _ _ _ _ (fun _ => rfl)

theorem noteCommand_cmds (tide fn : Nat) (c : Cmd) (st : Status) (w : Words) (k : Nat) (s : State) :
    ((noteCommand tide fn c st w s).func k).cmds = (s.func k).cmds := by
  unfold noteCommand logCommand
  dsimp only
  split <;> rfl

theorem dropCmd_sub (fn seq k : Nat) (s : State) {e : Cmd} (h : e ∈ ((dropCmd fn seq s).func k).cmds) : e ∈ (s.func k).cmds := by
  unfold dropCmd at h
  by_cases hk : fn = k
  · subst hk
    by_cases l : fn < s.funcs.length
    · rw [func_mapFunc_self _ _ _ l] at h
      exact (List.mem_filter.mp h).1
    · simp [State.func, State.mapFunc, setAt, List.getD_eq_getElem?_getD, l] at h
  · rwa [func_mapFunc_ne _ _ _ _ hk] at h

/-- Posting the final entry of a command starts nothing: what was not held stays so. -/
theorem quiet_finishAt (tide fn seq : Nat) (st : Status) (d : Nat) (w : Words) (s : State) (h : Quiet s) :
    Quiet (finishAt tide fn seq st d w s) := by
  unfold finishAt
  split
  · exact h
  · intro k e he
    rw [postEntry_cmds] at he
    have := dropCmd_sub _ _ _ _ he
    rw [noteCommand_cmds] at this
    exact h k e this

/-- Once its execution has begun, the command is held no more. -/
theorem quiet_setPhase {spec : CmdSpec} {c : MbxArg} {s : State} (p : CmdPhase) (hp : p ≠ .held) (h : Accepted spec c s) :
    ∀ fn, ∀ e ∈ ((setPhase c.fn (s.func c.fn).nextSeq p (entered spec c s)).func fn).cmds, e.phase ≠ .held := by
  intro fn e he
  unfold setPhase at he
  by_cases k : c.fn = fn
  · subst k
    have l : c.fn < (entered spec c s).funcs.length := by unfold entered; simp [setAt_length, h.fn]
    rw [func_mapFunc_self _ _ _ l] at he
    obtain ⟨x, hx, rfl⟩ := List.mem_map.mp he
    rw [entered_cmds h.fn] at hx
    split
    · exact hp
    · rcases List.mem_append.mp hx with hx | hx
      · exact h.quiet _ _ hx
      · rename_i n; rw [List.mem_singleton] at hx; subst hx; exact absurd rfl n
  · rw [func_mapFunc_ne _ _ _ _ k] at he
    unfold entered at he
    rw [func_mapFunc_ne _ _ _ _ k, func_mapFunc_ne _ _ _ _ k] at he
    exact h.quiet _ _ he

theorem quiet_working {spec : CmdSpec} {c : MbxArg} {s : State} (h : Accepted spec c s) : Quiet (working spec c s) :=
  quiet_setPhase _ (by simp) h

/-- A boundary-executed command that is not peer-checked waits for its boundary, and nothing else happens. -/
theorem mbxRow_waits {spec : CmdSpec} {c : MbxArg} {s : State} (h : Accepted spec c s) (ht : cmdTable spec.opcode = some spec)
    (ha : spec.accepted c.fn (queued spec c s) (entered spec c s) = entered spec c s) (hb : spec.boundary = true) (hp : spec.peer (entered spec c s) c.fn (bodyOf c) = false) :
    mbxRow cmdTable spec c s = waiting spec c s := by
  rw [mbxRow_starts h ht ha]
  have p : spec.peer (entered spec c s) c.fn (queued spec c s).payload = false := hp
  simp only [startCmd, p, hb]
  exact settle_quiet _ _ (quiet_setPhase _ (by simp) h)

/-- A command whose execution only posts its final entry: that is the next state. -/
theorem mbxRow_answers {spec : CmdSpec} {c : MbxArg} {s : State} {st : Status} {w : Words} {eff : State → State} (h : Accepted spec c s)
    (ht : cmdTable spec.opcode = some spec) (ha : spec.accepted c.fn (queued spec c s) (entered spec c s) = entered spec c s) (hb : spec.boundary = false)
    (hp : spec.peer (entered spec c s) c.fn (bodyOf c) = false)
    (hr : spec.run c.fn (queued spec c s) (tideNow s) (working spec c s) = answered spec c st w eff s)
    (hq : Quiet (eff (working spec c s))) :
    mbxRow cmdTable spec c s = answered spec c st w eff s := by
  rw [mbxRow_runs h ht ha hb hp, hr]
  exact settle_quiet _ _ (quiet_finishAt _ _ _ _ _ _ _ hq)

/-- At its boundary a waiting command is executed with that boundary's stamp (R107). -/
theorem boundaryCmds_due {spec : CmdSpec} {ok : State → Nat → Cmd → Bool} {fn b : Nat} {c : Cmd} {s : State}
    (h : Due spec ok fn c s) (ht : cmdTable spec.opcode = some spec) (hn : blocked cmdTable (s.func fn) c = false) :
    boundaryCmds cmdTable ok fn b s = spec.run fn c b s := by
  unfold boundaryCmds
  have f : findCmd s fn c.seq = some c := by simp [findCmd, h.alone]
  have o : cmdTable c.hdr.opcode = some spec := by rw [h.opcode]; exact ht
  simp [h.alone, f, h.waits, hn, h.may, o, h.judged]

/-- A command that waits alone is held back by no order. -/
theorem blocked_alone (tbl : CmdTable) (f : Func) (c : Cmd) (h : f.cmds = [c]) : blocked tbl f c = false := by
  simp [blocked, h]

theorem due_runs {spec : CmdSpec} {ok : State → Nat → Cmd → Bool} {fn b : Nat} {c : Cmd} {s t : State}
    (h : Due spec ok fn c s) (ht : cmdTable spec.opcode = some spec) (hr : spec.run fn c b s = t) :
    boundaryCmds cmdTable ok fn b s = t :=
  (boundaryCmds_due h ht (blocked_alone _ _ _ h.alone)).trans hr

end Sys2Proof.Machine
end

