-- ==== Sys2Proof/Laws/Commands.lean ====
section
/-! SUPPORT. What a proof about a command of Table 20.2 needs, so that it unfolds neither a specification nor the queue: the execution of
each command by name, what the state that executes it still holds, and the next state of a command that executes at once. -/

namespace Sys2Proof.Machine

/-! ## The executing state -/

section
variable (spec : CmdSpec) (c : MbxArg) (s : State)
@[simp] theorem working_pending : (working spec c s).pending = s.pending := rfl
@[simp] theorem working_clk : (working spec c s).clk = s.clk := rfl
@[simp] theorem working_pins : (working spec c s).pins = s.pins := rfl
@[simp] theorem working_standby : (working spec c s).standby = s.standby := rfl
@[simp] theorem working_power : (working spec c s).power = s.power := rfl
@[simp] theorem working_boot : (working spec c s).boot = s.boot := rfl
@[simp] theorem working_fw : (working spec c s).fw = s.fw := rfl
@[simp] theorem working_tide : (working spec c s).tide = s.tide := rfl
@[simp] theorem working_pcie : (working spec c s).pcie = s.pcie := rfl
@[simp] theorem working_mems : (working spec c s).mems = s.mems := rfl
@[simp] theorem working_units : (working spec c s).units = s.units := rfl
@[simp] theorem working_isles : (working spec c s).isles = s.isles := rfl
@[simp] theorem working_pool : (working spec c s).pool = s.pool := rfl
@[simp] theorem working_subslots : (working spec c s).subslots = s.subslots := rfl
@[simp] theorem working_stu : (working spec c s).stu = s.stu := rfl
@[simp] theorem working_faults : (working spec c s).faults = s.faults := rfl
@[simp] theorem working_cay : (working spec c s).cay = s.cay := rfl
@[simp] theorem working_quiesce : (working spec c s).quiesce = s.quiesce := rfl
@[simp] theorem working_utc : (working spec c s).utc = s.utc := rfl
@[simp] theorem working_unparkQ : (working spec c s).unparkQ = s.unparkQ := rfl
@[simp] theorem working_ports : (working spec c s).ports = s.ports := rfl
@[simp] theorem working_arch : (working spec c s).arch = s.arch := rfl
@[simp] theorem working_remaps : (working spec c s).remaps = s.remaps := rfl
@[simp] theorem working_fuses : (working spec c s).fuses = s.fuses := rfl
@[simp] theorem working_sec : (working spec c s).sec = s.sec := rfl
@[simp] theorem working_ent : (working spec c s).ent = s.ent := rfl
@[simp] theorem working_raus : (working spec c s).raus = s.raus := rfl
@[simp] theorem working_halt : (working spec c s).halt = s.halt := rfl
@[simp] theorem working_out : (working spec c s).out = s.out := rfl
@[simp] theorem working_isle (k : Nat) : (working spec c s).isle k = s.isle k := rfl
@[simp] theorem working_port (k : Nat) : (working spec c s).port k = s.port k := rfl
@[simp] theorem working_caySlot (k : Nat) : (working spec c s).caySlot k = s.caySlot k := rfl
@[simp] theorem working_tideNow : tideNow (working spec c s) = tideNow s := rfl
@[simp] theorem working_chipId : chipId (working spec c s) = chipId s := rfl
@[simp] theorem queued_payload : (queued spec c s).payload = bodyOf c := rfl
@[simp] theorem queued_seq : (queued spec c s).seq = (s.func c.fn).nextSeq := rfl
end

/-! ## The execution of each command -/

@[simp] theorem specAdmitSet_run : specAdmitSet.run = runAdmitSet := by simp only [specAdmitSet]
@[simp] theorem specAlertAck_run : specAlertAck.run = runAlertAck := by simp only [specAlertAck]
@[simp] theorem specArchForm_run : specArchForm.run = runArchForm := by simp only [specArchForm]
@[simp] theorem specArchLeave_run : specArchLeave.run = runArchLeave := by simp only [specArchLeave]
@[simp] theorem specArchQuery_run : specArchQuery.run = runArchQuery := by simp only [specArchQuery]
@[simp] theorem specAttestCerts_run : specAttestCerts.run = runAttestCerts := by simp only [specAttestCerts]
@[simp] theorem specAttestQuote_run : specAttestQuote.run = runAttestQuote := by simp only [specAttestQuote]
@[simp] theorem specCartEject_run : specCartEject.run = runCartEject := by simp only [specCartEject]
@[simp] theorem specCartLifeSet_run : specCartLifeSet.run = runCartLifeSet := by simp only [specCartLifeSet]
@[simp] theorem specCartPair_run : specCartPair.run = runCartPair := by simp only [specCartPair]
@[simp] theorem specCartQuery_run : specCartQuery.run = runCartQuery := by simp only [specCartQuery]
@[simp] theorem specCartQuiesce_run : specCartQuiesce.run = runCartQuiesce := by simp only [specCartQuiesce]
@[simp] theorem specCartTimeSet_run : specCartTimeSet.run = runCartTimeSet := by simp only [specCartTimeSet]
@[simp] theorem specCartUnpair_run : specCartUnpair.run = runCartUnpair := by simp only [specCartUnpair]
@[simp] theorem specDebugUnlock_run : specDebugUnlock.run = runDebugUnlock := by simp only [specDebugUnlock]
@[simp] theorem specDetQuery_run : specDetQuery.run = runDetQuery := by simp only [specDetQuery]
@[simp] theorem specDrawSet_run : specDrawSet.run = runDrawSet := by simp only [specDrawSet]
@[simp] theorem specEntropyQuery_run : specEntropyQuery.run = runEntropyQuery := by simp only [specEntropyQuery]
@[simp] theorem specEntropyRestart_run : specEntropyRestart.run = runEntropyRestart := by simp only [specEntropyRestart]
@[simp] theorem specFaultClear_run : specFaultClear.run = runFaultClear := by simp only [specFaultClear]
@[simp] theorem specFaultQuery_run : specFaultQuery.run = runFaultQuery := by simp only [specFaultQuery]
@[simp] theorem specFwActivate_run : specFwActivate.run = runFwActivate := by simp only [specFwActivate]
@[simp] theorem specFwStage_run : specFwStage.run = runFwStage := by simp only [specFwStage]
@[simp] theorem specIsleCreate_run : specIsleCreate.run = runIsleCreate := by simp only [specIsleCreate]
@[simp] theorem specIsleDestroy_run : specIsleDestroy.run = runIsleDestroy := by simp only [specIsleDestroy]
@[simp] theorem specIsleDisable_run : specIsleDisable.run = runIsleDisable := by simp only [specIsleDisable]
@[simp] theorem specIsleEnable_run : specIsleEnable.run = runIsleEnable := by simp only [specIsleEnable]
@[simp] theorem specIsleQosSet_run : specIsleQosSet.run = runIsleQosSet := by simp only [specIsleQosSet]
@[simp] theorem specIsleQuery_run : specIsleQuery.run = runIsleQuery := by simp only [specIsleQuery]
@[simp] theorem specIsleReset_run : specIsleReset.run = runIsleReset := by simp only [specIsleReset]
@[simp] theorem specIsleResize_run : specIsleResize.run = runIsleResize := by simp only [specIsleResize]
@[simp] theorem specKeyAdvance_run : specKeyAdvance.run = runKeyAdvance := by simp only [specKeyAdvance]
@[simp] theorem specKeyEpochQuery_run : specKeyEpochQuery.run = runKeyEpochQuery := by simp only [specKeyEpochQuery]
@[simp] theorem specKeyEpochRetire_run : specKeyEpochRetire.run = runKeyEpochRetire := by simp only [specKeyEpochRetire]
@[simp] theorem specKeyEpochRotate_run : specKeyEpochRotate.run = runKeyEpochRotate := by simp only [specKeyEpochRotate]
@[simp] theorem specKeyRevoke_run : specKeyRevoke.run = runKeyRevoke := by simp only [specKeyRevoke]
@[simp] theorem specLcChallenge_run : specLcChallenge.run = askFor 32 challengeNow := by simp only [specLcChallenge]
@[simp] theorem specLcQuery_run : specLcQuery.run = runLcQuery := by simp only [specLcQuery]
@[simp] theorem specLcTransition_run : specLcTransition.run = runLcTransition := by simp only [specLcTransition]
@[simp] theorem specMemLoad_run : specMemLoad.run = runTransfer := by simp only [specMemLoad]
@[simp] theorem specMemModeSet_run : specMemModeSet.run = runMemModeSet := by simp only [specMemModeSet]
@[simp] theorem specMemQuery_run : specMemQuery.run = runMemQuery := by simp only [specMemQuery]
@[simp] theorem specMemResidentSet_run : specMemResidentSet.run = runMemResidentSet := by simp only [specMemResidentSet]
@[simp] theorem specMemStore_run : specMemStore.run = runTransfer := by simp only [specMemStore]
@[simp] theorem specPaceQuery_run : specPaceQuery.run = runPaceQuery := by simp only [specPaceQuery]
@[simp] theorem specPoolSet_run : specPoolSet.run = runPoolSet := by simp only [specPoolSet]
@[simp] theorem specPortQuery_run : specPortQuery.run = runPortQuery := by simp only [specPortQuery]
@[simp] theorem specPressureQuery_run : specPressureQuery.run = runPressureQuery := by simp only [specPressureQuery]
@[simp] theorem specProgLoad_run : specProgLoad.run = runProgLoad := by simp only [specProgLoad]
@[simp] theorem specProgQuery_run : specProgQuery.run = runProgQuery := by simp only [specProgQuery]
@[simp] theorem specProgRun_run : specProgRun.run = runProgRun := by simp only [specProgRun]
@[simp] theorem specProgUnload_run : specProgUnload.run = runProgUnload := by simp only [specProgUnload]
@[simp] theorem specReplayAdvance_run : specReplayAdvance.run = runReplayAdvance := by simp only [specReplayAdvance]
@[simp] theorem specReplayLogSet_run : specReplayLogSet.run = runReplayLogSet := by simp only [specReplayLogSet]
@[simp] theorem specReplayLogStop_run : specReplayLogStop.run = runReplayLogStop := by simp only [specReplayLogStop]
@[simp] theorem specReplayStart_run : specReplayStart.run = runReplayStart := by simp only [specReplayStart]
@[simp] theorem specReplayStop_run : specReplayStop.run = runReplayStop := by simp only [specReplayStop]
@[simp] theorem specRngRead_run : specRngRead.run = runRngRead := by simp only [specRngRead]
@[simp] theorem specSealKeyDrop_run : specSealKeyDrop.run = runSealKeyDrop := by simp only [specSealKeyDrop]
@[simp] theorem specSealKeyLoad_run : specSealKeyLoad.run = runSealKeyLoad := by simp only [specSealKeyLoad]
@[simp] theorem specSealPsetSet_run : specSealPsetSet.run = runSealPsetSet := by simp only [specSealPsetSet]
@[simp] theorem specSealQuery_run : specSealQuery.run = runSealQuery := by simp only [specSealQuery]
@[simp] theorem specSeqBatchSet_run : specSeqBatchSet.run = runSeqBatchSet := by simp only [specSeqBatchSet]
@[simp] theorem specSeqBind_run : specSeqBind.run = runSeqBind := by simp only [specSeqBind]
@[simp] theorem specSeqCreate_run : specSeqCreate.run = runSeqCreate := by simp only [specSeqCreate]
@[simp] theorem specSeqDestroy_run : specSeqDestroy.run = runSeqDestroy := by simp only [specSeqDestroy]
@[simp] theorem specSeqPark_run : specSeqPark.run = runSeqPark := by simp only [specSeqPark]
@[simp] theorem specSeqPoolSet_run : specSeqPoolSet.run = runSeqPoolSet := by simp only [specSeqPoolSet]
@[simp] theorem specSeqPrefixDrop_run : specSeqPrefixDrop.run = runSeqPrefixDrop := by simp only [specSeqPrefixDrop]
@[simp] theorem specSeqQuery_run : specSeqQuery.run = runSeqQuery := by simp only [specSeqQuery]
@[simp] theorem specSeqRewind_run : specSeqRewind.run = runSeqRewind := by simp only [specSeqRewind]
@[simp] theorem specSeqWakeHint_run : specSeqWakeHint.run = runSeqWakeHint := by simp only [specSeqWakeHint]
@[simp] theorem specShardSelect_run : specShardSelect.run = runShardSelect := by simp only [specShardSelect]
@[simp] theorem specSlotTableSet_run : specSlotTableSet.run = runSlotTableSet := by simp only [specSlotTableSet]
@[simp] theorem specStreamCreate_run : specStreamCreate.run = runStreamCreate := by simp only [specStreamCreate]
@[simp] theorem specStreamDestroy_run : specStreamDestroy.run = runStreamDestroy := by simp only [specStreamDestroy]
@[simp] theorem specStreamQuery_run : specStreamQuery.run = runStreamQuery := by simp only [specStreamQuery]
@[simp] theorem specT1Query_run : specT1Query.run = runT1Query := by simp only [specT1Query]
@[simp] theorem specTapArm_run : specTapArm.run = runTapArm := by simp only [specTapArm]
@[simp] theorem specTapClose_run : specTapClose.run = runTapClose := by simp only [specTapClose]
@[simp] theorem specTapQuery_run : specTapQuery.run = runTapQuery := by simp only [specTapQuery]
@[simp] theorem specTideEpochSet_run : specTideEpochSet.run = runTideEpochSet := by simp only [specTideEpochSet]
@[simp] theorem specTideQuery_run : specTideQuery.run = runTideQuery := by simp only [specTideQuery]
@[simp] theorem specUnitQuery_run : specUnitQuery.run = runUnitQuery := by simp only [specUnitQuery]
@[simp] theorem specUnitRetire_run : specUnitRetire.run = runUnitRetire := by simp only [specUnitRetire]
@[simp] theorem specUnitReturn_run : specUnitReturn.run = runUnitReturn := by simp only [specUnitReturn]
@[simp] theorem specWinClose_run : specWinClose.run = runWinClose := by simp only [specWinClose]
@[simp] theorem specWinOpen_run : specWinOpen.run = runWinOpen := by simp only [specWinOpen]
@[simp] theorem specWinQuery_run : specWinQuery.run = runWinQuery := by simp only [specWinQuery]

/-! ## Rows and refusals -/

/-- Every mailbox command is its own row of the table: exec accepts it with the specification of its opcode. -/
theorem exec_row {op : Nat} {spec : CmdSpec} {c : MbxArg} {i : Instr} (ht : cmdTable op = some spec) (hr : RowOf op c i) (s : State) :
    exec i s = .next (mbxRow cmdTable spec c s) ∧ spec.opcode = op := by
  unfold RowOf at hr
  split at hr
  all_goals first | exact hr.elim | (subst hr; injection (ht : some _ = some spec) with ht; subst ht; exact ⟨rfl, rfl⟩)

/-- After a command is entered and given a phase that is not held, nothing is held that was not before. -/
theorem quiet_entered_phase (p : CmdPhase) (hp : p ≠ .held) {spec : CmdSpec} {c : MbxArg} {s : State} (hf : c.fn < s.funcs.length) (hq : Quiet s) :
    Quiet (setPhase c.fn (s.func c.fn).nextSeq p (entered spec c s)) := by
  intro fn e he
  unfold setPhase at he
  by_cases k : c.fn = fn
  · subst k
    have l : c.fn < (entered spec c s).funcs.length := by unfold entered; simp [setAt_length, hf]
    rw [func_mapFunc_self _ _ _ l] at he
    obtain ⟨x, hx, rfl⟩ := List.mem_map.mp he
    rw [entered_cmds hf] at hx
    split
    · exact hp
    · rcases List.mem_append.mp hx with hx | hx
      · exact hq _ _ hx
      · rename_i n; rw [List.mem_singleton] at hx; subst hx; exact absurd rfl n
  · rw [func_mapFunc_ne _ _ _ _ k] at he
    unfold entered at he
    rw [func_mapFunc_ne _ _ _ _ k, func_mapFunc_ne _ _ _ _ k] at he
    exact hq _ _ he

/-- A command that a check stops is refused, and nothing else is decided (R107, R110). -/
theorem row_refused {spec : CmdSpec} {c : MbxArg} {s : State} {st : Status} {d : Nat} (ha : fnAlive s c.fn = true)
    (hr : copiesNow (s.func c.fn) c.slot = true)
    (hc : checkAll (entered spec c s) c.fn (some spec) (queued spec c s) = some (st, d)) :
    mbxRow cmdTable spec c s = pumpAll cmdTable (refuse c.fn (s.func c.fn).nextSeq (queued spec c s)
      (spec.peerMark || spec.peer (entered spec c s) c.fn (bodyOf c)) st d (entered spec c s)) := by
  have acc := acceptCmd_eq (spec := spec) (c := c) (s := s) (copiesNow_lt hr)
  simp only [hc] at acc
  unfold mbxRow hostRow
  simp [ha, hr, acc]

/-! ## Commands that execute at once -/

theorem exec_runs {spec : CmdSpec} {c : MbxArg} {s t : State} (h : Accepted spec c s) (ht : cmdTable spec.opcode = some spec)
    (ha : spec.accepted c.fn (queued spec c s) (entered spec c s) = entered spec c s) (hb : spec.boundary = false) (hp : spec.peer (entered spec c s) c.fn (bodyOf c) = false)
    (hr : spec.run c.fn (queued spec c s) (tideNow s) (working spec c s) = t) :
    (.next (mbxRow cmdTable spec c s) : Host.Outcome State Fault Refusal) = .next (settle c.fn t) :=
  congrArg Host.Outcome.next ((mbxRow_runs h ht ha hb hp).trans (congrArg (settle c.fn) hr))

theorem exec_waits {spec : CmdSpec} {c : MbxArg} {s : State} (h : Accepted spec c s) (ht : cmdTable spec.opcode = some spec)
    (ha : spec.accepted c.fn (queued spec c s) (entered spec c s) = entered spec c s) (hb : spec.boundary = true) (hp : spec.peer (entered spec c s) c.fn (bodyOf c) = false) :
    (.next (mbxRow cmdTable spec c s) : Host.Outcome State Fault Refusal) = .next (waiting spec c s) :=
  congrArg Host.Outcome.next (mbxRow_waits h ht ha hb hp)

/-- A peer-checked command with peers to ask: its message goes out, and it waits until its Q (R111). -/
theorem exec_asks {spec : CmdSpec} {c : MbxArg} {s : State} (h : Accepted spec c s) (ht : cmdTable spec.opcode = some spec)
    (ha : spec.accepted c.fn (queued spec c s) (entered spec c s) = entered spec c s) (hp : spec.peer (entered spec c s) c.fn (bodyOf c) = true) :
    (.next (mbxRow cmdTable spec c s) : Host.Outcome State Fault Refusal) =
      .next ((setPhase c.fn (s.func c.fn).nextSeq (.peer (peerQuantum (quantNow s))) (entered spec c s)).emit
        (.peer 0xFF spec.opcode [c.fn, c.hdr.tag] (spec.peerData (entered spec c s) c.fn (bodyOf c)))) := by
  have p : spec.peer (entered spec c s) c.fn (queued spec c s).payload = true := hp
  have m : startCmd spec c.fn (queued spec c s) (entered spec c s) =
      (setPhase c.fn (s.func c.fn).nextSeq (.peer (peerQuantum (quantNow s))) (entered spec c s)).emit
        (.peer 0xFF spec.opcode [c.fn, c.hdr.tag] (spec.peerData (entered spec c s) c.fn (bodyOf c))) := by
    unfold startCmd
    rw [p, if_pos rfl]
    rfl
  have q : Quiet ((setPhase c.fn (s.func c.fn).nextSeq (.peer (peerQuantum (quantNow s))) (entered spec c s)).emit
        (.peer 0xFF spec.opcode [c.fn, c.hdr.tag] (spec.peerData (entered spec c s) c.fn (bodyOf c)))) := fun fn e he => quiet_setPhase _ (by simp) h fn e he
  rw [mbxRow_starts h ht ha, m, settle_quiet _ _ q]

/-! ## Deciding acceptance -/

/-- `Accepted` as a test that can be evaluated. -/
def acceptedB (spec : CmdSpec) (c : MbxArg) (s : State) : Bool :=
  decide (c.fn < s.funcs.length) && fnAlive s c.fn && copiesNow (s.func c.fn) c.slot &&
  (s.funcs.all fun f => f.cmds.all fun e => e.phase != .held) && (checkAll (entered spec c s) c.fn (some spec) (queued spec c s)).isNone &&
  (spec.boundary || !blocked cmdTable ((entered spec c s).func c.fn) (queued spec c s)) &&
  !replayHeld cmdTable (entered spec c s) c.fn (queued spec c s) &&
  (spec.boundary || !replayLate (entered spec c s) c.fn (queued spec c s))

theorem quiet_of {s : State} (h : (s.funcs.all fun f => f.cmds.all fun e => e.phase != .held) = true) : Quiet s := by
  intro fn e he
  rw [List.all_eq_true] at h
  by_cases hl : fn < s.funcs.length
  · have hf : s.func fn ∈ s.funcs := by
      have : s.func fn = s.funcs[fn] := by simp [State.func, List.getD, hl]
      rw [this]; exact List.getElem_mem hl
    have h2 := h _ hf
    rw [List.all_eq_true] at h2
    simpa using h2 e he
  · have : s.func fn = {} := by simp [State.func, List.getD, List.getElem?_eq_none (Nat.le_of_not_lt hl)]
    rw [this] at he; simp at he

theorem accepted_of {spec : CmdSpec} {c : MbxArg} {s : State} (h : acceptedB spec c s = true) : Accepted spec c s := by
  simp only [acceptedB, Bool.and_eq_true, decide_eq_true_eq, Bool.or_eq_true, Bool.not_eq_true', Option.isNone_iff_eq_none] at h
  obtain ⟨⟨⟨⟨⟨⟨⟨h1, h2⟩, h3⟩, h4⟩, h5⟩, h6⟩, h7⟩, h8⟩ := h
  exact ⟨h1, h2, h3, quiet_of h4, h5, h6, h7, h8⟩

/-- `Due` as a test that can be evaluated, where every command may execute. -/
def dueB (spec : CmdSpec) (fn : Nat) (c : Cmd) (s : State) : Bool :=
  decide ((s.func fn).cmds = [c]) && decide (c.phase = .boundary) && decide (c.hdr.opcode = spec.opcode) && (rejudge s fn spec c).isNone

theorem due_of {spec : CmdSpec} {fn : Nat} {c : Cmd} {s : State} (h : dueB spec fn c s = true) : Due spec (fun _ _ _ => true) fn c s := by
  simp only [dueB, Bool.and_eq_true, decide_eq_true_eq, Option.isNone_iff_eq_none] at h
  exact ⟨h.1.1.1, h.1.1.2, h.1.2, rfl, h.2⟩

end Sys2Proof.Machine
end

