-- ==== Sys2Proof/Laws/Frames.lean ====
section
/-! SUPPORT. What the operations that post, raise and record change, and what they leave (R103 to R106, R117, R446). -/

namespace Sys2Proof.Machine

theorem Isle.sameWork_refl (r : Isle) : r.sameWork r := rfl

theorem Isle.sameWork_trans {r q p : Isle} (h : r.sameWork q) (g : q.sameWork p) : r.sameWork p := by
  unfold Isle.sameWork at *
  cases r; cases q; cases p
  simp only [Isle.mk.injEq] at *
  simp_all

theorem Posts.refl (s : State) : Posts s s := ⟨rfl, rfl, rfl, rfl, fun _ => rfl⟩

theorem Posts.trans {s t u : State} (h : Posts s t) (g : Posts t u) : Posts s u := by
  refine ⟨?_, ?_, g.funcs.trans h.funcs, g.isles.trans h.isles, fun k => Isle.sameWork_trans (h.work k) (g.work k)⟩
  · have a := h.rest
    have b := g.rest
    revert a b
    cases s; cases t; cases u
    simp only [State.mk.injEq]
    intros; simp_all
  · have a := h.mems
    have b := g.mems
    revert a b
    generalize s.mems = x; generalize t.mems = y; generalize u.mems = z
    cases x; cases y; cases z
    simp only [Mems.mk.injEq]
    intros; simp_all

theorem Reports.refl (s : State) : Reports s s := ⟨rfl, rfl, rfl, rfl, rfl, rfl, fun _ => rfl⟩

theorem Reports.trans {s t u : State} (h : Reports s t) (g : Reports t u) : Reports s u := by
  refine ⟨?_, ?_, ?_, ?_, g.funcs.trans h.funcs, g.isles.trans h.isles, fun k => Isle.sameWork_trans (h.work k) (g.work k)⟩
  · have a := h.rest
    have b := g.rest
    revert a b
    cases s; cases t; cases u
    simp only [State.mk.injEq]
    intros; simp_all
  · have a := h.mems
    have b := g.mems
    revert a b
    generalize s.mems = x; generalize t.mems = y; generalize u.mems = z
    cases x; cases y; cases z
    simp only [Mems.mk.injEq]
    intros; simp_all
  · have a := h.pins
    have b := g.pins
    revert a b
    generalize s.pins = x; generalize t.pins = y; generalize u.pins = z
    cases x; cases y; cases z
    simp only [Pins.mk.injEq]
    intros; simp_all
  · have a := h.standby
    have b := g.standby
    revert a b
    generalize s.standby = x; generalize t.standby = y; generalize u.standby = z
    cases x; cases y; cases z
    simp only [Standby.mk.injEq]
    intros; simp_all

theorem Posts.reports {s t : State} (h : Posts s t) : Reports s t := by
  refine ⟨?_, h.mems, ?_, ?_, h.funcs, h.isles, h.work⟩
  · have a := h.rest
    revert a
    cases s; cases t
    simp only [State.mk.injEq]
    intros; simp_all
  · rw [h.rest]
  · rw [h.rest]

theorem isle_mapIsle_self (s : State) (k : Nat) (f : Isle → Isle) (h : k < s.isles.length) : (s.mapIsle k f).isle k = f (s.isle k) :=
  getD_setAt_self _ _ _ _ h

theorem isle_mapIsle_ne (s : State) (k j : Nat) (f : Isle → Isle) (h : k ≠ j) : (s.mapIsle k f).isle j = s.isle j :=
  getD_setAt_ne _ _ _ _ _ h

/-- An update of an isle that leaves its work leaves the work of every isle. -/
theorem sameWork_mapIsle (s : State) (k j : Nat) (f : Isle → Isle) (h : ∀ r : Isle, r.sameWork (f r)) :
    (s.isle j).sameWork ((s.mapIsle k f).isle j) := by
  by_cases e : k = j
  · subst e
    by_cases l : k < s.isles.length
    · rw [isle_mapIsle_self _ _ _ l]; exact h _
    · have : (s.mapIsle k f).isle k = s.isle k := by
        simp [State.isle, State.mapIsle, setAt, List.getD_eq_getElem?_getD, l]
      rw [this]; rfl
  · rw [isle_mapIsle_ne _ _ _ _ e]; rfl

/-! ## Posts -/

theorem posts_mapFunc (fn : Nat) (f : Func → Func) (s : State) : Posts s (s.mapFunc fn f) :=
  ⟨rfl, rfl, by simp [setAt_length], rfl, fun _ => rfl⟩

theorem posts_emit (m : OutMsg) (s : State) : Posts s (s.emit m) := ⟨rfl, rfl, rfl, rfl, fun _ => rfl⟩

theorem posts_hostWrite (fn a : Nat) (bs : Bytes) (s : State) : Posts s (hostWrite fn a bs s) := by
  rw [hostWrite_eq]
  exact ⟨rfl, rfl, rfl, rfl, fun _ => rfl⟩

theorem posts_mapIsle (k : Nat) (f : Isle → Isle) (h : ∀ r : Isle, r.sameWork (f r)) (s : State) : Posts s (s.mapIsle k f) :=
  ⟨rfl, rfl, rfl, by simp [setAt_length], fun j => sameWork_mapIsle s k j f h⟩

theorem posts_sendVector (fn v : Nat) (s : State) : Posts s (sendVector fn v s) := by
  unfold sendVector
  dsimp only
  split
  · exact Posts.refl _
  · split
    · exact posts_mapFunc _ _ _
    · exact posts_emit _ _

theorem posts_setCause (fn b : Nat) (s : State) : Posts s (setCause fn b s) := by
  unfold setCause
  dsimp only
  split
  · exact Posts.refl _
  · split
    · exact posts_mapFunc _ _ _
    · split
      · exact posts_mapFunc _ _ _
      · exact (posts_mapFunc _ _ _).trans (posts_sendVector _ _ _)

theorem posts_writeEntry (fn : Nat) (e : Entry) (s : State) : Posts s (writeEntry fn e s) := by
  unfold writeEntry
  generalize entryBytes e = eb
  dsimp only
  have a := (posts_hostWrite fn ((s.func fn).cqBase + 32 * (s.func fn).tail) eb s).trans
    (posts_mapFunc fn (fun f => { f with tail := (f.tail + 1) % 256, unread := f.unread + 1 }) _)
  split
  · split
    · exact a.trans (posts_hostWrite _ _ _ _)
    · exact a
  · split
    · exact (a.trans (posts_hostWrite _ _ _ _)).trans (posts_setCause _ _ _)
    · exact a.trans (posts_setCause _ _ _)

theorem posts_postEntry (fn : Nat) (e : Entry) (s : State) : Posts s (postEntry fn e s) := by
  unfold postEntry
  dsimp only
  split
  · exact Posts.refl _
  · split
    · exact posts_writeEntry _ _ _
    · exact (posts_mapFunc _ _ _).trans (posts_setCause _ _ _)

theorem posts_postEventEntry (fn : Nat) (e : Entry) (s : State) : Posts s (postEventEntry fn e s) := by
  unfold postEventEntry
  dsimp only
  split
  · exact Posts.refl _
  · split
    · exact posts_writeEntry _ _ _
    · split
      · exact (posts_mapFunc _ _ _).trans (posts_setCause _ _ _)
      · exact (posts_mapFunc _ _ _).trans (posts_setCause _ _ _)

theorem posts_postEvent (fn : Nat) (st : Status) (d ty a b c : Nat) (s : State) : Posts s (postEvent fn st d ty a b c s) :=
  posts_postEventEntry _ _ _

theorem posts_postEventAt (tide fn : Nat) (st : Status) (d ty a b c : Nat) (s : State) : Posts s (postEventAt tide fn st d ty a b c s) :=
  posts_postEventEntry _ _ _

theorem posts_isleStateEvent (k : Nat) (st : Status) (code tide : Nat) (s : State) : Posts s (isleStateEvent k st code tide s) := by
  unfold isleStateEvent
  dsimp only
  split
  · exact posts_postEventAt _ _ _ _ _ _ _ _ _
  · exact (posts_postEventAt _ _ _ _ _ _ _ _ _).trans (posts_postEventAt _ _ _ _ _ _ _ _ _)

theorem posts_logRec (k ty shard b : Nat) (body : Bytes) (s : State) : Posts s (logRec k ty shard b body s) := by
  unfold logRec
  refine posts_mapIsle _ _ ?_ _
  intro r
  rfl

theorem posts_logCommand (k shard tide seq : Nat) (body : Bytes) (s : State) : Posts s (logCommand k shard tide seq body s) := by
  unfold logCommand
  refine posts_mapIsle _ _ ?_ _
  intro r
  rfl

theorem posts_noteCommand (tide fn : Nat) (c : Cmd) (st : Status) (w : Words) (s : State) : Posts s (noteCommand tide fn c st w s) := by
  unfold noteCommand
  dsimp only
  split
  · exact Posts.refl _
  · refine (posts_logCommand _ _ _ _ _ _).trans (posts_mapIsle _ _ ?_ _)
    intro r
    rfl

/-- A final entry: the command leaves the queue, and its entry is written or held (R103, R104). -/
theorem posts_finishAt (tide fn seq : Nat) (st : Status) (d : Nat) (w : Words) (s : State) : Posts s (finishAt tide fn seq st d w s) := by
  unfold finishAt
  split
  · exact Posts.refl _
  · exact ((posts_noteCommand _ _ _ _ _ _).trans (posts_mapFunc _ _ _)).trans (posts_postEntry _ _ _)

theorem posts_refuseAt (tide fn seq : Nat) (st : Status) (d : Nat) (s : State) : Posts s (refuseAt tide fn seq st d s) := by
  unfold refuseAt
  split
  · exact Posts.refl _
  · exact (posts_mapFunc _ _ _).trans (posts_postEntry _ _ _)

theorem posts_pendAt (tide fn seq : Nat) (s : State) : Posts s (pendAt tide fn seq s) := by
  unfold pendAt
  split
  · exact Posts.refl _
  · exact (posts_mapFunc _ _ _).trans (posts_postEntry _ _ _)

/-! ## Reports -/

theorem reports_foldl {α : Type} (l : List α) (f : State → α → State) (h : ∀ s a, Reports s (f s a)) (s : State) : Reports s (l.foldl f s) := by
  induction l generalizing s with
  | nil => exact Reports.refl _
  | cons a l ih => exact (h s a).trans (ih _)

theorem reports_recordIsle (k d inst bit : Nat) (a : FaultAt) (s : State) : Reports s (recordIsle k d inst bit a s) := by
  unfold recordIsle
  dsimp only
  split
  · exact Reports.refl _
  · split
    · exact Reports.refl _
    · refine ((posts_mapIsle _ _ ?_ _).trans (posts_setCause _ _ _)).reports
      intro r
      rfl

theorem reports_fatalHalt (d bit : Nat) (s : State) : Reports s (fatalHalt d bit s) := by
  unfold fatalHalt
  dsimp only
  split <;> exact ⟨rfl, rfl, rfl, rfl, rfl, rfl, fun _ => rfl⟩

/-- R446: what recording a fault leaves. -/
theorem reports_recordFault (d inst bit : Nat) (a : FaultAt) (l : List Nat) (s : State) : Reports s (recordFault d inst bit a l s) := by
  unfold recordFault
  dsimp only
  have f : ∀ (v : FaultView → FaultView) (s : State), Reports s (s.mapFaults v) := fun _ _ => ⟨rfl, rfl, rfl, rfl, rfl, rfl, fun _ => rfl⟩
  have p : ∀ (s : State), Reports s (s.mapPins fun p => { p with alertLow := true }) := fun _ => ⟨rfl, rfl, rfl, rfl, rfl, rfl, fun _ => rfl⟩
  have r : ∀ (l : List Nat) (s : State), Reports s (l.foldl (fun s k => recordIsle k d inst bit a s) s) :=
    fun l s => reports_foldl l _ (fun s k => reports_recordIsle k d inst bit a s) s
  have h1 : Reports s (if isleOnlyBit d bit then s else setCause 0 4 (s.mapFaults fun v => viewRecord d inst bit (capOf s a a.unit a.phys) v)) := by
    split
    · exact Reports.refl _
    · exact (f _ _).trans (posts_setCause _ _ _).reports
  generalize (if isleOnlyBit d bit then s else setCause 0 4 (s.mapFaults fun v => viewRecord d inst bit (capOf s a a.unit a.phys) v)) = s1 at *
  have h2 : Reports s1 (if isleOnlyBit d bit || fatalBit d bit then s1 else s1.mapPins fun p => { p with alertLow := true }) := by
    split
    · exact Reports.refl _
    · exact p _
  generalize (if isleOnlyBit d bit || fatalBit d bit then s1 else s1.mapPins fun p => { p with alertLow := true }) = s2 at *
  have h3 := r (if fatalBit d bit || commonDomain d then List.range 32 else l) s2
  split
  · exact (h1.trans (h2.trans h3)).trans (reports_fatalHalt _ _ _)
  · exact h1.trans (h2.trans h3)

end Sys2Proof.Machine
end

