-- ==== Sys2Proof/Laws/Links.lean ====
section
/-! SUPPORT. What the reception of a message can do, said once for every row that brings one (R321 to R323, R325). -/

namespace Sys2Proof.Machine

/-- Only ports and the archipelago's own records change. -/
theorem receive_rest (h : FlitHdr) (cls : Nat) (reply : Bool) (n : Nat) (s : State) :
    { (receive h cls reply n s).1 with ports := s.ports, arch := s.arch } = s := by
  simp only [receive, freeCredit]
  repeat' split
  all_goals rfl

@[simp] theorem receive_isles (h : FlitHdr) (cls : Nat) (reply : Bool) (n : Nat) (s : State) : (receive h cls reply n s).1.isles = s.isles := by
  have := congrArg State.isles (receive_rest h cls reply n s); simpa using this
@[simp] theorem receive_funcs (h : FlitHdr) (cls : Nat) (reply : Bool) (n : Nat) (s : State) : (receive h cls reply n s).1.funcs = s.funcs := by
  have := congrArg State.funcs (receive_rest h cls reply n s); simpa using this
@[simp] theorem receive_mems (h : FlitHdr) (cls : Nat) (reply : Bool) (n : Nat) (s : State) : (receive h cls reply n s).1.mems = s.mems := by
  have := congrArg State.mems (receive_rest h cls reply n s); simpa using this
@[simp] theorem receive_tide (h : FlitHdr) (cls : Nat) (reply : Bool) (n : Nat) (s : State) : (receive h cls reply n s).1.tide = s.tide := by
  have := congrArg State.tide (receive_rest h cls reply n s); simpa using this
@[simp] theorem receive_boot (h : FlitHdr) (cls : Nat) (reply : Bool) (n : Nat) (s : State) : (receive h cls reply n s).1.boot = s.boot := by
  have := congrArg State.boot (receive_rest h cls reply n s); simpa using this
@[simp] theorem receive_pending (h : FlitHdr) (cls : Nat) (reply : Bool) (n : Nat) (s : State) : (receive h cls reply n s).1.pending = s.pending := by
  have := congrArg State.pending (receive_rest h cls reply n s); simpa using this

/-- A reset chip takes nothing. -/
theorem receive_inReset (h : FlitHdr) (cls : Nat) (reply : Bool) (n : Nat) (s : State) (hr : s.boot.inReset = true) :
    receive h cls reply n s = (s, false) := by simp [receive, hr]

/-- A message of the chip to itself passes no port. -/
theorem receive_self (h : FlitHdr) (cls : Nat) (reply : Bool) (n : Nat) (s : State) (hr : s.boot.inReset = false) (ho : h.orig = chipId s) :
    receive h cls reply n s = (s, true) := by simp [receive, hr, ho]

/-- A link that is down brings nothing. -/
theorem receive_down (h : FlitHdr) (cls : Nat) (reply : Bool) (n : Nat) (s : State) (ho : h.orig ≠ chipId s) (hl : (s.port h.port).linkUp = false) :
    receive h cls reply n s = (s, false) := by simp [receive, ho, hl]

/-- What is delivered from another chip came over a link that is up, under that chip's recorded incarnation. -/
theorem receive_delivered (h : FlitHdr) (cls : Nat) (reply : Bool) (n : Nat) (s : State) (hd : (receive h cls reply n s).2 = true)
    (ho : h.orig ≠ chipId s) : s.boot.inReset = false ∧ (s.port h.port).linkUp = true ∧ incOf s h.orig = h.inc := by
  have hi : ∀ f, incOf (s.mapPort h.port f) h.orig = incOf s h.orig := fun _ => rfl
  simp only [receive, if_neg ho] at hd
  split at hd <;> rename_i h1
  · simp at hd
  split at hd <;> rename_i h2
  · simp at hd
  simp only [hi] at hd
  split at hd <;> rename_i h3
  · simp at hd
  simp only [Bool.or_eq_true, Bool.not_eq_true', not_or, Bool.not_eq_true, Bool.not_eq_false] at h1 h2 h3
  exact ⟨h1, by simpa using h2.1, by simpa using h3⟩

/-- What is not delivered has no effect beyond its reception; what is delivered has its own. -/
theorem onMessage_eq (h : FlitHdr) (cls : Nat) (reply : Bool) (n : Nat) (f : State → State) (s : State) :
    onMessage h cls reply n f s =
      if (receive h cls reply n s).2 = true then ackPast h cls (f (receive h cls reply n s).1) else (receive h cls reply n s).1 := by
  unfold onMessage
  rcases receive h cls reply n s with ⟨t, _ | _⟩ <;> rfl

end Sys2Proof.Machine
end

