-- ==== Sys2Proof/Laws/Sound.lean ====
section
/-! SUPPORT. What keeps a state sound (Sys2Proof/Safety.lean) and its queue as it was. A function of the state keeps both when each step of
its body does: these lemmas carry the fact through updates of one part, choices, folds, pairs, options and outcomes. One lemma of the form
SoundAt q s → SoundAt q (f … s) for every function, in the order of the files, each citing the lemmas of the functions it calls, leads to
exec; where a body is a pattern match, split it; where it binds a state, give the bound state its fact first (soundAt_cut). -/

namespace Sys2Proof.Machine

/-- Sound, with the queue q. -/
structure SoundAt (q : List Instr) (s : State) : Prop where
  pending : s.pending = q
  sound : Sound s

/-- The next state of an outcome, if any, is. -/
def SoundOut (q : List Instr) (o : Host.Outcome State Fault Refusal) : Prop := ∀ t, o = .next t → SoundAt q t
/-- The state of an option, if any, is. -/
def SoundOpt (q : List Instr) (o : Option State) : Prop := ∀ t, o = some t → SoundAt q t

variable {q : List Instr}

theorem soundAt_of {s t : State} (h : SoundAt q s) (e0 : t.pending = s.pending) (e1 : t.mems = s.mems) (e2 : t.funcs.length = s.funcs.length)
    (e3 : t.isles.length = s.isles.length) (e4 : t.ports.length = s.ports.length) (e5 : t.cay.length = s.cay.length)
    (e6 : t.raus.length = s.raus.length) : SoundAt q t :=
  ⟨e0.trans h.pending, ⟨e1 ▸ h.sound.mems, e2.trans h.sound.funcs, e3.trans h.sound.isles, e4.trans h.sound.ports, e5.trans h.sound.cay,
    e6.trans h.sound.raus⟩⟩

theorem soundOut_next {s : State} (h : SoundAt q s) : SoundOut q (.next s) := fun _ e => by cases e; exact h
theorem soundOpt_some {s : State} (h : SoundAt q s) : SoundOpt q (some s) := fun _ e => by cases e; exact h
theorem soundOpt_none : SoundOpt q none := fun _ e => by cases e
theorem soundOut_of {o : Host.Outcome State Fault Refusal} {t : State} (e : o = .next t) (h : SoundOut q o) : SoundAt q t := h t e
theorem soundOpt_of {o : Option State} {t : State} (e : o = some t) (h : SoundOpt q o) : SoundAt q t := h t e
theorem snd_of {α : Type} {p : α × State} {a : α} {t : State} (e : p = (a, t)) (h : SoundAt q p.2) : SoundAt q t := by rw [e] at h; exact h
theorem fst_of {α : Type} {p : State × α} {a : α} {t : State} (e : p = (t, a)) (h : SoundAt q p.1) : SoundAt q t := by rw [e] at h; exact h
theorem soundAt_ite {c : Prop} [Decidable c] {s t : State} (h : SoundAt q s) (g : SoundAt q t) : SoundAt q (if c then s else t) := by split <;> assumption
theorem soundOut_ite {c : Prop} [Decidable c] {s t : Host.Outcome State Fault Refusal} (h : SoundOut q s) (g : SoundOut q t) : SoundOut q (if c then s else t) := by
  split <;> assumption
theorem soundAt_ite_snd {α : Type} {c : Prop} [Decidable c] {s t : α × State} (h : SoundAt q s.2) (g : SoundAt q t.2) : SoundAt q (if c then s else t).2 := by
  split <;> assumption
theorem soundAt_foldl {α : Type} {f : State → α → State} {l : List α} {s : State} (h : SoundAt q s) (g : ∀ s x, SoundAt q s → SoundAt q (f s x)) :
    SoundAt q (l.foldl f s) := by
  induction l generalizing s with
  | nil => exact h
  | cons x l ih => exact ih (g s x h)
theorem soundAt_foldl_snd {α β : Type} {f : β × State → α → β × State} {l : List α} {p : β × State} (h : SoundAt q p.2)
    (g : ∀ p x, SoundAt q p.2 → SoundAt q (f p x).2) : SoundAt q (l.foldl f p).2 := by
  induction l generalizing p with
  | nil => exact h
  | cons x l ih => exact ih (g p x h)
theorem soundAt_foldl_fst {α β : Type} {f : State × β → α → State × β} {l : List α} {p : State × β} (h : SoundAt q p.1)
    (g : ∀ p x, SoundAt q p.1 → SoundAt q (f p x).1) : SoundAt q (l.foldl f p).1 := by
  induction l generalizing p with
  | nil => exact h
  | cons x l ih => exact ih (g p x h)

theorem soundAt_mapClk (f) {s : State} (h : SoundAt q s) : SoundAt q (s.mapClk f) := soundAt_of h rfl rfl rfl rfl rfl rfl rfl
theorem soundAt_mapPins (f) {s : State} (h : SoundAt q s) : SoundAt q (s.mapPins f) := soundAt_of h rfl rfl rfl rfl rfl rfl rfl
theorem soundAt_mapStandby (f) {s : State} (h : SoundAt q s) : SoundAt q (s.mapStandby f) := soundAt_of h rfl rfl rfl rfl rfl rfl rfl
theorem soundAt_mapPower (f) {s : State} (h : SoundAt q s) : SoundAt q (s.mapPower f) := soundAt_of h rfl rfl rfl rfl rfl rfl rfl
theorem soundAt_mapBoot (f) {s : State} (h : SoundAt q s) : SoundAt q (s.mapBoot f) := soundAt_of h rfl rfl rfl rfl rfl rfl rfl
theorem soundAt_mapFw (f) {s : State} (h : SoundAt q s) : SoundAt q (s.mapFw f) := soundAt_of h rfl rfl rfl rfl rfl rfl rfl
theorem soundAt_mapTide (f) {s : State} (h : SoundAt q s) : SoundAt q (s.mapTide f) := soundAt_of h rfl rfl rfl rfl rfl rfl rfl
theorem soundAt_mapPcie (f) {s : State} (h : SoundAt q s) : SoundAt q (s.mapPcie f) := soundAt_of h rfl rfl rfl rfl rfl rfl rfl
theorem soundAt_mapUnits (f) {s : State} (h : SoundAt q s) : SoundAt q (s.mapUnits f) := soundAt_of h rfl rfl rfl rfl rfl rfl rfl
theorem soundAt_mapFaults (f) {s : State} (h : SoundAt q s) : SoundAt q (s.mapFaults f) := soundAt_of h rfl rfl rfl rfl rfl rfl rfl
theorem soundAt_mapArch (f) {s : State} (h : SoundAt q s) : SoundAt q (s.mapArch f) := soundAt_of h rfl rfl rfl rfl rfl rfl rfl
theorem soundAt_mapFuses (f) {s : State} (h : SoundAt q s) : SoundAt q (s.mapFuses f) := soundAt_of h rfl rfl rfl rfl rfl rfl rfl
theorem soundAt_mapSec (f) {s : State} (h : SoundAt q s) : SoundAt q (s.mapSec f) := soundAt_of h rfl rfl rfl rfl rfl rfl rfl
theorem soundAt_mapEnt (f) {s : State} (h : SoundAt q s) : SoundAt q (s.mapEnt f) := soundAt_of h rfl rfl rfl rfl rfl rfl rfl
theorem soundAt_emit (m) {s : State} (h : SoundAt q s) : SoundAt q (s.emit m) := soundAt_of h rfl rfl rfl rfl rfl rfl rfl
theorem soundAt_mapFunc (k f) {s : State} (h : SoundAt q s) : SoundAt q (s.mapFunc k f) := soundAt_of h rfl rfl (setAt_length _ _ _) rfl rfl rfl rfl
theorem soundAt_mapIsle (k f) {s : State} (h : SoundAt q s) : SoundAt q (s.mapIsle k f) := soundAt_of h rfl rfl rfl (setAt_length _ _ _) rfl rfl rfl
theorem soundAt_mapIsles (f) {s : State} (h : SoundAt q s) : SoundAt q (s.mapIsles f) := soundAt_of h rfl rfl rfl (List.length_map _) rfl rfl rfl
theorem soundAt_mapCay (k f) {s : State} (h : SoundAt q s) : SoundAt q (s.mapCay k f) := soundAt_of h rfl rfl rfl rfl rfl (setAt_length _ _ _) rfl
theorem soundAt_mapPort (k f) {s : State} (h : SoundAt q s) : SoundAt q (s.mapPort k f) := soundAt_of h rfl rfl rfl rfl (setAt_length _ _ _) rfl rfl
theorem soundAt_mapPorts (f) {s : State} (h : SoundAt q s) : SoundAt q (s.mapPorts f) := soundAt_of h rfl rfl rfl rfl (List.length_map _) rfl rfl
theorem soundAt_mapRau (k f) {s : State} (h : SoundAt q s) : SoundAt q (s.mapRau k f) := soundAt_of h rfl rfl rfl rfl rfl rfl (setAt_length _ _ _)
theorem soundAt_mapMems (f : Mems → Mems) {s : State} (h : SoundAt q s) (g : ∀ m : Mems, m.canonical = true → (f m).canonical = true) : SoundAt q (s.mapMems f) :=
  ⟨h.pending, ⟨g _ h.sound.mems, h.sound.funcs, h.sound.isles, h.sound.ports, h.sound.cay, h.sound.raus⟩⟩

theorem soundAt_hostTouch (fn a n) {s : State} (h : SoundAt q s) : SoundAt q (hostTouch fn a n s) := by
  unfold hostTouch
  exact soundAt_ite (soundAt_mapMems _ h fun _ w => w) h

theorem soundAt_hostWrite (fn a bs) {s : State} (h : SoundAt q s) : SoundAt q (hostWrite fn a bs s) := by
  unfold hostWrite
  refine soundAt_ite h (soundAt_hostTouch _ _ _ (soundAt_mapMems _ h fun m w => ?_))
  simp only [Mems.canonical, Bool.and_eq_true] at w ⊢
  exact ⟨⟨⟨⟨Memory.wf_writeN _ _ w.1.1.1.1, w.1.1.1.2⟩, w.1.1.2⟩, w.1.2⟩, w.2⟩
theorem soundAt_mk_iff (p clk pins standby power boot fw tide pcie funcs mems units isles pool subslots stu faults cay quiesce utc unparkQ ports arch remaps fuses sec ent raus halt out) : SoundAt q (State.mk p clk pins standby power boot fw tide pcie funcs mems units isles pool subslots stu faults cay quiesce utc unparkQ ports arch remaps fuses sec ent raus halt out) ↔
    p = q ∧ mems.canonical = true ∧ funcs.length = 32 ∧ isles.length = 32 ∧ ports.length = 15 ∧ cay.length = 2 ∧ raus.length = 4 :=
  ⟨fun h => ⟨h.pending, h.sound.mems, h.sound.funcs, h.sound.isles, h.sound.ports, h.sound.cay, h.sound.raus⟩,
   fun ⟨a, b, c, d, e, f, g⟩ => ⟨a, ⟨b, c, d, e, f, g⟩⟩⟩
theorem soundAt_conj {s : State} {mems : Mems} {funcs : List Func} {isles : List Isle} {ports : List Port} {cay : List CaySlot} {raus : List Rau}
    (h : SoundAt q s) (e1 : mems = s.mems) (e2 : funcs.length = s.funcs.length) (e3 : isles.length = s.isles.length)
    (e4 : ports.length = s.ports.length) (e5 : cay.length = s.cay.length) (e6 : raus.length = s.raus.length) :
    s.pending = q ∧ mems.canonical = true ∧ funcs.length = 32 ∧ isles.length = 32 ∧ ports.length = 15 ∧ cay.length = 2 ∧ raus.length = 4 :=
  ⟨h.pending, e1 ▸ h.sound.mems, e2.trans h.sound.funcs, e3.trans h.sound.isles, e4.trans h.sound.ports, e5.trans h.sound.cay, e6.trans h.sound.raus⟩
theorem soundAt_cut (y : State) {P : Prop} (hv : SoundAt q y) (k : SoundAt q y → P) : P := k hv
theorem soundAt_cutf (y : State → State) {P : Prop} (hv : ∀ s, SoundAt q s → SoundAt q (y s)) (k : (∀ s, SoundAt q s → SoundAt q (y s)) → P) : P := k hv
theorem app_of {f : State → State} (hf : ∀ s, SoundAt q s → SoundAt q (f s)) {s : State} (h : SoundAt q s) : SoundAt q (f s) := hf s h
theorem soundOpt_map {o : Option State} {f : State → State} (h : SoundOpt q o) (g : ∀ s, SoundAt q s → SoundAt q (f s)) : SoundOpt q (o.map f) := by
  intro t e
  cases o with
  | none => cases e
  | some s => cases e; exact g s (h s rfl)
theorem soundOpt_cut (y : Option State) {P : Prop} (hv : SoundOpt q y) (k : SoundOpt q y → P) : P := k hv
theorem sn_cut {α : Type} (y : α × State) {P : Prop} (hv : SoundAt q y.2) (k : SoundAt q y.2 → P) : P := k hv
theorem sf_cut {α : Type} (y : State × α) {P : Prop} (hv : SoundAt q y.1) (k : SoundAt q y.1 → P) : P := k hv
theorem soundOpt_foldl {α : Type} {f : Option State → α → Option State} {l : List α} {s : Option State} (h : SoundOpt q s)
    (g : ∀ s x, SoundOpt q s → SoundOpt q (f s x)) : SoundOpt q (l.foldl f s) := by
  induction l generalizing s with
  | nil => exact h
  | cons x l ih => exact ih (g s x h)
theorem soundOpt_ite {c : Prop} [Decidable c] {s t : Option State} (h : SoundOpt q s) (g : SoundOpt q t) : SoundOpt q (if c then s else t) := by split <;> assumption
theorem soundOpt_bind {o : Option State} {f : State → Option State} (h : SoundOpt q o) (g : ∀ s, SoundAt q s → SoundOpt q (f s)) : SoundOpt q (o.bind f) := by
  intro t e
  cases o with
  | none => cases e
  | some s => exact g s (h s rfl) t e
theorem soundOut_inv {s : State} (h : SoundOut q (.next s)) : SoundAt q s := h s rfl
theorem soundOpt_inv {s : State} (h : SoundOpt q (some s)) : SoundAt q s := h s rfl
theorem soundOpt_getD {o : Option State} {s : State} (h : SoundOpt q o) (g : SoundAt q s) : SoundAt q (o.getD s) := by
  cases o with
  | none => exact g
  | some t => exact h t rfl

end Sys2Proof.Machine
end

