-- ==== Sys2Proof/Laws/Time.lean ====
section
/-! SUPPORT. What the passing of time leaves as it is: a command that happens at a tick moves the clock and the count there, nothing else.
The lemmas are proved so that a proof that cites them never has the kernel unfold a time of many ticks. -/

namespace Sys2Proof.Machine

/-! ## Time passes: only the clock and the count move -/
@[simp] theorem advanceTicks_pending (t : Nat) (s : State) : (advanceTicks t s).pending = s.pending := by unfold advanceTicks; rfl
@[simp] theorem advanceTicks_pins (t : Nat) (s : State) : (advanceTicks t s).pins = s.pins := by unfold advanceTicks; rfl
@[simp] theorem advanceTicks_standby (t : Nat) (s : State) : (advanceTicks t s).standby = s.standby := by unfold advanceTicks; rfl
@[simp] theorem advanceTicks_power (t : Nat) (s : State) : (advanceTicks t s).power = s.power := by unfold advanceTicks; rfl
@[simp] theorem advanceTicks_boot (t : Nat) (s : State) : (advanceTicks t s).boot = s.boot := by unfold advanceTicks; rfl
@[simp] theorem advanceTicks_fw (t : Nat) (s : State) : (advanceTicks t s).fw = s.fw := by unfold advanceTicks; rfl
@[simp] theorem advanceTicks_pcie (t : Nat) (s : State) : (advanceTicks t s).pcie = s.pcie := by unfold advanceTicks; rfl
@[simp] theorem advanceTicks_funcs (t : Nat) (s : State) : (advanceTicks t s).funcs = s.funcs := by unfold advanceTicks; rfl
@[simp] theorem advanceTicks_mems (t : Nat) (s : State) : (advanceTicks t s).mems = s.mems := by unfold advanceTicks; rfl
@[simp] theorem advanceTicks_units (t : Nat) (s : State) : (advanceTicks t s).units = s.units := by unfold advanceTicks; rfl
@[simp] theorem advanceTicks_isles (t : Nat) (s : State) : (advanceTicks t s).isles = s.isles := by unfold advanceTicks; rfl
@[simp] theorem advanceTicks_pool (t : Nat) (s : State) : (advanceTicks t s).pool = s.pool := by unfold advanceTicks; rfl
@[simp] theorem advanceTicks_subslots (t : Nat) (s : State) : (advanceTicks t s).subslots = s.subslots := by unfold advanceTicks; rfl
@[simp] theorem advanceTicks_faults (t : Nat) (s : State) : (advanceTicks t s).faults = s.faults := by unfold advanceTicks; rfl
@[simp] theorem advanceTicks_cay (t : Nat) (s : State) : (advanceTicks t s).cay = s.cay := by unfold advanceTicks; rfl
@[simp] theorem advanceTicks_quiesce (t : Nat) (s : State) : (advanceTicks t s).quiesce = s.quiesce := by unfold advanceTicks; rfl
@[simp] theorem advanceTicks_utc (t : Nat) (s : State) : (advanceTicks t s).utc = s.utc := by unfold advanceTicks; rfl
@[simp] theorem advanceTicks_unparkQ (t : Nat) (s : State) : (advanceTicks t s).unparkQ = s.unparkQ := by unfold advanceTicks; rfl
@[simp] theorem advanceTicks_ports (t : Nat) (s : State) : (advanceTicks t s).ports = s.ports := by unfold advanceTicks; rfl
@[simp] theorem advanceTicks_arch (t : Nat) (s : State) : (advanceTicks t s).arch = s.arch := by unfold advanceTicks; rfl
@[simp] theorem advanceTicks_remaps (t : Nat) (s : State) : (advanceTicks t s).remaps = s.remaps := by unfold advanceTicks; rfl
@[simp] theorem advanceTicks_fuses (t : Nat) (s : State) : (advanceTicks t s).fuses = s.fuses := by unfold advanceTicks; rfl
@[simp] theorem advanceTicks_sec (t : Nat) (s : State) : (advanceTicks t s).sec = s.sec := by unfold advanceTicks; rfl
@[simp] theorem advanceTicks_ent (t : Nat) (s : State) : (advanceTicks t s).ent = s.ent := by unfold advanceTicks; rfl
@[simp] theorem advanceTicks_raus (t : Nat) (s : State) : (advanceTicks t s).raus = s.raus := by unfold advanceTicks; rfl
@[simp] theorem advanceTicks_halt (t : Nat) (s : State) : (advanceTicks t s).halt = s.halt := by unfold advanceTicks; rfl
@[simp] theorem advanceTicks_out (t : Nat) (s : State) : (advanceTicks t s).out = s.out := by unfold advanceTicks; rfl
@[simp] theorem advanceTicks_tide_aligned (t : Nat) (s : State) : (advanceTicks t s).tide.aligned = s.tide.aligned := by unfold advanceTicks; rfl
@[simp] theorem advanceTicks_tide_frozen (t : Nat) (s : State) : (advanceTicks t s).tide.frozen = s.tide.frozen := by unfold advanceTicks; rfl
@[simp] theorem advanceTicks_tide_leader (t : Nat) (s : State) : (advanceTicks t s).tide.leader = s.tide.leader := by unfold advanceTicks; rfl
@[simp] theorem advanceTicks_tide_epochLen (t : Nat) (s : State) : (advanceTicks t s).tide.epochLen = s.tide.epochLen := by unfold advanceTicks; rfl
@[simp] theorem advanceTicks_tide_base (t : Nat) (s : State) : (advanceTicks t s).tide.base = s.tide.base := by unfold advanceTicks; rfl
@[simp] theorem advanceTicks_tide_nextB (t : Nat) (s : State) : (advanceTicks t s).tide.nextB = s.tide.nextB := by unfold advanceTicks; rfl
@[simp] theorem advanceTicks_tide_coldWait (t : Nat) (s : State) : (advanceTicks t s).tide.coldWait = s.tide.coldWait := by unfold advanceTicks; rfl
@[simp] theorem advanceTicks_tide_crossReset (t : Nat) (s : State) : (advanceTicks t s).tide.crossReset = s.tide.crossReset := by unfold advanceTicks; rfl
@[simp] theorem advanceTicks_tide_marksSkipped (t : Nat) (s : State) : (advanceTicks t s).tide.marksSkipped = s.tide.marksSkipped := by unfold advanceTicks; rfl
@[simp] theorem advanceTicks_tide_lastCheck (t : Nat) (s : State) : (advanceTicks t s).tide.lastCheck = s.tide.lastCheck := by unfold advanceTicks; rfl
@[simp] theorem advanceTicks_tide_agreed (t : Nat) (s : State) : (advanceTicks t s).tide.agreed = s.tide.agreed := by unfold advanceTicks; rfl
@[simp] theorem advanceTicks_tide_confirms (t : Nat) (s : State) : (advanceTicks t s).tide.confirms = s.tide.confirms := by unfold advanceTicks; rfl
@[simp] theorem advanceTicks_tide_subslot (t : Nat) (s : State) : (advanceTicks t s).tide.subslot = s.tide.subslot := by unfold advanceTicks; rfl
@[simp] theorem advanceTicks_tide_cpMissed (t : Nat) (s : State) : (advanceTicks t s).tide.cpMissed = s.tide.cpMissed := by unfold advanceTicks; rfl
@[simp] theorem advanceTicks_tide_linkAligned (t : Nat) (s : State) : (advanceTicks t s).tide.linkAligned = s.tide.linkAligned := by unfold advanceTicks; rfl
@[simp] theorem advanceTicks_tide_refclkOk (t : Nat) (s : State) : (advanceTicks t s).tide.refclkOk = s.tide.refclkOk := by unfold advanceTicks; rfl
@[simp] theorem advanceTicks_tide_slowEpochs (t : Nat) (s : State) : (advanceTicks t s).tide.slowEpochs = s.tide.slowEpochs := by unfold advanceTicks; rfl
@[simp] theorem advanceTicks_tide_paces (t : Nat) (s : State) : (advanceTicks t s).tide.paces = s.tide.paces := by unfold advanceTicks; rfl
@[simp] theorem advanceTicks_chipId (t : Nat) (s : State) : chipId (advanceTicks t s) = chipId s := by unfold advanceTicks; rfl
@[simp] theorem advanceCount_pending (t : Nat) (s : State) : (advanceCount t s).pending = s.pending := by unfold advanceCount; exact advanceTicks_pending _ s
@[simp] theorem advanceCount_pins (t : Nat) (s : State) : (advanceCount t s).pins = s.pins := by unfold advanceCount; exact advanceTicks_pins _ s
@[simp] theorem advanceCount_standby (t : Nat) (s : State) : (advanceCount t s).standby = s.standby := by unfold advanceCount; exact advanceTicks_standby _ s
@[simp] theorem advanceCount_power (t : Nat) (s : State) : (advanceCount t s).power = s.power := by unfold advanceCount; exact advanceTicks_power _ s
@[simp] theorem advanceCount_boot (t : Nat) (s : State) : (advanceCount t s).boot = s.boot := by unfold advanceCount; exact advanceTicks_boot _ s
@[simp] theorem advanceCount_fw (t : Nat) (s : State) : (advanceCount t s).fw = s.fw := by unfold advanceCount; exact advanceTicks_fw _ s
@[simp] theorem advanceCount_pcie (t : Nat) (s : State) : (advanceCount t s).pcie = s.pcie := by unfold advanceCount; exact advanceTicks_pcie _ s
@[simp] theorem advanceCount_funcs (t : Nat) (s : State) : (advanceCount t s).funcs = s.funcs := by unfold advanceCount; exact advanceTicks_funcs _ s
@[simp] theorem advanceCount_mems (t : Nat) (s : State) : (advanceCount t s).mems = s.mems := by unfold advanceCount; exact advanceTicks_mems _ s
@[simp] theorem advanceCount_units (t : Nat) (s : State) : (advanceCount t s).units = s.units := by unfold advanceCount; exact advanceTicks_units _ s
@[simp] theorem advanceCount_isles (t : Nat) (s : State) : (advanceCount t s).isles = s.isles := by unfold advanceCount; exact advanceTicks_isles _ s
@[simp] theorem advanceCount_pool (t : Nat) (s : State) : (advanceCount t s).pool = s.pool := by unfold advanceCount; exact advanceTicks_pool _ s
@[simp] theorem advanceCount_subslots (t : Nat) (s : State) : (advanceCount t s).subslots = s.subslots := by unfold advanceCount; exact advanceTicks_subslots _ s
@[simp] theorem advanceCount_faults (t : Nat) (s : State) : (advanceCount t s).faults = s.faults := by unfold advanceCount; exact advanceTicks_faults _ s
@[simp] theorem advanceCount_cay (t : Nat) (s : State) : (advanceCount t s).cay = s.cay := by unfold advanceCount; exact advanceTicks_cay _ s
@[simp] theorem advanceCount_quiesce (t : Nat) (s : State) : (advanceCount t s).quiesce = s.quiesce := by unfold advanceCount; exact advanceTicks_quiesce _ s
@[simp] theorem advanceCount_utc (t : Nat) (s : State) : (advanceCount t s).utc = s.utc := by unfold advanceCount; exact advanceTicks_utc _ s
@[simp] theorem advanceCount_unparkQ (t : Nat) (s : State) : (advanceCount t s).unparkQ = s.unparkQ := by unfold advanceCount; exact advanceTicks_unparkQ _ s
@[simp] theorem advanceCount_ports (t : Nat) (s : State) : (advanceCount t s).ports = s.ports := by unfold advanceCount; exact advanceTicks_ports _ s
@[simp] theorem advanceCount_arch (t : Nat) (s : State) : (advanceCount t s).arch = s.arch := by unfold advanceCount; exact advanceTicks_arch _ s
@[simp] theorem advanceCount_remaps (t : Nat) (s : State) : (advanceCount t s).remaps = s.remaps := by unfold advanceCount; exact advanceTicks_remaps _ s
@[simp] theorem advanceCount_fuses (t : Nat) (s : State) : (advanceCount t s).fuses = s.fuses := by unfold advanceCount; exact advanceTicks_fuses _ s
@[simp] theorem advanceCount_sec (t : Nat) (s : State) : (advanceCount t s).sec = s.sec := by unfold advanceCount; exact advanceTicks_sec _ s
@[simp] theorem advanceCount_ent (t : Nat) (s : State) : (advanceCount t s).ent = s.ent := by unfold advanceCount; exact advanceTicks_ent _ s
@[simp] theorem advanceCount_raus (t : Nat) (s : State) : (advanceCount t s).raus = s.raus := by unfold advanceCount; exact advanceTicks_raus _ s
@[simp] theorem advanceCount_halt (t : Nat) (s : State) : (advanceCount t s).halt = s.halt := by unfold advanceCount; exact advanceTicks_halt _ s
@[simp] theorem advanceCount_out (t : Nat) (s : State) : (advanceCount t s).out = s.out := by unfold advanceCount; exact advanceTicks_out _ s
@[simp] theorem advanceCount_tide_aligned (t : Nat) (s : State) : (advanceCount t s).tide.aligned = s.tide.aligned := by unfold advanceCount; exact advanceTicks_tide_aligned _ s
@[simp] theorem advanceCount_tide_frozen (t : Nat) (s : State) : (advanceCount t s).tide.frozen = s.tide.frozen := by unfold advanceCount; exact advanceTicks_tide_frozen _ s
@[simp] theorem advanceCount_tide_leader (t : Nat) (s : State) : (advanceCount t s).tide.leader = s.tide.leader := by unfold advanceCount; exact advanceTicks_tide_leader _ s
@[simp] theorem advanceCount_tide_epochLen (t : Nat) (s : State) : (advanceCount t s).tide.epochLen = s.tide.epochLen := by unfold advanceCount; exact advanceTicks_tide_epochLen _ s
@[simp] theorem advanceCount_tide_base (t : Nat) (s : State) : (advanceCount t s).tide.base = s.tide.base := by unfold advanceCount; exact advanceTicks_tide_base _ s
@[simp] theorem advanceCount_tide_nextB (t : Nat) (s : State) : (advanceCount t s).tide.nextB = s.tide.nextB := by unfold advanceCount; exact advanceTicks_tide_nextB _ s
@[simp] theorem advanceCount_tide_coldWait (t : Nat) (s : State) : (advanceCount t s).tide.coldWait = s.tide.coldWait := by unfold advanceCount; exact advanceTicks_tide_coldWait _ s
@[simp] theorem advanceCount_tide_crossReset (t : Nat) (s : State) : (advanceCount t s).tide.crossReset = s.tide.crossReset := by unfold advanceCount; exact advanceTicks_tide_crossReset _ s
@[simp] theorem advanceCount_tide_marksSkipped (t : Nat) (s : State) : (advanceCount t s).tide.marksSkipped = s.tide.marksSkipped := by unfold advanceCount; exact advanceTicks_tide_marksSkipped _ s
@[simp] theorem advanceCount_tide_lastCheck (t : Nat) (s : State) : (advanceCount t s).tide.lastCheck = s.tide.lastCheck := by unfold advanceCount; exact advanceTicks_tide_lastCheck _ s
@[simp] theorem advanceCount_tide_agreed (t : Nat) (s : State) : (advanceCount t s).tide.agreed = s.tide.agreed := by unfold advanceCount; exact advanceTicks_tide_agreed _ s
@[simp] theorem advanceCount_tide_confirms (t : Nat) (s : State) : (advanceCount t s).tide.confirms = s.tide.confirms := by unfold advanceCount; exact advanceTicks_tide_confirms _ s
@[simp] theorem advanceCount_tide_subslot (t : Nat) (s : State) : (advanceCount t s).tide.subslot = s.tide.subslot := by unfold advanceCount; exact advanceTicks_tide_subslot _ s
@[simp] theorem advanceCount_tide_cpMissed (t : Nat) (s : State) : (advanceCount t s).tide.cpMissed = s.tide.cpMissed := by unfold advanceCount; exact advanceTicks_tide_cpMissed _ s
@[simp] theorem advanceCount_tide_linkAligned (t : Nat) (s : State) : (advanceCount t s).tide.linkAligned = s.tide.linkAligned := by unfold advanceCount; exact advanceTicks_tide_linkAligned _ s
@[simp] theorem advanceCount_tide_refclkOk (t : Nat) (s : State) : (advanceCount t s).tide.refclkOk = s.tide.refclkOk := by unfold advanceCount; exact advanceTicks_tide_refclkOk _ s
@[simp] theorem advanceCount_tide_slowEpochs (t : Nat) (s : State) : (advanceCount t s).tide.slowEpochs = s.tide.slowEpochs := by unfold advanceCount; exact advanceTicks_tide_slowEpochs _ s
@[simp] theorem advanceCount_tide_paces (t : Nat) (s : State) : (advanceCount t s).tide.paces = s.tide.paces := by unfold advanceCount; exact advanceTicks_tide_paces _ s
@[simp] theorem advanceCount_chipId (t : Nat) (s : State) : chipId (advanceCount t s) = chipId s := by unfold advanceCount; exact advanceTicks_chipId _ s
@[simp] theorem advanceQuant_pending (t : Nat) (s : State) : (advanceQuant t s).pending = s.pending := by unfold advanceQuant; exact advanceTicks_pending _ s
@[simp] theorem advanceQuant_pins (t : Nat) (s : State) : (advanceQuant t s).pins = s.pins := by unfold advanceQuant; exact advanceTicks_pins _ s
@[simp] theorem advanceQuant_standby (t : Nat) (s : State) : (advanceQuant t s).standby = s.standby := by unfold advanceQuant; exact advanceTicks_standby _ s
@[simp] theorem advanceQuant_power (t : Nat) (s : State) : (advanceQuant t s).power = s.power := by unfold advanceQuant; exact advanceTicks_power _ s
@[simp] theorem advanceQuant_boot (t : Nat) (s : State) : (advanceQuant t s).boot = s.boot := by unfold advanceQuant; exact advanceTicks_boot _ s
@[simp] theorem advanceQuant_fw (t : Nat) (s : State) : (advanceQuant t s).fw = s.fw := by unfold advanceQuant; exact advanceTicks_fw _ s
@[simp] theorem advanceQuant_pcie (t : Nat) (s : State) : (advanceQuant t s).pcie = s.pcie := by unfold advanceQuant; exact advanceTicks_pcie _ s
@[simp] theorem advanceQuant_funcs (t : Nat) (s : State) : (advanceQuant t s).funcs = s.funcs := by unfold advanceQuant; exact advanceTicks_funcs _ s
@[simp] theorem advanceQuant_mems (t : Nat) (s : State) : (advanceQuant t s).mems = s.mems := by unfold advanceQuant; exact advanceTicks_mems _ s
@[simp] theorem advanceQuant_units (t : Nat) (s : State) : (advanceQuant t s).units = s.units := by unfold advanceQuant; exact advanceTicks_units _ s
@[simp] theorem advanceQuant_isles (t : Nat) (s : State) : (advanceQuant t s).isles = s.isles := by unfold advanceQuant; exact advanceTicks_isles _ s
@[simp] theorem advanceQuant_pool (t : Nat) (s : State) : (advanceQuant t s).pool = s.pool := by unfold advanceQuant; exact advanceTicks_pool _ s
@[simp] theorem advanceQuant_subslots (t : Nat) (s : State) : (advanceQuant t s).subslots = s.subslots := by unfold advanceQuant; exact advanceTicks_subslots _ s
@[simp] theorem advanceQuant_faults (t : Nat) (s : State) : (advanceQuant t s).faults = s.faults := by unfold advanceQuant; exact advanceTicks_faults _ s
@[simp] theorem advanceQuant_cay (t : Nat) (s : State) : (advanceQuant t s).cay = s.cay := by unfold advanceQuant; exact advanceTicks_cay _ s
@[simp] theorem advanceQuant_quiesce (t : Nat) (s : State) : (advanceQuant t s).quiesce = s.quiesce := by unfold advanceQuant; exact advanceTicks_quiesce _ s
@[simp] theorem advanceQuant_utc (t : Nat) (s : State) : (advanceQuant t s).utc = s.utc := by unfold advanceQuant; exact advanceTicks_utc _ s
@[simp] theorem advanceQuant_unparkQ (t : Nat) (s : State) : (advanceQuant t s).unparkQ = s.unparkQ := by unfold advanceQuant; exact advanceTicks_unparkQ _ s
@[simp] theorem advanceQuant_ports (t : Nat) (s : State) : (advanceQuant t s).ports = s.ports := by unfold advanceQuant; exact advanceTicks_ports _ s
@[simp] theorem advanceQuant_arch (t : Nat) (s : State) : (advanceQuant t s).arch = s.arch := by unfold advanceQuant; exact advanceTicks_arch _ s
@[simp] theorem advanceQuant_remaps (t : Nat) (s : State) : (advanceQuant t s).remaps = s.remaps := by unfold advanceQuant; exact advanceTicks_remaps _ s
@[simp] theorem advanceQuant_fuses (t : Nat) (s : State) : (advanceQuant t s).fuses = s.fuses := by unfold advanceQuant; exact advanceTicks_fuses _ s
@[simp] theorem advanceQuant_sec (t : Nat) (s : State) : (advanceQuant t s).sec = s.sec := by unfold advanceQuant; exact advanceTicks_sec _ s
@[simp] theorem advanceQuant_ent (t : Nat) (s : State) : (advanceQuant t s).ent = s.ent := by unfold advanceQuant; exact advanceTicks_ent _ s
@[simp] theorem advanceQuant_raus (t : Nat) (s : State) : (advanceQuant t s).raus = s.raus := by unfold advanceQuant; exact advanceTicks_raus _ s
@[simp] theorem advanceQuant_halt (t : Nat) (s : State) : (advanceQuant t s).halt = s.halt := by unfold advanceQuant; exact advanceTicks_halt _ s
@[simp] theorem advanceQuant_out (t : Nat) (s : State) : (advanceQuant t s).out = s.out := by unfold advanceQuant; exact advanceTicks_out _ s
@[simp] theorem advanceQuant_tide_aligned (t : Nat) (s : State) : (advanceQuant t s).tide.aligned = s.tide.aligned := by unfold advanceQuant; exact advanceTicks_tide_aligned _ s
@[simp] theorem advanceQuant_tide_frozen (t : Nat) (s : State) : (advanceQuant t s).tide.frozen = s.tide.frozen := by unfold advanceQuant; exact advanceTicks_tide_frozen _ s
@[simp] theorem advanceQuant_tide_leader (t : Nat) (s : State) : (advanceQuant t s).tide.leader = s.tide.leader := by unfold advanceQuant; exact advanceTicks_tide_leader _ s
@[simp] theorem advanceQuant_tide_epochLen (t : Nat) (s : State) : (advanceQuant t s).tide.epochLen = s.tide.epochLen := by unfold advanceQuant; exact advanceTicks_tide_epochLen _ s
@[simp] theorem advanceQuant_tide_base (t : Nat) (s : State) : (advanceQuant t s).tide.base = s.tide.base := by unfold advanceQuant; exact advanceTicks_tide_base _ s
@[simp] theorem advanceQuant_tide_nextB (t : Nat) (s : State) : (advanceQuant t s).tide.nextB = s.tide.nextB := by unfold advanceQuant; exact advanceTicks_tide_nextB _ s
@[simp] theorem advanceQuant_tide_coldWait (t : Nat) (s : State) : (advanceQuant t s).tide.coldWait = s.tide.coldWait := by unfold advanceQuant; exact advanceTicks_tide_coldWait _ s
@[simp] theorem advanceQuant_tide_crossReset (t : Nat) (s : State) : (advanceQuant t s).tide.crossReset = s.tide.crossReset := by unfold advanceQuant; exact advanceTicks_tide_crossReset _ s
@[simp] theorem advanceQuant_tide_marksSkipped (t : Nat) (s : State) : (advanceQuant t s).tide.marksSkipped = s.tide.marksSkipped := by unfold advanceQuant; exact advanceTicks_tide_marksSkipped _ s
@[simp] theorem advanceQuant_tide_lastCheck (t : Nat) (s : State) : (advanceQuant t s).tide.lastCheck = s.tide.lastCheck := by unfold advanceQuant; exact advanceTicks_tide_lastCheck _ s
@[simp] theorem advanceQuant_tide_agreed (t : Nat) (s : State) : (advanceQuant t s).tide.agreed = s.tide.agreed := by unfold advanceQuant; exact advanceTicks_tide_agreed _ s
@[simp] theorem advanceQuant_tide_confirms (t : Nat) (s : State) : (advanceQuant t s).tide.confirms = s.tide.confirms := by unfold advanceQuant; exact advanceTicks_tide_confirms _ s
@[simp] theorem advanceQuant_tide_subslot (t : Nat) (s : State) : (advanceQuant t s).tide.subslot = s.tide.subslot := by unfold advanceQuant; exact advanceTicks_tide_subslot _ s
@[simp] theorem advanceQuant_tide_cpMissed (t : Nat) (s : State) : (advanceQuant t s).tide.cpMissed = s.tide.cpMissed := by unfold advanceQuant; exact advanceTicks_tide_cpMissed _ s
@[simp] theorem advanceQuant_tide_linkAligned (t : Nat) (s : State) : (advanceQuant t s).tide.linkAligned = s.tide.linkAligned := by unfold advanceQuant; exact advanceTicks_tide_linkAligned _ s
@[simp] theorem advanceQuant_tide_refclkOk (t : Nat) (s : State) : (advanceQuant t s).tide.refclkOk = s.tide.refclkOk := by unfold advanceQuant; exact advanceTicks_tide_refclkOk _ s
@[simp] theorem advanceQuant_tide_slowEpochs (t : Nat) (s : State) : (advanceQuant t s).tide.slowEpochs = s.tide.slowEpochs := by unfold advanceQuant; exact advanceTicks_tide_slowEpochs _ s
@[simp] theorem advanceQuant_tide_paces (t : Nat) (s : State) : (advanceQuant t s).tide.paces = s.tide.paces := by unfold advanceQuant; exact advanceTicks_tide_paces _ s
@[simp] theorem advanceQuant_chipId (t : Nat) (s : State) : chipId (advanceQuant t s) = chipId s := by unfold advanceQuant; exact advanceTicks_chipId _ s

end Sys2Proof.Machine
end

