-- ==== Sys2Proof/Tests/Slice0.lean ====
section
/-! SUPPORT. The model's own tests: ill-formed terms that WellFormed refuses; for every statement with hypotheses a state and operands that
meet them; and known answers from the spec and from published standards. -/

namespace Sys2Proof.Machine.Tests

set_option Elab.async false

/-! ## Small states -/

def tGrant : Grant :=
  { cores := 1, shelf := 2, frames := 4, table := 1, streams := 8, seqs := 8, windows := 4 }

/-- An isle with something of everything: a program, two streams, a sequence, a window, a tap, a parameter set and a key. -/
def tIsle : Isle :=
  { state := .enabled, target := .enabled, grant := tGrant, slotMap := [List.replicate 64 [0, 1]], extents := [[3, 4]], frames := [[5, 6, 7, 8]], tableFrames := [9],
    resident := [(0, 2 ^ 44, 2 ^ 44), (0, 2 * 2 ^ 44, 2 ^ 44), (0, 3 * 2 ^ 44, 2 ^ 44)],
    progs := [(0, {})], streams := [(0, {}), (1, { dirOut := true, slotLog2 := 8 })], seqs := [(0, { share := false })],
    windows := [(0, { peerIsle := 1, mask := 1, rights := 3, base := 3 * 2 ^ 44, len := 4096 })],
    taps := [{ state := .armed }, {}, {}, {}, {}, {}, {}, {}], pool := some ({}, 0),
    sealed := { psets := [(0, { nLog2 := 12, l := 1, k := 0, dnum := 0, primes := [40961] })],
                keys := [(0, { base := 3 * 2 ^ 44 + 2 ^ 20, len := 64, view := 0, kind := 0, pset := 0, auto := 0, keyId := 1 })] },
    keys := { current := some 1, previous := some 0, drawn := 2 } }

/-- The key store after start-up: DeviceID, attestation and pairing keys, and the epochs and the SipHash key of isle 1. -/
def tStore : List (Nat × KeyEntry) :=
  [(0, { use := .deviceId, bytes := natBe 48 3 }), (1, { use := .attest, bytes := natBe 48 1 }), (2, { use := .pairing, bytes := List.replicate 32 0 }),
   (3, { use := .epoch 0, bytes := List.replicate 32 1 }), (4, { use := .epoch 1, bytes := List.replicate 32 2 }), (5, { use := .sip 1, bytes := List.replicate 16 3 })]

/-- The state after start-up: READY, aligned and counting, entropy served, the rings of the first two functions on, isle 0 and VF 1's isle
enabled. Every other field is that of reset. -/
def tReady : State :=
  { State.reset with
    clk := { ticks := 300000000 }
    pins := { perstN := true, readyLow := true, syncHold := false, syncHigh := true }
    boot := { inReset := false, strapsLatched := true, phase := 0x09, cfgReachable := true, fwRunning := true, bin := 0x64, t2 := 1000 }
    tide := { count := 1000000, aligned := true, refclkOk := true, nextB := 1100000 }
    pcie := { linkUp := true, numVFs := 1, vfEnable := true }
    ent := { state := .running, testing := false, drbg := some (List.replicate 32 0, List.replicate 16 0), kat := true, buffer := List.replicate 2048 0 }
    sec := { lc := 2, imageKeys := [(0, []), (1, [])], store := tStore }
    funcs := setAt (setAt State.reset.funcs 0 fun f => { f with cqEnable := true, cqBase := 0x10000 }) 1 fun f =>
      { f with cqEnable := true, cqBase := 0x20000 }
    isles := setAt (setAt State.reset.isles 0 fun r => { r with state := .enabled, target := .enabled }) 1 fun _ => tIsle }

/-- The same, with another isle 1. -/
def tWith (f : Isle → Isle) : State := { tReady with isles := setAt tReady.isles 1 f }

/-- A command of slot 0 with TAG 1. -/
def tCmd (fn op : Nat) (p : Bytes) : MbxArg :=
  { fn := fn, slot := 0, hdr := { opcode := op, flags := 0, tag := 1, plen := p.length, res0 := 0, token := 0, res1 := 0 }, payload := p }

def z (n : Nat) : Bytes := List.replicate n 0

/-- A boundary-executed command as it waits. -/
def tDue (spec : CmdSpec) (c : MbxArg) (s : State) : Cmd := { queued spec c s with phase := .boundary }

/-- It is accepted, and due when it waits. -/
def tBoth (spec : CmdSpec) (c : MbxArg) (s : State) : Bool :=
  acceptedB spec c s && dueB spec c.fn (tDue spec c s) (waiting spec c s)

/-! ## Witnesses: mailbox commands -/

theorem test_witness_QueriesAnswer :
    acceptedB specTideQuery (tCmd 0 0x0140 []) tReady ∧
    (paceCore tReady 0 (queued specPaceQuery (tCmd 0 0x0142 (z 8)) tReady) = some 0 ∧ acceptedB specPaceQuery (tCmd 0 0x0142 (z 8)) tReady) ∧
    (paceCore tReady 0 (queued specPaceQuery (tCmd 0 0x0142 (63 :: z 7)) tReady) = some 63 ∧
      acceptedB specPaceQuery (tCmd 0 0x0142 (63 :: z 7)) tReady) ∧
    acceptedB specIsleQuery (tCmd 0 0x0207 (31 :: z 7)) tReady ∧ acceptedB specIsleQuery (tCmd 1 0x0207 (1 :: z 7)) tReady ∧
    ((aGet (tReady.isle 1).progs 0).isSome ∧ acceptedB specProgQuery (tCmd 1 0x0403 (z 8)) tReady) ∧
    ((tReady.isle 1).taps[7]?.isSome ∧ acceptedB specTapQuery (tCmd 1 0x0412 (7 :: z 7)) tReady) ∧
    ((aGet (tReady.isle 1).streams 1).isSome ∧ acceptedB specStreamQuery (tCmd 1 0x0482 (1 :: z 7)) tReady) ∧
    acceptedB specArchQuery (tCmd 0 0x0600 []) tReady ∧ acceptedB specCartQuery (tCmd 0 0x0900 (1 :: 3 :: z 6)) tReady ∧
    acceptedB specKeyEpochQuery (tCmd 1 0x0822 []) tReady ∧ acceptedB specEntropyQuery (tCmd 1 0x0830 []) tReady ∧
    acceptedB specLcQuery (tCmd 0 0x0800 []) tReady ∧ acceptedB specUnitQuery (tCmd 0 0x0B04 ([0, 0, 63] ++ z 5)) tReady ∧
    ((seqOf tReady 1 0).isSome ∧ acceptedB specSeqQuery (tCmd 1 0x0505 (z 8)) tReady) := by decide +kernel

/-- The host access of commands with TAG 1 fails. -/
def tNoHost : State := { tReady with funcs := tReady.funcs.map fun f => { f with failTags := [1] } }

theorem test_witness_ClearingQueriesAnswer :
    acceptedB specMemQuery (tCmd 1 0x0300 []) tReady ∧ acceptedB specT1Query (tCmd 1 0x0310 []) tReady ∧
    acceptedB specPortQuery (tCmd 0 0x0603 (14 :: z 7)) tReady ∧
    ((aGet (tReady.isle 1).windows 0).isSome ∧ acceptedB specWinQuery (tCmd 1 0x0612 (z 8)) tReady) ∧
    (aGet (tReady.isle 1).windows 3 = none ∧ acceptedB specWinQuery (tCmd 1 0x0612 (3 :: z 7)) tReady) ∧
    acceptedB specDetQuery (tCmd 1 0x0705 []) (tWith fun r => { r with replay := some { b0 := 0, start := 0, matched := true } }) ∧
    acceptedB specSealQuery (tCmd 1 0x0A03 (z 8)) tReady ∧
    ((aGet (tReady.isle 1).sealed.keys 0).isSome ∧ acceptedB specSealQuery (tCmd 1 0x0A03 (1 :: z 7)) tReady) ∧
    (seqOf tReady 1 0xFFFFFFFF = none ∧ acceptedB specSeqQuery (tCmd 1 0x0505 (natLe 4 0xFFFFFFFF ++ z 4)) tReady) ∧
    acceptedB specPressureQuery (tCmd 1 0x020A (z 8)) tReady ∧ acceptedB specPressureQuery (tCmd 1 0x020A (1 :: z 7)) tReady ∧
    acceptedB specFaultQuery (tCmd 0 0x0B00 (255 :: z 15)) tReady ∧ acceptedB specFaultQuery (tCmd 0 0x0B00 (z 16)) tReady ∧
    (acceptedB specFaultQuery (tCmd 0 0x0B00 (z 8 ++ natLe 8 0x1000)) tReady ∧ 1 ∉ (tReady.func 0).failTags) ∧
    (acceptedB specFaultQuery (tCmd 0 0x0B00 (z 8 ++ natLe 8 0x1000)) tNoHost ∧ 1 ∈ (tNoHost.func 0).failTags) ∧
    ((instOf (faultView tReady 0 0) 0 0).gen = 0 ∧ acceptedB specFaultClear (tCmd 0 0x0B01 (z 16)) tReady) ∧
    ((instOf (faultView tReady 0 0) 0 0).gen ≠ 1 ∧ acceptedB specFaultClear (tCmd 0 0x0B01 (z 8 ++ natLe 4 1 ++ z 4)) tReady) := by decide +kernel
/-- A resource record (Table 15.2) for isle k: core 1, one extent, two frames, one table frame. -/
def tRec (k : Nat) : Bytes :=
  [BitVec.ofNat 8 k, 0, 0, 0] ++ natLe 8 2 ++ natLe 2 1 ++ z 2 ++ natLe 4 2 ++ natLe 2 1 ++ natLe 2 4 ++ natLe 4 4 ++ natLe 2 2 ++ z 18

/-- Isle 2 quiescing. -/
def tQuiet : State :=
  { tReady with
    pcie := { tReady.pcie with numVFs := 2 }
    isles := setAt tReady.isles 2 fun r => { r with state := .quiescing, target := .disabled, scrubEnd := 2000000 } }

theorem test_witness_IsleCommandsExecute :
    (shortOf tReady 2 (recGrant (tRec 2) 2000) = none ∧ acceptedB specIsleCreate (tCmd 0 0x0200 (tRec 2)) tReady) ∧
    acceptedB specIsleDestroy (tCmd 0 0x0202 (1 :: z 7)) (tWith fun r => { r with state := .disabled }) ∧
    (acceptedB specIsleEnable (tCmd 0 0x0203 (1 :: z 7)) (tWith fun r => { r with state := .created }) ∧
    busyIsle ((tWith fun r => { r with state := .created }).isle 1) = false ∧ epochsLeft (tWith fun r => { r with state := .created }) 1 ∧
    tReady.ent.state = .running) ∧
    (busyIsle (tQuiet.isle 2) ∧ (tQuiet.isle 2).targetCmd = none ∧ acceptedB specIsleDestroy (tCmd 0 0x0202 (2 :: z 7)) tQuiet ∧
    acceptedB specIsleEnable (tCmd 0 0x0203 (2 :: z 7)) tQuiet) := by
  decide +kernel

/-- Slot 0 with a paired cartridge online. -/
def tOnline : State :=
  { tReady with cay := [{ state := .online, info := { meetsTable81 := true, capacityGiB := 512, rated := 1000, readRate := 8, writeRate := 8, vendor := 1, serial := 2 }, identity := some 5, certSlot := 1,
                          pairing := some { chip := 0, cart := 5, certSlot := 1, rated := 1000, lifeDate := 30000, checkUtc := 0, checkWritten := 0 } }, {}] }

/-- A public key and a signature under it, chosen so that both multipliers of the verification are 1: the hash signed is that of the debug label,
a DeviceID digest of zeros, scope 1 and a challenge of zeros (R410; the point, the hash and the signature computed outside the model). -/
def tKey : Bytes :=
  [4] ++ natBe 48 0xf6956932d61ddd3a7c3899d5bf651cdb1c19f4fa637ca1302d5b055f9bc00d9d4a3cb762b43071b838e88dd257815829 ++
    natBe 48 0x3ff137304cc12fa13c8c7e1d62b55eac3612241b6528e8bebe0cfba99df4193f154c811d8a8c8e3a65da00aa02416db4
def tSig : Bytes :=
  let h := natBe 48 0x9459b8ba9cec1ffac96732585f7435df1bc620f61e27a12e659da67727d96febba58c3730e48d7a7bcff61a2e95289f6
  h ++ h

/-- The same for the life-cycle label, target 3 and a challenge of 2 and zeros (R407). -/
def tLcKey : Bytes :=
  [4] ++ natBe 48 0x7708c17dcf5b4d36cc069f7a5628becdb8da5cd66007e02814d5daae11108e99b1851aa9e9982e7073eacd878eaf4142 ++
    natBe 48 0xf54d970ab4d36d094b59b20c28ccaccd8e35b45e04dc773c13c4d252e1d46a9387bebe8ebf592d90a2be9951230a949
def tLcSig : Bytes :=
  let h := natBe 48 0x356ad6906b3d44020628f8620161fd775b21ede41d07fb87cd7e43cdadb775732bcf7657301bbc043cfd6df616bab4b2
  h ++ h
def tLcToken : State :=
  { tWith (fun _ => {}) with
    fuses := { tReady.fuses with deviceId := 0 }
    sec := { tReady.sec with imageKeys := [(0, tLcKey)], challenge := some (2 :: z 31, 300000000) } }

/-- A chip in FIELD_DEBUG with a challenge of zeros outstanding. -/
def tToken : State :=
  { tReady with fuses := { tReady.fuses with deviceId := 0 }
                sec := { tReady.sec with lc := 3, imageKeys := [(0, tKey)], challenge := some (z 32, 300000000) } }

theorem test_witness_SettersTakeEffect :
    (aFree (tReady.isle 1).streams (tReady.isle 1).grant.streams = some 2 ∧
    acceptedB specStreamCreate (tCmd 1 0x0480 (natLe 8 0x1000 ++ natLe 8 0x2000 ++ natLe 4 64 ++ [0, 7] ++ natLe 2 0xFFFF ++ z 8)) tReady) ∧
    (aFree (tReady.isle 0).streams (tReady.isle 0).grant.streams = none ∧
    acceptedB specStreamCreate (tCmd 0 0x0480 (natLe 8 0x1000 ++ natLe 8 0x2000 ++ natLe 4 65536 ++ [1, 12] ++ natLe 2 2 ++ z 8)) tReady) ∧
    (fieldB (bodyOf (tCmd 0 0x0B05 (z 8))) 0 4 = tReady.faults.seq ∧ acceptedB specAlertAck (tCmd 0 0x0B05 (z 8)) tReady) ∧
    (fieldB (bodyOf (tCmd 0 0x0B05 (1 :: z 7))) 0 4 ≠ tReady.faults.seq ∧ acceptedB specAlertAck (tCmd 0 0x0B05 (1 :: z 7)) tReady) ∧
    acceptedB specShardSelect (tCmd 0 0x0706 (15 :: z 7)) tReady ∧
    acceptedB specReplayAdvance (tCmd 1 0x0703 (5 :: z 7)) (tWith fun r => { r with replay := some { b0 := 0, start := 0, matched := true } }) ∧
    acceptedB specCartUnpair (tCmd 0 0x0902 (z 8)) tOnline ∧
    acceptedB specCartLifeSet (tCmd 0 0x0903 (z 4 ++ natLe 4 40000)) tOnline ∧
    (tReady.utc = none ∧ governed tReady 0 = false ∧ governed tReady 1 = false ∧ acceptedB specCartTimeSet (tCmd 0 0x0904 (natLe 8 1700000000)) tReady) ∧
    (acceptedB specSeqWakeHint (tCmd 1 0x0508 (z 8)) (tWith fun r => { r with seqs := [(0, { state := .parked })] }) ∧
    (seqOf (tWith fun r => { r with seqs := [(0, { state := .parked })] }) 1 0).map (fun q => q.state) = some .parked) ∧
    acceptedB specLcChallenge (tCmd 0 0x0801 (natLe 8 0x5000)) tReady ∧
    acceptedB specRngRead (tCmd 1 0x0832 (z 8 ++ 192 :: z 7)) tReady ∧
    acceptedB specRngRead (tCmd 1 0x0832 (z 8 ++ 1 :: z 7)) { tReady with ent := { state := .failed } } ∧
    (needsToken (tWith fun _ => {}) 4 = false ∧ acceptedB specLcTransition (tCmd 0 0x0802 (4 :: z 103)) (tWith fun _ => {})) ∧
    (needsToken (tWith fun _ => {}) 3 = true ∧ tokenOk (tWith fun _ => {}) labelLc 3 (sliceB (z 104) 8 96) = false ∧
    acceptedB specLcTransition (tCmd 0 0x0802 (3 :: z 103)) (tWith fun _ => {})) ∧
    (needsToken tLcToken 3 = true ∧ tokenOk tLcToken labelLc 3 (sliceB (bodyOf (tCmd 0 0x0802 (3 :: z 7 ++ tLcSig))) 8 96) = true ∧
    acceptedB specLcTransition (tCmd 0 0x0802 (3 :: z 7 ++ tLcSig)) tLcToken) ∧
    (tReady.ent.state = .running ∧ (tOnline.caySlot 0).reading = false ∧ (tReady.caySlot 0).reading = false ∧ (tReady.caySlot 1).reading = false ∧
    (seqOf (tWith fun r => { r with seqs := [(0, { state := .parked })] }) 1 0).map (fun q => q.home) = some true) ∧
    tokenOk tToken labelDebug 1 (sliceB (bodyOf (tCmd 0 0x0803 (1 :: z 7 ++ tSig))) 8 96) = true ∧
    acceptedB specDebugUnlock (tCmd 0 0x0803 (1 :: z 7 ++ tSig)) tToken ∧
    (tokenOk tToken labelDebug 1 (z 96) = false ∧ acceptedB specDebugUnlock (tCmd 0 0x0803 (1 :: z 103)) tToken) ∧
    acceptedB specAttestCerts (tCmd 0 0x0810 (natLe 8 0x5000 ++ natLe 4 3072 ++ z 4)) tReady ∧
    acceptedB specAttestQuote (tCmd 1 0x0811 (z 48)) tReady ∧
    (acceptedB specLcChallenge (tCmd 0 0x0801 (natLe 8 0x5000)) tNoHost ∧ acceptedB specRngRead (tCmd 1 0x0832 (z 8 ++ 192 :: z 7)) tNoHost ∧
    acceptedB specAttestCerts (tCmd 0 0x0810 (natLe 8 0x5000 ++ natLe 4 3072 ++ z 4)) tNoHost ∧ acceptedB specAttestQuote (tCmd 1 0x0811 (z 48)) tNoHost ∧
    tNoHost.ent.state = .running ∧ 1 ∈ (tNoHost.func 1).failTags) ∧
    acceptedB specKeyAdvance (tCmd 0 0x0818 []) tReady ∧ acceptedB specKeyRevoke (tCmd 0 0x0819 (3 :: z 7)) tReady := by
  decide +kernel

/-- A return of pseudo-channel 5, as a unit and as a cartridge slot that is unpaired. -/
def tRetired : State := { tReady with units := { recs := [((2, 5), { state := 2 })] }, cay := [{ state := .unpaired }, {}] }

/-- The record that isle 1 has. -/
def tSame : Bytes :=
  [1, 0, 0, 0] ++ natLe 8 1 ++ natLe 2 2 ++ z 2 ++ natLe 4 4 ++ natLe 2 1 ++ natLe 2 8 ++ natLe 4 8 ++ natLe 2 4 ++ z 10 ++ natLe 2 0xFFFF ++ z 6

/-- A parameter set object in host memory (Table 17.1): 4,096 coefficients, one prime. -/
def tPset : State :=
  { tReady with mems := { tReady.mems with host := Memory.writeN [] (hostKey 1 0x4000) (natLe 4 0x50534753 ++ [12, 1, 0, 0] ++ z 8 ++ natLe 8 40961) } }

theorem test_witness_LongCommandsBegin :
    acceptedB specMemLoad (tCmd 1 0x0302 (z 8 ++ natLe 8 (3 * 2 ^ 44 + 2 ^ 26) ++ natLe 4 67108864 ++ z 4)) tReady ∧
    acceptedB specMemStore (tCmd 1 0x0303 (z 8 ++ natLe 8 (2 ^ 44 + 2 ^ 19) ++ natLe 4 64 ++ z 4)) tReady ∧
    acceptedB specMemStore (tCmd 1 0x0303 (z 8 ++ natLe 8 (2 * 2 ^ 44) ++ natLe 4 64 ++ z 4)) tReady ∧
    acceptedB specProgLoad (tCmd 1 0x0400 (z 8 ++ natLe 4 512 ++ z 4)) tReady ∧
    acceptedB specFwStage (tCmd 0 0x0C01 (z 8 ++ natLe 4 67108864 ++ z 4)) tReady ∧
    acceptedB specUnitRetire (tCmd 0 0x0B02 ([2, 0] ++ natLe 2 511 ++ z 12)) tReady ∧
    acceptedB specUnitReturn (tCmd 0 0x0B03 ([2, 0] ++ natLe 2 5 ++ z 12)) tRetired ∧
    acceptedB specEntropyRestart (tCmd 0 0x0831 []) { tReady with ent := { state := .failed } } ∧
    (acceptedB specCartEject (tCmd 0 0x0905 (z 8)) tOnline ∧ acceptedB specCartEject (tCmd 0 0x0905 (0 :: 1 :: z 6)) tOnline) ∧
    acceptedB specCartQuiesce (tCmd 0 0x0906 []) tOnline ∧
    (tRetired.ent.state = .running ∧ acceptedB specCartPair (tCmd 0 0x0901 (z 16)) tRetired) ∧
    ((chooseT tReady 0).isSome ∧ acceptedB specTideEpochSet (tCmd 0 0x0141 (natLe 4 10000 ++ z 12)) tReady ∧
    acceptedB specTideEpochSet (tCmd 0 0x0141 (natLe 4 10000000 ++ z 12)) tReady) ∧
    acceptedB specPoolSet (tCmd 0 0x0208 (natLe 8 2 ++ z 12)) tReady ∧
    (otherPresent tReady = [] ∧ acceptedB specSlotTableSet (tCmd 0 0x0209 (List.replicate 16 255 ++ z 8)) tReady) ∧
    acceptedB specFwActivate (tCmd 0 0x0C02 (z 8)) { tReady with fw := { staged := some (0, 1, 2) } } ∧
    (acceptedB specArchForm (tCmd 0 0x0601 (natLe 2 1 ++ z 14)) { tReady with boot := { tReady.boot with archEn := true } } ∧
    (maskBits (fieldB (bodyOf (tCmd 0 0x0601 (natLe 2 1 ++ z 14))) 0 2) 16).filter (fun j => j != chipId tReady) = []) ∧
    acceptedB specArchLeave (tCmd 0 0x0602 []) tReady ∧
    acceptedB specReplayStart (tCmd 1 0x0702 (z 8 ++ natLe 2 1 ++ z 6)) tReady ∧
    agreeMembers tReady (.epochLen 10000) = [] := by
  decide +kernel

theorem test_witness_IsleBoundaryCommands :
    tBoth specIsleResize (tCmd 0 0x0201 (tRec 1)) (tWith fun r => { r with state := .created }) ∧
    (resizeAllowed ((tWith fun r => { r with state := .created }).isle 1) (recGrant (tRec 1) 2000) = true ∧
    shortOf (waiting specIsleResize (tCmd 0 0x0201 (tRec 1)) (tWith fun r => { r with state := .created })) 1 (recGrant (tRec 1) 2000) = none) ∧
    (tBoth specIsleResize (tCmd 0 0x0201 tSame) tReady ∧ resizeAllowed (tReady.isle 1) (recGrant tSame 2000) = true ∧
    shortOf (waiting specIsleResize (tCmd 0 0x0201 tSame) tReady) 1 (recGrant tSame 2000) = none ∧ (recGrant tSame 2000).cores = 1) ∧
    (tBoth specIsleDisable (tCmd 0 0x0204 (1 :: z 7)) tReady ∧ busyIsle (tReady.isle 1) = false) ∧
    tBoth specIsleReset (tCmd 0 0x0205 (1 :: z 7)) tReady ∧
    (tBoth specIsleReset (tCmd 0 0x0205 (2 :: z 7)) tQuiet ∧ busyIsle (tQuiet.isle 2) = true) ∧
    (tBoth specIsleQosSet (tCmd 0 0x0206 ([1, 2, 16] ++ z 5)) tReady ∧ tBoth specIsleQosSet (tCmd 0 0x0206 ([1, 0, 0] ++ z 5)) tReady) := by
  decide +kernel

theorem test_witness_MemoryBoundaryCommands :
    tBoth specMemModeSet (tCmd 1 0x0304 (1 :: z 7)) tReady ∧
    tBoth specMemResidentSet (tCmd 1 0x0301 (natLe 8 (3 * 2 ^ 44) ++ natLe 8 4096 ++ 1 :: z 7)) tReady ∧
    tBoth specMemResidentSet (tCmd 1 0x0301 (natLe 8 (3 * 2 ^ 44 + 8192) ++ natLe 8 4096 ++ z 8)) tReady ∧
    (tBoth specSealPsetSet (tCmd 1 0x0A00 (1 :: z 7 ++ natLe 8 0x4000)) tPset ∧ (tPset.func 1).failTags = [] ∧ (psetAt tPset 1 0x4000).2 = true ∧ psetOk (psetAt tPset 1 0x4000).1 = true) ∧
    (tBoth specSealPsetSet (tCmd 1 0x0A00 (7 :: z 7 ++ natLe 8 0x8000)) tPset ∧ (psetAt tPset 1 0x8000).2 = false) ∧
    tBoth specSealKeyLoad (tCmd 1 0x0A01 (63 :: z 15 ++ natLe 8 (3 * 2 ^ 44 + 2 ^ 21) ++ natLe 8 64)) tReady ∧
    (tBoth specSealKeyDrop (tCmd 1 0x0A02 (z 8)) tReady ∧ (aGet (tReady.isle 1).sealed.keys 0).isSome) ∧
    tBoth specStreamDestroy (tCmd 1 0x0481 (1 :: z 7)) tReady ∧
    tBoth specWinOpen (tCmd 1 0x0610 ([1, 1, 1, 0, 3, 0, 0, 0] ++ natLe 8 (3 * 2 ^ 44 + 2 ^ 26) ++ natLe 4 64 ++ z 12)) tReady ∧
    tBoth specWinClose (tCmd 1 0x0611 (3 :: z 7)) tReady ∧
    tBoth specReplayLogSet (tCmd 1 0x0700 ([1, 0, 0, 0, 3, 0, 0, 0])) tReady ∧
    tBoth specReplayLogStop (tCmd 1 0x0701 []) (tWith fun r => { r with log := some { epoch := 1, stream := 1, b0 := 0, frames := false, digests := false, complete := true } }) ∧
    tBoth specReplayStop (tCmd 1 0x0704 []) (tWith fun r => { r with replay := some { b0 := 0, start := 0, matched := true } }) ∧
    (tBoth specKeyEpochRotate (tCmd 1 0x0820 []) tReady ∧ (rotateEpoch 1 5 1100000 (drawEntropy 32 tReady).2).isSome ∧ (rotateEpoch 1 5 1100000 tReady).isSome ∧ tReady.ent.state = .running) ∧
    (tBoth specKeyEpochRetire (tCmd 1 0x0821 []) tReady ∧ (tReady.isle 1).keys.previous = some 0) := by
  decide +kernel

/-- Chip 0 of a formed archipelago of two, with its port to chip 1 active and a sequence that has a replica there. -/
def tPair : State :=
  { tWith (fun r => { r with seqs := [(0, { replicas := 257 })] }) with
    boot := { tReady.boot with archEn := true }, arch := { member := 3, present := 3, formed := true, incs := [(1, 7)] }
    ports := setAt tReady.ports 0 fun p => { p with state := .active, linkUp := true, peer := (1, 7) } }

/-- The headers of a message that comes in at port 0 in order; and what the reception of one from chip 1 answers. -/
def tHdr (orig inc : Nat) : FlitHdr := { port := 0, orig := orig, inc := inc, lseq := 0, fseq := 0 }
def tCome (cls : Nat) (s : State) : State × Bool := receive (tHdr 1 7) cls false 1 s
def tV (cls : Nat) (s : State) : State := (tCome cls s).1
def tB (cls : Nat) (s : State) : Bool := (tCome cls s).2

/-- SEQ_CREATE (Table 12.2) with LMAX 4,096 and a given seed. -/
def tCreate (replicas seed : Nat) : MbxArg :=
  tCmd 1 0x0502 (z 4 ++ natLe 4 4096 ++ natLe 2 replicas ++ z 6 ++ natLe 8 seed ++ z 24)

/-- A command in a phase. -/
def tAt (spec : CmdSpec) (c : MbxArg) (s : State) (p : CmdPhase) : State := setPhase c.fn (s.func c.fn).nextSeq p (entered spec c s)

/-- The fixed bytes of a program image without a descriptor: one phase, one counter, and the digest of the 832 zero bytes that follow. -/
def tImgHead : Bytes :=
  natLe 4 0x47504550 ++ [0, 0, 1, 1] ++ z 8 ++ natBe 48 0x1bfa4e7dff2cb5bb8c0fe44e9dff7c5ef1b829905c5c731b5f8ab54e47db5f7b0621e3522cecb70558502210e10f3417
def tImage : Bytes := tImgHead ++ z 832
/-- Isle 1 with cores 0 to 15. -/
def tWide : State := tWith fun r => { r with grant := { r.grant with cores := 0xFFFF } }

theorem fieldB_z (h : Bytes) (m o n : Nat) (ho : h.length ≤ o) : fieldB (h ++ z m) o n = 0 := by
  have hb : ∀ i, (h ++ z m).getD (o + i) 0 = (0 : Byte) := by
    intro i
    rw [List.getD_eq_getElem?_getD, List.getElem?_append_right (by omega)]
    simp only [z, List.getElem?_replicate]
    split <;> rfl
  have : ∀ k : List Nat, leNat (k.map fun i => (h ++ z m).getD (o + i) 0) = 0 := by
    intro k
    induction k with
    | nil => rfl
    | cons x k ih =>
      rw [List.map_cons, leNat, ih, hb]
      rfl
  exact this _

theorem tImage_list (p sl : Nat) : imgList tImage p sl = (0, 0) := by
  have h : tImgHead.length = 64 := by decide +kernel
  unfold imgList tImage
  rw [fieldB_z _ _ _ _ (by omega), fieldB_z _ _ _ _ (by omega)]

theorem tImage_slot (p sl : Nat) : slotDescs tImage p sl = [] := by
  unfold slotDescs; rw [tImage_list]; rfl

theorem tImage_descs : imgDescs tImage = [] := by
  simp only [imgDescs, tImage_slot]
  simp

theorem tImage_foot (sl : Nat) : imgFootprint tImage sl = 0 := by
  have h : tImgHead.length = 64 := by decide +kernel
  unfold imgFootprint tImage
  exact fieldB_z _ _ _ _ (by omega)

theorem tImage_head : fieldB tImage 0 4 = 0x47504550 ∧ fieldB tImage 4 2 = 0 ∧ imgPhases tImage = 1 ∧ imgCounters tImage = 1 ∧
    zeroB tImage 10 6 = true ∧ tImage.length = 896 ∧ imgBin tImage = 0 := by decide +kernel

theorem tImage_budget (d : Nat) (h : 0 < d) (h2 : d ≤ 64) : imgBudget tImage d = 0 := by
  have h3 : tImgHead.length = 64 := by decide +kernel
  unfold imgBudget tImage
  rw [if_neg (by omega)]
  exact fieldB_z _ _ _ _ (by omega)

theorem tImage_digest : imgDigest tImage = sha384 (tImage.drop 0x40) := by decide +kernel

theorem tImage_bad (s : State) (hi : s.fw.ifVersion = 0) : imgBad s tImage = false := by
  obtain ⟨h1, h2, h3, h4, h5, h6, h7⟩ := tImage_head
  simp [imgBad, h1, h2, h3, h4, h5, hi, tImage_list, tImage_slot, tImage_foot, ← tImage_digest]

/-- A firmware image with an empty body, signed for slot 0 as tKey is. -/
def tFwKey : Bytes :=
  [4] ++ natBe 48 0x492c521bc617404c203111afe17d20b98a64a20d5692f1eb6e96e71a99c5ce3e9776b74cd3c00a8f97afc8afe14dd1ce ++
    natBe 48 0x6d942831be1e15172d5578e8071a4c2e27ecc2b6b6fe8eafd34dd452df17ed877c3f777a690c8f6a442ffaf396e575f5
def tFwSig : Bytes := natBe 48 0x5d6769fc6e1f667a96d8f6d7554fcffef410e1316d467171f0878a2f03a165c55f1597a582171ddaa4ff8b69db227c74
def tFwImage : Bytes :=
  natLe 4 0x46574744 ++ natLe 4 0x00010002 ++ natLe 8 1 ++ z 8 ++
    natBe 48 0x38b060a751ac96384cd9327eb1b1e36a21fdb71114be07434c0cc7bf63f6e1da274edebfe76f65fbd51ad2f14898b95b ++ z 8 ++
    z 8 ++ tFwKey ++ z 7 ++ tFwSig ++ tFwSig ++ [255] ++ z 223
def tFuses : Fuses :=
  { slotDigests := [some 0x46d68dd38271323282dcc8429096186b04e39d4aaf2c802e93f34f9139564a95984c4bafc43d75a4cc39138e583b2199, none, none, none] }

/-- The cells of bytes that lie from an address on. -/
def tCells : Nat → Bytes → List Host.Cell
  | _, [] => []
  | a, b :: bs => if b = 0 then tCells (a + 1) bs else (a, b) :: tCells (a + 1) bs

theorem tCells_low (a x : Nat) (bs : Bytes) (h : x < a) : Memory.read (tCells a bs) x = 0 := by
  induction bs generalizing a with
  | nil => rfl
  | cons b l ih =>
    unfold tCells
    split
    · exact ih (a + 1) (by omega)
    · rw [Memory.read, if_neg (by omega)]; exact ih (a + 1) (by omega)

theorem tCells_at (a i : Nat) (bs : Bytes) : Memory.read (tCells a bs) (a + i) = bs.getD i 0 := by
  induction bs generalizing a i with
  | nil => rfl
  | cons b l ih =>
    unfold tCells
    cases i with
    | zero =>
      split
      · next h => rw [tCells_low _ _ _ (by omega), h]; rfl
      · rw [Memory.read, if_pos (by omega)]; rfl
    | succ n =>
      have e : a + (n + 1) = a + 1 + n := by omega
      split
      · rw [e, ih]; rfl
      · rw [Memory.read, if_neg (by omega), e, ih]; rfl

/-- Host memory of a function with bytes at 0x10000. -/
def tHost (fn : Nat) (bs : Bytes) (s : State) : State := { s with mems := { s.mems with host := tCells (hostKey fn 0x10000) bs } }

theorem tHost_read (fn : Nat) (bs : Bytes) (s : State) (h : s.mems.host = tCells (hostKey fn 0x10000) bs) :
    hostRead s fn 0x10000 bs.length = bs := by
  simp only [hostRead, Memory.readN, h, tCells_at]
  apply List.ext_getElem
  · simp
  · intro i h1 h2
    simp [h2]

/-- A command of function 1 whose transfer is about to end. -/
def tFinal (op : Nat) (p : Bytes) (s : State) : State :=
  { s with funcs := setAt s.funcs 1 fun f => { f with cmds := [{ seq := 0, hdr := (tCmd 1 op p).hdr, payload := p, phase := .final }] } }
def tFind (op : Nat) (p : Bytes) (s : State) : Bool :=
  ((((tFinal op p s).func 1).cmds.find? fun c => c.hdr.tag == 1 && c.phase == .final).map fun c => c.hdr.opcode) == some op

/-- PROG_LOAD of this image passes every check where isle 1 has 16 cores, a free handle and table space. -/
theorem tImage_loads (s : State) (hi : s.fw.ifVersion = 0) (hd : dNow s 1 = 1) (hs : slotsPerCore s 1 = 64)
    (ht : (aFree (s.isle 1).progs 16).isNone = false) (hr : tableRoom s 1 896 = true) : loadCheck s 1 tImage = none := by
  obtain ⟨h1, h2, h3, h4, h5, h6, h7⟩ := tImage_head
  have hb : imgBudget tImage 1 = 0 := tImage_budget 1 (by omega) (by omega)
  have hw : budgetBad s 1 tImage = false := by simp [budgetBad, hd, hb]
  have hn : binBad s tImage = false := by simp [binBad, h7]
  have hc : countersBad s 1 tImage = false := by simp [countersBad, h4, hs]
  have hf : footprintBad s 1 tImage = false := by simp [footprintBad, tImage_foot]
  have hx : List.findSome? (fun _ => (none : Option (Status × Nat × Words))) (List.range 12) = none := by decide +kernel
  unfold loadCheck
  simp [tImage_descs, tImage_bad s hi, hw, hn, hc, hf, h3, h6, hr, ht, hx]

/-- That PROG_LOAD as its transfer ends. -/
def tLoad : State := tFinal 0x0400 (natLe 8 0x10000 ++ natLe 4 896 ++ z 4) (tHost 1 tImage tWide)

theorem test_image_loads : hostRead tLoad 1 0x10000 896 = tImage ∧ loadCheck (setNote 1 0 (imgDigest tImage) tLoad) 1 tImage = none ∧
    aFree ((setNote 1 0 (imgDigest tImage) tLoad).isle 1).progs 16 = some 1 := by
  have h : tImage.length = 896 := tImage_head.2.2.2.2.2.1
  exact ⟨h ▸ tHost_read 1 tImage tLoad rfl, tImage_loads _ (by decide +kernel) (by decide +kernel) (by decide +kernel) (by decide +kernel) (by decide +kernel),
    by decide +kernel⟩

/-- A firmware image whose signature verifies (Table 4.5, R78). -/
theorem test_firmware_verifies (s : State) (hm : s.mems.host = tCells (hostKey 0 0x10000) tFwImage) (hf : s.fuses = tFuses) (hb : s.sec.burns = []) (hk : s.sec.keyIdx = 0) :
    imageCode s (parseImage s 0x10000 512) = 0 := by
  have hl : tFwImage.length = 512 := by decide +kernel
  have hr : hostRead s 0 0x10000 512 = tFwImage := hl ▸ tHost_read 0 tFwImage s hm
  have hz : min (fieldB tFwImage 16 4) 67108864 = 0 := by decide +kernel
  have h0 : hostRead s 0 (0x10000 + 512) 0 = [] := rfl
  unfold imageCode parseImage
  have hn : fusesNow s = tFuses := by simp [fusesNow, fusesAt, hb, hf]
  simp only [hr, hz, h0, hf, hk, hn]
  decide +kernel

/-- The same image as a copy of the boot flash. -/
theorem test_copy_verifies (s : State) (hf : s.fuses = tFuses) (hb : s.sec.burns = []) (hk : s.sec.keyIdx = 0) :
    imageCode s (parseCopy s (some tFwImage)) = 0 := by
  have hn : fusesNow s = tFuses := by simp [fusesNow, fusesAt, hb, hf]
  unfold imageCode parseCopy
  simp only [hf, hk, hn]
  decide +kernel

/-- MEM_LOAD and MEM_STORE of the first line of the second extent. -/
def tMove : Bytes := natLe 8 0x10000 ++ natLe 8 (3 * 2 ^ 44 + 2 ^ 26) ++ natLe 4 64 ++ z 4
/-- That line poisoned: extent 4 of segment 0. -/
def tPoison : State := { tReady with mems := { tReady.mems with shelfPoison := [4 * 2 ^ 20 / 128] } }

/-- An evaluation key of two limbs of one coefficient each, for a parameter set of that size. -/
def tKeyObj : Bytes := natLe 4 0x594B4553 ++ z 8 ++ natLe 4 9 ++ z 48 ++ z 32
def tKeySet : State := tWith fun r => { r with sealed := { psets := [(0, { nLog2 := 0, l := 1, k := 1, dnum := 1, primes := [3, 3] })] } }

theorem test_key_object : hostRead (tHost 1 tKeyObj tKeySet) 1 0x10000 96 = tKeyObj ∧ keyObjOk (tKeySet.isle 1).sealed tKeyObj = true := by
  have hl : tKeyObj.length = 96 := by decide +kernel
  exact ⟨hl ▸ tHost_read 1 tKeyObj (tHost 1 tKeyObj tKeySet) rfl, by decide +kernel⟩

theorem test_witness_ProgramBoundaryCommands :
    (tBoth specProgUnload (tCmd 1 0x0401 (z 8)) tReady ∧ ((tReady.isle 1).seqs.filter fun q => q.2.prog == some 0) = []) ∧
    (tBoth specProgRun (tCmd 1 0x0402 (z 4 ++ 2 :: z 3)) tReady ∧ ((aGet (tReady.isle 1).progs 0).map fun g => multiPartner tReady g.shards) = some false) ∧
    tBoth specProgRun (tCmd 1 0x0402 (z 8)) tReady ∧
    (tBoth specTapArm (tCmd 1 0x0410 (z 12 ++ [1, 0, 0, 0] ++ z 4 ++ [1, 0, 0, 0] ++ natLe 8 (3 * 2 ^ 44 + 2 ^ 26))) tReady ∧
    ((List.range 8).find? fun i => ((tReady.isle 1).taps.getD i {}).state == .free) = some 1) ∧
    (tBoth specTapArm (tCmd 1 0x0410 (z 12 ++ [1, 0, 0, 0] ++ z 4 ++ [1, 0, 0, 0] ++ natLe 8 (3 * 2 ^ 44 + 2 ^ 26)))
      (tWith fun r => { r with taps := List.replicate 8 { state := .done } }) ∧
    ((List.range 8).find? fun i => (((tWith fun r => { r with taps := List.replicate 8 { state := .done } }).isle 1).taps.getD i {}).state == .free) = none) ∧
    tBoth specTapClose (tCmd 1 0x0411 (z 8)) tReady ∧
    (tBoth specDrawSet (tCmd 1 0x0707 (z 4 ++ [17, 16, 0, 0] ++ natLe 8 (3 * 2 ^ 44) ++ z 8))
      (tWith fun r => { r with extents := (List.range 16).map fun h => [3 + 2 * h, 4 + 2 * h] }) ∧ (aGet (tReady.isle 1).progs 0).isSome) ∧
    (tBoth specAdmitSet (tCmd 1 0x050A (z 4 ++ natLe 4 65536)) tReady ∧ tBoth specAdmitSet (tCmd 1 0x050A (z 8)) tReady) ∧
    tBoth specSeqPoolSet (tCmd 1 0x0500 ([6, 0, 1, 0, 2, 0, 2, 0, 64, 0] ++ z 38)) (tWith fun r => { r with seqs := [] }) ∧
    tBoth specSeqBatchSet (tCmd 1 0x0501 (z 4 ++ [1, 0, 1, 0] ++ z 56)) tReady ∧
    (tBoth specSeqCreate (tCreate 1 5) tReady ∧ replicasElsewhere tReady 1 = false ∧ tBoth specSeqCreate (tCreate 1 0) tReady ∧ tReady.ent.state = .running) ∧
    (tBoth specSeqDestroy (tCmd 1 0x0503 (z 8)) tReady ∧ seqReplicated tReady 1 (z 8) = false ∧ ((seqOf tReady 1 0).map fun q => q.state) = some .resident) ∧
    (tBoth specSeqBind (tCmd 1 0x0504 (z 4 ++ natLe 4 0xFFFFFFFF ++ natLe 4 0 ++ natLe 4 1)) tReady ∧
    ((seqOf tReady 1 0).map fun q => q.prog) = some (optHandle (z 4 ++ natLe 4 0xFFFFFFFF ++ natLe 4 0 ++ natLe 4 1) 4)) ∧
    tBoth specSeqRewind (tCmd 1 0x0506 (z 8)) tReady ∧
    (tBoth specSeqPark (tCmd 1 0x0507 (z 8)) tReady ∧ tBoth specSeqPark (tCmd 1 0x0507 (z 4 ++ 1 :: z 3)) tReady) ∧
    tBoth specSeqPrefixDrop (tCmd 1 0x0509 (z 8)) tReady := by
  decide +kernel

theorem test_witness_PeerCheckedCommands :
    (otherPresent tPair = [1] ∧ acceptedB specSlotTableSet (tCmd 0 0x0209 (List.replicate 16 255 ++ z 8)) tPair ∧ acceptedB specArchLeave (tCmd 0 0x0602 []) tPair) ∧
    (acceptedB specArchForm (tCmd 0 0x0601 (natLe 2 3 ++ z 14)) tPair ∧ chipId tPair = 0 ∧ (fieldB (natLe 2 3 ++ z 14) 0 2).testBit 1) ∧
    (acceptedB specReplayStart (tCmd 1 0x0702 (z 8 ++ natLe 2 3 ++ z 6)) tPair ∧ (fieldB (z 8 ++ natLe 2 3 ++ z 6) 8 2).testBit 1) ∧
    (replicasElsewhere tPair 257 ∧ acceptedB specSeqCreate (tCreate 257 5) tPair) ∧
    (seqReplicated tPair 1 (z 8) ∧ acceptedB specSeqDestroy (tCmd 1 0x0503 (z 8)) tPair ∧ acceptedB specSeqPark (tCmd 1 0x0507 (z 8)) tPair ∧
    acceptedB specSeqRewind (tCmd 1 0x0506 (z 8)) tPair) ∧
    ((let t := tAt specSeqPark (tCmd 1 0x0507 (z 8)) tPair (.peer 1024000)
    (((t.func 1).cmds.find? fun c => c.hdr.tag == 1 && awaitsPeer c).map fun c => c.phase) = some (.peer 1024000) ∧ quantNow t ≤ 1024000 - 6400 ∧
    (cmdTable 0x0507).map (fun x => x.opcode) = some 0x0507) ∧ specSeqPark.boundary = true) ∧
    ((let t := tAt specArchLeave (tCmd 0 0x0602 []) tPair (.peer 1024000)
    (((t.func 0).cmds.find? fun c => c.hdr.tag == 1 && awaitsPeer c).map fun c => c.phase) = some (.peer 1024000) ∧ quantNow t ≤ 1024000 - 6400 ∧
    (cmdTable 0x0602).map (fun x => x.opcode) = some 0x0602) ∧ specArchLeave.boundary = false) ∧
    statusOf 0x0300 = some .eState ∧
    (let t := tAt specArchForm (tCmd 0 0x0601 (natLe 2 3 ++ z 14)) tPair (.peer 1024000);
    (((t.func 0).cmds.find? fun c => c.hdr.tag == 1 && awaitsPeer c).map fun c => (c.phase, c.hdr.opcode)) = some (.peer 1024000, 0x0601) ∧
    quantNow t ≤ 1024000 - 6400 ∧ (∀ x ∈ [(1, t.fw.ifVersion, t.tide.epochLen)], x.2.1 = t.fw.ifVersion ∧ x.2.2 = t.tide.epochLen) ∧
    ([(1, t.fw.ifVersion + 1, 0)].filter fun x => x.2.1 != t.fw.ifVersion || x.2.2 != t.tide.epochLen).map (fun x => x.1) = [1]) ∧
    ((let t := tAt specArchLeave (tCmd 0 0x0602 []) tPair (.peer 1006399)
    (((t.func 0).cmds.find? fun c => c.hdr.tag == 1 && awaitsPeer c).map fun c => c.phase) = some (.peer 1006399) ∧ 1006399 - 6400 < quantNow t)) := by
  decide +kernel

theorem test_witness_RefusalQuantumPosts :
    ((let t := tAt specSeqPark (tCmd 1 0x0507 (z 8)) tReady (.refusal 1000000 .eState 0)
    (t.func 1).cmds.length = 1 ∧ quantNow t ≤ 1000000 ∧ t.tide.frozen = false ∧ t.boot.t2 ≤ t.clk.ticks ∧ (t.func 1).cmds.all fun c => c.aux == [])) ∧
    ((let t := tAt specSeqPark (tCmd 1 0x0507 (z 8)) tReady (.refusal 1011200 .eDenied 0)
    (t.func 1).cmds.length = 1 ∧ quantNow t ≤ 1011200)) ∧
    ((let t := tAt specSeqPark (tCmd 1 0x0507 (z 8)) tPair (.peer 1024000)
    (t.func 1).cmds.length = 1 ∧ quantNow t ≤ 1024000)) ∧
    (let t := tAt specSeqPark (tCmd 1 0x0507 (z 8)) tReady .held
    ((t.func 1).cmds.map fun c => c.phase) = [.held]) := by
  decide +kernel

theorem test_witness_TransfersEnd :
    (tFind 0x0302 tMove tReady ∧ tFind 0x0303 tMove tReady ∧ tFind 0x0400 (z 16) tReady ∧ tFind 0x0C01 (z 16) tReady ∧ tFind 0x0A01 (z 32) tReady) ∧
    (readProg tReady 1 0 none (3 * 2 ^ 44 + 2 ^ 26) 64).map (fun bs => bs.all fun x => !x.2) = some true ∧
    (readProg tPoison 1 0 none (3 * 2 ^ 44 + 2 ^ 26) 64).bind (fun bs => bs.findIdx? fun x => x.2) = some 0 ∧
    imageCode tReady (parseImage tReady 0x10000 512) = 4 := by
  decide +kernel

/-- The ready state in a start-up phase, before the firmware. -/
def tPhase (p : Nat) : State := { tReady with boot := { inReset := false, strapsLatched := true, phase := p } }
/-- The same with other straps and fuses. -/
def tSrc (src : Nat) (f : Fuses) : State :=
  { tReady with boot := { inReset := false, strapsLatched := true, phase := 0x02, bootSrc := src }, fuses := f }
def tLoader (push : Nat) : State := { tReady with boot := { inReset := false, loader := true, phase := 0x0F, pushStatus := push } }
def tTest (cores : List Nat) : MemTestResult := { cpOk := true, shelfFailed := [], lagoonFailed := [], coreFailed := cores, rauFailed := [] }
/-- A state that waits for alignment. -/
def tAlign : State := { tPhase 0x07 with tide := { refclkOk := true } }
def tLink : State :=
  { tAlign with boot := { tAlign.boot with archEn := true, alignByLink := true }
                ports := setAt tAlign.ports 0 fun p => { p with state := .active, linkUp := true, peer := (1, 0), peerAligned := true, latency := 3 } }
def tCold : State := { tAlign with tide := { refclkOk := true, coldWait := true } }

theorem test_witness_ResetsClear :
    (tReady.pins.perstN = true ∧ State.reset.pins.perstN = false) ∧
    (tReady.boot.inReset = false ∧ tReady.standby.thermtrip = false ∧ State.reset.boot.inReset = true ∧ tReady.arch.formed = false) ∧
    ({ tReady with standby := { thermtrip := true } } : State).standby.thermtrip = true := by
  decide +kernel

/-- The ready state at a level of VCORE. -/
def tVolt (mV : Nat) : State := { tReady with power := { vcore := mV } }

theorem test_witness_StrapsAndSupplies :
    (State.reset.pins.perstN = false ∧ State.reset.standby.thermtrip = false ∧ tReady.pins.perstN = true) ∧
    ((tPhase 0x01).boot.inReset = false ∧ (tPhase 0x01).boot.phase = 0x01 ∧ ({ tPhase 0x01 with boot := { inReset := false } } : State).boot.strapsLatched = false) ∧
    ((∀ x ∈ List.replicate 15 0x40, x = 0x40) ∧ (0x41 ∈ [0x40, 0x41] ∧ 0x41 ≠ 0x40)) ∧
    (State.reset.boot.inReset = true ∧ tReady.standby.railsMargin.contains .vcore = false) ∧
    (avsLegal 700 (avsDue tReady) = true ∧ avsLegal 800 (avsDue tReady) = true ∧ avsLegal 801 (avsDue tReady) = false) ∧
    vcoreNow tReady + 50 < 801 ∧
    (tReady.boot.fwRunning = true ∧ tReady.power.avsStopped = false ∧ tReady.power.over100 = false ∧ tReady.power.over105 = false ∧ vcoreNow tReady ≤ 750) ∧
    vcoreNow (tVolt 670) ≤ 670 ∧ 750 < vcoreNow (tVolt 900) ∧
    ((avsDue (tVolt 900)).power.avsStopped = false ∧ vcoreNow (tVolt 900) ≠ 870 ∧
    (avsDue (tVolt 900)).power.avsTick + 2000 ≤ (avsDue (tVolt 900)).clk.ticks) := by
  decide +kernel

theorem test_witness_BootFindsFirmware :
    (fusedState { com := [32, 32, 0, 0, 32] } = 5 ∧ tornTarget { com := [32, 32, 0, 0, 32] } = none) ∧
    (fusedState (tSrc 2 {}).fuses ≠ 5 ∧ fusedState (tSrc 3 {}).fuses ≠ 0 ∧ (tSrc 2 {}).boot.bootSrc = 2 ∧ (tSrc 2 {}).boot.phase = 0x02 ∧ (tSrc 2 {}).boot.inReset = false) ∧
    (imageCode (tPhase 0x03) (parseCopy (tPhase 0x03) none) = 3 ∧ (tSrc 3 {}).boot.bootSrc = 3 ∧ fusedState { com := [0, 0, 0, 0, 0] } = 0) ∧
    ((tPhase 0x03).boot.phase = 0x03 ∧ (tPhase 0x03).boot.bootSrc = 0 ∧ (tPhase 0x04).boot.phase = 0x04) ∧
    ((tPhase 0x0F).boot.stoppedReleased = false ∧ (tPhase 0x0F).boot.phase = 0x0F) ∧
    (loaderServes (tLoader 0) 0 0 = true ∧ (tLoader 0).boot.pushStatus = 0 ∧ loaderServes (tLoader 1) 0 0 = true) ∧
    (fieldB (natLe 8 0x1000 ++ natLe 4 67108864 ++ z 4) 0 8 % 4096 = 0 ∧ fieldB (natLe 8 0x1000 ++ natLe 4 67108864 ++ z 4) 8 4 = 67108864 ∧
    fieldB (natLe 8 0x1000 ++ natLe 4 67108864 ++ z 4) 12 4 = 0) ∧
    fieldB (natLe 8 1 ++ natLe 4 1 ++ z 4) 0 8 % 4096 ≠ 0 ∧
    (loaderServes tReady 0 0 = false ∧ fnAlive tReady 0 = true ∧ copiesNow (tReady.func 0) 0 = true ∧ tReady.sec.lcDone = none ∧ tReady.boot.limbo = none ∧ tReady.halt = none) ∧
    ((tLoader 1).boot.loader = true ∧ (tLoader 1).boot.inReset = false ∧ (tLoader 2).boot.pushStatus = 2) := by
  decide +kernel

theorem test_witness_StartUpReachesReady :
    ((let s := { tPhase 0x04 with boot := { (tPhase 0x04).boot with imageAccepted := true }, ent := { testing := false } }
    s.boot.phase = 0x04 ∧ s.boot.imageAccepted = true ∧ s.boot.limbo = none ∧ s.ent.testing = false ∧ s.ent.state = .unstarted)) ∧
    ((tPhase 0x05).boot.phase = 0x05 ∧ ({ tTest [] with cpOk := false }).cpOk = false) ∧
    (List.range 64).all (fun c => unitState (zeroOnChip (testCores (tTest (List.range 64)) (testShelf (tTest (List.range 64)) (tPhase 0x05)))) 0 c != 0) ∧
    unitState (zeroOnChip (testCores (tTest []) (testShelf (tTest []) (tPhase 0x05)))) 0 63 = 0 ∧
    (tLink.boot.phase = 0x07 ∧ tLink.tide.aligned = false ∧ tLink.boot.archEn = true ∧ (tLink.ports.any fun p => p.state == .active && p.peerAligned) = true) ∧
    (tAlign.boot.archEn = false ∧ tCold.tide.coldWait = true ∧ tCold.boot.alignByLink = false ∧ tLink.boot.alignByLink = true) ∧
    ((tPhase 0x06).boot.phase = 0x06 ∧ ({ tPhase 0x06 with boot := { (tPhase 0x06).boot with archEn := true } } : State).boot.archEn = true) ∧
    ((tPhase 0x08).boot.phase = 0x08 ∧ (tPhase 0x08).boot.bin = 0 ∧ (∃ st, st < 8 ∧ st ∈ [7]) ∧ 0x50 < min (tPhase 0x08).fuses.binRating (tPhase 0x08).boot.cfg.binCap) ∧
    ({ tPhase 0x08 with boot := { (tPhase 0x08).boot with trialBin := some 0x50 } } : State).boot.trialBin = some 0x50 ∧
    (({ tPhase 0x08 with boot := { (tPhase 0x08).boot with phaseDone := true, bin := 100 } } : State).boot.bin ≠ 0 ∧ (tPhase 0x08).pins.cayPrsnt = [true, true]) := by
  decide +kernel

/-- A chip of an archipelago that has lost its count and asks for a link mark. -/
def tLost : State :=
  { tPair with boot := { tPair.boot with alignByLink := true }, tide := { tPair.tide with aligned := false } }

theorem test_witness_MarksAlign :
    (tCold.boot.phase = 0x07 ∧ tCold.tide.coldWait = true ∧ tCold.pins.syncHigh = true ∧ tCold.pins.syncHold = false ∧ lowerPeerReady tCold = false) ∧
    (({ tCold with pins := { tCold.pins with markSince := some 5 } } : State).pins.markSince = some 5 ∧ tCold.pins.markSince = none) ∧
    (counting tReady = true ∧ tReady.tide.coldWait = false ∧ tReady.tide.count + 1 < 10000000 ∧ (9999999 + 5000000) / 10000000 * 10000000 = 10000000) ∧
    ({ tReady with tide := { tReady.tide with count := 9999999 } } : State).tide.count ≤ 10000000 + 1 ∧
    (tReady.pins.syncHigh = true ∧ tReady.pins.syncSince + 10000 ≤ tReady.clk.ticks ∧ tReady.tide.leader = chipId tReady) ∧
    (({ tReady with pins := { tReady.pins with syncHigh := false } } : State).pins.syncHigh = false ∧ (tReady.tide.marksSkipped + 1) % 10 ≠ 0 ∧ (9 + 1) % 10 = 0) ∧
    ((let s := { tReady with pins := { tReady.pins with syncHigh := false } }
    s.pins.syncHold = false ∧ s.pins.markSince = none ∧ s.pins.syncHigh = false) ∧ tReady.tide.refclkOk = true ∧ tReady.boot.inReset = false) ∧
    (tB 3 tPair ∧ tB 3 tReady = false ∧ ((tV 3 tPair).port 0).state = .active ∧ (tV 3 tPair).tide.leader = chipId (tV 3 tPair) ∧ counting (tV 3 tPair) = true ∧
    peerAt (tV 3 tPair) 0 = 1 ∧ (tV 3 tPair).tide.aligned) ∧
    (let s := { tPair with tide := { tPair.tide with leader := 1 } }
    tB 3 s ∧ (tV 3 s).tide.leader ≠ chipId (tV 3 s)) ∧
    (tB 3 tLost ∧ (tV 3 tLost).tide.aligned = false ∧ (tV 3 tLost).boot.alignByLink = true ∧ ((tV 3 tLost).port 0).state = .active ∧ peerAt (tV 3 tLost) 0 = 1 ∧
    (alignAt 5 true (tV 3 tLost)).arch.formed = true ∧ isReady (alignAt 5 true (tV 3 tLost)) = true) ∧
    (let s := { tLost with boot := { tLost.boot with phase := 0x07 } }
    tB 3 s ∧ (tV 3 s).tide.aligned = false ∧ isReady (tV 3 s) = false ∧ ((tV 3 s).port 0).state = .active) ∧
    (tReady.tide.count - tReady.tide.base) / (tReady.tide.epochLen / 16) % 16 = tReady.tide.subslot ∧
    ((100000 - tReady.tide.base) / (tReady.tide.epochLen / 16) % 16 = 0 ∧ (99999 / (tReady.tide.epochLen / 16)) % 16 ≠ 0) := by
  decide +kernel

theorem test_witness_BoundaryComes :
    (counting tReady = true ∧ isReady tReady = true ∧ isReady (tPhase 0x08) = false ∧ counting (tPhase 0x08) = true ∧ tReady.tide.cpMissed + 1 ≠ 4) ∧
    (({ tReady with tide := { tReady.tide with cpMissed := 3 } } : State).tide.cpMissed = 3 ∧ tReady.tide.count ≤ tReady.tide.nextB ∧ tReady.tide.nextB < 2 ^ 64) ∧
    ((let s := tWith fun r => { r with released := some 1000000, units := [(0, { queue := [{ id := 0, prog := 0, inv := 0, phase := 0, index := 0, desc := [] }] })] }
    workLeft (s.isle 1) = true ∧ (s.isle 1).released = some 1000000 ∧ (s.isle 1).overrun = none ∧ s.halt = none ∧ 1 < (s.isle 1).overrunLimit)) ∧
    ((let s := tWith fun r => { r with released := some 1000000, overrun := some (1000000, 3), units := [(0, { queue := [{ id := 0, prog := 0, inv := 0, phase := 0, index := 0, desc := [] }] })] }
    workLeft (s.isle 1) = true ∧ (s.isle 1).overrun = some (1000000, 3) ∧ (s.isle 1).overrunLimit ≤ 3 + 1)) ∧
    ((tReady.isle 1).released = none ∧ workLeft (tReady.isle 1) = false ∧ tReady.sec.burns = [] ∧
    isReady ({ tPhase 0x08 with halt := some 5 } : State) = false) := by
  decide +kernel

/-- A proposal of this chip and one of chip 1, for the same tick. -/
def tAgree : State :=
  { tPair with tide := { tPair.tide with agreed := [{ t := 1200000, src := 0, act := .epochLen 10000 }, { t := 1300000, src := 1, act := .epochLen 20000 }] } }

/-- Function 1 with slot 15 rung, then slot 3. -/
def tRung : State :=
  { tReady with funcs := setAt tReady.funcs 1 fun f => { f with doorbells := [15, 3] } }
/-- Function 1's ring on, with the shadow, at TAIL 255; and full. -/
def tRing (head : Nat) : State :=
  { tReady with funcs := setAt tReady.funcs 1 fun f => { f with tail := 255, head := head, unread := (255 + 256 - head) % 256, shadowEnable := true, cqShadow := 0x30000 } }
def tOff : State := { tReady with funcs := setAt tReady.funcs 1 fun f => { f with cqEnable := false } }
def tHeld : State := { tReady with funcs := setAt tReady.funcs 1 fun f => { f with heldComps := [{}] } }
def tFull : State := { tReady with funcs := setAt tReady.funcs 1 fun f => { f with cmds := (List.range 64).map fun i => { seq := i } } }
def tFlr : State := resetFunc 1 true tReady
def tScrub (k : Bool) : State := tWith fun r => { r with state := .scrubbing, target := .disabled, scrubEnd := 2000000, keysHeld := k }
/-- Jobs on spare bank 5 of segment 2, pseudo-channel 7 (dirty, with another waiting) and core 3 (a return). -/
def tJobs : State :=
  { tReady with units := { jobs := [{ cls := 1, idx := 73 }, { cls := 2, idx := 7, hold := [1] }, { cls := 0, idx := 3, ret := true }], pcQueue := [9] } }
def tJobs2 : State := { tReady with units := { jobs := [{ cls := 2, idx := 7, hold := [1] }] } }
def tTimes (d u : Nat) : State := { tReady with units := { ceTimes := [((d, u), List.replicate 1000 299999999)] } }
/-- Translations of function 1 are enabled, and its stream 0 has a ring of one page of its own. -/
def tAts : State := { tReady with
  funcs := setAt tReady.funcs 1 fun f => { f with cqEnable := true, cqBase := 0x20000, atsEnable := true }
  isles := setAt tReady.isles 1 fun r => { r with streams := [(0, { ring := 0x30000, entries := 4, slotLog2 := 4 })] } }
def tUeOnce (p : Nat) : State := { tReady with units := { ueTimes := [((dHbm, p), [(299999999, 5)])] } }

/-- A program of isle 1 whose budget no short epoch holds. -/
def tTight : State := { tPair with isles := setAt tWide.isles 1 fun r => { r with progs := [(0, { image := z 128 ++ List.replicate 64 255 })] } }

theorem test_witness_AgreedCountsAgree :
    (tB 3 tPair ∧ tB 3 tReady = false ∧ isReady (tV 3 tPair) = true ∧ 1 ≠ chipId (tV 3 tPair) ∧ findAgreed (tV 3 tPair) 1400000 1 (.epochLen 10000) = none ∧
    epochBad (tV 3 tPair) 10000 = false) ∧
    (tB 3 tTight ∧ epochBad (tV 3 tTight) 10000 = true) ∧
    (tB 3 tAgree ∧ (findAgreed (tV 3 tAgree) 1200000 0 (.epochLen 10000)).isSome ∧ ((findAgreed (tV 3 tAgree) 1200000 0 (.epochLen 10000)).map fun a => a.confirmed) = some false ∧
    (agreeMembers (tV 3 tAgree) (.epochLen 10000)) = [1] ∧ tideNow (tV 3 tAgree) + 40000 ≤ 1200000) ∧
    ((agreeMembers tAgree (.epochLen 10000)).all (fun c => [].contains c) = false ∧ (agreeMembers tAgree (.epochLen 10000)).all (fun c => [1].contains c) = true) ∧
    ((findAgreed (tV 3 tAgree) 1300000 1 (.epochLen 20000)).isSome ∧ ((findAgreed (tV 3 tAgree) 1300000 1 (.epochLen 20000)).map fun a => a.confirmed) = some false) ∧
    ((agreeMembers (tV 3 tAgree) (.epochLen 10000)).contains 1 = true ∧ findAgreed (tV 3 tAgree) 1100000 0 (.epochLen 10000) = none) ∧
    ((tAgree.tide.agreed.any fun a => a.t == 1100000 && !a.confirmed) = false ∧ (tAgree.tide.agreed.any fun a => a.t == 1200000 && !a.confirmed) = true) := by
  decide +kernel

theorem test_witness_MailboxRegisters :
    (fnAlive tReady 1 = true ∧ (tReady.func 1).doorbells.contains 15 = false ∧ (tReady.func 1).cqEnable = true ∧ 0xFFFF % 16 = 15) ∧
    (fnAlive tRung 1 = true ∧ (tRung.func 1).doorbells.contains 15 = true ∧ (tRung.func 1).cqEnable = true) ∧
    (fnAlive tOff 1 = true ∧ (tOff.func 1).doorbells.contains 0 = false ∧ (tOff.func 1).cqEnable = false) ∧
    ((tRung.func 1).doorbells.contains ((0x1000 - 0x1000) / 256) = false ∧ (tRung.func 1).doorbells.contains ((0x1FFC - 0x1000) / 256) = true) ∧
    (0x2001 % 4 ≠ 0 ∧ 3 ∉ [1, 2, 4, 8] ∧ fnAlive tReady 2 = false ∧ tReady.boot.loader = false) ∧
    ((0x10000 - 0x10000) / 64 = 0 ∧ (0x8FFC0 - 0x10000) / 64 = 8191 ∧ 0x8FFC0 % 64 = 0 ∧ 0x8FFC0 < 0x90000) ∧
    ((tRung.func 1).doorbells = 15 :: [3] ∧ (tRung.func 1).cmds.length < 64 ∧ 64 ≤ (tFull.func 1).cmds.length ∧ (tRung.func 1).doorbells.head? ≠ some 3) := by
  decide +kernel

theorem test_witness_RingAndStreamDoorbells :
    (fnAlive tOff 1 = true ∧ (tOff.func 1).cqEnable = false ∧ (0x40001).testBit 0 = true ∧ (tReady.func 1).cqEnable = true) ∧
    (255 + 256 - ((tRing 0).func 1).head) % 256 ≤ ((tRing 0).func 1).unread ∧
    ((3 + 256 - ((tRing 2).func 1).head) % 256 ≤ ((tRing 2).func 1).unread ∧ ((tReady.func 1).unread < (1 + 256 - (tReady.func 1).head) % 256)) ∧
    (badCount ({} : Stream) 64 = false ∧ badCount ({} : Stream) 65 = true ∧ badCount ({ dirOut := true } : Stream) 0 = false ∧ badCount ({ bound := some 0 } : Stream) 1 = false) ∧
    ((aGet (tReady.isle (isleOf 1)).streams 0).isSome ∧ (aGet (tReady.isle (isleOf 1)).streams 1).isSome) := by
  decide +kernel

theorem test_witness_InterruptRegisters :
    (fnAlive tReady 1 = true ∧ (4 % 256).testBit 1 = false ∧ (2 % 256).testBit 1 = true ∧ (tReady.func 1).heldComps = [] ∧ (tReady.func 1).heldEvents = []) ∧
    (fnAlive tHeld 1 = true ∧ (tHeld.func 1).heldComps = {} :: []) ∧
    (barReadable tReady 1 = true ∧ barReadable tReady 2 = false ∧ barReadable State.reset 0 = false ∧ (tReady.func 1).flr = none ∧
    barReadable tFlr 1 = true ∧ (tFlr.func 1).flr ≠ none) := by
  decide +kernel

theorem test_witness_ConfigurationSpace :
    (tReady.boot.inReset = false ∧ tReady.boot.cfgReachable = true ∧ (tPhase 0x03).boot.cfgReachable = false) ∧
    (({ tReady with pcie := {} } : State).pcie.vfEnable = false ∧ tReady.pcie.vfEnable = true) ∧
    (tReady.boot.fwRunning = true ∧ (aGet (tReady.isle 1).streams 1).isSome = true ∧ aGet (tReady.isle 1).streams 2 = none) ∧
    ((tReady.func 1).atsEnable = false ∧ (tAts.func 1).atsEnable = true ∧ pageUsers tAts 1 0x7000 = [] ∧ pageUsers tAts 1 0x30 = [.stream 0] ∧
    pageUsers tAts 1 0x20 = [.ring]) ∧
    (((aGet (tAts.isle 1).streams 0).map fun x => (x.ring / 4096, (x.ring + x.entries * 2 ^ x.slotLog2 - 1) / 4096)) = some (0x30, 0x30) ∧ isleOf 1 = 1) := by
  decide +kernel

theorem test_witness_FunctionsReset :
    (vfAllows tReady 1 = true ∧ isReady tFlr = true ∧ (tFlr.isle 1).state = .enabled ∧ ((resetFunc 1 true (tWith fun r => { r with state := .created })).isle 1).state ≠ .enabled) ∧
    (isReady tReady = true ∧ isReady (tPhase 0x08) = false ∧ tReady.pcie.linkUp = true ∧ tReady.pcie.vfEnable = true ∧ State.reset.pcie.vfEnable = false) ∧
    (((tWith fun r => { r with fenceDue := some 1000200 }).isle 1).fenceDue = some 1000200 ∧ (tReady.isle 1).fenceDue = none) ∧
    (counting (tScrub false) = true ∧ (tScrub false).halt = none ∧ ((tScrub false).isle 1).state = .scrubbing ∧ ((advanceCount 2000000 (tScrub false)).isle 1).keysHeld = false ∧
    ((advanceCount 2000000 (tScrub true)).isle 1).keysHeld = true) := by
  decide +kernel

theorem test_witness_ServiceFindsErrors :
    ((findJob tJobs 1 (34 * 2 + 5)).isSome ∧ ((findJob tJobs 1 73).map fun j => (j.t, j.ret)) = some (none, false) ∧ counting tJobs = true ∧ findJob tJobs 1 0 = none) ∧
    (((findJob tJobs 2 7).map fun j => (j.t, j.ret, j.hold)) = some (none, false, [1]) ∧ (dropJob 2 7 tJobs).units.pcQueue = [9] ∧
    ((dropJob 2 7 tJobs).units.jobs.all fun x => x.cls != 2) ∧ (dropJob 2 7 tJobs2).units.pcQueue = []) ∧
    (((findJob tJobs 0 3).map fun j => (j.t, j.ret)) = some (none, true) ∧ findJob tJobs 2 511 = none) ∧
    (isReady tReady = true ∧ (noteCe dCp 0 tReady).1 ≤ 100 ∧ 100 < (noteCe dCp 0 (tTimes dCp 0)).1) ∧
    ((384 * 2 ^ 30 - 1) / 2 ^ 21 % 512 = 511 ∧ frameOwner tReady ((384 * 2 ^ 30 - 1) / 2 ^ 21) = none ∧ (noteCe dHbm 511 tReady).1 ≤ 1000 ∧ 1000 < (noteCe dHbm 511 (tTimes dHbm 511)).1) ∧
    ((frameOwner tReady (5 * 2 ^ 21 / 2 ^ 21)).map (fun x => x.1) = some 1 ∧ (noteCe dHbm 5 tReady).1 ≤ 1000) ∧
    (unitServes tRetired 2 5 = false ∧ unitServes tReady 2 511 = true ∧ tReady.mems.stackFail.contains 7 = false ∧
    (List.range 512).all (fun g => rowZeroAt tReady g != (384 * 2 ^ 30 - 1) / 2 ^ 21) ∧ frameOwner tReady 5 = some (1, 4 * 2 ^ 44) ∧ frameOwner tReady 0 = none ∧ rowZeroAt tReady 0 = 0) ∧
    ((noteCe dCore 3 tReady).1 ≤ 1000 ∧ 1000 < (noteCe dCore 3 (tTimes dCore 3)).1 ∧ (noteCe dShelf 73 tReady).1 ≤ 1000 ∧ 1000 < (noteCe dShelf 73 (tTimes dShelf 73)).1 ∧
    (384 * 2 ^ 30) / 2 ^ 21 = 196608) ∧
    ((noteUe dHbm 511 7 tReady).1 = false ∧ (noteUe dHbm 511 7 (tUeOnce 511)).1 = true ∧ (noteUe dHbm 511 5 (tUeOnce 511)).1 = false) := by
  decide +kernel

theorem test_witness_FatalFaultsAndStacks :
    (({ tReady with mems := { stackFail := [7] } } : State).mems.stackFail.contains 7 = true ∧ tReady.mems.stackFail.contains 7 = false ∧ isReady tReady = true) ∧
    (List.range 32).all (fun k => ((tWith fun r => { r with pool := none }).isle k).pool == none) ∧
    (tReady.mems.stackFail = [] ∧ (tReady.isle 1).pool.isSome) ∧
    (({ tReady with halt := some 299999999 } : State).halt = some 299999999 ∧ tReady.halt = none ∧ tReady.arch.formed = false ∧
    (portsIdle (advanceTicks (299999999 + 200) { tPair with halt := some 299999999 })).arch.formed = true) ∧
    ((let s := tAt specProgRun (tCmd 1 0x0402 (z 4 ++ 1 :: z 3)) { tPair with isles := setAt tPair.isles 1 fun r => { r with progs := [(0, { shards := 257 })] } } .boundary
    (((s.func 1).cmds.find? fun c => c.hdr.opcode == 0x0402 && c.phase == .boundary && handleArg c == 0).isSome) ∧ runAgreed s 1 0 1 (tideNow s + 2 ^ 63) = false)) ∧
    ((let s := tAt specProgRun (tCmd 1 0x0402 (z 4 ++ 1 :: z 3)) tReady .boundary
    (((s.func 1).cmds.find? fun c => c.hdr.opcode == 0x0402 && c.phase == .boundary && handleArg c == 0).isSome) ∧ runAgreed s 1 0 1 (tideNow s + 2 ^ 63) = true)) ∧
    ((tReady.func 1).cmds.find? fun c => c.hdr.opcode == 0x0402 && c.phase == .boundary && handleArg c == 0) = none := by
  decide +kernel

/-! ## Cay, ports, windows, tasks -/

def tInfo : CartInfo := { meetsTable81 := true, capacityGiB := 256, rated := 100, readRate := 5, writeRate := 5, vendor := 1, serial := 2 }
def tPairing : PairRecord := { chip := 0, cart := 9, certSlot := 0, rated := 100, lifeDate := 5, checkUtc := 4, checkWritten := 0 }
/-- Slot 0 as given, slot 1 with a cartridge that serves. -/
def tCart (f : CaySlot → CaySlot) (g : Seq → Seq) : State :=
  let s := tWith fun r => { r with seqs := [(0, g { share := false })], keys := { r.keys with current := some 1 }, grant := { r.grant with share := [500, 500] } }
  { s with
    fuses := { s.fuses with deviceId := 0 }
    pins := { s.pins with cayPrsnt := [false, false], cayPwr := [false, true] }
    cay := setAt (setAt s.cay 0 f) 1 fun c =>
      { c with state := .online, info := { tInfo with vendor := 7, serial := 7 }, identity := some 8, pairing := some { tPairing with cart := 8 }, checkTick := 900000 } }
def tStep (n : Nat) : State := tCart (fun c => { c with state := .bringup, step := n, info := tInfo }) id
def tServe : State := tCart (fun c => { c with state := .online, info := tInfo, identity := some 9, pairing := some tPairing, checkTick := 900000 }) id
def tImg (i : Nat) : Image := { slot := i, blocks := [4], bytes := 144, epoch := 1 }
def tPark : State := tCart (fun c => { c with state := .online, rg := 1000, buckets := [(1, { credit := 1000, tick := 1000000 })] }) fun q =>
  { q with state := .parking, parkImage := some (tImg 0) }
/-- The same whose image waits for its run of blocks, on a slot that has one or whose blocks are being deallocated. -/
def tDry (w : Bool) : State := tCart (fun c => { c with state := .online, info := tInfo, rg := 1000, wipe := w, buckets := [(1, { credit := 1000, tick := 1000000 })] }) fun q =>
  { q with state := .parking, parkImage := some { tImg 0 with blocks := [] } }
def tFlush : State := tCart id fun q => { q with state := .parking, parkImage := some (tImg 0), parkStart := some 3 }
def tUnpark : State := tCart id fun q => { q with state := .unparking, image := some (tImg 0), pages := [{ state := .committed, addr := 2 * 2 ^ 44 }] }
def tEject : State := tCart (fun c => { c with state := .ejecting, eject := some (false, 2), info := tInfo }) fun q => { q with state := .parked, image := some (tImg 0) }
/-- The same with a sequence that runs and has a shadow image there. -/
def tShadow : State := tCart (fun c => { c with state := .ejecting, eject := some (false, 2), info := tInfo }) fun q => { q with image := some (tImg 0) }
/-- Slot 1 takes images of isle 1. -/
def tPaid : State := { tEject with cay := setAt tEject.cay 1 fun c => { c with rg := 1000 } }
/-- A home with a replica on chip 1 whose image is read: to be sent, or with a copy that is not acknowledged. -/
def tCopy (reqs : List WinReq) : State :=
  { tPair with
    arch := { tPair.arch with reqs := reqs }
    isles := setAt tPair.isles 1 fun r => { r with
      seqs := [(0, { replicas := 257, state := .unparking, image := some (tImg 0), content := some (tImg 0), unparkRead := true, farSent := [1] })] } }
/-- A replica that its home fills. -/
def tFar : State := tCart id fun q => { q with home := false, state := .unparking }

/-- An image that this chip sealed opens again. -/
theorem test_witness_ParkImagesMove_opens : openImage tUnpark 1 (tImg 0) (sealImage tUnpark 0 (poolOf tUnpark 1) (tImg 0)) = true := by
  decide +kernel

theorem test_witness_ParkImagesMove :
    ((seqOf tPark 1 0).any (fun q => q.state == .parking && q.parkImage == some (tImg 0) && q.parkStart.isNone && q.abandon.isNone && q.lossDue.isNone) ∧
    (bucketNow tPark 0 1).credit ≥ 144 ∧ ((seqOf tPark 1 0).bind fun q => q.parkImage.map fun i => i.blocks) = some [4] ∧ ((seqOf tPark 1 0).map fun q => (captureImage tPark 1 q).2.2) = some false) ∧
    (seqOf tFlush 1 0).any (fun q => q.state == .parking && q.parkImage == some (tImg 0) && q.parkStart == some 3 && !q.parkFlush && q.abandon.isNone && q.lossDue.isNone) ∧
    ((seqOf (tDry false) 1 0).any (fun q => q.parkImage == some { tImg 0 with blocks := [] } && q.state == .parking && q.parkStart.isNone) ∧
    (freeRun (tDry false) 0 (imageBlocks 144)).isSome ∧ freeRun (tDry true) 0 (imageBlocks 144) = none ∧ (bucketNow (tDry false) 0 1).credit ≥ 144) ∧
    ((seqOf tUnpark 1 0).any (fun q => q.state == .unparking && q.image == some (tImg 0) && !q.unparkRead && q.lossDue.isNone && q.unparkEnd.isNone) ∧
    openImage tUnpark 1 (tImg 0) [] = false) ∧
    (seqOf tReady 1 0).map (fun q => (q.parkImage, q.parkStart, q.image)) = some (none, none, none) ∧
    (((tReady.isle 2).state == .enabled) = false ∧ (tReady.isle 0).pool = none ∧ (tReady.isle 1).pool.isSome ∧ (seqOf tReady 1 0).map (fun q => q.home) = some true ∧
    seqOf tReady 1 1 = none ∧ ((seqOf (tCart id fun q => { q with home := false }) 1 0).map fun q => q.home) = some false) ∧
    ((seqOf (tCopy []) 1 0).any (fun q => q.content.isSome && q.state == .unparking && q.unparkRead && !q.unparkDone &&
      replicaChips (tCopy []) q == [1] && (replicaChips (tCopy []) q).all fun j => q.farSent.contains j) ∧ copiesOut (tCopy []) 1 0 = false ∧
    copiesOut (tCopy [{ tag := 0, dest := 1, port := 0, isle := 1, dstIsle := 1, unit := 0xFFFF, task := 0 }]) 1 0 = true) ∧
    (tReady.boot.inReset = false ∧ (tReady.isle 1).state = .enabled ∧ (seqOf tFar 1 0).any (fun q => !q.home && q.state == .unparking) ∧
    0 ∉ [6, 8, 10] ∧ 9 ∉ [6, 8, 10]) ∧
    (tB 4 tReady = false ∧ tB 4 tPair ∧ ((tV 4 tPair).isle 1).state = .enabled ∧ ((tV 4 tPair).isle 1).pool.isSome ∧ ((tV 4 tPair).isle 2).state ≠ .enabled) ∧
    ((let s := tReady; let v := (openTable 1 1 (s.mapIsle 1 fun r => { r with seqs := aSet 1 (createSeq (z 48) false) r.seqs })).getD s;
    seqOf (allocStaging 1 1 (mapSeq 1 1 (fun q => { q with c := 0, f := 0 }) (adoptRun 1 1 [] 0 0 v))).2 1 1).map fun q => pagesReady (poolOf tReady 1) q) = some true := by
  decide +kernel

/-- An exchange that passes, with LBA 0 as given. -/
def tSpdm (b : Bytes) : SpdmResult := { ok := true, digest := 9, certSlot := 0, lowest := 9, recordMatch := true, lba0 := b }

/-- A record of the cartridge with digest 9 that this chip sealed. -/
theorem test_witness_CartridgeComesUp_record :
    (validRecord (tStep 5) (tSpdm (envelope (z 32) (z 12) tPairing))).map (fun p => p.cart) = some 9 := by decide +kernel

theorem test_witness_CartridgeComesUp :
    ((tCart (fun c => c) id).boot.phase = 0x09 ∧ unitState (tCart (fun c => c) id) 4 0 ≠ 2 ∧ ((tCart (fun c => c) id).caySlot 0).state = .empty ∧
    tReady.pins.cayPrsnt.getD 0 true = true ∧ (tCart (fun c => c) id).pins.cayPrsnt.getD 0 true = false) ∧
    (atStep (tStep 2) 0 2 ∧ atStep (tStep 3) 0 3 ∧ atStep (tStep 4) 0 4 ∧ tInfo.meetsTable81 ∧ 256 ≤ tInfo.capacityGiB ∧ atStep tReady 0 2 = false) ∧
    (atStep (tStep 5) 0 5 ∧ (tSpdm []).recordMatch ∧ (tSpdm []).ok ∧ (tSpdm []).digest = 9 ∧ ({ tSpdm [] with ok := false } : SpdmResult).ok = false) ∧
    (validRecord (tStep 5) (tSpdm [])).map (fun p => p.cart) = none ∧
    ({ tSpdm [] with recordMatch := false } : SpdmResult).recordMatch = false ∧
    (isClone (cayRefused 0 2 .eCart (tStep 5)) 0 = false ∧ isClone (cayRefused 0 2 .eCart (tCart (fun c => { c with identity := some 8 }) id)) 0) ∧
    (atStep (tStep 6) 0 6 ∧ isClone (tStep 6) 0 = false ∧ ((tStep 6).caySlot 0).pairing = none ∧ ((tStep 6).caySlot 1).state = .online) ∧
    isClone (tCart (fun c => { c with state := .bringup, step := 6, identity := some 8 }) id) 0 ∧
    isClone (tCart (fun c => { c with state := .bringup, step := 6, pairing := some tPairing, info := tInfo }) id) 0 = false ∧
    atStep (tCart (fun c => { c with state := .bringup, step := 7, pairing := some tPairing, info := tInfo }) id) 0 7 ∧
    ((tCart (fun c => c) id).pins.cayPrsntSince.getD 0 0 = 0 ∧ isClone (tStep 5) 0 = false ∧ ((tStep 6).caySlot 1).identity = some 8) ∧
    (atStep tServe 0 7 = false ∧ (tServe.caySlot 0).pairCmd = none ∧ (tServe.caySlot 0).reading = false ∧
    ((tCart (fun c => { c with state := .online, reading := true }) id).caySlot 0).reading) ∧
    ((tServe.caySlot 0).wornOut = false ∧ ((tCart (fun c => { c with wornOut := true }) id).caySlot 0).wornOut) ∧
    (worn (tServe.caySlot 0) = false ∧ worn { tServe.caySlot 0 with smart := { critical := 0, spare := 0, threshold := 0, used := 100, duWritten := 0 } }) := by
  decide +kernel

theorem test_witness_GovernorAndImages :
    (governed tServe 0 ∧ governed tReady 0 = false ∧ (faultWord tServe.faults dCay 0).testBit 9 = false) ∧
    (faultWord (recordFault dCay 0 9 {} [] tServe).faults dCay 0).testBit 9 ∧
    (((seqOf tFlush 1 0).bind fun q => q.parkImage.map fun i => i.slot) = some 0 ∧ ((seqOf tUnpark 1 0).bind fun q => q.image.map fun i => i.slot) = some 0) ∧
    ((tEject.caySlot 0).eject = some (false, 2) ∧ ((seqOf tEject 1 0).bind fun q => q.image) = some (tImg 0) ∧ (tEject.caySlot 1).state = .online ∧
    ((seqOf tEject 1 0).map fun q => q.lossDue) = some none ∧ epochLive tEject 1 1 ∧ ((tEject.caySlot 1).migrated.any fun m => m.1 == (1, 0)) = false ∧
    freeRun tEject 1 1 = some [0]) ∧
    ((bucketNow tEject 1 1).credit - 144 < -(bucketDepth tEject 1 1 : Int) ∧ -(bucketDepth tPaid 1 1 : Int) ≤ (bucketNow tPaid 1 1).credit - 144 ∧ takesParks tPaid 1 ∧ (seqOf tPaid 1 0).map (fun q => q.parkImage) = some none ∧
    (tPaid.caySlot 0).eject = some (false, 2) ∧ ((seqOf tPaid 1 0).bind fun q => q.image) = some (tImg 0) ∧ (tPaid.caySlot 1).state = .online ∧
    ((seqOf tPaid 1 0).map fun q => (q.lossDue, q.tierOnePark, q.state)) = some (none, false, .parked) ∧ epochLive tPaid 1 1 ∧
    ((tPaid.caySlot 1).migrated.any fun m => m.1 == (1, 0)) = false ∧ freeRun tPaid 1 1 = some [0]) ∧
    ((seqOf tFlush 1 0).any (fun q => q.parkStart == some 3 && !q.parkFlush && q.state == .parking) ∧
    ((seqOf tUnpark 1 0).any fun q => q.image == some (tImg 0) && q.state == .unparking && !q.unparkRead) ∧
    ((seqOf tEject 1 0).any fun q => q.state == .parked && !q.tierOnePark && q.image == some (tImg 0)) ∧
    ((tShadow.caySlot 0).eject = some (false, 2) ∧ (seqOf tShadow 1 0).any fun q => q.state == .resident && q.image == some (tImg 0))) := by
  decide +kernel

theorem test_witness_CartridgeLeaves :
    (tReady.pins.cayPrsnt.getD 0 true = true ∧ (tServe.caySlot 0).state = .online ∧ tServe.pins.cayPrsnt.getD 0 true = false) ∧
    ({ tServe with pins := { tServe.pins with cayPrsnt := [true, false] } } : State).pins.cayPwr.getD 0 false = false ∧
    (recordFault dCay 0 5 { unit := 0 } [] (advanceTicks 2000 { tServe with pins := { tServe.pins with cayPrsnt := [true, false] } })).pins.cayPwr.getD 0 false = false ∧
    (((tCart (fun c => { c with powerOffAt := some 5 }) id).caySlot 0).powerOffAt = some 5 ∧ cayLinked tServe 0 ∧ cayLinked tReady 0 = false ∧ 512 * 2 ^ 21 ≤ 2 ^ 30) ∧
    (((tCart (fun c => { c with state := .refused }) id).caySlot 0).state = .refused ∧ ((tCart (fun c => { c with state := .refused }) id).caySlot 0).pairCmd = none ∧
    (tServe.caySlot 0).state ≠ .refused ∧ (tReady.caySlot 0).state ≠ .refused ∧ (tServe.caySlot 0).reading = false) ∧
    (stagingFrame tServe (2 ^ 30 / 2 ^ 21) = false ∧ stagingFrame tServe 511 ∧ tServe.units.rowZero = []) ∧
    (((tCart (fun c => { c with shutdown := true, state := .ejecting }) id).caySlot 0).shutdown ∧ (tServe.caySlot 0).shutdown = false) := by
  decide +kernel

def tTrain : PortTrain :=
  { port := 0, lanesOk := true, peerChip := 1, peerPort := 14, peerInc := 7, peerAligned := false, peerReady := true, latency := 10 }
def tPort (f : Port → Port) : State := { tPair with ports := setAt tPair.ports 0 f }
def tIdle : State := tPort fun r => { r with state := .idle }
/-- Chips 0, 1 and 2, with both ports active. -/
def tThree : State :=
  { tPair with arch := { tPair.arch with member := 7, present := 7, incs := [(1, 7), (2, 9)] }, ports := setAt tPair.ports 1 fun p => { p with state := .active, linkUp := true, peer := (2, 9) } }
def tProbe (t : Nat) : State := tPort fun r => { r with probe := some (2, t) }
def tDown (st : PortState) : State := tPort fun r => { r with state := st, downTick := 5 }

/-- A message of chip 2 at port 1, and the probe that it answers; a port that returns, at the lower and at the higher chip. -/
def tFrom2 : FlitHdr := { tHdr 2 9 with port := 1 }
def tProbed : State := { tThree with ports := setAt tThree.ports 0 fun r => { r with probe := some (2, 299999950) } }
def tBack : State := tPort fun r => { r with returning := true, heldFlows := [(3, 1), (4, 2)] }
def tHigh : State :=
  { tPair with boot := { tPair.boot with chipIdStrap := 1 }, arch := { tPair.arch with incs := [(0, 0)] }
               ports := setAt tPair.ports 14 fun r => { r with state := .detoured, linkUp := true, returning := true, heldFlows := [(4, 2)] } }

theorem test_witness_PortsTrainAndFail :
    (tIdle.boot.inReset = false ∧ tIdle.boot.fwRunning ∧ tIdle.halt = none ∧ tIdle.tide.frozen = false ∧ (trainPort tTrain tIdle).tide.aligned) ∧
    ((trainPort tTrain { tIdle with boot := { tIdle.boot with alignByLink := true }, tide := { tIdle.tide with aligned := false } }).port 0).state = .active ∧
    (tIdle.boot.archEn ∧ (tIdle.port 0).state = .idle ∧ (tIdle.port 0).wiring = false ∧ peerAt tIdle 0 = 1 ∧ tTrain.peerPort = 14 - 0 ∧ tReady.boot.archEn = false) ∧
    ((tPair.port 0).state = .active ∧ (tPair.port 0).linkUp ∧ tPair.arch.member ≠ 0 ∧ tPair.arch.present.testBit (peerAt tPair 0) ∧ intermediate tPair 1 = none) ∧
    (((tDown .retired).port 0).state = .retired ∧ (tReady.port 0).linkUp = false ∧ ((tDown .detoured).port 0).linkUp) ∧
    (intermediate tThree (peerAt tThree 0) = some 2 ∧ (tThree.port 0).state = .active ∧ (tPair.port 0).probe = none) ∧
    (((trainPort tTrain { tIdle with tide := { tIdle.tide with aligned := false, coldWait := true } }).port 0).state = .active ∧
    tTrain.peerChip = (tPair.port 0).peer.1 ∧ { tTrain with peerChip := 2 }.peerChip ≠ (tPair.port 0).peer.1 ∧
    (peerReports 0 true true { tPair with tide := { tPair.tide with aligned := false, coldWait := true } }).tide.coldWait ∧ tPair.tide.coldWait = false) ∧
    ((({ tPair with arch := {} } : State).port 0).state = .active ∧ ({ tPair with arch := {} } : State).arch.member = 0) ∧
    ((receive tFrom2 4 false 1 tProbed).2 ∧ tB 4 tReady = false ∧ ((receive tFrom2 4 false 1 tProbed).1.port 0).probe = some (2, 299999950) ∧
    (receive tFrom2 4 false 1 tProbed).1.clk.ticks ≤ 299999950 + 100 ∧ chipId (receive tFrom2 4 false 1 tProbed).1 = 0) ∧
    (((receive tFrom2 4 false 1 tThree).1.port 0).probe = none ∧ ((tProbe 5).port 0).probe = some (2, 5) ∧ 5 + 100 < (tProbe 5).clk.ticks ∧ tB 4 (tProbe 5)) ∧
    (((tDown .detoured).port 0).state = .detoured ∧ ((tDown .cut).port 0).state = .cut ∧ ((tDown .cut).port 0).retrained = false ∧ chipId (tDown .cut) < peerAt (tDown .cut) 0) ∧
    (peerAt { (tDown .cut) with boot := { (tDown .cut).boot with chipIdStrap := 3 } } 14 = 2 ∧ chipId { (tDown .cut) with boot := { (tDown .cut).boot with chipIdStrap := 3 } } = 3) ∧
    (tB 4 tBack ∧ ((tV 4 tBack).port 0).returning ∧ ((tV 4 tBack).port 0).heldFlows.contains (3, 1) ∧ chipId (releaseFlow 0 3 (tV 4 tBack)) < 1) ∧
    ((receive { tHdr 0 0 with port := 14 } 4 false 1 tHigh).2 ∧ chipId (receive { tHdr 0 0 with port := 14 } 4 false 1 tHigh).1 = 1 ∧
    flowHeld (receive { tHdr 0 0 with port := 14 } 4 false 1 tHigh).1 0 4 ∧ (tPair.port 0).returning = false) ∧
    (((tPort fun r => { r with heldFlows := [(3, 1), (4, 2)].filter fun h => h.1 != 4 }).port 0).heldFlows.isEmpty = false ∧ ([(4, 2)].filter fun h => h.1 != 4) = []) := by
  decide +kernel

theorem test_witness_FlitsAreReplayed :
    ((tPair.port 0).linkUp ∧ (tReady.port 0).linkUp = false ∧ countFec 0 0 tPair = tPair) ∧
    (((5, 1000000) :: (tPair.port 0).fecTimes).map fun y => y.2).sum ≤ 1000000 ∧ 1000000 < (((5, 1) :: ((tPort fun r => { r with fecTimes := [(299999999, 1000000)] }).port 0).fecTimes).map fun y => y.2).sum ∧
    ((tPair.port 0).lcfFails + 1 < 8 ∧ 8 ≤ ((tPort fun r => { r with lcfFails := 7 }).port 0).lcfFails + 1) ∧
    ((tPair.port 0).replayed.2 + 1 < 8 ∧ ((tPort fun r => { r with replayed := (3, 7) }).port 0).replayed = (3, 7)) ∧
    ((tPair.port 0).crcTimes.length + 1 ≤ 1000 ∧
    1000 < (299999999 :: (((tPort fun r => { r with crcTimes := List.replicate 1000 299999999 }).port 0).crcTimes.filter fun t => decide (tReady.clk.ticks < t + 100000000))).length) ∧
    ((tPair.port 0).txq = [] ∧ pickTx tPair 0 = none ∧ ((tProbe 5).port 0).probe ≠ none ∧
    pickTx (tPort fun r => { r with txq := [{ ch := 4, cls := 5, isle := 1, dest := 1, left := 1, msg := .jtag 0 }] }) 0 =
      some { ch := 4, cls := 5, isle := 1, dest := 1, left := 1, msg := .jtag 0 }) ∧
    (tB 4 tThree ∧ tB 4 tReady = false ∧ chipId (tV 4 tThree) = 0 ∧ ((tV 4 tThree).port (myPort (tV 4 tThree) 2)).state = .active ∧
    ((tV 4 tThree).port (myPort (tV 4 tThree) 2)).linkUp ∧ ((tV 4 tThree).port (myPort (tV 4 tThree) 3)).state ≠ .active) ∧
    (tThree.boot.inReset = false ∧ (tThree.port 0).rxSeq = 0 ∧ (tThree.port 1).linkUp ∧ (tThree.port 2).linkUp = false ∧ 5 ≠ (tThree.port 0).rxSeq ∧ State.reset.boot.inReset) ∧
    (incOf tPair 1 = 7 ∧ incOf tPair 1 ≠ 6 ∧ chipId tPair ≠ 1 ∧ (0 + 65536 - 0) % 65536 < 1 ∧ 1 ≤ (0 + 65536 - 65535) % 65536 ∧ (0 + 65536 - 65535) % 65536 < 32768 ∧
    32768 ≤ (fseqNext tPair 1 4 + 65536 - 1) % 65536) := by
  decide +kernel

def tMsg (orig inc window n : Nat) : WinMsg :=
  { hdr := tHdr orig inc, srcIsle := 1, dstIsle := 1, window := window, tag := 3, offset := 0, bytes := n, kv := false, data := z n }
/-- Isle 1 with window 0 open to isle 1 of chips 0 and 1. -/
def tWin : State := { tPair with isles := setAt tPair.isles 1 fun r => { r with windows := [(0, { peerIsle := 1, mask := 3, rights := 3, base := 3 * 2 ^ 44, len := 4096, incs := [(1, 7)] })] } }
def tPart (orig inc window : Nat) : PartMsg :=
  { hdr := tHdr orig inc, srcIsle := 1, window := window, offset := 0, collId := 1, boundary := 2, round := 0, position := 0, shard := 0, tag := 3, data := z 32 }
def winIs (n : Nat) : WinCheck → Bool | .fenced => n == 1 | .notOpen => n == 2 | .ok _ => n == 3
def tReq (read : Option (Nat × Nat)) : State :=
  { tWin with
    arch := { tWin.arch with reqs := [{ tag := 3, dest := 1, port := 0, isle := 1, dstIsle := 1, unit := 0, task := 4, read := read, sent := true }] }
    isles := setAt tWin.isles 1 fun r => { r with units := [(0, { running := [{ id := 4, prog := 0, inv := 0, phase := 0, index := 0, desc := z 128 }] })] } }

/-- A request of class cls and n flits from chip 1, and an answer to one. -/
def tGot (cls n : Nat) (s : State) : Bool := (receive (tHdr 1 7) cls false n s).2
def tAfter (cls n : Nat) (s : State) : State := (receive (tHdr 1 7) cls false n s).1
def tReply (s : State) : Bool := (receive (tHdr 1 7) 1 true 1 s).2
def tDone (s : State) : State := (receive (tHdr 1 7) 1 true 1 s).1
def tFenced : State := { tWin with arch := { tWin.arch with fenced := [(1, 1)] } }
def tResets : State := { tWin with isles := setAt tWin.isles 1 fun r => { r with state := .quiescing } }

theorem test_witness_WindowRequestsAnswered :
    (tGot 0 1 tWin ∧ tGot 0 2 tReady = false ∧ (tAfter 0 1 tWin).halt = none ∧ winIs 3 (windowCheck (tAfter 0 1 tWin) 1 1 1 7 0 0 32 0 false) ∧
    tGot 1 1 tWin ∧ (tAfter 1 1 tWin).halt = none ∧ winIs 3 (windowCheck (tAfter 1 1 tWin) 1 1 1 7 0 4064 32 1 false)) ∧
    (((tAfter 0 1 tWin).isle 1).state = .enabled ∧ (tAfter 0 1 tWin).arch.fenced.contains (1, 1) = false ∧ aGet ((tAfter 0 1 tWin).isle 1).windows 5 = none) ∧
    (tGot 0 1 tFenced ∧ (tAfter 0 1 tFenced).arch.fenced.contains (1, 1) ∧ winIs 1 (windowCheck (tAfter 2 1 tFenced) 1 1 1 7 0 0 32 0 false) ∧
    tGot 0 1 tResets ∧ ((tAfter 0 1 tResets).isle 1).state = .quiescing) ∧
    (tReply (tReq none) ∧ tReply tReady = false ∧ (findReq (tDone (tReq none)) 1 3).map (fun r => r.read) = some none ∧
    (findReq (tDone (tReq (some (0, 3 * 2 ^ 44)))) 1 3).map (fun r => r.read) = some (some (0, 3 * 2 ^ 44)) ∧ tReply tWin ∧ findReq (tDone tWin) 1 3 = none) ∧
    (((aGet ((endReqs (fun q => q.tag == 3) (tDone (tReq none))).isle 1).units 0).bind fun x => x.running.find? fun t => t.id == 4).map fun t => t.id) = some 4 ∧
    ((findReq (tDone { tWin with arch := { tWin.arch with reqs := [{ tag := 4, dest := 1, port := 0, isle := 1, dstIsle := 1, unit := 0xFFFF, task := 0, sent := true }] } }) 1 4).map
      fun r => r.unit) = some 0xFFFF ∧
    (tGot 2 1 tWin ∧ (tAfter 2 1 tWin).halt = none ∧ winIs 3 (windowCheck (tAfter 2 1 tWin) 1 1 1 7 0 0 (tPart 1 7 0).data.length 0 false) ∧
    winIs 2 (windowCheck (tAfter 2 1 tWin) 1 1 1 7 5 0 32 0 false)) := by
  decide +kernel

def tLeaver : State := { tPair with arch := { tPair.arch with leavers := [1] } }
/-- An invocation of the program of isle 1 whose digest is that of an empty image. -/
def tInvs : State := { tPair with isles := setAt tPair.isles 1 fun r => { r with invs := [{ prog := 0, num := 3, start := 5 }] } }
def tDig : Nat := ({} : Prog).digest

theorem test_witness_PeersAnnounce :
    (tB 4 tPair ∧ tB 4 tReady = false ∧ (tV 4 tPair).arch.leavers.contains 1 = false ∧ (tV 4 tPair).tide.aligned ∧ chipId (tV 4 tPair) = 0) ∧
    (tB 4 tLeaver ∧ (tV 4 tLeaver).arch.leavers.contains 1 ∧ (receive (tHdr 0 0) 4 false 1 tPair).2) ∧
    (((List.range 32).all fun k => ((1, 1) :: (tV 4 tPair).arch.fenced).contains (1, k)) = false ∧
    ((List.range 32).all fun k => ((1, 1) :: (List.range 32).map fun k => (1, k)).contains (1, k))) ∧
    ((tV 4 tPair).isle 2).invs = [] ∧
    (tB 4 tInvs ∧ ((tV 4 tInvs).isle 1).invs.any (Inv.isOf ((tV 4 tInvs).isle 1) tDig 3) ∧
    ((tV 4 tInvs).isle 1).invs.any (Inv.isOf ((tV 4 tInvs).isle 1) tDig 4) = false ∧ invToCome ((tV 4 tInvs).isle 1) tDig 4) ∧
    (tPair.boot.inReset = false ∧ (tPair.port 0).linkUp ∧ tB 4 (recordInc 1 7 tPair) ∧ (receive { tHdr 1 7 with fseq := 65535 } 4 false 1 (recordInc 1 7 tPair)).2 = false) ∧
    (tReady.port 0).linkUp = false := by
  decide +kernel

def tEnt (f : Entropy → Entropy) : State := { tReady with ent := f tReady.ent }

/-- A window of samples in which every n-th differs from the first. -/
def tNoise (n : Nat) : List Bool := (List.range 1024).map fun i => decide (i % n ≠ 1)

theorem test_witness_EntropyServiceMoves :
    (tReady.standby.vstbyUp ∧ tReady.ent.testing = false ∧ tReady.ent.state = .running ∧ tReady.ent.calls < 65536 ∧ tReady.sec.challenge = none) ∧
    (rctFails (List.replicate 81 true) ∧ rctFails (List.replicate 80 true) = false ∧ aptFails (tNoise 27) ∧ rctFails (tNoise 27) = false ∧ aptFails (tNoise 2) = false ∧
    rctFails (tNoise 2) = false ∧ (tNoise 27).length = 1024) ∧
    ((tEnt fun e => { e with testing := true, state := .restarting, failTick := 299999999 }).ent.testing ∧
    ((advanceTicks (tReady.ent.testTick + 101200) (tEnt fun e => { e with testing := true, state := .restarting, failTick := 299999999 })).clk.ticks ≤ 299999999 + 2000000)) ∧
    5 + 2000000 < (advanceTicks (tReady.ent.testTick + 101200) (tEnt fun e => { e with testing := true, state := .restarting, failTick := 5 })).clk.ticks ∧
    ((tEnt fun e => { e with testing := true, state := .unstarted }).ent.kat ∧ (tEnt fun e => { e with state := .failed }).ent.state = .failed ∧
    65536 ≤ (tEnt fun e => { e with calls := 65536 }).ent.calls ∧ State.reset.ent.kat = false ∧ State.reset.ent.testing) ∧
    ({ tReady with sec := { tReady.sec with challenge := some (z 48, 7) } } : State).sec.challenge = some (z 48, 7) := by
  decide +kernel

theorem test_witness_SidebandsAnswer :
    (State.reset.pins.perstN = false ∧ tReady.pins.perstN = true ∧ jtagFull tReady = false ∧ tReady.standby.vstbyUp ∧ tReady.boot.fwRunning ∧ State.reset.boot.fwRunning = false) ∧
    (tReady.fuses.stepping ≠ 0xA1 ∧ ({ tReady with fuses := { tReady.fuses with stepping := 0xA1 } } : State).fuses.stepping = 0xA1) ∧
    (tReady.sec.lc = 2 ∧ ({ tReady with sec := { tReady.sec with unlocked := some 2 } } : State).sec.unlocked = some 2 ∧ (2).testBit 0 = false) ∧
    (tReady.boot.cfg.regulators.length ≤ 0 ∧ 0 < ({ tReady with boot := { tReady.boot with cfg := { tReady.boot.cfg with regulators := [7] } } } : State).boot.cfg.regulators.length ∧ ({ tReady with standby := { tReady.standby with vstbyUp := false } } : State).standby.vstbyUp = false) := by
  decide +kernel

/-- Unit 0 of isle 1 with one task in its queue. -/
def tTask (d : Bytes) : Task := { id := 0, prog := 0, inv := 0, phase := 0, index := 0, desc := d }
def tFront (d : Bytes) : State := tWith fun r => { r with units := [(0, { queue := [tTask d] })] }
def tDescOf (cls sub : Nat) : Bytes := natLe 1 cls ++ z 15 ++ natLe 1 sub ++ z 111
/-- A VCHAIN of one row of four columns, A in the striped shelf, OUT 4 KiB further, or far out; and a COMBINE of statistics likewise. -/
def tChain (out : Nat) : Bytes := natLe 1 5 ++ z 15 ++ natLe 2 1 ++ natLe 2 4 ++ natLe 1 3 ++ natLe 1 3 ++ z 2 ++ natLe 8 (3 * 2 ^ 44) ++ z 8 ++ natLe 8 out ++ z 80
def tComb (out : Nat) : Bytes := natLe 1 4 ++ z 15 ++ natLe 2 1 ++ natLe 2 0 ++ natLe 1 2 ++ natLe 1 1 ++ z 2 ++ natLe 8 (3 * 2 ^ 44) ++ natLe 8 16 ++ natLe 8 out ++ z 80
/-- A COMBINE of two rows of four partial sums. -/
def tSum (out : Nat) : Bytes := natLe 1 4 ++ z 15 ++ natLe 2 1 ++ natLe 2 4 ++ natLe 1 2 ++ z 3 ++ natLe 8 (3 * 2 ^ 44) ++ natLe 8 16 ++ natLe 8 out ++ z 80
def tWait (n : Nat) : Bytes := natLe 1 12 ++ z 19 ++ natLe 4 n ++ z 104
/-- ADD of two ciphertexts in the shelf, with the result and the record in its striped view; and an ENCODE of four values. -/
def tSeal (op a out : Nat) : Bytes :=
  natLe 1 10 ++ z 15 ++ natLe 1 op ++ z 5 ++ natLe 2 4 ++ natLe 8 a ++ natLe 8 (2 * 2 ^ 44 + 8192) ++ natLe 8 out ++ natLe 8 (3 * 2 ^ 44 + 2 ^ 21) ++ z 72
def tOk (d : Bytes) (rs : List (Nat × Nat)) : Bool :=
  rs.all fun r => (siteOf (issueTask 1 0 (tTask d) (tFront d)) 1 0 (tTask d)).ok (issueTask 1 0 (tTask d) (tFront d)) r.1 r.2

/-- A descriptor with these values at these offsets; an address of the striped shelf; isle 1 with this task at its front, its extension, and
the shelf's bytes from that address on. -/
def tD (fs : List (Nat × Nat)) : Bytes := natLe 128 ((fs.map fun x => x.2 * 256 ^ x.1).sum)
def tS (n : Nat) : Nat := 3 * 2 ^ 44 + n
def tLine (d e b : Bytes) (f : Isle → Isle) : State :=
  { tWith (fun r => f { r with units := [(0, { queue := [{ tTask d with ext := e }] })] }) with mems := { tReady.mems with shelf := tCells (3 * 2 ^ 20) b } }
/-- That task issued, and whether ranges are its own. -/
def tIss (d e b : Bytes) (f : Isle → Isle) : State := issueTask 1 0 { tTask d with ext := e } (tLine d e b f)
def tSite (d e b : Bytes) (f : Isle → Isle) : Site := siteOf (tIss d e b f) 1 0 { tTask d with ext := e }
def tOwn (d e b : Bytes) (f : Isle → Isle) (rs : List (Nat × Nat)) : Bool := rs.all fun r => (tSite d e b f).ok (tIss d e b f) r.1 r.2
def isErr {α : Type} : Except Nat α → Option Nat | .ok _ => none | .error r => some r
/-- A MOVE of four words from src; a nest of one element; an ATTEND and a verify of one entry; and an ATTEND with two equal globals. -/
def tMv (src scs rep : Nat) : Bytes := tD [(0, 1), (16, src), (24, tS 4096), (35, scs), (41, 1), (44, 1), (45, 4), (46, 2), (48, rep), (60, 1)]
def tNest (c : Nat) : Bytes := natLe 128 (tS 0 * 256 ^ 16 + tS 4096 * 256 ^ 24 + c * 256 ^ 32 +
  ([0, 2, 4, 40, 44, 48, 52, 54, 56, 58, 60, 62, 64, 66, 68].map fun o => 256 ^ o).sum)
def tAtt (r : Nat) : Bytes := tD [(0, 3), (16, 16), (36, 1), (48, r)]
def tVer (r : Nat) : Bytes := tD [(0, 3), (16, 1), (36, 1), (48, r), (96, tS 64), (104, tS 256), (112, tS 512)]
def tGlob : Bytes := tD [(0, 3), (38, 1), (40, 2), (80, tS 0)]

theorem test_witness_EngineTasksRun :
    ((front (tLine (tMv (tS 0) 1 0) [] [] id) 1 0 1).isSome ∧ (moveOf (tMv (tS 0) 1 0)).rep = 0 ∧ (moveOf (tMv (tS 0) 1 0)).perEn = false ∧
    spaceOf ((moveOf (tMv (tS 0) 1 0)).srcBlock 0).base = 3 ∧ spaceOf ((moveOf (tMv (tS 0) 1 0)).dstBlock 0).base = 3 ∧
    (tSite (tMv (tS 0) 1 0) [] [] id).blockOk (tIss (tMv (tS 0) 1 0) [] [] id) ((moveOf (tMv (tS 0) 1 0)).srcBlock 0) ∧
    (tSite (tMv (tS 0) 1 0) [] [] id).blockOk (tIss (tMv (tS 0) 1 0) [] [] id) ((moveOf (tMv (tS 0) 1 0)).dstBlock 0) ∧
    (tIss (tMv (tS 0) 1 0) [] [] id).fuses.stepping = 0xB0) ∧
    (tSite (tMv (12 * 2 ^ 44) 1 0) [] [] id).blockOk (tIss (tMv (12 * 2 ^ 44) 1 0) [] [] id) ((moveOf (tMv (12 * 2 ^ 44) 1 0)).srcBlock 0) = false ∧
    ((moveOf (tMv (tS 0) 0 0)).scs = 0 ∧ spaceOf (moveOf (tMv (tS 0) 0 0)).src ≠ 0 ∧
    (issueTask 1 0 (tTask (tMv (tS 0) 0 0)) { tLine (tMv (tS 0) 0 0) [] [] id with fuses := { tReady.fuses with stepping := 0xA1 } }).fuses.stepping = 0xA1 ∧
    (front { tLine (tMv (tS 0) 0 0) [] [] id with fuses := { tReady.fuses with stepping := 0xA1 } } 1 0 1).isSome ∧ (moveOf (tMv (tS 0) 1 3)).rep = 3) ∧
    ((front (tFront (tDescOf 2 0)) 1 0 2).isSome ∧ hasExt (tDescOf 2 0) = false ∧ (matOf (tDescOf 2 0)).ring = false ∧ (matOf (tD [(0, 2), (23, 8)])).ring ∧
    (front (tFront (tD [(0, 2), (23, 8)])) 1 0 2).isSome ∧ hasExt (tD [(0, 2), (23, 8)]) = false) ∧
    (hasExt (tD [(0, 2), (1, 4)]) ∧ (front (tLine (tD [(0, 2), (1, 4)]) (tNest (tS 8192)) [] id) 1 0 2).isSome ∧
    (let d := tD [(0, 2), (1, 4)]; let n := nestOf (tNest (tS 8192)); tOwn d (tNest (tS 8192)) [] id (nestRanges (matOf d) n (stages d) ++ nestScratch (matOf d) n (stages d))) ∧
    (let d := tD [(0, 2), (1, 4)]; let n := nestOf (tNest (12 * 2 ^ 44)); tOwn d (tNest (12 * 2 ^ 44)) [] id (nestRanges (matOf d) n (stages d) ++ nestScratch (matOf d) n (stages d)) = false)) ∧
    ((front (tLine (tAtt (tS 0)) [] (List.replicate 4 255) id) 1 0 3).isSome ∧ (attOf (tAtt (tS 0))).subop = 0 ∧ (attOf (tAtt (tS 0))).entries = 1 ∧
    (match attEnv (tSite (tAtt (tS 0)) [] (List.replicate 4 255) id) (attOf (tAtt (tS 0))) (tIss (tAtt (tS 0)) [] (List.replicate 4 255) id) with
      | .ok (e, n) => isErr (attEntry (tSite (tAtt (tS 0)) [] (List.replicate 4 255) id) (tTask (tAtt (tS 0))) e 0 (addPressure 1 (fun p => { p with att := p.att + 24 }) n, 0))
      | .error _ => some 0) = none ∧
    (match attEnv (tSite (tAtt (tS 0)) [] [] id) (attOf (tAtt (tS 0))) (tIss (tAtt (tS 0)) [] [] id) with
      | .ok (e, n) => isErr (attEntry (tSite (tAtt (tS 0)) [] [] id) (tTask (tAtt (tS 0))) e 0 (addPressure 1 (fun p => { p with att := p.att + 24 }) n, 0))
      | .error _ => none) = some 3 ∧
    isErr (attEnv (tSite tGlob [] [] id) (attOf tGlob) (tIss tGlob [] [] id)) = some 3 ∧ (attOf tGlob).subop = 0) ∧
    ((front (tLine (tVer (tS 0)) [] [] id) 1 0 3).isSome ∧ (attOf (tVer (tS 0))).subop = 1 ∧ (attOf (tVer (tS 0))).entries = 1 ∧
    isErr (verifyEntry (tSite (tVer (tS 0)) [] [] id) (attOf (tVer (tS 0))) 0 (addPressure 1 (fun p => { p with att := p.att + 20 }) (tIss (tVer (tS 0)) [] [] id))) = none ∧
    isErr (verifyEntry (tSite (tVer (12 * 2 ^ 44)) [] [] id) (attOf (tVer (12 * 2 ^ 44))) 0
      (addPressure 1 (fun p => { p with att := p.att + 20 }) (tIss (tVer (12 * 2 ^ 44)) [] [] id))) = some 2) ∧
    (front tReady 1 0 1 = none ∧ front tReady 1 0 2 = none ∧ front (tFront (tDescOf 1 0)) 1 0 3 = none) := by
  decide +kernel

/-- Two units of one core with a MOVE each, after unit 1 issued. -/
def tTwo : State := tWith fun r => { r with
  units := [(0, { queue := [tTask (tDescOf 1 0)] }), (1, { queue := [tTask (tDescOf 1 0)] })], turn := [(0, 1)] }

theorem test_witness_TasksIssueInOrder :
    ((front (tFront (tDescOf 1 0)) 1 0 1).map (fun t => t.id) = some 0 ∧ 1 < tReady.isles.length ∧
    (aGet ((tFront (tDescOf 1 0)).isle 1).units 0).map (fun r => r.queue.length) = some 1 ∧ (front (tFront (natLe 1 1 ++ [1] ++ z 126)) 1 0 1).isSome) ∧
    ((front (tFront (tWait 0)) 1 0 12).isSome ∧ (front (tFront (tSeal 3 (2 * 2 ^ 44) (3 * 2 ^ 44 + 4096))) 1 0 10).isSome) ∧
    ((front tTwo 1 0 1).isSome ∧ front tTwo 1 1 1 = none ∧ coreOf tTwo 1 0 = some 0 ∧ coreOf tTwo 1 1 = some 0 ∧ aGet (tTwo.isle 1).turn 0 = some 1 ∧
    aGet ((tFront (tDescOf 1 0)).isle 1).turn 0 = none) ∧
    (entriesOf [tTask (z 128)] ≤ 1 ∧ ({ running := [tTask (z 128)], later := [tTask (z 128)], window := 1 } : TUnit).refill.later.length = 1) := by
  decide +kernel

theorem test_witness_RowTasksWrite :
    ((front (tFront (tChain (3 * 2 ^ 44 + 4096))) 1 0 5).isSome ∧ tOk (tChain (3 * 2 ^ 44 + 4096)) [(3 * 2 ^ 44, 8), (3 * 2 ^ 44 + 4096, 8)]) ∧
    ((front (tFront (tChain (12 * 2 ^ 44))) 1 0 5).isSome ∧ tOk (tChain (12 * 2 ^ 44)) [(3 * 2 ^ 44, 8), (12 * 2 ^ 44, 8)] = false) ∧
    ((chainOf' (tChain 5)).rows = 1 ∧ (chainOf' (tChain 5)).cols * fmtBytes (chainOf' (tChain 5)).afmt = 8 ∧ chainUsesB (tChain 5) = false ∧ chainRow (tChain 5) = 8) ∧
    ((front (tFront (tComb (3 * 2 ^ 44 + 4096))) 1 0 4).isSome ∧ (combOf (tComb 5)).stats ∧ (combOf (tComb 5)).parts = 2 ∧
    tOk (tComb (3 * 2 ^ 44 + 4096)) [(3 * 2 ^ 44, 16), (3 * 2 ^ 44 + 16, 16), (3 * 2 ^ 44 + 4096, 16)]) ∧
    ((front (tFront (tSum (3 * 2 ^ 44 + 4096))) 1 0 4).isSome ∧ (combOf (tSum 5)).stats = false ∧ (combOf (tSum 5)).rows = 1 ∧ (combOf (tSum 5)).parts = 2 ∧
    outRow (stages (tSum 5)) 4 = 16 ∧ tOk (tSum (3 * 2 ^ 44 + 4096)) [(3 * 2 ^ 44, 16), (3 * 2 ^ 44 + 16, 16), (3 * 2 ^ 44 + 4096, 16)] ∧
    tOk (tSum (12 * 2 ^ 44)) [(12 * 2 ^ 44, 16)] = false ∧ front tReady 1 0 4 = none ∧ front tReady 1 0 5 = none) ∧
    ((front (tFront (tComb (12 * 2 ^ 44))) 1 0 4).isSome ∧ tOk (tComb (12 * 2 ^ 44)) [(3 * 2 ^ 44, 16), (3 * 2 ^ 44 + 16, 16), (12 * 2 ^ 44, 16)] = false) := by
  decide +kernel

/-- One that runs, with DONE naming counter 0. -/
def tRun (flags : Nat) (busy : Bool) : State :=
  tWith fun r => { r with units := [(0, { running := [{ tTask (natLe 1 1 ++ natLe 1 flags ++ z 126) with busy := busy }] })] }

theorem test_witness_TaskCounters :
    ((front (tFront (tDescOf 11 0)) 1 0 11).isSome ∧ (front (tFront (tWait 0)) 1 0 12).isSome ∧ fieldB (tWait 0) 20 4 = 0 ∧ fieldB (tWait 5) 20 4 = 5 ∧ ctrOf (tFront (tWait 5)) 1 0 0 = 0) ∧
    (pastReady (tRun 2 false) ∧ (((unitOf (tRun 2 false) 1 0).running.find? fun t => t.id == 0).map fun t => (taskOver t, dDone t.desc)) = some (true, true)) ∧
    (((unitOf (tRun 0 false) 1 0).running.find? fun t => t.id == 0).map fun t => (taskOver t, dDone t.desc)) = some (true, false) ∧
    (((unitOf (tRun 0 true) 1 0).running.find? fun t => t.id == 0).map fun t => taskOver t) = some false ∧
    (ctrOf tReady 1 0 0 + 7 ≤ 0xFFFFFFFF ∧ 0xFFFFFFFF < ctrOf tReady 1 0 0 + 0x100000000) ∧
    ((bumpCtr 1 0 0 0 (popTask 1 0 (tFront (tDescOf 11 0)))).isSome ∧ front tReady 1 0 11 = none ∧
    (let s := tWith fun r => { r with units := [(0, { queue := [tTask (tD [(0, 11), (18, 1)])], counters := [(0, 0xFFFFFFFF)] })] };
      (front s 1 0 11).isSome ∧ (bumpCtr 1 0 0 1 (popTask 1 0 s)).isNone)) ∧
    ((((unitOf (tFront (tWait 5)) 1 0).queue.head?).map fun t => (dClass t.desc, fieldB t.desc 20 4)) = some (12, 5) ∧
    ((unitOf (tRun 0 true) 1 0).running.find? fun t => t.id == 7) = none) ∧
    ((tRun 2 false).isle 1).strictRel = false ∧
    (((tWith fun r => { r with strictRel := true }).isle 1).strictRel ∧ 1 < (tWith fun r => { r with strictRel := true }).isles.length ∧ ((tWith fun r => { r with strictRel := true }).isle 1).conflicts = 0) := by
  decide +kernel

/-- A SEAL task that an RAU holds: begun or not, with a job admitted at that count, and with its jobs still to come; isle 1 with the unit that
issued it; and the same without what the RAU drops. -/
def tWorkOf (w : SealWork) : SealJob := { bound := 10, work := w }
def tJobD (d : Bytes) (started : Bool) (admitted : Option Nat) (plan : List SealWork) (t : Nat) : SealTask :=
  { isle := 1, unit := 0, task := t, prog := 0, view := 0, desc := d, plan := plan.map tWorkOf, started := started, admitted := admitted,
    job := admitted.map fun _ => tWorkOf (.encode 0) }
def tJob : Bool → Option Nat → List SealWork → Nat → SealTask := tJobD (tSeal 13 (2 * 2 ^ 44) (3 * 2 ^ 44 + 4096))
def tRauOf (f : Isle → Isle) (j : SealTask) : State :=
  let s := tWith fun r => f { r with
    units := [(0, { running := [{ tTask j.desc with busy := true }] })]
    sealed := { r.sealed with psets := [(0, { nLog2 := 2, l := 1, k := 0, dnum := 0, primes := [17] })] } }
  { s with raus := setAt s.raus 0 fun x => { x with queue := [j] } }
def tRau (j : SealTask) : State := tRauOf id j
/-- A retired RAU with that task. -/
def tRauOut (j : SealTask) : State := { tRau j with units := { (tRau j).units with recs := [((5, 0), { state := 2 })] } }
def tDrop (s : State) : State := s.mapRau 0 fun x => { x with queue := x.queue.filter (sealLive s) }
/-- What the tasks of RAU 0 may be started with. -/
def tChecks (s : State) (t : SealTask) : Option (Nat × Nat) := (sealOp s t).bind fun o => sealChecks o s (sealSite s t)
def tFound (s : State) (t : SealTask) : Option Bool := ((startSeal 0 t s).rau 0).queue.find? (fun x => x.isle == t.isle && x.unit == t.unit && x.task == t.task) |>.map fun x => x.started
/-- The shelf's bytes where A of a SEAL task and, two pages on, its values lie. -/
def tWords (b : Bytes) (s : State) : State := { s with mems := { s.mems with shelf := tCells (3 * 2 ^ 20 + 8192) b } }
def tA (b : Bytes) (s : State) : State := { s with mems := { s.mems with shelf := tCells (3 * 2 ^ 20) b } }
def tWants (s : State) (t : SealTask) (lines ok : Bool) (w : SealWork) : Bool :=
  match sealOp s t with
  | none => false
  | some o => sealLive s t && (readPoison s t.isle (o.jobSpans s (sealSite s t) w)).isEmpty == lines && o.jobOk s (sealSite s t) t w == ok
def tGives (s : State) (t : SealTask) (w : SealWork) : Option Nat :=
  (sealOp s t).bind fun o => (o.jobResults s (sealSite s t) t w).map fun l => l.length
/-- A SEAL task all of whose ranges are its isle's, but not what its header says of them. -/
def tHdrB (level status : Nat) : Bytes := natLe 4 0x54434553 ++ [0, 0] ++ natLe 1 level ++ [2, 1, 0] ++ natLe 2 status ++ z 52

theorem test_witness_SealTasksRun :
    ([1, 2, 3, 4, 5, 6, 7, 8, 9, 10, 11, 12, 13].all fun op => (front (tFront (tSeal op (2 * 2 ^ 44) (3 * 2 ^ 44 + 4096))) 1 0 10).isSome &&
      (sealOf (tSeal op (2 * 2 ^ 44) (3 * 2 ^ 44 + 4096))).op == op &&
      (let d := tSeal op (2 * 2 ^ 44) (3 * 2 ^ 44 + 4096); let v := issueTask 1 0 (tTask d) (tFront d);
        sealInIsle v (siteOf v 1 0 (tTask d)) (sealOf d) && rauOf v (siteOf v 1 0 (tTask d)).core == some 0)) ∧
    (let d := tSeal 3 (2 ^ 44) (3 * 2 ^ 44 + 4096); sealInIsle (issueTask 1 0 (tTask d) (tFront d)) (siteOf tReady 1 0 (tTask d)) (sealOf d) = false) ∧
    rauOf { tReady with units := { recs := (List.range 4).map fun r => ((5, r), { state := 2 }) } } 0 = none ∧
    (0 < tReady.raus.length ∧ 1 < tReady.isles.length ∧ (aGet ((tFront (tSeal 3 (2 * 2 ^ 44) (3 * 2 ^ 44 + 4096))).isle 1).units 0).isSome) ∧
    (spaceOf (2 ^ 44) ≠ 2 ∧ spaceOf (2 ^ 44) ≠ 3 ∧ (sealAddrs (sealOf (tSeal 3 (2 ^ 44) (2 ^ 44)))).any fun x => x.1 == 2 ^ 44) ∧
    front tReady 1 0 10 = none := by
  decide +kernel

theorem test_witness_SealJobsRun :
    (pastReady (tRau (tJob true none [.encode 0] 0)) ∧ pastReady State.reset = false) ∧
    (unitState (tDrop (tRauOut (tJob false none [] 0))) 5 0 = 2 ∧
    ((tDrop (tRauOut (tJob false none [] 0))).rau 0).queue.find? (fun t => !t.started) = some (tJob false none [] 0) ∧
    ((tDrop (tRauOut (tJob true none [] 0))).rau 0).queue.find? (fun t => !t.started) = none ∧ unitState (tDrop (tRau (tJob true none [] 0))) 5 0 ≠ 2) ∧
    (counting State.reset = false ∧ ((tDrop (tRau (tJob true (some 7) [] 0))).rau 0).queue.any (fun t => t.admitted.isSome) ∧
    rauTurn tReady (runnable tReady (tReady.rau 1)) = none) ∧
    (counting (tDrop (tRau (tJob true none [.encode 0] 0))) ∧ ((tDrop (tRau (tJob true none [.encode 0] 0))).rau 0).queue.any (fun t => t.admitted.isSome) = false ∧
    rauTurn (tDrop (tRau (tJob true none [.encode 0] 0))) (runnable tReady ((tDrop (tRau (tJob true none [.encode 0] 0))).rau 0)) = some (tJob true none [.encode 0] 0) ∧
    tideNow (tRau (tJob true none [.encode 0] 0)) + 10 + 25 ≤ (subslotAt (tRau (tJob true none [.encode 0] 0))).2 ∧
    (let s := { tReady with tide := { tReady.tide with count := 1000000 + tReady.tide.epochLen / 16 - 30 } }; (subslotAt s).2 < tideNow s + 10 + 25)) ∧
    (rauTurn (tDrop (tRau (tJob false none [] 0))) (runnable tReady ((tDrop (tRau (tJob false none [] 0))).rau 0)) = some (tJob false none [] 0) ∧
    tFound (tRau (tJob false none [] 0)) (tJob false none [] 0) = some true ∧
    tFound (tRau (tJobD (tSeal 12 (2 * 2 ^ 44) (3 * 2 ^ 44 + 4096)) false none [] 0)) (tJobD (tSeal 12 (2 * 2 ^ 44) (3 * 2 ^ 44 + 4096)) false none [] 0) = none) ∧
    (sealOp (tRauOf (fun r => { r with sealed := {} }) (tJob false none [] 0)) (tJob false none [] 0)).isNone ∧
    (let t := tJobD (tSeal 12 (2 * 2 ^ 44) (3 * 2 ^ 44 + 4096)) false none [] 0; tChecks (tRau t) t = some (1, statusCode .eBadarg) ∧
      tChecks (tA (tHdrB 0 (statusCode .eLevel)) (tRau t)) t = some (2, statusCode .eLevel)) ∧
    (let t := tJob false none [] 0; tChecks (tRau t) t = none ∧ (sealOp (tRau t) t).map (fun o => (([o.ranges.1, o.ranges.2.1, o.ranges.2.2].all
        fun x => (sealSite (tRau t) t).ok (tRau t) x.1 x.2), readPoison (tRau t) 1 (o.reads (tRau t) (sealSite (tRau t) t)))) = some (true, [])) ∧
    (let t := tJob false none [] 0; let s := { tRau t with mems := { tReady.mems with shelfPoison := [(3 * 2 ^ 20 + 8192) / 128] } };
      tChecks s t = none ∧ (sealOp s t).map (fun o => (readPoison s 1 (o.reads s (sealSite s t))).isEmpty) = some false) ∧
    (let t := tJobD (tSeal 13 0 (2 * 2 ^ 44 + 2 * 2 ^ 26 - 64)) false none [] 0; tChecks (tRau t) t = none ∧
      (sealOp (tRau t) t).map (fun o => (sealSite (tRau t) t).ok (tRau t) o.ranges.2.2.1 o.ranges.2.2.2) = some false ∧
      ((unitOf (tRau t) 1 0).running.find? fun x => x.id == t.task).isSome) ∧
    (((tRau (tJob true (some 7) [] 0)).rau 0).queue.find? (fun t => t.admitted.isSome) = some (tJob true (some 7) [] 0) ∧
    sealLive (tRau (tJob true (some 7) [] 0)) (tJob true (some 7) [] 0) ∧ sealLive (tRau (tJob true (some 7) [] 9)) (tJob true (some 7) [] 9) = false ∧
    7 + 10 ≤ tideNow tReady ∧ (tReady.rau 0).queue.find? (fun t => t.admitted.isSome) = none) ∧
    (let t := tJob true none [] 0; tWants (tRau t) t true true (.encode 0) ∧ tGives (tRau t) t (.encode 0) = some 1 ∧
      tGives (tWords (natLe 4 0x7FC00000) (tRau t)) t (.encode 0) = none ∧
      tWants { tRau t with mems := { tReady.mems with shelfPoison := [(3 * 2 ^ 20 + 8192) / 128] } } t false true (.encode 0)) ∧
    (let t := { tJobD (tSeal 12 (2 * 2 ^ 44) (3 * 2 ^ 44 + 4096)) true none [] 0 with headA := tHdrB 0 0 };
      tWants (tA (tHdrB 0 0 ++ natLe 8 17) (tRau t)) t true false (.point .copy 0 (.a 0 0) .zero (.out 0 0) 0) ∧
      tWants (tA (tHdrB 0 0 ++ natLe 8 16) (tRau t)) t true true (.point .copy 0 (.a 0 0) .zero (.out 0 0) 0) ∧
      tGives (tRau t) t (.point .copy 0 (.a 0 0) .zero (.out 0 0) 0) = some 1) ∧
    (inSealed (tRau (tJob true none [] 0)) 1 0 (3 * 2 ^ 44 + 2 ^ 20) 64 ∧ inSealed (tRau (tJob true none [] 0)) 1 0 (3 * 2 ^ 44 + 4096) 64 = false) := by
  decide +kernel

/-- A TAP with its accept records at acc, and a row of tap 0 that its unit captured. -/
def tTap (acc : Nat) : Bytes := tD [(0, 7), (16, acc)]
def tRow : TapRow := { prog := 0, inv := 0, unit := 0, pos := 3, node := some 0 }
def tTaps (r : Isle) : Isle := { r with taps := [{ state := .armed, base := tS 2048, kn := 1, pendingRows := [tRow] }] }
/-- A batch of one entry for sequence 0; a KVAPPEND, a KVFLUSH and a collective of one member. -/
def tBatch (r : Isle) : Isle :=
  { r with invs := [{ prog := 0, num := 0, start := 5, entries := [{ seq := 0, a := 2, c := 0, f := 0, step := 0, flushable := 1 }] }] }
def tApp (entry src layer count : Nat) : Bytes := tD [(0, 8), (16, entry), (20, count), (22, layer), (24, src), (32, 64)]
def tFlushD (entry layers : Nat) : Bytes := tD [(0, 9), (16, entry), (18, 1), (20, layers)]
def tColl (op set src : Nat) : Bytes := tD [(0, 6), (16, op), (18, set), (24, src), (32, tS 4096), (40, 64)]
def tMember (d : Bytes) : Bool := let c := collOfTask (tIss d [] [] id) 1 0 (tTask d); c.mem.contains c.shard

theorem test_witness_KvAndCollectTasksRun :
    ((front (tLine (tTap (tS 0)) [] [] tTaps) 1 0 7).isSome ∧ tOwn (tTap (tS 0)) [] [] tTaps [(tS 0, 32)] ∧ tOwn (tTap (12 * 2 ^ 44)) [] [] tTaps [(12 * 2 ^ 44, 32)] = false ∧
    acceptOk ((tSite (tTap (tS 0)) [] [] tTaps).bytes (tIss (tTap (tS 0)) [] [] tTaps) (tS 0) 32).1 ∧
    acceptOk ((tSite (tTap (tS 0)) [] (List.replicate 4 255) tTaps).bytes (tIss (tTap (tS 0)) [] (List.replicate 4 255) tTaps) (tS 0) 32).1 = false ∧
    (((tIss (tTap (tS 0)) [] [] tTaps).isle 1).taps.getD 0 {}).pendingRows = [tRow]) ∧
    ((front (tLine (tApp 0 (tS 0) 0 1) [] [] tBatch) 1 0 8).isSome ∧ batchEntry (tIss (tApp 9 (tS 0) 0 1) [] [] tBatch) (tSite (tApp 9 (tS 0) 0 1) [] [] tBatch) 9 = none ∧
    ((batchEntry (tIss (tApp 0 (tS 0) 0 1) [] [] tBatch) (tSite (tApp 0 (tS 0) 0 1) [] [] tBatch) 0).map fun x => x.a) = some 2 ∧
    ((tIss (tApp 0 (tS 0) 0 1) [] [] tBatch).isle 1).pool.isSome ∧ (poolOf (tIss (tApp 0 (tS 0) 0 1) [] [] tBatch) 1).layers = 1 ∧
    (poolOf (tIss (tApp 0 (tS 0) 0 1) [] [] tBatch) 1).vec = 64 ∧ (appOf (tApp 0 (tS 0) 0 1)).first + (appOf (tApp 0 (tS 0) 0 1)).count ≤ 2 ∧ 2 < (appOf (tApp 0 (tS 0) 0 3)).count ∧
    tOwn (tApp 0 (tS 0) 0 1) [] [] tBatch [(0, 0), (tS 0, 64)] ∧ tOwn (tApp 0 (12 * 2 ^ 44) 0 1) [] [] tBatch [(12 * 2 ^ 44, 64)] = false ∧ (appOf (tApp 0 (tS 0) 1 1)).layer = 1) ∧
    ((front (tLine (tFlushD 0 1) [] [] tBatch) 1 0 9).isSome ∧
    ((batchEntry (tIss (tFlushD 0 1) [] [] tBatch) (tSite (tFlushD 0 1) [] [] tBatch) 0).map fun x => (x.seq, x.flushable)) = some (0, 1) ∧
    batchEntry (tIss (tFlushD 1 1) [] [] tBatch) (tSite (tFlushD 1 1) [] [] tBatch) 1 = none ∧ (poolOf (tIss (tFlushD 0 1) [] [] tBatch) 1).layers = 1 ∧
    (seqOf (tIss (tFlushD 0 1) [] [] tBatch) 1 0).isSome ∧ seqOf (tIss (tFlushD 0 1) [] [] fun r => { tBatch r with seqs := [] }) 1 0 = none) ∧
    [0, 1, 2].all (fun op => (front (tLine (tColl op 1 (tS 0)) [] [] id) 1 0 6).isSome && fieldB (tColl op 1 (tS 0)) 16 1 == op && tMember (tColl op 1 (tS 0)) &&
      tOwn (tColl op 1 (tS 0)) [] [] id [(tS 0, 64), (tS 4096, 64)]) ∧
    (tMember (tColl 0 2 (tS 0)) = false ∧ tOwn (tColl 0 1 (12 * 2 ^ 44)) [] [] id [(12 * 2 ^ 44, 64)] = false ∧
    ((tSite (tColl 0 1 (tS 0)) [] [] id).bytes (tIss (tColl 0 1 (tS 0)) [] [] id) (tS 0) 64).2 = false ∧
    (let s := { tLine (tColl 0 1 (tS 0)) [] [] id with mems := { tReady.mems with shelfPoison := [3 * 2 ^ 20 / 128] } }; let v := issueTask 1 0 (tTask (tColl 0 1 (tS 0))) s;
      ((siteOf v 1 0 (tTask (tColl 0 1 (tS 0)))).bytes v (tS 0) 64).2)) ∧
    (front tReady 1 0 6 = none ∧ front tReady 1 0 7 = none ∧ front tReady 1 0 8 = none ∧ front tReady 1 0 9 = none) := by
  decide +kernel

/-! ## The general statements -/

/-- ENTROPY_QUERY whose PLEN is 8 where its table says 0. -/
def tBadLen : MbxArg := tCmd 1 0x0830 (z 8)
/-- KEY_EPOCH_QUERY as slot 3 of VF 1 spells it, with its doorbell rung. -/
def tSpelt : State :=
  { tReady with funcs := setAt tReady.funcs 1 fun f =>
      { f with doorbells := [3], slots := Memory.writeN [] (256 * 3) (hdrBytes (tCmd 1 0x0822 []).hdr ++ []) } }
def tFn (f : Func → Func) : State := { tReady with funcs := setAt tReady.funcs 1 f }
def tSlotCmd : MbxArg := { tCmd 1 0x0822 [] with slot := 3 }
/-- Check 1 of a plain query, in READY and before it, in LIMBO and in a terminal life-cycle state. -/
def tQuery : Cmd := queued specEntropyQuery (tCmd 1 0x0830 []) tReady
def tLimbo : State := { tReady with boot := { tReady.boot with limbo := some 5 } }

theorem test_witness_StepTakesTheFront :
    (tReady.pending = [] ∧ tReady.tide.aligned ∧ tReady.tide.frozen = false ∧ State.reset.tide.aligned = false) := by
  decide +kernel

theorem test_witness_MemoryReadsBack :
    (Memory.wf [(3, 7), (9, 1)] ∧ Memory.wf [] ∧ Memory.read [(3, 7), (9, 1)] 3 = 7 ∧ 4 ≠ 3 ∧ Memory.wf (Memory.write [(3, 7)] 3 0)) := by
  decide +kernel

theorem test_witness_DoorbellRule :
    (1 < tReady.funcs.length ∧ fnAlive tReady 1 ∧ (tReady.func 1).doorbells.contains 15 = false ∧ (tReady.func 1).cqEnable) ∧
    ((tSpelt.func 1).doorbells = 3 :: [] ∧ (tSpelt.func 1).cmds.length < 64 ∧ fnAlive tSpelt 1 ∧ (tSpelt.func 1).doorbells.contains 3) ∧
    (((tFn fun f => { f with cqEnable := false }).func 1).cqEnable = false ∧ 256 * 3 ≤ 256 * 3 + 252 ∧ (256 * 3 + 252) % 4 = 0) := by
  decide +kernel

theorem test_witness_RingRule :
    (entriesOff 1 tReady = false ∧ (tReady.func 1).cqEnable ∧ Memory.wf tReady.mems.host ∧ ((tReady.func 1).tail + 1) % 256 ≠ (tReady.func 1).head ∧ (tReady.func 1).heldComps = []) ∧
    (((255 : Nat) + 1) % 256 = 0 ∧ ((tFn fun f => { f with tail := 255 }).func 1).head = 0 ∧ entriesOff 1 (tFn fun f => { f with tail := 255 }) = false) ∧
    ((tFn fun f => { f with shadowEnable := true, cqShadow := 0x30000 }).func 1 = { tReady.func 1 with shadowEnable := true, cqShadow := 0x30000 } ∧ 0x20000 + 32 ≤ 0x30000) := by
  decide +kernel

theorem test_witness_RefusedCommandsOnlyAnswer :
    ((cmdTable 0x0830).isSome ∧ (checkAll (entered specEntropyQuery tBadLen tReady) 1 (some specEntropyQuery) (queued specEntropyQuery tBadLen tReady)) = some (.eBadlen, 0)) ∧
    tReady.funcs.all fun f => f.cmds.all fun e => e.phase != .held := by
  decide +kernel

theorem test_witness_ChecksInOrder :
    (check1 tReady tQuery = none ∧ tReady.halt = none ∧ tReady.boot.phase = 0x09 ∧ check1 { tLimbo with boot := { tLimbo.boot with phase := 0x0E } } tQuery = some (.eLimbo, 5)) ∧
    (tLimbo.sec.lcDone = none ∧ tLimbo.boot.limbo = some 5 ∧ tQuery.hdr.opcode = 0x0830) ∧
    (({ tReady with sec := { tReady.sec with lcDone := some 7 } } : State).sec.lcDone = some 7 ∧ check1 (tPhase 0x05) tQuery = none ∧ (tPhase 0x05).halt = none ∧
    (tPhase 0x05).boot.limbo = none ∧ (tPhase 0x05).boot.phase = 0x05 ∧ specIsleEnable.early = false) ∧
    (specIsleEnable.pfOnly ∧ specEntropyQuery.pfOnly = false ∧ specEntropyQuery.auth tReady 1 tQuery ∧ specEntropyQuery.plen tQuery.payload 8 = false) ∧
    (specEntropyQuery.plen tQuery.payload tQuery.hdr.plen ∧ tQuery.hdr.plen ≤ 224 ∧ ({ tQuery.hdr with tag := 0 } : Hdr).tag % 2 ^ 32 = 0 ∧ hdrBad tQuery.hdr = false) ∧
    (specMemLoad.memUse ∧ specMemLoad.pfOnly = false ∧ ((tWith fun r => { r with state := .disabled }).isle (isleOf 1)).state = .disabled) := by
  decide +kernel

theorem test_witness_SlotSpellsCommand :
    ((cmdTable 0x0822).isSome ∧ tSlotCmd.hdr.opcode = 0x0822 ∧ tSlotCmd.wf ∧ tSlotCmd.payload.length = min tSlotCmd.hdr.plen 224 ∧
    (tSpelt.func 1).slots = Memory.writeN [] (256 * 3) (hdrBytes tSlotCmd.hdr ++ tSlotCmd.payload)) ∧
    ((tSpelt.func 1).doorbells = 3 :: [] ∧ fnAlive tSpelt 1 ∧ (tSpelt.func 1).cmds.length < 64) := by
  decide +kernel

theorem test_witness_AddressesStayHome :
    (Machine.translate tReady 1 0 (some 3) 5 = some (.ob (3 * 2 ^ 20 + 5)) ∧ Machine.translate tReady 1 0 (some 3) (3 * 2 ^ 18 - 1) = some (.ob (3 * 2 ^ 20 + 3 * 2 ^ 18 - 1))) ∧
    (Machine.translate tReady 1 0 none 5 = none ∧ Machine.translate tReady 1 0 none (2 ^ 44) = some (.lagoon 0)) ∧
    (Machine.translate tReady 1 0 none (2 * 2 ^ 44) = some (.shelf (3 * 2 ^ 20)) ∧ Machine.translate tReady 1 0 none (3 * 2 ^ 44 + 4097) = some (.shelf (2 ^ 28 + 3 * 2 ^ 20 + 1)) ∧
    Machine.translate tReady 1 0 none (4 * 2 ^ 44 + 1) = some (.hbm (5 * 2 ^ 21 + 1)) ∧ Machine.translate tReady 1 0 none (4 * 2 ^ 44 + 4 * 2 ^ 21) = none) := by
  decide +kernel

theorem test_witness_QueriesChangeNothing :
    (acceptedB specTideQuery (tCmd 0 0x0140 []) tReady ∧ acceptedB specEntropyQuery (tCmd 1 0x0830 []) tReady ∧ (cmdTable 0x0140).isSome) := by
  decide +kernel

theorem test_witness_NanIsCanonical :
    (unpack 0x7FC00000 = .nan ∧ unpack 0xFF800001 = .nan ∧ unpack 0x7F800000 = .inf false ∧ unpack 0xFF800000 = .inf true ∧ unpack 0 = .fin false 0 (-149)) := by
  decide +kernel

theorem test_witness_StripedView :
    (0 < 2 ^ 34 ∧ 2 ^ 34 - 1 < 2 ^ 34 ∧ 2 ^ 26 - 4097 + 4096 < 2 ^ 26 ∧ Machine.translate tReady 1 0 none (3 * 2 ^ 44 + 64 * 4096) = some (.shelf (3 * 2 ^ 20 + 4096))) := by
  decide +kernel

theorem test_witness_PaceQueryIndex :
    (acceptedB specPaceQuery (tCmd 0 0x0142 (63 :: z 7)) tReady ∧ acceptedB specPaceQuery (tCmd 1 0x0142 (z 8)) tReady ∧ (dedicated (tReady.isle 1))[0]? = some 0) ∧
    ((dedicated (tReady.isle 1))[1]? = none ∧ tReady.boot.phase = 0x09 ∧ tReady.halt = none ∧
    check1 (entered specPaceQuery (tCmd 1 0x0142 (1 :: z 7)) tReady) (queued specPaceQuery (tCmd 1 0x0142 (1 :: z 7)) tReady) = none ∧ fieldB (1 :: z 7) 0 2 = 1) := by
  decide +kernel

theorem test_witness_OverrunLimitIsSet :
    (tBoth specIsleQosSet (tCmd 0 0x0206 ([1, 2, 16] ++ z 5)) tReady ∧ tBoth specIsleQosSet (tCmd 0 0x0206 ([1, 0, 0] ++ z 5)) tReady ∧ 1 < tReady.isles.length) ∧
    (16 < fieldB ([1, 2, 17] ++ z 5) 2 1 ∧ fieldB ([1, 2, 16] ++ z 5) 2 1 = 16) := by
  decide +kernel

theorem test_witness_FaultClearKeeps :
    (acceptedB specFaultClear (tCmd 0 0x0B01 (z 16)) tReady ∧ acceptedB specFaultClear (tCmd 1 0x0B01 (z 16)) tReady ∧ acceptedB specFaultClear (tCmd 0 0x0B01 ([0, 0, 1] ++ z 13)) tReady) ∧
    (fatalBit 3 5 = true ∧ fatalBit 10 1 = true) := by
  decide +kernel

/-- ISLE_DESTROY of isle 1 while it is ENABLED, and with a PLEN of 0. -/
def tStops (n : Nat) : MbxArg := tCmd 0 0x0202 (1 :: z n)
def tWaits (p : CmdPhase) : State := { tPair with funcs := setAt tPair.funcs 1 fun f => { f with cmds := [{ tQuery with phase := p, hdr := { tQuery.hdr with opcode := 0x0209 } }] } }

theorem test_witness_RefusalsWaitForQ :
    ((checkAll (entered specIsleDestroy (tStops 0) tReady) 0 (some specIsleDestroy) (queued specIsleDestroy (tStops 0) tReady)) = some (.eBadlen, 0) ∧
    specIsleDestroy.peerMark = false ∧ specIsleDestroy.peer (entered specIsleDestroy (tStops 0) tReady) 0 (bodyOf (tStops 0)) = false) ∧
    (0x0200 ≤ 0x0202 ∧ fnAlive tReady 0 ∧ (tReady.func 0).cmds.length < 64 ∧ tReady.boot.limbo = none ∧ (tReady.funcs.all fun f => f.cmds.all fun e => e.phase != .held)) ∧
    ((checkAll (entered specEntropyQuery tBadLen tReady) 1 (some specEntropyQuery) (queued specEntropyQuery tBadLen tReady)) = some (.eBadlen, 0) ∧ 0x0AFF < 0x0B00 ∧ securityClass 0x0142 .eBadlen = false) ∧
    (checkAll (entered specPaceQuery (tCmd 1 0x0142 []) tReady) 1 (some specPaceQuery) (queued specPaceQuery (tCmd 1 0x0142 []) tReady)).isSome := by
  decide +kernel

theorem test_witness_PeerChecksEndByQ :
    (specArchForm.peerMark ∧ (checkAll (entered specArchForm (tCmd 0 0x0601 []) tPair) 0 (some specArchForm) (queued specArchForm (tCmd 0 0x0601 []) tPair)) = some (.eBadlen, 0)) ∧
    (acceptedB specArchForm (tCmd 0 0x0601 (natLe 2 3 ++ z 14)) tPair ∧ specArchForm.peer (entered specArchForm (tCmd 0 0x0601 (natLe 2 3 ++ z 14)) tPair) 0 (natLe 2 3 ++ z 14)) ∧
    (((tWaits (.peer 1024000)).func 1).cmds.map (fun c => c.phase) = [.peer 1024000] ∧ quantNow (tWaits (.peer 1024000)) ≤ 1024000 - 6400 ∧ statusOf (statusCode .eState) = some .eState ∧ (cmdTable 0x0209).isSome) ∧
    (1000000 - 6400 < quantNow (tWaits (.peer 1000000)) ∧ tPair.boot.t2 ≤ tPair.clk.ticks ∧ tPair.tide.frozen = false) := by
  decide +kernel

/-! ## Ill-formed terms: one for each kind of operand that WellFormed checks -/

theorem test_wellFormed_refuses :
    (Instr.wf (.tideQuery { tCmd 0 0x0140 [] with fn := 32 }) = false ∧ Instr.wf (.tideQuery { tCmd 0 0x0140 [] with slot := 16 }) = false ∧
    Instr.wf (.tideQuery (tCmd 0 0x0140 (z 225))) = false ∧ Instr.wf (.tideQuery (tCmd 0 0x10000 [])) = false ∧ Instr.wf (.tideQuery (tCmd 0 0x0140 []))) ∧
    (Instr.wf (.brownout (.vhbmc 8)) = false ∧ Instr.wf (.brownout .vcore) ∧ Instr.wf (.strapLatch (List.replicate 15 0)) = false ∧
    Instr.wf (.strapLatch (List.replicate 16 128)) = false ∧ Instr.wf (.strapLatch (List.replicate 16 127)) ∧ Instr.wf (.sensorFail 64) = false ∧
    Instr.wf (.avsCommand 599) = false ∧ Instr.wf (.avsCommand 901) = false ∧ Instr.wf (.avsCommand 900)) ∧
    (Instr.wf (.registerWrite 0 (2 ^ 20) 4 0) = false ∧ Instr.wf (.registerWrite 0 0x2000 3 0) = false ∧ Instr.wf (.registerWrite 0 0x2000 1 256) = false ∧
    Instr.wf (.registerWrite 32 0x2000 4 0) = false ∧ Instr.wf (.registerWrite 31 0x2000 4 15)) ∧
    (Instr.wf (.dbStream 0 8192 0 4 0) = false ∧ Instr.wf (.dbStream 0 0 8 4 0) = false ∧ Instr.wf (.flrVf 0) = false ∧ Instr.wf (.windowFence 32) = false ∧
    Instr.wf (.tideMark { tHdr 1 7 with port := 15 } 0) = false ∧ Instr.wf (.tideMark (tHdr 1 7) (2 ^ 64)) = false ∧ Instr.wf (.tideMark (tHdr 1 7) 0) ∧
    Instr.wf (.depart (tHdr 16 7)) = false ∧ Instr.wf (.depart (tHdr 1 65536)) = false ∧ Instr.wf (.slotCopy 0 16) = false) ∧
    (Instr.wf (.portTrainPattern { port := 15, lanesOk := true, peerChip := 1, peerPort := 0, peerInc := 0, peerAligned := true, peerReady := true, latency := 3 }) = false ∧
    Instr.wf (.linkControlFlit 0 { crcOk := true, acked := 0, replay := none, credits := z 5 |>.map (·.toNat) }) = false ∧
    Instr.wf (.detourFlit (tHdr 1 7) 0 (z 257)) = false ∧ Instr.wf (.fseqDeliveredAck (tHdr 1 7) 5 0) = false ∧ Instr.wf (.windowRefusal (tHdr 1 7) 0 0 4) = false) ∧
    (Instr.wf (.windowWrite (tMsg 1 7 0 0)) = false ∧ Instr.wf (.windowWrite { tMsg 1 7 0 2 with data := [1] }) = false ∧ Instr.wf (.windowWrite (tMsg 1 7 0 1)) ∧
    Instr.wf (.collectPart { hdr := tHdr 1 7, srcIsle := 0, window := 0, offset := 0, collId := 0, boundary := 0, round := 2, position := 0, shard := 0, tag := 0, data := [] }) = false) ∧
    (Instr.wf (.move 0 1024) = false ∧ Instr.wf (.sealJobAdmit 4) = false ∧ Instr.wf (.setEndpointId 256) = false ∧ Instr.wf (.getFaultWord 256 0) = false ∧
    Instr.wf (.stackFail 8) = false ∧ Instr.wf (.onChipPatrol 4 0 .clean) = false ∧ Instr.wf (.onChipPatrol 3 0 .clean) ∧ Instr.wf (.unitSelftestDone 6 0 true) = false ∧ Instr.wf (.cayInsertion 2) = false ∧
    Instr.wf (.progRunAccept (tHdr 1 7) 0 0 3 0) = false ∧ Instr.wf (.epochBoundary true (List.replicate 65 0)) = false) ∧
    (decodeTableWord 32 5 = none ∧ tReady.withFetchWord 32 5 = tReady) := by
  decide +kernel

/-! ## Known answers: the worked examples of the spec, and the standards it names -/

/-- The worked example of 09_matrix_array_and_fusion.md: 0.3, −0.3, 500 and 0.001 in E4M3 with SAT. -/
theorem test_output_conversion : convOut 0 true 0x3E99999A = 0x2A ∧ convOut 0 true 0xBE99999A = 0xAA ∧ convOut 0 true 0x43FA0000 = 0x7E ∧
    convOut 0 true 0x3A83126F = 0x01 := by decide +kernel

/-- The worked example of 17_sealed_arithmetic.md: the jobs of ENCODE, PMUL, RESCALE and INTT at N = 4,096. -/
def tOp (op level form : Nat) (target : Nat) : SealOp :=
  { d := { sealOf (tSeal op 0 0) with nttForm := true, target := target }, p := { nLog2 := 12, l := 2, k := 0, dnum := 0, primes := [5, 7] }
    ha := { level := level, form := form }, hb := { kind := 1, size := 1, level := level, form := form } }
def tBounds (o : SealOp) : List Nat := o.plan.map fun j => j.bound
theorem test_seal_jobs : tBounds (tOp 13 0 0 1) = [35, 35] ∧ tBounds (tOp 6 1 1 0) = [39, 39, 39, 39] ∧ (tBounds (tOp 11 1 1 0)).sum = 218 ∧
    tBounds (tOp 2 0 1 0) = [35, 35] := by decide +kernel

/-- The worked examples of 05_host_interface.md (the refusal quantum), of 03_clockless_pace_and_tide.md (the work window), of
14_determinism_and_replay.md (shards of four chips) and of 20_reference_tables.md (DEV_REV, DEV_HBM). -/
theorem test_worked_examples : quantum 5000003100 = 5000012800 ∧ quantum 5000006300 = 5000012800 ∧ workWindow 20000 = 17500 ∧ workWindow 10000 = 7500 ∧
    shardHost { tPair with arch := { tPair.arch with member := 15 } } 5 = 1 ∧
    hostedShards { tPair with arch := { tPair.arch with member := 15 }, boot := { tPair.boot with chipIdStrap := 1 } } = [4, 5, 6, 7] ∧
    regWord { tReady with fuses := { tReady.fuses with grade := 0x30, stepping := 0xB0 } } 1 4 = 0x0030B000 ∧
    regWord { tReady with boot := { tReady.boot with bin := 0x5A } } 1 0x18 = 0x0000085A := by decide +kernel

/-- AES-256 in GCM (test cases 13 and 14 of the GCM specification), and the CMAC of SP 800-38B's AES-256 example with no message. -/
theorem test_gcm_cmac : gcmTag (z 32) (z 12) [] [] = natBe 16 0x530f8afbc74536b9a963b4f1c4cb738b ∧
    gcmSeal (z 32) (z 12) [] (z 16) = (natBe 16 0xcea7403d4d606b6e074ec5d3baf39d18, natBe 16 0xd0d1c8a799996bf0265b98b5d48ab919) ∧
    cmac (natBe 32 0x603deb1015ca71be2b73aef0857d77811f352c073b6108d72d9810a30914dff4) [] = natBe 16 0x028962f61b7bf89efc6b551f4667d983 := by
  decide +kernel

/-- FIPS 180-4 (the digest of "abc"), FIPS 197 appendix B, and the first words of SipHash's and CRC-64's published vectors. -/
theorem test_standards : beNat (sha384 [0x61, 0x62, 0x63]) =
      0xcb00753f45a35e8bb5a03d699ac65007272c32ab0eded1631a8b605a43ff5bed8086072ba1e7cc2358baeca134c825a7 ∧
    aesBlock [0x2b, 0x7e, 0x15, 0x16, 0x28, 0xae, 0xd2, 0xa6, 0xab, 0xf7, 0x15, 0x88, 0x09, 0xcf, 0x4f, 0x3c]
      [0x32, 0x43, 0xf6, 0xa8, 0x88, 0x5a, 0x30, 0x8d, 0x31, 0x31, 0x98, 0xa2, 0xe0, 0x37, 0x07, 0x34] =
      [0x39, 0x25, 0x84, 0x1d, 0x02, 0xdc, 0x09, 0xfb, 0xdc, 0x11, 0x85, 0x97, 0x19, 0x6a, 0x0b, 0x32] ∧
    sipHash 0x0f0e0d0c0b0a09080706050403020100 ((List.range 15).map fun i => BitVec.ofNat 8 i) = 0xa129ca6149be45e5 := by decide +kernel

end Sys2Proof.Machine.Tests
end

section
/-! The reset state, read through the accessors of the state (O3). -/

namespace Sys2Proof.Machine

/-- A register file of equal registers reads the same at every index, beyond its end too. -/
theorem getD_replicate_default {α : Type} (n i : Nat) (d : α) : (List.replicate n d).getD i d = d := by
  rw [List.getD_eq_getElem?_getD, List.getElem?_replicate]
  split <;> rfl

@[simp] theorem reset_func (fn : Nat) : State.reset.func fn = {} := getD_replicate_default 32 fn ({} : Func)

@[simp] theorem reset_isle (k : Nat) : State.reset.isle k = {} := getD_replicate_default 32 k ({} : Isle)

@[simp] theorem reset_port (p : Nat) : State.reset.port p = {} := getD_replicate_default 15 p ({} : Port)

@[simp] theorem reset_caySlot (i : Nat) : State.reset.caySlot i = {} := getD_replicate_default 2 i ({} : CaySlot)

/-- The registers of the mailbox, of the completion ring and of the interrupts after reset (Table 5.7, Table 5.14). -/
theorem reset_mailboxRegs (fn : Nat) :
    regWord State.reset fn 0x2004 = 0 ∧ regWord State.reset fn 0x2008 = 0 ∧ regWord State.reset fn 0x2010 = 0 ∧
    regWord State.reset fn 0x2018 = 0 ∧ regWord State.reset fn 0x2020 = 0 ∧ regWord State.reset fn 0x2024 = 0 ∧
    regWord State.reset fn 0x3000 = 0 ∧ regWord State.reset fn 0x3004 = 0x3F ∧ regWord State.reset fn 0x3008 = 0 := by
  simp only [regWord, reset_func]
  exact ⟨rfl, rfl, rfl, rfl, rfl, rfl, rfl, rfl, rfl⟩

/-- Settles O3: fields of the reset state by computation, registers and keyed parts through the accessors. -/
theorem resetState : Obligations.ResetState := by
  unfold Obligations.ResetState
  have hfunc : ∀ fn, (State.reset.func fn).cmds = [] ∧ (State.reset.func fn).doorbells = [] ∧
      (State.reset.func fn).cqEnable = false ∧ (State.reset.func fn).head = 0 ∧ (State.reset.func fn).tail = 0 := by
    simp
  refine ⟨rfl, rfl, rfl, rfl, rfl, rfl, rfl, rfl, rfl, rfl, rfl, rfl, rfl, rfl, rfl, rfl, rfl, hfunc,
    fun fn _ => reset_mailboxRegs fn, ?_, ?_, ?_, rfl, rfl, rfl, rfl, rfl⟩
  · intro k; rw [reset_isle]
  · intro p; rw [reset_port]
  · intro i; rw [reset_caySlot]

end Sys2Proof.Machine
end

section
/-! The VCORE command in force depends on the voltage commands and the clock alone (R32, R33), and what the resets of the
device leave (O24). -/

namespace Sys2Proof.Machine

/-- Two states that agree on all that the voltage commands due depend on (R33). -/
structure SameAvs (s t : State) : Prop where
  ticks : s.clk.ticks = t.clk.ticks
  vcore : s.power.vcore = t.power.vcore
  avsTick : s.power.avsTick = t.power.avsTick
  vGoal : s.power.vGoal = t.power.vGoal

theorem SameAvs.setVcore {s t : State} (h : SameAvs s t) (mV tick : Nat) : SameAvs (setVcore mV tick s) (setVcore mV tick t) :=
  ⟨h.ticks, rfl, rfl, congrArg (fun g => if g = some mV then none else g) h.vGoal⟩

theorem SameAvs.avsDueFrom {s t : State} (n : Nat) (h : SameAvs s t) : SameAvs (avsDueFrom n s) (avsDueFrom n t) := by
  induction n generalizing s t with
  | zero => exact h
  | succ n ih =>
    simp only [Machine.avsDueFrom, ← h.vGoal, ← h.avsTick, ← h.ticks, ← h.vcore]
    split
    · exact h
    · split
      · exact ih (h.setVcore _ _)
      · exact h

theorem SameAvs.avsDue {s t : State} (h : SameAvs s t) : SameAvs (avsDue s) (avsDue t) := h.avsDueFrom 6

theorem SameAvs.vcoreNow {s t : State} (h : SameAvs s t) : vcoreNow s = vcoreNow t := h.avsDue.vcore

/-- PERST_N, which has fallen, is all that tells the state left from the one that any reset leaves. -/
theorem deviceReset_perstN (s : State) :
    deviceReset { s with pins := { s.pins with perstN := false }, boot := { s.boot with inReset := true } } =
      { deviceReset s with pins := { (deviceReset s).pins with perstN := false } } := by
  have h : SameAvs { s with pins := { s.pins with perstN := false }, boot := { s.boot with inReset := true } } s :=
    ⟨rfl, rfl, rfl, rfl⟩
  simp only [deviceReset, h.vcoreNow, h.avsDue.avsTick]
  rfl

theorem perstNAssert_high {s : State} (h : s.pins.perstN = true) :
    exec .perstNAssert s = .next { deviceReset s with pins := { (deviceReset s).pins with perstN := false } } := by
  change execPerstNAssert s = _
  rw [execPerstNAssert, if_pos h, deviceReset_perstN]

theorem perstNAssert_low {s : State} (h : s.pins.perstN = false) : exec .perstNAssert s = .next s := by
  change execPerstNAssert s = _
  rw [execPerstNAssert, if_neg (by simp [h])]

/-- The state from which the records of a brown-out or a trip are made (R38, R44): a device that is in reset stays as it is. -/
def intoReset (s : State) : State := if s.boot.inReset then s else deviceReset s

theorem intoReset_eq {s t : State} (hin : s.boot.inReset = true → t = s) (hout : s.boot.inReset = false → t = deviceReset s) :
    t = intoReset s := by
  unfold intoReset
  split
  case isTrue h => exact hin h
  case isFalse h => exact hout (by simpa using h)

theorem intoReset_inReset (s : State) : (intoReset s).boot.inReset = true := by
  unfold intoReset
  split
  case isTrue h => exact h
  case isFalse => rfl

theorem brownout_rail {rail : Rail} (h : rail ≠ .vstby) (s : State) :
    exec (.brownout rail) s = .next ((intoReset s).mapStandby fun r => { r with
      brownout := true, recFresh := true, rail := (railCode rail).1, railStack := (railCode rail).2,
      brownouts := min 255 (r.brownouts + 1), railsLow := if r.railsLow.contains rail then r.railsLow else rail :: r.railsLow }) := by
  change execBrownout rail s = _
  rw [execBrownout, if_neg h]
  rfl

theorem thermtrip_first {s : State} (h : s.standby.thermtrip = false) (degC : Nat) :
    exec (.thermtrip degC) s =
      .next ((intoReset s).mapStandby fun r => { r with thermtrip := true, tripTemp := degC % 256 }) := by
  change execThermtrip degC s = _
  rw [execThermtrip, if_neg (by simp [h])]
  rfl

theorem thermtrip_again {s : State} (h : s.standby.thermtrip = true) (degC : Nat) : exec (.thermtrip degC) s = .next s := by
  change execThermtrip degC s = _
  rw [execThermtrip, if_pos h]

/-- Settles O24: the two states of the statement are `deviceReset s` and `powerOnReset s`. -/
theorem resetsClear : Obligations.ResetsClear := by
  unfold Obligations.ResetsClear
  intro s base cold hbase hcold
  obtain rfl : base = deviceReset s := hbase
  obtain rfl : cold = powerOnReset s := hcold
  refine ⟨?atReset, ⟨_, rfl, rfl⟩, rfl, rfl, rfl, perstNAssert_high, perstNAssert_low, ?brownout, ?trip,
    fun degC h => thermtrip_again h degC⟩
  case atReset =>
    rintro t (rfl | rfl) <;>
      exact ⟨rfl, rfl, rfl, rfl, rfl, rfl, rfl, rfl, rfl, rfl, rfl, rfl, rfl, rfl, rfl⟩
  case brownout =>
    intro rail t u hrail hin hout hu
    obtain rfl := intoReset_eq hin hout
    exact ⟨hu ▸ brownout_rail hrail s, hu ▸ intoReset_inReset s⟩
  case trip =>
    intro degC t u hfirst hin hout hu
    obtain rfl := intoReset_eq hin hout
    exact ⟨hu ▸ thermtrip_first hfirst degC, hu ▸ intoReset_inReset s⟩

end Sys2Proof.Machine
end

section
/-! Straps, supplies, voltage commands and temperature (O25): what each command of chapter 2 does. -/

namespace Sys2Proof.Machine

/-! ## Release of PERST_N, straps and rails -/

theorem perstNRelease_starts {s : State} (hlow : s.pins.perstN = false) (htrip : s.standby.thermtrip = false) :
    exec (.perstNRelease true) s = .next { s with
      pins := { s.pins with perstN := true }, standby := { s.standby with railsLow := [] },
      boot := { s.boot with inReset := false, phase := 0x01, t2 := s.clk.ticks, phaseTick := s.clk.ticks, strapsLatched := false },
      pcie := { s.pcie with linkUp := true }, tide := { s.tide with refclkOk := true },
      ent := { testing := true, testTick := s.clk.ticks } } := by
  change execPerstNRelease true s = _
  rw [execPerstNRelease, if_neg (by simp [hlow]), if_neg (by simp [htrip])]
  rfl

theorem perstNRelease_staysInReset {s : State} {ok : Bool} (hlow : s.pins.perstN = false)
    (h : ok = false ∨ s.standby.thermtrip = true) :
    exec (.perstNRelease ok) s = .next { s with
      pins := { s.pins with perstN := true }, ent := { testing := true, testTick := s.clk.ticks } } := by
  change execPerstNRelease ok s = _
  rw [execPerstNRelease, if_neg (by simp [hlow]), if_pos (by simpa using h)]
  rfl

theorem perstNRelease_high {s : State} (h : s.pins.perstN = true) (ok : Bool) : exec (.perstNRelease ok) s = .next s := by
  change execPerstNRelease ok s = _
  rw [execPerstNRelease, if_pos h]

/-- The straps are sampled in the phase STRAPS only, once (R40). -/
theorem strapLatch_samples {s : State} (hr : s.boot.inReset = false) (hp : s.boot.phase = 0x01)
    (hl : s.boot.strapsLatched = false) (v : Nat) (rest : List Nat) :
    exec (.strapLatch (v :: rest)) s =
      if rest.all (· == v) then .next { s with
        boot := { s.boot with strapsLatched := true, phase := 0x02, phaseTick := s.clk.ticks,
                              chipIdStrap := bitsOf v 0 4, bootSrc := bitsOf v 4 2, archEn := v.testBit 6 },
        standby := { s.standby with recFresh := false } }
      else .next { s with
        boot := { s.boot with inReset := true }, pcie := { s.pcie with linkUp := false },
        standby := { s.standby with strapUnstable := true, recFresh := true } } := by
  change execStrapLatch (v :: rest) s = _
  rw [execStrapLatch, if_neg (by simp [hr, hp, hl, phStraps])]
  rfl

theorem strapLatch_agree {s : State} (hr : s.boot.inReset = false) (hp : s.boot.phase = 0x01)
    (hl : s.boot.strapsLatched = false) {v : Nat} {rest : List Nat} (h : ∀ x ∈ rest, x = v) :
    exec (.strapLatch (v :: rest)) s = .next { s with
      boot := { s.boot with strapsLatched := true, phase := 0x02, phaseTick := s.clk.ticks,
                            chipIdStrap := bitsOf v 0 4, bootSrc := bitsOf v 4 2, archEn := v.testBit 6 },
      standby := { s.standby with recFresh := false } } := by
  rw [strapLatch_samples hr hp hl, if_pos (by simpa using h)]

theorem strapLatch_unstable {s : State} (hr : s.boot.inReset = false) (hp : s.boot.phase = 0x01)
    (hl : s.boot.strapsLatched = false) {v x : Nat} {rest : List Nat} (hx : x ∈ rest) (hne : x ≠ v) :
    exec (.strapLatch (v :: rest)) s = .next { s with
      boot := { s.boot with inReset := true }, pcie := { s.pcie with linkUp := false },
      standby := { s.standby with strapUnstable := true, recFresh := true } } := by
  rw [strapLatch_samples hr hp hl, if_neg (by simpa using ⟨x, hx, hne⟩)]

theorem cayPwrEnTristate_inReset {s : State} (h : s.boot.inReset = true) :
    exec .cayPwrEnTristate s = .next { s with pins := { s.pins with cayPwr := [false, false], cayRefclk := [false, false] } } := by
  change execCayPwrEnTristate s = _
  rw [execCayPwrEnTristate, if_pos h]
  rfl

theorem railMargin_begins {s : State} {rail : Rail} (hr : s.boot.inReset = false)
    (hnew : s.standby.railsMargin.contains rail = false) :
    exec (.railMargin rail true) s = .next (recordFault dDev 0 1 {} []
      { s with standby := { s.standby with railsMargin := rail :: s.standby.railsMargin } }) := by
  change execRailMargin rail true s = _
  simp only [execRailMargin, hr, if_true, Bool.false_eq_true, if_false, State.mapStandby, hnew]

theorem railMargin_ends (rail : Rail) (s : State) :
    exec (.railMargin rail false) s = .next
      { s with standby := { s.standby with railsMargin := s.standby.railsMargin.filter (· != rail) } } := rfl

/-! ## Voltage commands (R32, R33) -/

theorem avsCommand_legal {mV : Nat} {s : State} (h : avsLegal mV (avsDue s) = true) :
    exec (.avsCommand mV) s =
      .next (setVcore mV (advanceTicks ((avsDue s).power.avsTick + 2000) (avsDue s)).clk.ticks
        (advanceTicks ((avsDue s).power.avsTick + 2000) (avsDue s))) := by
  change execAvsCommand mV s = _
  rw [execAvsCommand, if_pos h]

theorem avsCommand_illegal {mV : Nat} {s : State} (h : avsLegal mV (avsDue s) = false) :
    exec (.avsCommand mV) s = .next (avsDue s) := by
  change execAvsCommand mV s = _
  rw [execAvsCommand, if_neg (by simp [h])]

/-- A legal command is a step of at most 50 mV, and no higher than 900 mV (R33). -/
theorem avsLegal_bounds {mV : Nat} {s : State} (h : avsLegal mV s = true) : mV ≤ s.power.vcore + 50 ∧ mV ≤ 900 := by
  simp only [avsLegal, Bool.and_eq_true, decide_eq_true_eq] at h
  omega

theorem avsCommand_tooHigh {mV : Nat} {s : State} (h : vcoreNow s + 50 < mV ∨ 900 < mV) :
    exec (.avsCommand mV) s = .next (avsDue s) := by
  refine avsCommand_illegal (Bool.eq_false_iff.mpr fun hl => ?_)
  have hb : mV ≤ vcoreNow s + 50 ∧ mV ≤ 900 := avsLegal_bounds hl
  omega

theorem avsLost_stops {s : State} (hfw : s.boot.fwRunning = true) (h : s.power.avsStopped = false) :
    exec .avsLost s = .next (recordFault dDev 0 0 {} [] ((avsDue s).mapPower fun p => { p with avsStopped := true, vGoal := none })) := by
  change execAvsLost s = _
  rw [execAvsLost, if_neg (by simp [hfw, h])]

theorem sensorFail_running {s : State} (hfw : s.boot.fwRunning = true) (n : Nat) :
    exec (.sensorFail n) s = .next
      (recordFault dDev 0 3 { info := n } [] { s with power := { s.power with sensorsLost := insNat n s.power.sensorsLost } }) := by
  change execSensorFail n s = _
  rw [execSensorFail, if_neg (by simp [hfw])]
  rfl

theorem telemetryRefresh_running {s : State} (hfw : s.boot.fwRunning = true) (t : Telemetry) :
    exec (.telemetryRefresh t) s = .next ((avsDue s).mapPower fun p =>
      { p with tele := t, teleTick := s.clk.ticks, hottest := t.hottest, paceOut := p.paceOut || decide (1050 < t.hottest) }) := by
  change execTelemetryRefresh t s = _
  rw [execTelemetryRefresh, if_neg (by simp [hfw])]

/-- With no command due for another 20 µs the command in force is the last one. -/
theorem avsDue_of_recent {s : State} (h : s.clk.ticks < s.power.avsTick + 2000) : avsDue s = s := by
  unfold avsDue avsDueFrom
  split
  · rfl
  · rw [if_neg (by omega)]

theorem seekVcore_moves {g : Nat} {s : State} (hstop : (avsDue s).power.avsStopped = false) (hne : vcoreNow s ≠ g)
    (hdue : (avsDue s).power.avsTick + 2000 ≤ (avsDue s).clk.ticks) :
    seekVcore g s = setVcore (vcoreStep g (vcoreNow s)) (avsDue s).clk.ticks
      ((avsDue s).mapPower fun p => { p with vGoal := some g }) := by
  have hne' : ((avsDue s).power.vcore == g) = false := beq_eq_false_iff_ne.mpr hne
  simp only [seekVcore, hstop, hne', State.mapPower_power, State.mapPower_clk, hdue]
  rfl

/-! ## Temperature (R44, R48) -/

theorem crossed_of_le {th now : Nat} (was : Bool) (h : th ≤ now) : crossed th now was = true := by simp [crossed, h]

theorem not_crossed_of_lt {th now : Nat} (h : now < th) : crossed th now false = false := by simp [crossed, h]

/-- 3 °C below its threshold a crossing is over, whatever it was (R48). -/
theorem not_crossed_of_cool {th now : Nat} (was : Bool) (h : now + 30 ≤ th) : crossed th now was = false := by
  simp [crossed]; omega

theorem thermalThreshold_cool {d : Nat} {s : State} (hfw : s.boot.fwRunning = true) (hd : d < 970) :
    exec (.thermalThreshold d) s =
      .next (avsDue { s with power := { s.power with hottest := d, over100 := false, over105 := false } }) := by
  change execThermalThreshold d s = _
  have hpace : ¬ 1050 < d := by omega
  simp [execThermalThreshold, hfw, not_crossed_of_cool (th := 1000) _ (show d + 30 ≤ 1000 by omega),
    not_crossed_of_cool (th := 1050) _ (show d + 30 ≤ 1050 by omega), hpace, State.mapPower]

theorem thermalThreshold_over100 {d : Nat} {s u : State} (hfw : s.boot.fwRunning = true) (h1 : 1000 ≤ d) (h2 : d < 1050)
    (h100 : s.power.over100 = false) (h105 : s.power.over105 = false)
    (hu : u = { s with power := { s.power with hottest := d, over100 := true, over105 := false }, pins := { s.pins with alertLow := true } }) :
    exec (.thermalThreshold d) s = .next (if 750 < vcoreNow s then seekVcore 750 u else avsDue u) := by
  change execThermalThreshold d s = _
  have hpace : ¬ 1050 < d := by omega
  have hv : vcoreNow u = vcoreNow s := SameAvs.vcoreNow (by subst hu; exact ⟨rfl, rfl, rfl, rfl⟩)
  have hcap : vcoreCap u = 750 := by subst hu; rfl
  have hstate : ((s.mapPower fun p => { p with hottest := d, over100 := true, over105 := false, paceOut := p.paceOut || decide (1050 < d) }).mapPins
      fun p => { p with alertLow := true }) = u := by
    subst hu; simp [State.mapPower, State.mapPins, hpace]
  simp only [execThermalThreshold, hfw, h100, h105, crossed_of_le _ h1, not_crossed_of_lt h2]
  simp [hstate, hv, hcap]

theorem recordFault_power (d inst bit : Nat) (a : FaultAt) (l : List Nat) (s : State) :
    (recordFault d inst bit a l s).power = s.power := by
  rw [(reports_recordFault d inst bit a l s).rest]

theorem recordFault_clk (d inst bit : Nat) (a : FaultAt) (l : List Nat) (s : State) :
    (recordFault d inst bit a l s).clk = s.clk := by
  rw [(reports_recordFault d inst bit a l s).rest]

theorem vcoreNow_recordFault (d inst bit : Nat) (a : FaultAt) (l : List Nat) (s : State) :
    vcoreNow (recordFault d inst bit a l s) = vcoreNow s :=
  SameAvs.vcoreNow ⟨by rw [recordFault_clk], by rw [recordFault_power], by rw [recordFault_power], by rw [recordFault_power]⟩

theorem vcoreCap_recordFault (d inst bit : Nat) (a : FaultAt) (l : List Nat) (s : State) :
    vcoreCap (recordFault d inst bit a l s) = vcoreCap s := by
  rw [vcoreCap, recordFault_power, vcoreCap]

theorem thermalThreshold_over105 {d : Nat} {s u : State} (hfw : s.boot.fwRunning = true) (hd : 1050 ≤ d)
    (h105 : s.power.over105 = false)
    (hu : u = recordFault dDev 0 2 {} [] { s with
      power := { s.power with hottest := d, over100 := true, over105 := true, paceOut := s.power.paceOut || decide (1050 < d) },
      pins := { s.pins with alertLow := true } }) :
    exec (.thermalThreshold d) s = .next (if 670 < vcoreNow s then seekVcore 670 u else avsDue u) := by
  change execThermalThreshold d s = _
  have hv : vcoreNow u = vcoreNow s := by
    rw [hu, vcoreNow_recordFault]
    exact SameAvs.vcoreNow ⟨rfl, rfl, rfl, rfl⟩
  have hcap : vcoreCap u = 670 := by rw [hu, vcoreCap_recordFault]; rfl
  have hstate : recordFault dDev 0 2 {} [] ((s.mapPower fun p => { p with
      hottest := d, over100 := true, over105 := true, paceOut := p.paceOut || decide (1050 < d) }).mapPins
        fun p => { p with alertLow := true }) = u := hu.symm
  simp only [execThermalThreshold, hfw, h105, crossed_of_le _ (show 1000 ≤ d by omega), crossed_of_le _ hd]
  simp [hstate, hv, hcap]

/-! ## The obligation -/

/-- Settles O25, from what each command does. -/
theorem strapsAndSupplies : Obligations.StrapsAndSupplies := by
  unfold Obligations.StrapsAndSupplies
  refine ⟨fun s => ⟨perstNRelease_starts, fun ok => perstNRelease_staysInReset, fun ok h => perstNRelease_high h ok,
    fun v rest hr hp hl => strapLatch_agree hr hp hl, fun v rest x hr hp hl => strapLatch_unstable hr hp hl,
    cayPwrEnTristate_inReset, fun rail => railMargin_begins, fun rail => railMargin_ends rail s⟩, fun s => ?_⟩
  refine ⟨?legal, fun mV h => avsCommand_tooHigh (.inl h), fun mV h => avsCommand_tooHigh (.inr h), avsLost_stops,
    fun n hfw => sensorFail_running hfw n, fun t hfw => telemetryRefresh_running hfw t, fun d => thermalThreshold_cool,
    ?over100, ?over105, ?seek⟩
  case legal =>
    intro mV u hl hu
    rw [avsCommand_legal hl, ← hu]
    rfl
  case over100 =>
    intro d u hfw h1 h2 h100 h105 hu
    rw [thermalThreshold_over100 hfw h1 h2 h100 h105 hu]
    exact ⟨fun hv => by rw [if_neg (by omega)], fun hv => by rw [if_pos hv]⟩
  case over105 =>
    intro d u hfw hd h105 hu
    rw [thermalThreshold_over105 hfw hd h105 hu]
    exact ⟨fun hv => by rw [if_neg (by omega)], fun hv => by rw [if_pos hv]⟩
  case seek =>
    intro g v hstop hne hdue hv
    obtain rfl : v = vcoreStep g (vcoreNow s) := hv
    rw [seekVcore_moves hstop hne hdue]
    refine ⟨?_, rfl, ?_⟩
    · rw [vcoreNow, avsDue_of_recent (Nat.lt_add_of_pos_right (by decide))]
      rfl
    · simp [setVcore, State.emit, eq_comm]

end Sys2Proof.Machine
end

section
/-! Cay slots, bring-up to service (O39): the steps of Table 4.10, identity, and the health log. -/

namespace Sys2Proof.Machine

/-- An update of a slot counts by what it makes of the slot as it is. -/
theorem mapCay_congr {i : Nat} {f g : CaySlot → CaySlot} {s : State} (h : f (s.caySlot i) = g (s.caySlot i)) :
    s.mapCay i f = s.mapCay i g := by
  have hcay : setAt s.cay i f = setAt s.cay i g := by
    refine List.ext_getElem (by simp only [setAt_length]) fun j hj _ => ?_
    rw [setAt_length] at hj
    by_cases hij : i = j
    · subst hij
      have hslot : s.caySlot i = s.cay[i] := by
        rw [State.caySlot, List.getD_eq_getElem?_getD, List.getElem?_eq_getElem hj, Option.getD_some]
      rw [hslot] at h
      simp [setAt, h]
    · simp [setAt, hij]
  rw [State.mapCay, hcay, State.mapCay]

/-! ## Bring-up -/

theorem cayInsertion_seated {i : Nat} {s : State} (hi : i < 2) (hp : s.boot.phase = 0x09)
    (hpin : s.pins.cayPrsnt.getD i true = false) (hunit : unitState s 4 i ≠ 2) (hst : (s.caySlot i).state = .empty) :
    exec (.cayInsertion i) s = .next (cayPower i true (setCayState i .bringup (cayStep i 2
      ((advanceTicks (max (s.pins.cayPrsntSince.getD i 0) s.boot.phaseTick + 10000000) s).mapCay i
        fun c => { c with authOnly := false })))) := by
  change execCayInsertion i s = _
  rw [execCayInsertion, if_neg (by simp [hi, hp, hpin, hunit, phReady, -List.getD_eq_getElem?_getD]), if_neg (by simp [hst])]

theorem cayInsertion_noPin {i : Nat} {s : State} (hpin : s.pins.cayPrsnt.getD i true = true) :
    exec (.cayInsertion i) s = .next s := by
  change execCayInsertion i s = _
  rw [execCayInsertion, if_pos (by simp only [hpin, Bool.or_true, Bool.true_or])]

theorem cayPerstRelease_atStep {i : Nat} {s : State} (h : atStep s i 2 = true) :
    exec (.cayPerstRelease i) s = .next (cayStep i 3 ((advanceTicks ((s.caySlot i).stepTick + 10000000) s).mapPins
      fun p => { p with cayPerst := setAt p.cayPerst i fun _ => true })) := by
  change execCayPerstRelease i s = _
  rw [execCayPerstRelease, if_neg (by simp [h])]

theorem cayPerstRelease_elsewhere {i : Nat} {s : State} (h : atStep s i 2 = false) : exec (.cayPerstRelease i) s = .next s := by
  change execCayPerstRelease i s = _
  rw [execCayPerstRelease, if_pos (by simp [h])]

theorem cayLinkUp_trained {i : Nat} {s : State} (h : atStep s i 3 = true) (cap : Nat) :
    exec (.cayLinkUp i true cap) s = .next (cayStep i 4 (s.mapCay i fun c => { c with capTo := cap })) := by
  change execCayLinkUp i true cap s = _
  rw [execCayLinkUp, if_neg (by simp [h]), if_pos rfl]

theorem cayLinkUp_timeout {i : Nat} {s : State} (h : atStep s i 3 = true) (cap : Nat) :
    exec (.cayLinkUp i false cap) s = .next (cayFails i 0 (advanceTicks ((s.caySlot i).stepTick + 10000000) s)) := by
  change execCayLinkUp i false cap s = _
  rw [execCayLinkUp, if_neg (by simp [h]), if_neg Bool.false_ne_true]

/-- A controller that answers is judged by Table 8.1 and by its capacity (R179). -/
theorem nvmeReady_answers {i : Nat} {s : State} (h : atStep s i 4 = true) (info : CartInfo) :
    exec (.nvmeReady i true info) s =
      if info.meetsTable81 && decide (256 ≤ info.capacityGiB) && decide (info.capacityGiB ≤ 2048) then
        .next (cayStep i 5 (s.mapCay i fun c => { c with info := info, identified := true }))
      else .next (refuseBringup i 2 .eCart (s.mapCay i fun c => { c with info := info, identified := true })) := by
  change execNvmeReady i true info s = _
  rw [execNvmeReady, if_neg (by simp [h]), if_neg (by simp)]

theorem nvmeReady_fits {i : Nat} {s : State} {info : CartInfo} (h : atStep s i 4 = true) (hform : info.meetsTable81 = true)
    (hmin : 256 ≤ info.capacityGiB) (hmax : info.capacityGiB ≤ 2048) :
    exec (.nvmeReady i true info) s =
      .next (cayStep i 5 (s.mapCay i fun c => { c with info := info, identified := true })) := by
  rw [nvmeReady_answers h, if_pos (by simp [hform, hmin, hmax])]

theorem nvmeReady_unfit {i : Nat} {s : State} {info : CartInfo} (h : atStep s i 4 = true)
    (hbad : info.meetsTable81 = false ∨ info.capacityGiB < 256 ∨ 2048 < info.capacityGiB) :
    exec (.nvmeReady i true info) s =
      .next (refuseBringup i 2 .eCart (s.mapCay i fun c => { c with info := info, identified := true })) := by
  rw [nvmeReady_answers h, if_neg]
  simp only [Bool.and_eq_true, decide_eq_true_eq]
  rintro ⟨⟨hform, hmin⟩, hmax⟩
  rcases hbad with hbad | hbad | hbad
  · exact Bool.false_ne_true (hbad.symm.trans hform)
  · omega
  · omega

theorem nvmeReady_silent {i : Nat} {s : State} (h : atStep s i 4 = true) (info : CartInfo) :
    exec (.nvmeReady i false info) s = .next (cayFails i 1 s) := by
  change execNvmeReady i false info s = _
  rw [execNvmeReady, if_neg (by simp [h]), if_pos (by simp)]

theorem refuseBringup_eq (i bit : Nat) (st : Status) (s : State) :
    refuseBringup i bit st s =
      if isClone (cayRefused i bit st s) i then refuseClones i (cayRefused i bit st s) else cayRefused i bit st s := rfl

/-- What the device holds of a slot once its cartridge has been measured (R182, R184). -/
def measured (s : State) (i : Nat) (r : SpdmResult) : State :=
  s.mapCay i fun c => { c with
    lowest := (r.certSlot, r.lowest), identity := if r.ok then some r.digest else none,
    pairing := validRecord s r, certSlot := match validRecord s r with | some x => x.certSlot | none => r.certSlot }

/-- The record that counts, if there is one, is of another cartridge (R184). -/
def foreignRecord (s : State) (r : SpdmResult) : Bool :=
  match validRecord s r with | some x => x.cart != r.digest | none => false

theorem foreignRecord_iff {s : State} {r : SpdmResult} :
    foreignRecord s r = true ↔ ∃ p, validRecord s r = some p ∧ p.cart ≠ r.digest := by
  unfold foreignRecord
  cases validRecord s r <;> simp

theorem caySpdm_bringup {i : Nat} {s : State} (h : atStep s i 5 = true) (r : SpdmResult) :
    exec (.caySpdm i r) s = .next (
      if !r.recordMatch then refuseBringup i 2 .eCart (measured s i r)
      else if !r.ok || foreignRecord s r then refuseBringup i 3 .eCartAuth (measured s i r)
      else cayStep i 6 (measured s i r)) := by
  change execCaySpdm i r s = _
  rw [execCaySpdm, if_pos h]
  rfl

theorem caySpdm_passes {i : Nat} {s : State} {r : SpdmResult} (h : atStep s i 5 = true) (hm : r.recordMatch = true)
    (hok : r.ok = true) (hp : ∀ p, validRecord s r = some p → p.cart = r.digest) :
    exec (.caySpdm i r) s = .next (cayStep i 6 (measured s i r)) := by
  have hf : ¬ foreignRecord s r = true := by
    rw [foreignRecord_iff]
    rintro ⟨p, hs, hne⟩
    exact hne (hp p hs)
  rw [caySpdm_bringup h, if_neg (by simp [hm]), if_neg (by simp [hok, hf])]

theorem caySpdm_otherRecord {i : Nat} {s : State} {r : SpdmResult} (h : atStep s i 5 = true) (hm : r.recordMatch = false) :
    exec (.caySpdm i r) s = .next (refuseBringup i 2 .eCart (measured s i r)) := by
  rw [caySpdm_bringup h, if_pos (by simp [hm])]

theorem caySpdm_unauthentic {i : Nat} {s : State} {r : SpdmResult} (h : atStep s i 5 = true) (hm : r.recordMatch = true)
    (hbad : r.ok = false ∨ ∃ p, validRecord s r = some p ∧ p.cart ≠ r.digest) :
    exec (.caySpdm i r) s = .next (refuseBringup i 3 .eCartAuth (measured s i r)) := by
  rw [← foreignRecord_iff] at hbad
  rw [caySpdm_bringup h, if_neg (by simp [hm]), if_pos (by simpa using hbad)]

/-! ## Identity and health -/

theorem cayIdentityCompare_elsewhere {i : Nat} {s : State} (h : atStep s i 6 = false) :
    exec (.cayIdentityCompare i) s = .next s := by
  change execCayIdentityCompare i s = _
  rw [execCayIdentityCompare, if_pos (by simp [h])]

/-- Once the other slot has reported its identity, or is not waited for (R94). -/
theorem cayIdentityCompare_decides {i : Nat} {s : State} (h : atStep s i 6 = true)
    (ho : (s.caySlot (1 - i)).state = .bringup → (s.caySlot (1 - i)).identity.isSome = true) :
    exec (.cayIdentityCompare i) s =
      if isClone s i then .next (refuseClones i s)
      else if (s.caySlot i).pairing.isNone then .next (setCayState i .unpaired (cayStep i 0 s))
      else .next (cayStep i 7 s) := by
  change execCayIdentityCompare i s = _
  rw [execCayIdentityCompare, if_neg]
  simp only [h, Bool.not_true, Bool.false_or, Bool.and_eq_true, beq_iff_eq]
  rintro ⟨hst, hid⟩
  exact absurd (ho hst) (by simpa using hid)

theorem startClock_of_pairing {s : State} {c : CaySlot} {p : PairRecord} (h : c.pairing = some p) :
    startClock s c = if p.checkUtc ≤ clockAt s c.clock then c.clock else (p.checkUtc, tideNow s) := by
  rw [startClock, h]

theorem cayHealthRead_serves {i : Nat} {s : State} {p : PairRecord} (sm : Smart) (h : atStep s i 7 = true)
    (hcmd : (s.caySlot i).pairCmd = none) (hp : (s.caySlot i).pairing = some p) :
    exec (.cayHealthRead i true sm) s = .next ((cayServes i (checkpoint i none (s.mapCay i fun c => { c with
      smart := sm, sinceRead := 0, authOnly := false, dealloc := [], wipe := true,
      clock := if p.checkUtc ≤ clockAt s (s.caySlot i).clock then (s.caySlot i).clock else (p.checkUtc, tideNow s) }))).emit
        (.cart i 3 [])) := by
  change execCayHealthRead i true sm s = _
  simp only [execCayHealthRead, h, hcmd]
  simp only [Option.isSome_none, Bool.false_and, Bool.true_or, Bool.not_true, Bool.false_eq_true, if_false,
    Bool.or_false]
  rw [mapCay_congr (g := fun c => { c with
      smart := sm, sinceRead := 0, authOnly := false, dealloc := [], wipe := true,
      clock := if p.checkUtc ≤ clockAt s (s.caySlot i).clock then (s.caySlot i).clock else (p.checkUtc, tideNow s) })
    (by simp only [startClock_of_pairing hp])]

theorem cayHealthRead_fails {i : Nat} {s : State} (sm : Smart) (h : atStep s i 7 = true ∨ (s.caySlot i).reading = true) :
    exec (.cayHealthRead i false sm) s = .next (cayFails i 1 s) := by
  change execCayHealthRead i false sm s = _
  rw [execCayHealthRead, if_neg (by rcases h with h | h <;> simp [h]), if_pos (by simp)]

theorem cayHealthRead_unasked {i : Nat} {s : State} (sm : Smart) (ok : Bool) (h : atStep s i 7 = false)
    (hcmd : (s.caySlot i).pairCmd = none) (hr : (s.caySlot i).reading = false) : exec (.cayHealthRead i ok sm) s = .next s := by
  change execCayHealthRead i ok sm s = _
  rw [execCayHealthRead, if_pos (by simp [h, hcmd, hr])]

theorem cayHealthRead_check {i : Nat} {s : State} (sm : Smart) (h : atStep s i 7 = false)
    (hcmd : (s.caySlot i).pairCmd = none) (hr : (s.caySlot i).reading = true) :
    exec (.cayHealthRead i true sm) s = .next (checkRead i sm s) := by
  change execCayHealthRead i true sm s = _
  rw [execCayHealthRead, if_neg (by simp [hr]), if_neg (by simp), if_pos (by simp [h, hcmd])]

theorem cayServes_healthy {i : Nat} {u : State} (hw : worn (u.caySlot i) = false) (ho : (u.caySlot i).wornOut = false) :
    cayServes i u = setCayState i .online u := by
  rw [cayServes, if_neg (by simp [hw, ho])]

theorem cayServes_wornOut {i : Nat} {u : State} (h : worn (u.caySlot i) = true ∨ (u.caySlot i).wornOut = true) :
    cayServes i u = setCayState i .readOnly
      (recordFault dCay i 8 { unit := i } [] (u.mapCay i fun c => { c with wornOut := true })) := by
  rw [cayServes, if_pos (by simpa using h)]

/-! ## The obligation -/

/-- Settles O39, from what each step of a bring-up does. -/
theorem cartridgeComesUp : Obligations.CartridgeComesUp := by
  unfold Obligations.CartridgeComesUp
  refine ⟨fun i s => ⟨?seated, cayInsertion_noPin, ?perst, cayPerstRelease_elsewhere, fun cap h => cayLinkUp_trained h cap,
    fun cap h => cayLinkUp_timeout h cap, fun info => nvmeReady_fits, fun info => nvmeReady_unfit, ?refused,
    fun info h => nvmeReady_silent h info, ?spdm⟩,
    fun i s => ⟨?identity, cayIdentityCompare_elsewhere, ?serves, fun sm h => cayHealthRead_fails sm (.inl h),
      fun sm ok => cayHealthRead_unasked sm ok,
      fun sm h hcmd hr => ⟨cayHealthRead_check sm h hcmd hr, cayHealthRead_fails sm (.inr hr)⟩,
      fun u => cayServes_healthy, fun u => cayServes_wornOut⟩⟩
  case seated =>
    intro u hi hp hpin hunit hst hu
    rw [cayInsertion_seated hi hp hpin hunit hst, hu, cayPower]
  case perst =>
    intro u h hu
    rw [cayPerstRelease_atStep h, hu]
  case refused =>
    intro bit st u hu
    rw [refuseBringup_eq, ← hu]
    exact ⟨fun h => if_neg (by simp [h]), fun h => if_pos h⟩
  case spdm =>
    intro r u h hu
    obtain rfl : u = measured s i r := hu
    exact ⟨caySpdm_passes h, caySpdm_otherRecord h, caySpdm_unauthentic h⟩
  case identity =>
    intro h ho
    rw [cayIdentityCompare_decides h ho]
    refine ⟨fun hc => if_pos hc, fun hc hp => ?_, fun p hc hp => ?_⟩
    · rw [if_neg (by simp [hc]), if_pos (by simp [hp])]
    · rw [if_neg (by simp [hc]), if_neg (by simp [hp])]
  case serves =>
    intro sm p u h hcmd hp hu
    rw [cayHealthRead_serves sm h hcmd hp, hu]

end Sys2Proof.Machine
end

section
/-! Cay slots, out of service (O41): removal, loss of the link, inbound requests and ejection. -/

namespace Sys2Proof.Machine

theorem cayPrsntNChange_follows {i : Nat} {level : Bool} {s : State} (hi : i < 2) (hne : s.pins.cayPrsnt.getD i true ≠ level)
    (hstep : ¬ (level = true ∧ (s.caySlot i).state = .bringup ∧ (s.caySlot i).step = 1)) :
    exec (.cayPrsntNChange i level) s = .next (s.mapPins fun p => { p with
      cayPrsnt := setAt p.cayPrsnt i fun _ => level, cayPrsntSince := setAt p.cayPrsntSince i fun _ => s.clk.ticks }) := by
  change execCayPrsntNChange i level s = _
  have hpin : (s.pins.cayPrsnt.getD i true == level) = false := beq_eq_false_iff_ne.mpr hne
  rw [execCayPrsntNChange, if_neg (by simp [hi, hpin, -List.getD_eq_getElem?_getD]), if_neg]
  simpa [State.caySlot, and_assoc] using hstep

theorem cayPrsntNChange_same (i : Nat) (s : State) : exec (.cayPrsntNChange i (s.pins.cayPrsnt.getD i true)) s = .next s := by
  change execCayPrsntNChange i (s.pins.cayPrsnt.getD i true) s = _
  rw [execCayPrsntNChange, if_pos (by simp only [beq_self_eq_true, Bool.or_true])]

theorem endReading_none {i : Nat} {s : State} (st : Status) (h : (s.caySlot i).reading = false) : endReading i st s = s := by
  rw [endReading, if_pos (by simp [h])]

theorem endPair_none {i : Nat} {s : State} (st : Status) (w : Words) (h : (s.caySlot i).pairCmd = none) :
    endPair i st w s = s := by
  rw [endPair, h]

/-- Losses of a removed cartridge, seen at the next boundary (R199). -/
def removalLosses (i : Nat) (s : State) : State :=
  (recordFault dCay i 5 { unit := i } (islesHit s i) s).mapCay i fun c => { c with lossDue := some .eCartLost }

theorem cayRemoval_unpowered {i : Nat} {s v : State} (hi : i < 2) (hpin : s.pins.cayPrsnt.getD i true = true)
    (hst : (s.caySlot i).state ≠ .empty) (hej : (s.caySlot i).state ≠ .ejected)
    (hv : v = removalLosses i (advanceTicks (s.pins.cayPrsntSince.getD i 0 + 2000) s)) (hpwr : v.pins.cayPwr.getD i false = false) :
    exec (.cayRemoval i) s =
      .next (setCayState i .empty ((endPair i .eCartLost {} (endReading i .eCartLost v)).mapCay i forgetCart)) := by
  change execCayRemoval i s = _
  rw [execCayRemoval, if_neg (by simp [hi, hpin, hst, -List.getD_eq_getElem?_getD])]
  dsimp only
  rw [if_neg hej, ← removalLosses, ← hv, if_neg (by simp [hpwr, -List.getD_eq_getElem?_getD])]

theorem cayRemoval_seated {i : Nat} {s : State} (hpin : s.pins.cayPrsnt.getD i true = false) :
    exec (.cayRemoval i) s = .next s := by
  change execCayRemoval i s = _
  rw [execCayRemoval, if_pos (by simp [hpin, -List.getD_eq_getElem?_getD])]

theorem cayPowerRelease_due {i t : Nat} {s : State} (h : (s.caySlot i).powerOffAt = some t) :
    exec (.cayPowerRelease i) s = .next (cayPower i false ((advanceTicks t s).mapCay i fun c => { c with powerOffAt := none })) := by
  change execCayPowerRelease i s = _
  rw [execCayPowerRelease, h]

theorem cayPowerRelease_none {i : Nat} {s : State} (h : (s.caySlot i).powerOffAt = none) :
    exec (.cayPowerRelease i) s = .next s := by
  change execCayPowerRelease i s = _
  rw [execCayPowerRelease, h]

/-! ## What takes a slot to FAILED (R187) -/

theorem cayBreaks_linked {i bit : Nat} {s : State} (h : cayLinked s i = true) : cayBreaks i bit s = cayFails i bit s := by
  rw [cayBreaks, if_pos h]

theorem cayLinked_refused {i : Nat} {s : State} (h : (s.caySlot i).state = .refused) : cayLinked s i = false := by
  simp [cayLinked, governed, h]

theorem cayBreaks_refused {i bit : Nat} {s : State} (h : (s.caySlot i).state = .refused) :
    cayBreaks i bit s = endPair i .eCartLost {} (recordFault dCay i bit { unit := i } (islesHit s i) s) := by
  rw [cayBreaks, if_neg (by simp [cayLinked_refused h]), if_pos h]

theorem cayBreaks_idle {i bit : Nat} {s : State} (hl : cayLinked s i = false) (hr : (s.caySlot i).state ≠ .refused) :
    cayBreaks i bit s = s := by
  rw [cayBreaks, if_neg (by simp [hl]), if_neg hr]

theorem cayLinkLoss_eq (i : Nat) (controller : Bool) (s : State) :
    exec (.cayLinkLoss i controller) s = .next (cayBreaks i (if controller then 1 else 0) s) := rfl

theorem cayInboundRequest_staging {i addr : Nat} {s : State} (h : stagingFrame s (addr / 2 ^ 21) = true) :
    exec (.cayInboundRequest i addr) s = .next s := by
  change execCayInboundRequest i addr s = _
  rw [execCayInboundRequest, if_pos h]

theorem cayInboundRequest_outside {i addr : Nat} {s : State} (h : stagingFrame s (addr / 2 ^ 21) = false) :
    exec (.cayInboundRequest i addr) s = .next (cayBreaks i 10 s) := by
  change execCayInboundRequest i addr s = _
  rw [execCayInboundRequest, if_neg (Bool.eq_false_iff.mp h)]

/-- Before any retirement row 0 lies in its own 512 frames (R158, R166). -/
theorem stagingFrame_unmoved {s : State} (h : s.units.rowZero = []) (f : Nat) : stagingFrame s f = decide (f < 512) := by
  have hrow : ∀ i, rowZeroAt s i = i := fun i => by simp [rowZeroAt, h, aGet]
  simp only [stagingFrame, hrow]
  rw [Bool.eq_iff_iff]
  simp

/-! ## Ejection (R195) -/

theorem cayShutdownDone_ejecting {i : Nat} {s : State} (hs : (s.caySlot i).shutdown = true) (hst : (s.caySlot i).state = .ejecting) :
    exec (.cayShutdownDone i) s =
      .next (endEject i .sOk (tideNow (cayDown i (advanceTicks (s.clk.ticks + 1000) s)))
        (setCayState i .ejected (cayDown i (advanceTicks (s.clk.ticks + 1000) s)))) := by
  change execCayShutdownDone i s = _
  rw [execCayShutdownDone, if_neg (by simp [hs]), if_pos hst]

theorem cayShutdownDone_none {i : Nat} {s : State} (hs : (s.caySlot i).shutdown = false) :
    exec (.cayShutdownDone i) s = .next s := by
  change execCayShutdownDone i s = _
  rw [execCayShutdownDone, if_pos (by simp [hs])]

theorem cayDown_eq (i : Nat) (s : State) :
    cayDown i s = s.mapPins fun p => { p with
      cayPerst := setAt p.cayPerst i fun _ => false, cayPwr := setAt p.cayPwr i fun _ => false,
      cayRefclk := setAt p.cayRefclk i fun _ => false } := rfl

/-! ## The obligation -/

/-- Settles O41, from what each of the slot's ways out of service does. -/
theorem cartridgeLeaves : Obligations.CartridgeLeaves := by
  unfold Obligations.CartridgeLeaves
  intro i s
  refine ⟨?pin, cayPrsntNChange_same i s, ?removal, cayRemoval_seated, fun t => cayPowerRelease_due, cayPowerRelease_none,
    ?linked, ?idle, ?refused, ?inbound, fun addr => cayInboundRequest_staging, fun f h => stagingFrame_unmoved h f,
    ?ejected, cayShutdownDone_none, rfl⟩
  case pin =>
    intro level u hi hne hstep hu
    rw [cayPrsntNChange_follows hi hne hstep, hu]
    exact ⟨rfl, rfl⟩
  case removal =>
    intro u v hi hpin hst hej _ hu hv hpwr
    refine ⟨cayRemoval_unpowered hi hpin hst hej ?_ hpwr, endReading_none _⟩
    rw [hv, hu, removalLosses]
  case linked =>
    intro h
    simp only [cayLinkLoss_eq, cayBreaks_linked h]
    exact ⟨rfl, rfl⟩
  case idle =>
    intro hl hr c
    rw [cayLinkLoss_eq, cayBreaks_idle hl hr]
  case refused =>
    intro u h hu
    rw [cayLinkLoss_eq, cayBreaks_refused h, hu]
    exact ⟨rfl, endPair_none _ _⟩
  case inbound =>
    intro addr hl hs
    rw [cayInboundRequest_outside hs, cayBreaks_linked hl]
  case ejected =>
    intro u v hs hst hu hv
    rw [cayShutdownDone_ejecting hs hst, ← hu, cayDown_eq, ← hv]

end Sys2Proof.Machine
end

section
/-! The checks of Table 5.10 (O8): what each check answers, and which check answers when the earlier ones let a command pass. -/

namespace Sys2Proof.Machine

/-! ## Checks 1 and 2 -/

theorem check1_limbo {s : State} {c : Cmd} {t : Nat} (hlc : s.sec.lcDone = none) (hl : s.boot.limbo = some t)
    (hc : ¬ (c.hdr.opcode = 0x0802 ∧ fieldB c.payload 0 1 = t)) : check1 s c = some (.eLimbo, t) := by
  simp only [check1, hlc, hl, if_neg hc]

theorem check1_lcDone {s : State} {c : Cmd} {x : Nat} (hlc : s.sec.lcDone = some x) (hq : c.hdr.opcode ≠ 0x0800)
    (he : c.hdr.opcode ≠ 0x0830) : check1 s c = some (.eState, 0) := by
  simp only [check1, hlc, if_neg (not_or_intro hq he)]

theorem checkHalt_running {s : State} (h : s.halt = none) (sp : Option CmdSpec) : checkHalt s sp = none :=
  if_neg (by simp [h])

theorem check2_ready {s : State} (h : s.boot.phase = 0x09) (fn : Nat) (sp : Option CmdSpec) : check2 s fn sp = none :=
  if_pos (.inr h)

/-- Before READY only the early commands of the PF pass (R82). -/
theorem check2_startUp {s : State} {fn : Nat} {sp : CmdSpec} (hl : s.boot.limbo = none) (hp : s.boot.phase ≠ 0x09)
    (h : fn ≠ 0 ∨ sp.early = false) : check2 s fn (some sp) = some (.eBusy, sat16 (Config.msToReady s.boot.phase)) := by
  have hready : ¬ (s.boot.limbo.isSome ∨ s.boot.phase = phReady) := by simpa [hl, phReady] using hp
  have hearly : ¬ (fn = 0 ∧ ((some sp).map fun c => c.early) = some true) := by
    rintro ⟨hfn, he⟩
    rcases h with h | h
    · exact h hfn
    · simp [h] at he
  rw [check2, if_neg hready, if_neg hearly]

/-! ## The order of the checks -/

theorem checkAll_check1 {s : State} {c : Cmd} {x : Status × Nat} (h : check1 s c = some x) (fn : Nat) (sp : Option CmdSpec) :
    checkAll s fn sp c = some x := by
  unfold checkAll
  rw [h]
  rfl

theorem checkAll_check2 {s : State} {fn : Nat} {sp : Option CmdSpec} {c : Cmd} {x : Status × Nat} (h1 : check1 s c = none)
    (hh : s.halt = none) (h2 : check2 s fn sp = some x) : checkAll s fn sp c = some x := by
  unfold checkAll
  rw [h1, checkHalt_running hh, h2]
  rfl

theorem checkAll_unknown {s : State} {c : Cmd} (h1 : check1 s c = none) (hh : s.halt = none) (hp : s.boot.phase = 0x09)
    (fn : Nat) : checkAll s fn none c = some (.eBadcmd, 0) := by
  rw [checkAll, h1, checkHalt_running hh, check2_ready hp]; rfl

/-- A known command that passes checks 1 to 3 is judged by checks 4 to 7. -/
theorem checkAll_known {s : State} {c : Cmd} (h1 : check1 s c = none) (hh : s.halt = none) (hp : s.boot.phase = 0x09)
    (fn : Nat) (sp : CmdSpec) : checkAll s fn (some sp) c = checks47 s fn sp c := by
  rw [checkAll, h1, checkHalt_running hh, check2_ready hp]; rfl

/-! ## Checks 4 to 7 -/

/-- The command is addressed to the PF where it must be, and authorized (check 4). -/
def Permitted (s : State) (fn : Nat) (sp : CmdSpec) (c : Cmd) : Prop :=
  (sp.pfOnly = false ∨ fn = 0) ∧ sp.auth s fn c = true

/-- The payload has the length that the command's own chapter gives (check 5). -/
def LengthFits (sp : CmdSpec) (c : Cmd) : Prop := sp.plen c.payload c.hdr.plen = true ∧ c.hdr.plen ≤ 224

theorem checks47_pfOnly {s : State} {fn : Nat} {sp : CmdSpec} (hpf : sp.pfOnly = true) (hfn : fn ≠ 0) (c : Cmd) :
    checks47 s fn sp c = some (.eDenied, 0) := by
  rw [checks47, if_pos (by simp [hpf, hfn])]

theorem checks47_permitted {s : State} {fn : Nat} {sp : CmdSpec} {c : Cmd} (h4 : Permitted s fn sp c) :
    checks47 s fn sp c =
      if !sp.plen c.payload c.hdr.plen || c.hdr.plen > 224 then some (.eBadlen, 0)
      else if hdrBad c.hdr || !sp.args s fn c then some (.eBadarg, 0)
      else (isleCheck s fn sp).or (sp.pre s fn c) := by
  obtain ⟨hpf, hauth⟩ := h4
  have hpass : (sp.pfOnly && fn != 0) = false := by
    rcases hpf with h | h
    · rw [h, Bool.false_and]
    · rw [h, bne_self_eq_false, Bool.and_false]
  rw [checks47, hpass, hauth]
  exact if_neg (by decide)

theorem checks47_badLength {s : State} {fn : Nat} {sp : CmdSpec} {c : Cmd} (h4 : Permitted s fn sp c)
    (h5 : sp.plen c.payload c.hdr.plen = false ∨ 224 < c.hdr.plen) : checks47 s fn sp c = some (.eBadlen, 0) := by
  rw [checks47_permitted h4, if_pos (by simpa using h5)]

theorem checks47_lengthFits {s : State} {fn : Nat} {sp : CmdSpec} {c : Cmd} (h4 : Permitted s fn sp c) (h5 : LengthFits sp c) :
    checks47 s fn sp c = if hdrBad c.hdr || !sp.args s fn c then some (.eBadarg, 0) else (isleCheck s fn sp).or (sp.pre s fn c) := by
  rw [checks47_permitted h4, if_neg (by simp [h5.1, h5.2])]

theorem hdrBad_iff (h : Hdr) :
    hdrBad h = true ↔ h.tag % 2 ^ 32 = 0 ∨ 4 ≤ h.flags ∨ h.res0 ≠ 0 ∨ h.res1 ≠ 0 := by
  have hflags : h.flags / 4 ≠ 0 ↔ 4 ≤ h.flags := by omega
  simp only [hdrBad, Bool.or_eq_true, bne_iff_ne, beq_iff_eq, hflags]
  rw [or_comm, or_assoc]

theorem isleCheck_disabled {s : State} {fn : Nat} {sp : CmdSpec} (hm : sp.memUse = true)
    (h : (s.isle (isleOf fn)).state = .disabled) : isleCheck s fn sp = some (.eState, 0) := by
  rw [isleCheck, if_neg (by simp [hm]), h]

/-! ## The obligation -/

/-- Settles O8, from what each check answers once the earlier ones have let the command pass. -/
theorem checksInOrder : Obligations.ChecksInOrder := by
  unfold Obligations.ChecksInOrder
  intro fn sp c s
  refine ⟨fun x o h => checkAll_check1 h fn o, fun t => check1_limbo, fun x => check1_lcDone,
    fun h1 hh hl hp he => checkAll_check2 h1 hh (check2_startUp hl hp he), fun h1 hh hp => checkAll_unknown h1 hh hp fn,
    ?pfOnly, ?length, ?fields, ?isle⟩
  case pfOnly =>
    intro h1 hh hp hpf hfn
    rw [checkAll_known h1 hh hp, checks47_pfOnly hpf hfn]
  case length =>
    intro h1 hh hp hpf hauth h5
    rw [checkAll_known h1 hh hp, checks47_badLength ⟨hpf, hauth⟩ h5]
  case fields =>
    intro h1 hh hp hpf hauth hplen hmax h6
    have hbad : (hdrBad c.hdr || !sp.args s fn c) = true := by
      rw [Bool.or_eq_true, hdrBad_iff]
      simpa [or_assoc] using h6
    rw [checkAll_known h1 hh hp, checks47_lengthFits ⟨hpf, hauth⟩ ⟨hplen, hmax⟩, if_pos hbad]
  case isle =>
    intro h1 hh hp hpf hauth hplen hmax hhdr hargs hm hst
    rw [checkAll_known h1 hh hp, checks47_lengthFits ⟨hpf, hauth⟩ ⟨hplen, hmax⟩, if_neg (by simp [hhdr, hargs]),
      isleCheck_disabled hm hst]
    rfl

end Sys2Proof.Machine
end

section
/-! Start-up up to the firmware (O26): the fuses, the image from flash or by push, and the stops. -/

namespace Sys2Proof.Machine

/-! ## FUSES (R74, R75) -/

/-- The life cycle, the key and a torn transition, as the fuses tell them. -/
def readFuses (s : State) : State :=
  (s.mapSec fun c => { c with lc := fusedState s.fuses, keyIdx := keyIndex s.fuses }).mapBoot fun b =>
    { b with limbo := tornTarget s.fuses }

theorem fuses_decide {s : State} (hr : s.boot.inReset = false) (hp : s.boot.phase = 0x02) :
    exec .fuses s =
      if fusedState s.fuses = 5 ∧ tornTarget s.fuses = none then .next (bootFails 0x0A (readFuses s))
      else if s.boot.bootSrc = 2 then .next (bootFails 0x01 (readFuses s))
      else if s.boot.bootSrc = 3 ∧ fusedState s.fuses ≠ 0 then .next (bootFails 0x02 (readFuses s))
      else if s.boot.bootSrc = 1 then
        .next ((enterPhase 0x0C (readFuses s)).mapBoot fun b => { b with loader := true, cfgReachable := true })
      else .next (enterPhase 0x03 (readFuses s)) := by
  change execFuses s = _
  rw [execFuses, if_neg (by simp [hr, hp, phFuses])]
  rfl

/-- Outside RETIRED the straps decide where the image comes from (R79). -/
theorem fuses_straps {s : State} (hr : s.boot.inReset = false) (hp : s.boot.phase = 0x02) (hlc : fusedState s.fuses ≠ 5) :
    exec .fuses s =
      if s.boot.bootSrc = 2 then .next (bootFails 0x01 (readFuses s))
      else if s.boot.bootSrc = 3 ∧ fusedState s.fuses ≠ 0 then .next (bootFails 0x02 (readFuses s))
      else if s.boot.bootSrc = 1 then
        .next ((enterPhase 0x0C (readFuses s)).mapBoot fun b => { b with loader := true, cfgReachable := true })
      else .next (enterPhase 0x03 (readFuses s)) := by
  rw [fuses_decide hr hp, if_neg fun h => hlc h.1]

/-! ## BOOT_ROM (R77, R79) -/

/-- Copy 0 first, then copy 1 (R77). -/
theorem romLoad_flash {s : State} (hr : s.boot.inReset = false) (hp : s.boot.phase = 0x03) (hsrc : s.boot.bootSrc = 0)
    (c0 c1 : Option Bytes) (m : Option Mfg) :
    exec (.romLoad c0 c1 m) s =
      if imageCode s (parseCopy s c0) = 0 then .next (acceptImage (parseCopy s c0) s)
      else if imageCode s (parseCopy s c1) = 0 then
        .next ((acceptImage (parseCopy s c1) s).mapBoot fun b => { b with imageCopy := 1 })
      else .next (bootFails (max (imageCode s (parseCopy s c0)) (imageCode s (parseCopy s c1))) s) := by
  change execRomLoad c0 c1 m s = _
  unfold execRomLoad
  rw [if_neg (by simp [hr, hp, phRom]), if_neg (by simp [hsrc]), if_neg (by simp [hsrc])]

theorem romLoad_manufactures {s : State} (hr : s.boot.inReset = false) (hp : s.boot.phase = 0x03) (hsrc : s.boot.bootSrc = 3)
    (c0 c1 : Option Bytes) (m : Mfg) : exec (.romLoad c0 c1 (some m)) s = .next (manufacture m s) := by
  change execRomLoad c0 c1 (some m) s = _
  unfold execRomLoad
  rw [if_neg (by simp [hr, hp, phRom]), if_pos hsrc]

/-- A flash that does not answer gives the code of an unreadable image. -/
theorem imageCode_noCopy (s : State) : imageCode s (parseCopy s none) = 3 := rfl

/-! ## The manufacturing path (R406) -/

/-- Programming a row of the life cycle leaves the secret, the certificates and the slots' digests. -/
theorem setRow_identity (row n : Nat) (f : Fuses) :
    (setRow row n f).uds = f.uds ∧ (setRow row n f).certStore = f.certStore ∧ (setRow row n f).slotDigests = f.slotDigests := by
  unfold setRow
  split
  · exact ⟨rfl, rfl, rfl⟩
  · split
    · exact ⟨rfl, rfl, rfl⟩
    · split <;> exact ⟨rfl, rfl, rfl⟩

/-- So does programming rows one after the other. -/
theorem setRows_identity (goal : Fuses → Nat → Nat) (rows : List Nat) (f : Fuses) :
    (rows.foldl (fun f row => setRow row (goal f row) f) f).uds = f.uds ∧
    (rows.foldl (fun f row => setRow row (goal f row) f) f).certStore = f.certStore ∧
    (rows.foldl (fun f row => setRow row (goal f row) f) f).slotDigests = f.slotDigests := by
  induction rows generalizing f with
  | nil => exact ⟨rfl, rfl, rfl⟩
  | cons row rows ih =>
    obtain ⟨huds, hcerts, hslots⟩ := setRow_identity row (goal f row) f
    obtain ⟨iuds, icerts, islots⟩ := ih (setRow row (goal f row) f)
    exact ⟨iuds.trans huds, icerts.trans hcerts, islots.trans hslots⟩

theorem manufacture_identity (m : Mfg) (s : State) :
    (manufacture m s).fuses.uds = m.uds ∧ (manufacture m s).fuses.certStore = m.certs.take 8192 ∧
    (manufacture m s).fuses.slotDigests = (List.range 4).map fun i => some (m.slots.getD i 0) :=
  setRows_identity (fun f row => max (rowCount f row) (rowGoal f row)) [11, 21, 12, 22] _

theorem manufacture_slot (m : Mfg) (s : State) {i : Nat} (hi : i < 4) :
    (manufacture m s).fuses.slotDigests.getD i none = some (m.slots.getD i 0) := by
  obtain ⟨-, -, hslots⟩ := manufacture_identity m s
  rw [hslots, List.getD_eq_getElem?_getD, List.getElem?_map, List.getElem?_range hi]
  rfl

/-! ## Stops (R79, R89) -/

theorem fwStartTimeout_fails {s : State} (hr : s.boot.inReset = false) (hp : s.boot.phase = 0x04) :
    exec .fwStartTimeout s = .next (bootFails 0x06 (advanceTicks (s.boot.phaseTick + 10000000) s)) := by
  change execFwStartTimeout s = _
  rw [execFwStartTimeout, if_neg (by simp [hr, hp, phFw])]

theorem tideSyncReleaseStopped_releases {s : State} (hr : s.boot.inReset = false) (hd : s.boot.stoppedReleased = false)
    (hp : s.boot.phase = 0x0F) :
    exec .tideSyncReleaseStopped s = .next (((advanceTicks (s.boot.phaseTick + 10000000) s).mapPins fun p =>
      { p with syncHold := false }).mapBoot fun b => { b with stoppedReleased := true }) := by
  change execTideSyncReleaseStopped s = _
  rw [execTideSyncReleaseStopped, if_neg (by simp [hr, hd, hp, phFailed])]

theorem bootFails_stops (code : Nat) (s : State) :
    (bootFails code s).boot.phase = 0x0F ∧ (bootFails code s).boot.failCode = code ∧
    (bootFails code s).boot.loader = decide (3 ≤ code ∧ code ≤ 6) ∧ (bootFails code s).pins.alertLow = true :=
  ⟨rfl, rfl, (Bool.decide_and _ _).symm, rfl⟩

/-! ## The loader (Table 4.6) -/

/-- What is wrong with a push: its address or length, or a reserved field. -/
def pushBad (h : Hdr) (p : Bytes) : Prop :=
  fieldB p 0 8 % 4096 ≠ 0 ∨ fieldB p 8 4 = 0 ∨ fieldB p 8 4 > 67108864 ∨ fieldB p 12 4 ≠ 0 ∨ h.flags / 4 ≠ 0 ∨ h.res0 ≠ 0 ∨ h.res1 ≠ 0

theorem bootImagePush_loader {c : MbxArg} {s : State} (h : loaderServes s c.fn c.slot = true) :
    exec (.bootImagePush c) s = .next (loaderCommand { c.hdr with opcode := 0x0C00 } (bodyOf c) s) := by
  change execBootImagePush c s = _
  rw [execBootImagePush, if_pos h]
  rfl

theorem loaderCommand_busy {s : State} (h : s.boot.pushStatus = 1 ∨ s.boot.pushStatus = 2) (hdr : Hdr) (p : Bytes) :
    loaderCommand hdr p s = s := by
  rw [loaderCommand, if_pos h]

theorem loaderCommand_bad {hdr : Hdr} {p : Bytes} {s : State} (h1 : s.boot.pushStatus ≠ 1) (h2 : s.boot.pushStatus ≠ 2)
    (hop : hdr.opcode = 0x0C00) (hbad : pushBad hdr p) :
    loaderCommand hdr p s = s.mapBoot fun b => { b with pushStatus := 0x10 } := by
  rw [loaderCommand, if_neg (not_or_intro h1 h2), if_neg (not_not_intro hop)]
  exact if_pos hbad

theorem loaderCommand_starts {hdr : Hdr} {p : Bytes} {s : State} (h1 : s.boot.pushStatus ≠ 1) (h2 : s.boot.pushStatus ≠ 2)
    (hop : hdr.opcode = 0x0C00) (hgood : ¬ pushBad hdr p) :
    loaderCommand hdr p s = s.mapBoot fun b => { b with pushStatus := 1, push := (fieldB p 0 8, fieldB p 8 4) } := by
  rw [loaderCommand, if_neg (not_or_intro h1 h2), if_neg (not_not_intro hop)]
  exact if_neg hgood

theorem pushTransferDone_eq {s : State} (hr : s.boot.inReset = false) (hl : s.boot.loader = true)
    (hst : s.boot.pushStatus = 1) (ok : Bool) :
    exec (.pushTransferDone ok) s = .next (s.mapBoot fun b => { b with pushStatus := if ok then 2 else 0x11 }) := by
  change execPushTransferDone ok s = _
  rw [execPushTransferDone, if_neg (by simp [hr, hl, hst])]

/-- The access to the pages of an image changes nothing that the image's bytes or its verification depend on. -/
theorem hostTouch_rest (fn a n : Nat) (s : State) :
    hostTouch fn a n s = s.mapMems fun m => { m with ats := (hostTouch fn a n s).mems.ats } := by
  unfold hostTouch
  split <;> rfl

theorem parseImage_hostTouch (fn a n addr len : Nat) (s : State) :
    parseImage (hostTouch fn a n s) addr len = parseImage s addr len := by
  rw [hostTouch_rest]; rfl

theorem imageCode_hostTouch (fn a n : Nat) (d : ImageDesc) (s : State) :
    imageCode (hostTouch fn a n s) d = imageCode s d := by
  rw [hostTouch_rest]; rfl

theorem pushVerifyDone_eq {s : State} (hr : s.boot.inReset = false) (hl : s.boot.loader = true)
    (hst : s.boot.pushStatus = 2) {d : ImageDesc} (hd : d = parseImage s s.boot.push.1 s.boot.push.2) :
    exec .pushVerifyDone s =
      if imageCode s d = 0 then
        .next ((acceptImage d (hostTouch 0 s.boot.push.1 s.boot.push.2 s)).mapBoot fun b => { b with pushStatus := 3 })
      else .next ((hostTouch 0 s.boot.push.1 s.boot.push.2 s).mapBoot fun b =>
        { b with pushStatus := 0x12, failCode := imageCode s d }) := by
  have hboot : (hostTouch 0 s.boot.push.1 s.boot.push.2 s).boot = s.boot := by rw [hostTouch_rest]; rfl
  change execPushVerifyDone s = _
  rw [execPushVerifyDone, if_neg (by simp [hr, hl, hst])]
  simp only [hboot, parseImage_hostTouch, imageCode_hostTouch, ← hd]

/-! ## Once the firmware runs -/

/-- A command of an opcode that the table does not hold, as acceptance queues it. -/
def unknownCmd (fn slot : Nat) (h : Hdr) (p : Bytes) (s : State) : Cmd :=
  { seq := (s.func fn).nextSeq, slot := slot, hdr := h, payload := p.take h.plen, d := quantNow s, phase := .held, data := false,
    view := (s.func fn).view }

/-- The state with that command written to its slot and outstanding. -/
def unknownEntered (fn slot : Nat) (h : Hdr) (p : Bytes) (s : State) : State :=
  (s.mapFunc fn (putSlot slot h p)).mapFunc fn fun f => { f with cmds := f.cmds ++ [unknownCmd fn slot h p s], nextSeq := f.nextSeq + 1 }

/-- READY firmware knows no such opcode. -/
theorem checkAll_unknownEntered {s : State} (hlc : s.sec.lcDone = none) (hl : s.boot.limbo = none) (hh : s.halt = none)
    (hp : s.boot.phase = 0x09) (fn slot : Nat) (h : Hdr) (p : Bytes) (c : Cmd) :
    checkAll (unknownEntered fn slot h p s) fn none c = some (.eBadcmd, 0) := by
  have hlc' : (unknownEntered fn slot h p s).sec.lcDone = none := hlc
  have hl' : (unknownEntered fn slot h p s).boot.limbo = none := hl
  have h1 : check1 (unknownEntered fn slot h p s) c = none := by simp only [check1, hlc', hl']
  exact checkAll_unknown h1 hh hp fn

/-- What acceptance does with a command that a check stops, after it has been written to its slot. -/
theorem acceptCmd_unknown {fn slot : Nat} {h : Hdr} {p : Bytes} {s : State} {st : Status} {d : Nat} (hfn : fn < s.funcs.length)
    (hc : checkAll (unknownEntered fn slot h p s) fn none (unknownCmd fn slot h p s) = some (st, d)) :
    acceptCmd cmdTable none fn slot h p (s.mapFunc fn (putSlot slot h p)) =
      refuse fn (s.func fn).nextSeq (unknownCmd fn slot h p s) false st d (unknownEntered fn slot h p s) := by
  have hq : quantNow (s.mapFunc fn (putSlot slot h p)) = quantNow s := rfl
  simp only [acceptCmd, func_mapFunc_self _ _ _ hfn, putSlot_nextSeq, putSlot_view, hq]
  split
  case h_1 hsome => cases hsome.symm.trans hc; rfl
  case h_2 hnone => cases hnone.symm.trans hc

/-- Such a command is answered at once where its class is not quantized (R107, R110). -/
theorem hostRow_unknown {fn slot : Nat} {h : Hdr} {s : State} (ha : fnAlive s fn = true)
    (hc : copiesNow (s.func fn) slot = true) (hlc : s.sec.lcDone = none) (hl : s.boot.limbo = none) (hh : s.halt = none)
    (hp : s.boot.phase = 0x09) (hop : securityClass h.opcode .eBadcmd = false) (p : Bytes) :
    hostRow cmdTable none fn slot h p s =
      pumpAll cmdTable (refuseAt (tideNow s) fn (s.func fn).nextSeq .eBadcmd 0 (unknownEntered fn slot h p s)) := by
  have hclass : securityClass (unknownCmd fn slot h p s).hdr.opcode .eBadcmd = false := hop
  rw [hostRow, if_neg (by simp [ha]), if_pos hc,
    acceptCmd_unknown (copiesNow_lt hc) (checkAll_unknownEntered hlc hl hh hp fn slot h p _), refuse, hclass]
  rfl

theorem bootImagePush_firmware {c : MbxArg} {s : State} (hl : loaderServes s c.fn c.slot = false) :
    exec (.bootImagePush c) s = .next (hostRow cmdTable none c.fn c.slot { c.hdr with opcode := 0x0C00 } c.payload s) := by
  change execBootImagePush c s = _
  rw [execBootImagePush, if_neg (by simp [hl])]

/-! ## The obligation -/

/-- Settles O26: the phases of the ROM from their equations, the push interface from the loader's. -/
theorem bootFindsFirmware : Obligations.BootFindsFirmware := by
  unfold Obligations.BootFindsFirmware
  refine ⟨fun s hr => ⟨?fuses, ?flash, ?mfg, fwStartTimeout_fails hr, fun hd hp => tideSyncReleaseStopped_releases hr hd hp,
    fun code => bootFails_stops code s⟩, fun c s => ⟨?good, ?bad, ?busy, ?firmware, fun ok hr hl => fun hst =>
      pushTransferDone_eq hr hl hst ok, ?verify⟩⟩
  case fuses =>
    intro u hu hp
    obtain rfl : u = readFuses s := hu
    refine ⟨fun hlc ht => ?_, fun hlc hsrc => ?_, fun hlc h0 hsrc => ?_, fun h0 hsrc => ?_, fun hlc hsrc => ?_, fun hlc hsrc => ?_⟩
    · rw [fuses_decide hr hp, if_pos ⟨hlc, ht⟩]
    · rw [fuses_straps hr hp hlc, if_pos hsrc]
    · rw [fuses_straps hr hp hlc, if_neg (by simp [hsrc]), if_pos ⟨hsrc, h0⟩]
    · rw [fuses_straps hr hp (by simp [h0]), if_neg (by simp [hsrc]), if_neg (by simp [h0]), if_neg (by simp [hsrc])]
    · rw [fuses_straps hr hp hlc, if_neg (by simp [hsrc]), if_neg (by simp [hsrc]), if_neg (by simp [hsrc])]
    · rw [fuses_straps hr hp hlc, if_neg (by simp [hsrc]), if_neg (by simp [hsrc]), if_pos hsrc]
  case flash =>
    rintro c0 c1 m d0 d1 rfl rfl hp hsrc
    rw [romLoad_flash hr hp hsrc]
    exact ⟨fun h0 => if_pos h0, fun h0 h1 => by rw [if_neg h0, if_pos h1], fun h0 h1 => by rw [if_neg h0, if_neg h1],
      fun h => h ▸ imageCode_noCopy s⟩
  case mfg =>
    intro c0 c1 m hp hsrc
    obtain ⟨huds, hcerts, -⟩ := manufacture_identity m s
    exact ⟨romLoad_manufactures hr hp hsrc c0 c1 m, huds, hcerts, fun i hi => manufacture_slot m s hi⟩
  case good =>
    intro hl h1 h2 haddr hmin hmax hres hflags hr0 hr1
    rw [bootImagePush_loader hl, loaderCommand_starts h1 h2 rfl]
    unfold pushBad
    dsimp only
    omega
  case bad =>
    intro hl h1 h2 hbad
    rw [bootImagePush_loader hl, loaderCommand_bad h1 h2 rfl]
    unfold pushBad
    dsimp only
    omega
  case busy =>
    intro hl hst
    rw [bootImagePush_loader hl, loaderCommand_busy hst]
  case firmware =>
    intro hl ha hc hlc hlimbo hh hp e he
    rw [bootImagePush_firmware hl, hostRow_unknown ha hc hlc hlimbo hh hp rfl, he]
    rfl
  case verify =>
    intro d hd hr hl hst
    rw [pushVerifyDone_eq hr hl hst hd]
    exact ⟨fun h => if_pos h, fun h => if_neg h⟩

end Sys2Proof.Machine
end

section
/-! Configuration space and faults of the host's side (O34). -/

namespace Sys2Proof.Machine

/-! ## Configuration requests (R81, R97) -/

/-- A request shows the link trained (R81). -/
def withLinkUp (s : State) : State := { s with pcie := { s.pcie with linkUp := true } }

theorem configRequest_retry {s : State} (hr : s.boot.inReset = false) (hc : s.boot.cfgReachable = false) (r : CfgReq) :
    exec (.configRequest r) s = .next ((withLinkUp s).emit (.config none)) := by
  change execConfigRequest r s = _
  unfold execConfigRequest
  rw [if_neg (by simp [hr]), if_pos (by simp [hc])]
  rfl

/-- Once configuration space is reachable each request has its own answer. -/
theorem configRequest_reachable {s : State} (hr : s.boot.inReset = false) (hc : s.boot.cfgReachable = true) (r : CfgReq) :
    exec (.configRequest r) s = match r with
      | .read off => .next ((cfgRead off (withLinkUp s)).2.emit (.config (some (cfgRead off (withLinkUp s)).1)))
      | .readVf fn off => .next ((cfgReadVf fn off (withLinkUp s)).2.emit (.config (some (cfgReadVf fn off (withLinkUp s)).1)))
      | .write off v => .next ({ withLinkUp s with pcie := cfgWrite off v (withLinkUp s).pcie }.emit (.config (some 0)))
      | .register x => .next ((withLinkUp s).emit (.config (some (cfgReg (withLinkUp s) x))))
      | .setNumVFs n => .next ({ withLinkUp s with pcie := if s.pcie.vfEnable || n > 31 then (withLinkUp s).pcie else
          { (withLinkUp s).pcie with numVFs := n } }.emit (.config (some 0)))
      | .setVfEnable true => .next ({ withLinkUp s with pcie := { (withLinkUp s).pcie with vfEnable := true } }.emit (.config (some 0)))
      | .setVfEnable false => .next ((if s.pcie.vfEnable then clearVfs (withLinkUp s) else withLinkUp s).emit (.config (some 0)))
      | .setAts fn on => .next (((withLinkUp s).mapFunc fn fun f => { f with atsEnable := on }).emit (.config (some 0))) := by
  change execConfigRequest r s = _
  unfold execConfigRequest
  rw [if_neg (by simp [hr]), if_neg (by simp [hc])]
  cases r with
  | setVfEnable on => cases on <;> rfl
  | _ => rfl

/-- A VF that VF Enable and NumVFs allow shows the PF's vendor, revision and class (Table 5.1). -/
theorem cfgReadVf_identity {fn : Nat} {s : State} (hv : s.pcie.vfEnable = true) (h0 : 0 < fn) (hn : fn ≤ s.pcie.numVFs) :
    cfgReadVf fn 0 s = (0x0D021D7A, s) ∧ cfgReadVf fn 8 s = (0x12000000 + s.fuses.stepping, s) := by
  have hthere : (s.pcie.vfEnable && decide (0 < fn) && decide (fn ≤ s.pcie.numVFs)) = true := by simp [hv, h0, hn]
  constructor <;> simp only [cfgReadVf, hthere]

/-! ## Faults of the host's side (R98, R445, Table 5.13) -/

theorem tlpError_running {s : State} (hr : s.boot.inReset = false) (hfw : s.boot.fwRunning = true) :
    exec .tlpError s = .next (recordFault dHost 0 1 {} [] s) := by
  change execTlpError s = _
  rw [execTlpError, if_neg (by simp [hr, hfw])]

theorem hostAccessFail_object {fn : Nat} {o : HostObj} {s : State} (hr : s.boot.inReset = false)
    (hfw : s.boot.fwRunning = true) (ho : ∀ tag, o ≠ .command tag) :
    exec (.hostAccessFail fn o) s = .next (hostFault fn [o] s) := by
  change execHostAccessFail fn o s = _
  unfold execHostAccessFail
  rw [if_neg (by simp [hr, hfw])]
  cases o with
  | command tag => exact absurd rfl (ho tag)
  | stream h => rfl
  | ring => rfl
  | shadow => rfl

theorem hostAccessFail_command {s : State} (hr : s.boot.inReset = false) (hfw : s.boot.fwRunning = true) (fn tag : Nat) :
    exec (.hostAccessFail fn (.command tag)) s =
      .next (s.mapFunc fn fun f => { f with failTags := insNat tag f.failTags }) := by
  change execHostAccessFail fn (.command tag) s = _
  unfold execHostAccessFail
  rw [if_neg (by simp [hr, hfw])]
  rfl

theorem hostFault_stream (fn h : Nat) (s : State) :
    hostFault fn [.stream h] s = streamStops fn h (recordFault dHost 0 0 {} [isleOf fn] s) := rfl

/-- A failed access of the ring or of the tail shadow has no further error (log 95). -/
theorem hostFault_ringShadow (fn : Nat) {objs : List HostObj} (h : ∀ o ∈ objs, o = .ring ∨ o = .shadow) (s : State) :
    hostFault fn objs s = recordFault dHost 0 0 {} [isleOf fn] s := by
  unfold hostFault
  generalize recordFault dHost 0 0 {} [isleOf fn] s = t
  induction objs with
  | nil => rfl
  | cons o objs ih =>
    rw [List.foldl_cons]
    rcases h o List.mem_cons_self with rfl | rfl <;> exact ih fun x hx => h x (List.mem_cons_of_mem _ hx)

theorem streamStops_live {fn h : Nat} {s : State} {x : Stream} (hx : aGet (s.isle fn).streams h = some x) :
    streamStops fn h s = streamEvent fn h 4 .eFault (if x.dirOut then x.producer else x.consumer) (tideNow s)
      (mapStream fn h (fun x => { x with stopped := true }) s) := by
  rw [streamStops, hx]

/-! ## Translations (R98) -/

/-- The state without the translation of a page. -/
def dropTranslation (fn p : Nat) (s : State) : State :=
  s.mapMems fun m => { m with ats := m.ats.filter fun x => x != fn * 2 ^ 52 + p }

theorem atsInvalidate_disabled {fn : Nat} {s : State} (h : (s.func fn).atsEnable = false) (p : Nat) (ok : Bool) :
    exec (.atsInvalidate fn p ok) s = .next s := by
  change execAtsInvalidate fn p ok s = _
  rw [execAtsInvalidate, if_pos (by simp [h])]

theorem atsInvalidate_enabled {fn : Nat} {s : State} (hr : s.boot.inReset = false) (hfw : s.boot.fwRunning = true)
    (h : (s.func fn).atsEnable = true) (p : Nat) (ok : Bool) :
    exec (.atsInvalidate fn p ok) s =
      if (pageUsers s fn p).isEmpty then .next (dropTranslation fn p s)
      else if ok then .next (hostTouch fn (p * 4096) 4096 (dropTranslation fn p s))
      else .next (hostFault fn (pageUsers s fn p) (dropTranslation fn p s)) := by
  change execAtsInvalidate fn p ok s = _
  rw [execAtsInvalidate, if_neg (by simp [hr, hfw, h])]
  rfl

/-- A re-request that is refused is a failed access of every user of the page. -/
theorem atsInvalidate_refused {fn p : Nat} {s : State} (hr : s.boot.inReset = false) (hfw : s.boot.fwRunning = true)
    (h : (s.func fn).atsEnable = true) (hu : pageUsers s fn p ≠ []) :
    exec (.atsInvalidate fn p false) s = .next (hostFault fn (pageUsers s fn p) (dropTranslation fn p s)) := by
  rw [atsInvalidate_enabled hr hfw h, if_neg (by simp [hu]), if_neg Bool.false_ne_true]

/-- What a lookup finds is in the list. -/
theorem mem_of_aGet {α : Type} {l : List (Nat × α)} {k : Nat} {x : α} (h : aGet l k = some x) : (k, x) ∈ l := by
  obtain ⟨⟨k', x'⟩, hf, rfl⟩ := Option.map_eq_some_iff.mp h
  have hk : k' = k := by simpa using List.find?_some hf
  exact hk ▸ List.mem_of_find?_eq_some hf

theorem stream_mem_pageUsers {fn h p : Nat} {s : State} {x : Stream} (hx : aGet (s.isle fn).streams h = some x)
    (hp : pageOf p x.ring (x.entries * 2 ^ x.slotLog2) = true) : HostObj.stream h ∈ pageUsers s fn p := by
  refine List.mem_append_left _ (List.mem_append_left _ (List.mem_map.mpr ⟨(h, x), ?_, rfl⟩))
  exact List.mem_filter.mpr ⟨mem_of_aGet hx, by simp [hp]⟩

/-! ## The obligation -/

/-- Settles O34, from the answer to each kind of request and what each fault does. -/
theorem configurationSpace : Obligations.ConfigurationSpace := by
  unfold Obligations.ConfigurationSpace
  refine ⟨fun s u hr hu => ?_, fun fn h s hr hfw => ?_⟩
  · obtain rfl : u = withLinkUp s := hu
    refine ⟨fun r hc => configRequest_retry hr hc r, fun hc => configRequest_reachable hr hc (.read 0),
      fun hc => configRequest_reachable hr hc (.read 8), ?registers, ?vf, ?base,
      fun hc => ⟨configRequest_reachable hr hc (.read 0x10), configRequest_reachable hr hc (.read 0x14)⟩,
      fun fn on hc => configRequest_reachable hr hc (.setAts fn on), ?numVFs, ?numVFsHeld, ?enable, ?clear⟩
    case registers =>
      intro r v hc hmem
      have hv : cfgReg (withLinkUp s) r = v := by
        simp only [List.mem_cons, List.not_mem_nil, or_false, Prod.mk.injEq] at hmem
        rcases hmem with h | h | h | h | h | h | h | h | h | h | h | h | h | h | h | h | h | h | h | h <;>
          (obtain ⟨rfl, rfl⟩ := h; rfl)
      exact hv ▸ configRequest_reachable hr hc (.register r)
    case vf =>
      intro fn hc hv h0 hn
      obtain ⟨hid, hclass⟩ := cfgReadVf_identity (s := withLinkUp s) hv h0 hn
      rw [configRequest_reachable hr hc, configRequest_reachable hr hc]
      dsimp only
      rw [hid, hclass]
      exact ⟨rfl, rfl⟩
    case base =>
      rintro v a b hc rfl rfl
      exact ⟨configRequest_reachable hr hc (.write 0x10 v), configRequest_reachable hr hc (.write 0x14 v)⟩
    case numVFs =>
      rintro n p hc hv hn rfl
      rw [configRequest_reachable hr hc]
      dsimp only
      rw [if_neg (by simp [hv, hn])]
    case numVFsHeld =>
      intro n hc hv
      rw [configRequest_reachable hr hc]
      dsimp only
      rw [if_pos (by simp [hv])]
    case enable =>
      rintro p hc rfl
      exact configRequest_reachable hr hc (.setVfEnable true)
    case clear =>
      intro hc hv
      rw [configRequest_reachable hr hc]
      dsimp only
      rw [if_pos hv]
  · refine ⟨tlpError_running hr hfw, ?stream, ?ring, ?shadow, fun tag => hostAccessFail_command hr hfw fn tag,
      fun x => streamStops_live, fun p ha => ⟨atsInvalidate_disabled ha p true, atsInvalidate_disabled ha p false⟩, ?ats, ?users⟩
    case stream => rw [hostAccessFail_object hr hfw (by simp), hostFault_stream]
    case ring => rw [hostAccessFail_object hr hfw (by simp), hostFault_ringShadow fn (by simp)]
    case shadow => rw [hostAccessFail_object hr hfw (by simp), hostFault_ringShadow fn (by simp)]
    case ats =>
      intro p u ha hu
      obtain rfl : u = dropTranslation fn p s := hu
      refine ⟨fun ok hp => ?_, fun hp => ?_, fun x hp => ?_, fun hall hp => ?_⟩
      · rw [atsInvalidate_enabled hr hfw ha, if_pos (by simp [hp])]
      · rw [atsInvalidate_enabled hr hfw ha, if_neg (by simp [hp]), if_pos rfl]
      · rw [atsInvalidate_refused hr hfw ha (by simp [hp]), hp, hostFault_stream]
      · rw [atsInvalidate_refused hr hfw ha hp, hostFault_ringShadow fn hall]
    case users =>
      intro p x hx hlo hhi
      exact stream_mem_pageUsers hx (by simp [pageOf, hlo, hhi])

end Sys2Proof.Machine
end

section
/-! The lengths of what AES, CMAC and the DRBG give: a block is 16 bytes, and a generate call gives the bytes that it is asked for. -/

namespace Sys2Proof.Machine

theorem xorBytes_length (a b : Bytes) : (xorBytes a b).length = min a.length b.length := List.length_zipWith

theorem xorList_length (a b : List Nat) : (xorList a b).length = min a.length b.length := List.length_zipWith

/-! ## Blocks of AES-256 -/

/-- The key schedule keeps words of four bytes, and adds n of them to what it starts from. -/
theorem aesWords_words {nk : Nat} (hnk : 0 < nk) (n : Nat) (w : List (List Nat)) (hlen : nk ≤ w.length)
    (hw : ∀ x ∈ w, x.length = 4) :
    (aesWords nk n w).length = n + w.length ∧ ∀ x ∈ aesWords nk n w, x.length = 4 := by
  induction n generalizing w with
  | zero => exact ⟨(Nat.zero_add _).symm, hw⟩
  | succ n ih =>
    have hget : ∀ i < nk, (w.getD i []).length = 4 := by
      intro i hi
      rw [List.getD_eq_getElem?_getD, List.getElem?_eq_getElem (by omega), Option.getD_some]
      exact hw _ (List.getElem_mem _)
    have h0 := hget 0 hnk
    have hlast := hget (nk - 1) (by omega)
    simp only [aesWords]
    refine (ih _ (by rw [List.length_cons]; omega) ?_).imp (fun h => by rw [h, List.length_cons]; omega) id
    intro x hx
    rcases List.mem_cons.mp hx with rfl | hx
    · rw [xorList_length, hlast]
      split
      · simp [xorList_length]
      · split
        · rw [List.length_map, h0, Nat.min_self]
        · rw [h0, Nat.min_self]
    · exact hw x hx

theorem sum_replicate_nat (n a : Nat) : (List.replicate n a).sum = n * a := by
  induction n with
  | zero => rw [List.replicate_zero, List.sum_nil, Nat.zero_mul]
  | succ n ih => rw [List.replicate_succ, List.sum_cons, ih, Nat.succ_mul, Nat.add_comm]

theorem flatten_length_of_forall {l : List (List Nat)} {n : Nat} (h : ∀ x ∈ l, x.length = n) :
    l.flatten.length = n * l.length := by
  rw [List.length_flatten, List.map_congr_left h, List.map_const', sum_replicate_nat, Nat.mul_comm]

/-- A key of 32 bytes has 15 round keys of 16 bytes (FIPS 197). -/
theorem aesKeys_256 {key : List Nat} (hk : key.length = 32) :
    (aesKeys key).length = 15 ∧ ∀ k ∈ aesKeys key, k.length = 16 := by
  obtain ⟨hlen, hwords⟩ := aesWords_words (nk := 8) (by decide) 52
    ((List.range 8).map fun i => (key.drop (4 * i)).take 4).reverse (by simp) (by
      intro x hx
      simp only [List.mem_reverse, List.mem_map, List.mem_range] at hx
      obtain ⟨i, hi, rfl⟩ := hx
      rw [List.length_take, List.length_drop]
      omega)
  simp only [aesKeys, hk]
  refine ⟨by simp, fun k hx => ?_⟩
  obtain ⟨r, hr, rfl⟩ := List.mem_map.mp hx
  have hr15 : r < 15 := List.mem_range.mp hr
  rw [flatten_length_of_forall (n := 4) fun x hx => hwords x (List.mem_reverse.mp (List.mem_of_mem_drop (List.mem_of_mem_take hx)))]
  simp only [List.length_take, List.length_drop, List.length_reverse]
  rw [hlen]
  simp only [List.length_reverse, List.length_map, List.length_range]
  omega

/-- A block goes through at least two round keys of 16 bytes to a block. -/
theorem aesRounds_length {ks : List (List Nat)} (h2 : 2 ≤ ks.length) (hks : ∀ k ∈ ks, k.length = 16) (block : List Nat) :
    (aesRounds ks block).length = 16 := by
  match ks, h2 with
  | k :: l :: ks, _ =>
    have hlast : ((l :: ks).getLastD []).length = 16 := by
      rw [List.getLastD_cons]
      exact hks _ (List.mem_cons_of_mem _ List.getLastD_mem_cons)
    simp only [aesRounds]
    rw [xorList_length, hlast]
    simp [aesShift]

theorem bytesOf_length (l : List Nat) : (bytesOf l).length = l.length := List.length_map _

theorem natsOf_length (b : Bytes) : (natsOf b).length = b.length := List.length_map _

theorem aesRounds_256 {key : Bytes} (hk : key.length = 32) (block : List Nat) :
    (aesRounds (aesKeys (natsOf key)) block).length = 16 := by
  obtain ⟨hlen, hkeys⟩ := aesKeys_256 (key := natsOf key) (by rw [natsOf_length, hk])
  exact aesRounds_length (by omega) hkeys block

theorem aesBytes_length {key : Bytes} (hk : key.length = 32) (block : Bytes) : (aesBytes key block).length = 16 := by
  rw [aesBytes, bytesOf_length]
  exact aesRounds_256 hk _

/-- With a key of 32 bytes a MAC is a block. -/
theorem cmac_length {key : Bytes} (hk : key.length = 32) (msg : Bytes) : (cmac key msg).length = 16 := aesBytes_length hk _

/-! ## The generator (SP 800-90A) -/

theorem drbgStream_length {st : Bytes × Bytes} (hk : st.1.length = 32) (n : Nat) : (drbgStream st n).length = n := by
  rw [drbgStream, List.length_take, List.length_flatMap]
  simp only [bytesOf_length, aesRounds_256 hk, List.map_const', sum_replicate_nat, List.length_range, ceilDiv]
  omega

/-- An update with 48 bytes gives a key of 32. -/
theorem drbgUpdate_key {st : Bytes × Bytes} (hk : st.1.length = 32) {data : Bytes} (hd : 48 ≤ data.length) :
    (drbgUpdate st data).1.length = 32 := by
  simp only [drbgUpdate]
  rw [List.length_take, xorBytes_length, drbgStream_length hk]
  omega

theorem drbgSeed_key {seed : Bytes} (h : 48 ≤ seed.length) : (drbgSeed none seed).1.length = 32 :=
  drbgUpdate_key (by simp) h

theorem drbgGenerate_length {st : Bytes × Bytes} (hk : st.1.length = 32) (n : Nat) : (drbgGenerate st n).1.length = n :=
  drbgStream_length hk n

/-- Conditioned blocks are 16 bytes each (Table 16.11). -/
theorem drawBlocks_length (n : Nat) (s : State) : (drawBlocks n s).1.length = 16 * n := by
  have hkey : ((List.range 32).map Config.condKey).length = 32 := by simp
  simp only [drawBlocks]
  rw [List.length_flatMap]
  simp only [cmac_length hkey, List.map_const', sum_replicate_nat, List.length_range, Nat.mul_comm]

end Sys2Proof.Machine
end

section
/-! Start-up from the firmware's start to READY (O27). -/

namespace Sys2Proof.Machine

/-! ## FW_START (R76, R80, R418) -/

/-- The firmware runs with the flash's configuration record, as the only chip of its archipelago. -/
def fwRuns (cfg : FlashCfg) (s : State) : State :=
  ((s.mapBoot fun b => { b with fwRunning := true, cfgReachable := true, cfg := cfg }).mapFw fun f =>
    { f with ifVersion := f.image.1, build := f.image.2 }).mapArch fun a => { a with member := 2 ^ chipId s, present := 2 ^ chipId s }

theorem entropyStarts_unstarted {s : State} (ht : s.ent.testing = false) (hs : s.ent.state = .unstarted) :
    entropyStarts true s = startService (s.mapEnt fun e => { e with kat := true }) := by
  rw [entropyStarts, if_neg (by simp)]
  exact if_neg (by simp [ht, hs])

/-- The same with its entropy service started. -/
def fwServes (cfg : FlashCfg) (s : State) : State := startService ((fwRuns cfg s).mapEnt fun e => { e with kat := true })

/-- The service's start changes the service and the count of free numbers alone. -/
theorem fwServes_frame (cfg : FlashCfg) (s : State) :
    (fwServes cfg s).boot = (fwRuns cfg s).boot ∧ (fwServes cfg s).fw = (fwRuns cfg s).fw ∧
    (fwServes cfg s).arch = (fwRuns cfg s).arch ∧ (fwServes cfg s).funcs = (fwRuns cfg s).funcs ∧
    (fwServes cfg s).isles = (fwRuns cfg s).isles ∧ (fwServes cfg s).mems = (fwRuns cfg s).mems := by
  simp only [fwServes, startService, fillBuffer, seedDrbg, drawBlocks, State.mapEnt_boot, State.mapEnt_fw, State.mapEnt_arch,
    State.mapEnt_funcs, State.mapEnt_isles, State.mapEnt_mems, State.mapClk_boot, State.mapClk_fw, State.mapClk_arch,
    State.mapClk_funcs, State.mapClk_isles, State.mapClk_mems, and_self]

theorem fwStart_starts {s : State} (hr : s.boot.inReset = false) (hp : s.boot.phase = 0x04) (ha : s.boot.imageAccepted = true)
    (hl : s.boot.limbo = none) (ht : s.ent.testing = false) (hs : s.ent.state = .unstarted) (cfg : FlashCfg) :
    exec (.fwStart true cfg) s =
      .next (enterPhase 0x05 (fwServes cfg s)) := by
  have hent : entropyStarts true (fwRuns cfg s) = fwServes cfg s := entropyStarts_unstarted ht hs
  have hlimbo : (fwServes cfg s).boot.limbo = none := by
    rw [(fwServes_frame cfg s).1]
    exact hl
  change execFwStart true cfg s = _
  rw [execFwStart, if_neg (by simp [hr, hp, ha, phFw])]
  change (if (entropyStarts true (fwRuns cfg s)).boot.limbo.isSome then _ else
    Host.Outcome.next (enterPhase phMem (entropyStarts true (fwRuns cfg s)))) = _
  rw [hent, if_neg (by simp [hlimbo])]
  rfl

/-! ## The entropy service's generator (R418) -/

/-- A generator with a key of 32 bytes fills the buffer of the running service. -/
theorem fillBuffer_fills {s : State} {st : Bytes × Bytes} (hd : s.ent.drbg = some st) (hs : s.ent.state = .running)
    (hk : st.1.length = 32) (hb : s.ent.buffer.length ≤ 2048) : (fillBuffer s).ent.buffer.length = 2048 := by
  simp only [fillBuffer, State.mapEnt_ent, hd]
  split
  · rw [List.length_append, drbgGenerate_length hk]
    omega
  next hfull =>
    have hlen : ¬ s.ent.buffer.length < 2048 := fun h => hfull ⟨hs, h⟩
    omega

theorem fillBuffer_state (s : State) : (fillBuffer s).ent.state = s.ent.state := by
  simp only [fillBuffer, State.mapEnt_ent]
  split
  · split <;> rfl
  · rfl

theorem fillBuffer_drbg {s : State} (h : s.ent.drbg.isSome = true) : (fillBuffer s).ent.drbg.isSome = true := by
  simp only [fillBuffer, State.mapEnt_ent]
  split
  · split
    · rfl
    · exact h
  · exact h

theorem fwServes_state (cfg : FlashCfg) (s : State) : (fwServes cfg s).ent.state = .running := by
  rw [fwServes, startService, fillBuffer_state, State.mapEnt_ent]

theorem fwServes_drbg (cfg : FlashCfg) (s : State) : (fwServes cfg s).ent.drbg.isSome = true := by
  rw [fwServes, startService]
  exact fillBuffer_drbg rfl

/-- A service that starts with no generator and an empty buffer has a full buffer. -/
theorem fwServes_buffer (cfg : FlashCfg) {s : State} (hd : s.ent.drbg = none) (hb : s.ent.buffer = []) :
    (fwServes cfg s).ent.buffer.length = 2048 := by
  have hblocks : 48 ≤ (drawBlocks 3 ((fwRuns cfg s).mapEnt fun e => { e with kat := true })).1.length := by
    simp only [drawBlocks_length, Nat.reduceMul, Nat.le_refl]
  rw [fwServes, startService]
  refine fillBuffer_fills (st := drbgSeed none (drawBlocks 3 ((fwRuns cfg s).mapEnt fun e => { e with kat := true })).1)
    ?_ rfl (drbgSeed_key hblocks) ?_
  · rw [← hd]
    rfl
  · change s.ent.buffer.length ≤ 2048
    simp [hb]

/-! ## MEM_TEST (R83, R84) -/

theorem memTest_cpFails {r : MemTestResult} {s : State} (hr : s.boot.inReset = false) (hp : s.boot.phase = 0x05)
    (h : r.cpOk = false) : exec (.memTest r) s = .next (bootFails 0x07 s) := by
  change execMemTest r s = _
  rw [execMemTest, if_neg (by simp [hr, hp, phMem]), if_pos (by simp [h])]

theorem memTest_tested {r : MemTestResult} {s u : State} (hr : s.boot.inReset = false) (hp : s.boot.phase = 0x05)
    (h : r.cpOk = true) (hu : u = zeroOnChip (testCores r (testShelf r s))) :
    exec (.memTest r) s =
      if (List.range 64).all fun c => unitState u 0 c != 0 then .next (bootFails 0x08 u)
      else .next (enterPhase (if u.boot.archEn then 0x06 else 0x07) u) := by
  change execMemTest r s = _
  rw [execMemTest, if_neg (by simp [hr, hp, phMem]), if_neg (by simp [h]), hu]
  rfl

/-! ## PORT_TRAIN and ALIGN (R85, R86, R88) -/

theorem portTrain_trains {s : State} (hr : s.boot.inReset = false) (hp : s.boot.phase = 0x06) (ha : s.boot.archEn = true)
    (ports : List PortTrain) :
    exec (.portTrain ports) s = .next (enterPhase 0x07 (ports.foldl (fun s r => trainPort r s) s)) := by
  change execPortTrain ports s = _
  rw [execPortTrain, if_neg (by simp [hr, hp, ha, phPort])]
  rfl

theorem align_decides {s : State} (hr : s.boot.inReset = false) (hp : s.boot.phase = 0x07) (ht : s.tide.aligned = false) :
    exec .align s =
      if !s.boot.archEn then .next ((alignAt 0 false s).mapPins fun p => { p with syncHold := false })
      else if s.ports.any fun p => p.state == .active && p.peerAligned then .next (askLinkMark s)
      else .next (((s.mapPins fun p => { p with syncHold := false }).mapTide fun t => { t with coldWait := true }).mapBoot
        fun b => { b with alignTick := s.clk.ticks }) := by
  change execAlign s = _
  rw [execAlign, if_neg (by simp [hr, hp, ht, phAlign])]

theorem recordFault_boot (d inst bit : Nat) (a : FaultAt) (l : List Nat) (s : State) :
    (recordFault d inst bit a l s).boot = s.boot := by
  rw [(reports_recordFault d inst bit a l s).rest]

/-- 50 ms have passed without a mark or an answer (R88). -/
def alignFails (s : State) : State := recordFault dTide 0 1 {} [] (advanceTicks (s.boot.alignTick + 5000000) s)

theorem alignTimeout_fails {s : State} (hr : s.boot.inReset = false) (ht : s.tide.aligned = false)
    (hw : s.tide.coldWait = true ∨ s.boot.alignByLink = true) :
    exec .alignTimeout s =
      if s.boot.alignByLink then .next (askLinkMark (alignFails s))
      else .next ((alignFails s).mapBoot fun b => { b with alignTick := (alignFails s).clk.ticks }) := by
  have hwaits : (s.tide.coldWait || s.boot.alignByLink) = true := Bool.or_eq_true_iff.mpr hw
  change execAlignTimeout s = _
  rw [execAlignTimeout, hr, ht, hwaits, if_neg (by decide)]
  simp only [alignFails, recordFault_boot, advanceTicks_boot]

/-! ## HBM_TRAIN (R90, R91) -/

/-- The bin that the coming attempt trains at: the last attempt's step down, or the first one, the lower of fuse and cap. -/
def attemptBin (s : State) : Nat := s.boot.trialBin.getD (min s.fuses.binRating s.boot.cfg.binCap)

/-- The stacks of an attempt that failed. -/
def failedStacks (l : List Nat) : List Nat := (List.range 8).filter fun st => l.contains st

theorem hbmTrain_attempts {s : State} (hr : s.boot.inReset = false) (hp : s.boot.phase = 0x08) (hb : s.boot.bin = 0)
    (l p : List Nat) :
    exec (.hbmTrain l p) s =
      if (failedStacks l).isEmpty then .next (s.mapBoot fun b => { b with bin := attemptBin s })
      else if attemptBin s > 0x50 then .next (s.mapBoot fun b => { b with trialBin := some (attemptBin s - 10) })
      else if stacksInService (retireHbm (failedStacks l) p s) = 0 then .next (bootFails 0x09 (retireHbm (failedStacks l) p s))
      else .next ((retireHbm (failedStacks l) p s).mapBoot fun b => { b with bin := attemptBin s }) := by
  change execHbmTrain l p s = _
  rw [execHbmTrain, if_neg (by simp [hr, hp, hb, phHbm])]
  unfold attemptBin
  cases s.boot.trialBin <;> rfl

theorem failedStacks_ne_nil {l : List Nat} (h : ∃ st < 8, st ∈ l) : (failedStacks l).isEmpty = false := by
  obtain ⟨st, hst, hl⟩ := h
  have hmem : st ∈ failedStacks l := List.mem_filter.mpr ⟨List.mem_range.mpr hst, by simpa using hl⟩
  exact Bool.eq_false_iff.mpr fun he => List.ne_nil_of_mem hmem (List.isEmpty_iff.mp he)

theorem hbmZero_zeroes {s : State} (hr : s.boot.inReset = false) (hp : s.boot.phase = 0x08) (hb : s.boot.bin ≠ 0) :
    exec .hbmZero s = .next
      ((s.mapMems fun m => { m with hbm := [], hbmPoison := [], stackFail := [] }).mapBoot fun b => { b with phaseDone := true }) := by
  change execHbmZero s = _
  rw [execHbmZero, if_neg (by simp [hr, hp, hb, phHbm])]

/-! ## READY (R92, R93, R373, R414) -/

theorem avsDueFrom_pins (n : Nat) (s : State) : (avsDueFrom n s).pins = s.pins := by
  induction n generalizing s with
  | zero => rfl
  | succ n ih =>
    rw [avsDueFrom]
    split
    · rfl
    · split
      · exact ih _
      · rfl

theorem raiseFloor_pins (s : State) : (raiseFloor s).pins = s.pins := by
  have hdue : (avsDue s).pins = s.pins := avsDueFrom_pins 6 s
  rw [raiseFloor]
  split
  · rfl
  · simp only [seekVcore]
    split
    · exact hdue
    · split <;> exact hdue

theorem isleStateEvent_pins (k : Nat) (st : Status) (code tide : Nat) (s : State) :
    (isleStateEvent k st code tide s).pins = s.pins := by
  rw [(posts_isleStateEvent k st code tide s).rest]

theorem putKey_pins (u : KeyUse) (b : Bytes) (s : State) : (putKey u b s).pins = s.pins := by
  rw [putKey]
  split <;> rfl

theorem drawEntropy_pins (n : Nat) (s : State) : (drawEntropy n s).2.pins = s.pins := by
  simp only [drawEntropy, fillBuffer, State.mapEnt_pins]

theorem addEpoch_pins {k key : Nat} {s t : State} (h : addEpoch k key s = some t) : t.pins = s.pins := by
  rw [addEpoch] at h
  split at h
  · cases h
  · cases h
    exact putKey_pins _ _ s

theorem drawKeys_pins (k : Nat) (s : State) : (drawKeys k s).pins = s.pins := by
  rw [drawKeys]
  split
  · rfl
  · dsimp only
    split
    · exact drawEntropy_pins 32 s
    next t h =>
      rw [putKey_pins, drawEntropy_pins, addEpoch_pins h, drawEntropy_pins]

theorem entAsk_pins (n : Nat) (req : EntReq) (s : State) : (entAsk n req s).2.pins = s.pins := by
  unfold entAsk
  split
  · rfl
  · split
    · rfl
    · split <;> rfl
  · rfl

theorem isle0Keys_pins (s : State) : (isle0Keys s).pins = s.pins := by
  have hask := entAsk_pins 48 (.isle0Keys 48) s
  rw [isle0Keys]
  split
  · rfl
  · split
    next t h => rw [drawKeys_pins, ← hask, h]
    next h => rw [← hask, h]

/-- The state that the READY event is posted from. -/
def reachesReady (s : State) : State :=
  isle0Keys (((((enterPhase 0x09 s).mapPins fun p => { p with readyLow := !(anyFatal s || s.halt.isSome) }).mapEnt fun e =>
    { e with restarts := 0 }).mapIsle 0 fun r => { r with state := .enabled, target := .enabled }))

theorem reachesReady_cayPrsnt (s : State) : (reachesReady s).pins.cayPrsnt = s.pins.cayPrsnt := by
  rw [reachesReady, isle0Keys_pins]
  rfl

/-- READY: cartridges that are seated begin their bring-up (R93). -/
theorem ready_reaches {s u : State} (hr : s.boot.inReset = false) (hp : s.boot.phase = 0x08) (hd : s.boot.phaseDone = true)
    (hu : u = raiseFloor (isleStateEvent 0 .sOk 2 (tideNow (reachesReady s)) (reachesReady s))) :
    exec .ready s = .next ((List.range 2).foldl (fun s i => if s.pins.cayPrsnt.getD i true then s else startBringup i s) u) := by
  change execReady s = _
  rw [execReady, if_neg (by simp [hr, hp, hd, phHbm]), hu]
  rfl

/-- With both slots empty no bring-up begins. -/
theorem bringups_none {s : State} (h : s.pins.cayPrsnt = [true, true]) :
    (List.range 2).foldl (fun s i => if s.pins.cayPrsnt.getD i true then s else startBringup i s) s = s := by
  simp [List.range_succ, h]

/-! ## The obligation -/

/-- Settles O27, from what each phase does. -/
theorem startUpReachesReady : Obligations.StartUpReachesReady := by
  unfold Obligations.StartUpReachesReady
  intro s hr
  refine ⟨?fwStart, fun r hp h => memTest_cpFails hr hp h, ?memTest, fun ports hp ha => portTrain_trains hr hp ha ports, ?align,
    ?coldWait, ?byLink, ?trains, ?retries, fun hp hb => hbmZero_zeroes hr hp hb, ?ready⟩
  case fwStart =>
    intro hp ha hl ht hs cfg
    obtain ⟨hboot, hfw, harch, hfuncs, hisles, hmems⟩ := fwServes_frame cfg s
    refine ⟨_, fwStart_starts hr hp ha hl ht hs cfg, ?_⟩
    simp only [enterPhase, State.mapBoot_boot, State.mapBoot_fw, State.mapBoot_arch, State.mapBoot_ent, State.mapBoot_funcs,
      State.mapBoot_isles, State.mapBoot_mems, hboot, hfw, harch, hfuncs, hisles, hmems]
    exact ⟨trivial, rfl, rfl, rfl, rfl, rfl, rfl, rfl, fwServes_state cfg s, fwServes_drbg cfg s, fwServes_buffer cfg, rfl, rfl, rfl⟩
  case memTest =>
    intro r u hp h hu
    rw [memTest_tested hr hp h hu]
    refine ⟨fun hall => if_pos ?_, fun c hc h0 => if_neg fun hall => ?_⟩
    · exact List.all_eq_true.mpr fun c hc => bne_iff_ne.mpr (hall c (List.mem_range.mp hc))
    · exact bne_iff_ne.mp (List.all_eq_true.mp hall c (List.mem_range.mpr hc)) h0
  case align =>
    intro hp ht
    rw [align_decides hr hp ht]
    refine ⟨fun ha => if_pos (by simp [ha]), fun ha hany => ?_, fun ha hnone => ?_⟩
    · rw [if_neg (by simp [ha]), if_pos hany]
    · rw [if_neg (by simp [ha]), if_neg (by simp only [hnone, Bool.false_eq_true, not_false_iff])]
  case coldWait =>
    intro u hu ht hw hlink
    rw [alignTimeout_fails hr ht (.inl hw), if_neg (by simp [hlink]), alignFails, ← hu]
  case byLink =>
    intro u hu ht hlink
    rw [alignTimeout_fails hr ht (.inr hlink), if_pos hlink, alignFails, ← hu]
  case trains =>
    intro bin hp hb hbin
    have hbin : bin = attemptBin s := by rw [hbin, attemptBin]; cases s.boot.trialBin <;> rfl
    rw [hbmTrain_attempts hr hp hb, if_pos (by simp [failedStacks]), hbin]
  case retries =>
    intro bin l p hp hb hbin hfail
    have hbin : bin = attemptBin s := by rw [hbin, attemptBin]; cases s.boot.trialBin <;> rfl
    rw [hbmTrain_attempts hr hp hb, if_neg (by simp [failedStacks_ne_nil hfail]), ← hbin]
    refine ⟨fun hhigh => if_pos hhigh, fun u hlow hu => ?_⟩
    obtain rfl : u = retireHbm (failedStacks l) p s := hu
    rw [if_neg (by omega)]
    split <;> rfl
  case ready =>
    intro u hp hd hpins hu
    obtain rfl : u = reachesReady s := hu
    rw [ready_reaches hr hp hd rfl, bringups_none]
    rw [raiseFloor_pins, isleStateEvent_pins, reachesReady_cayPrsnt, hpins]

end Sys2Proof.Machine
end

section
/-! What memories read after a write and after a clear, and that canonical memories with the same contents are equal (O4). -/

namespace Sys2Proof.Machine

/-! ## Reads -/

theorem Memory.read_below {lo a : Nat} {m : List Host.Cell} (w : Memory.wfFrom lo m = true) (h : a < lo) : Memory.read m a = 0 := by
  induction m generalizing lo with
  | nil => rfl
  | cons c l ih =>
    obtain ⟨k, v⟩ := c
    simp only [Memory.wfFrom, Bool.and_eq_true, decide_eq_true_eq] at w
    obtain ⟨⟨hk, -⟩, hl⟩ := w
    rw [Memory.read, if_neg (by omega), ih hl (by omega)]

/-- In canonical form the first entry is what is read at its address, and it is not 0. -/
theorem Memory.read_head_ne_zero {lo k : Nat} {v : Byte} {l : List Host.Cell} (w : Memory.wfFrom lo ((k, v) :: l) = true) :
    Memory.read ((k, v) :: l) k ≠ 0 := by
  simp only [Memory.wfFrom, Bool.and_eq_true, bne_iff_ne] at w
  rw [Memory.read, if_pos rfl]
  exact w.1.2

theorem Memory.read_write_from {lo : Nat} {m : List Host.Cell} (w : Memory.wfFrom lo m = true) (a b : Nat) (v : Byte) :
    Memory.read (Memory.write m a v) b = if b = a then v else Memory.read m b := by
  induction m generalizing lo with
  | nil =>
    rw [Memory.write]
    by_cases hv : v = 0
    · simp [hv, Memory.read]
    · rw [if_neg hv]
      by_cases hb : b = a
      · rw [if_pos hb, Memory.read, if_pos hb.symm]
      · rw [if_neg hb]
        exact if_neg (Ne.symm hb)
  | cons c l ih =>
    obtain ⟨k, x⟩ := c
    simp only [Memory.wfFrom, Bool.and_eq_true, decide_eq_true_eq] at w
    obtain ⟨⟨-, -⟩, hl⟩ := w
    have hzero : ∀ {c}, c ≤ k → Memory.read l c = 0 := fun hc => Memory.read_below hl (by omega)
    rw [Memory.write]
    rcases Nat.lt_trichotomy a k with hak | rfl | hak
    · rw [if_pos hak]
      by_cases hv : v = 0
      · rw [if_pos hv]
        by_cases hb : b = a
        · rw [if_pos hb, Memory.read, if_neg (by omega), hzero (by omega), hv]
        · rw [if_neg hb]
      · rw [if_neg hv, Memory.read]
        simp only [eq_comm]
    · rw [if_neg (by omega), if_pos rfl]
      by_cases hb : b = a
      · subst hb
        by_cases hv : v = 0
        · rw [if_pos hv, if_pos rfl, hzero (Nat.le_refl _), hv]
        · rw [if_neg hv, if_pos rfl, Memory.read, if_pos rfl]
      · by_cases hv : v = 0
        · rw [if_pos hv, if_neg hb, Memory.read, if_neg (Ne.symm hb)]
        · rw [if_neg hv, if_neg hb, Memory.read, Memory.read, if_neg (Ne.symm hb), if_neg (Ne.symm hb)]
    · rw [if_neg (by omega), if_neg (by omega), Memory.read, Memory.read, ih hl]
      by_cases hb : k = b
      · rw [if_pos hb, if_pos hb, if_neg (by omega)]
      · rw [if_neg hb, if_neg hb]

theorem Memory.read_write {m : List Host.Cell} (w : Memory.wf m = true) (a b : Nat) (v : Byte) :
    Memory.read (Memory.write m a v) b = if b = a then v else Memory.read m b := Memory.read_write_from w a b v

theorem Memory.read_writeN_outside {m : List Host.Cell} (w : Memory.wf m = true) {a b : Nat} {bs : Bytes}
    (h : b < a ∨ a + bs.length ≤ b) : Memory.read (Memory.writeN m a bs) b = Memory.read m b := by
  induction bs generalizing m a with
  | nil => rfl
  | cons v bs ih =>
    rw [List.length_cons] at h
    rw [Memory.writeN, ih (Memory.wf_write a v w) (by omega), Memory.read_write w, if_neg (by omega)]

theorem Memory.read_writeN_inside {m : List Host.Cell} (w : Memory.wf m = true) (a : Nat) {bs : Bytes} {i : Nat}
    (h : i < bs.length) : Memory.read (Memory.writeN m a bs) (a + i) = bs[i] := by
  induction bs generalizing m a i with
  | nil => exact absurd h (Nat.not_lt_zero i)
  | cons v bs ih =>
    rw [Memory.writeN]
    cases i with
    | zero => 
      rw [Memory.read_writeN_outside (Memory.wf_write a v w) (by omega), Memory.read_write w, if_pos (Nat.add_zero a)]
      rfl
    | succ i =>
      rw [show a + (i + 1) = a + 1 + i by omega, ih (Memory.wf_write a v w) (a + 1) (Nat.lt_of_succ_lt_succ h)]
      rfl

theorem Memory.readN_writeN {m : List Host.Cell} (w : Memory.wf m = true) (a : Nat) (bs : Bytes) :
    Memory.readN (Memory.writeN m a bs) a bs.length = bs := by
  refine List.ext_getElem (by simp [Memory.readN]) fun i _ h => ?_
  simp only [Memory.readN, List.getElem_map, List.getElem_range, Memory.read_writeN_inside w a h]

/-- What a choice of addresses leaves is read, the rest reads 0. -/
theorem Memory.read_filter (m : List Host.Cell) (p : Nat → Bool) (b : Nat) :
    Memory.read (m.filter fun c => p c.1) b = if p b then Memory.read m b else 0 := by
  induction m with
  | nil => simp [Memory.read]
  | cons c l ih =>
    obtain ⟨k, v⟩ := c
    rw [List.filter_cons]
    by_cases hk : k = b
    · subst hk
      by_cases hp : p k = true
      · simp [hp, Memory.read]
      · simp only [hp, Bool.false_eq_true, if_false, ih]
    · by_cases hp : p k = true
      · rw [if_pos hp, Memory.read, if_neg hk, ih, Memory.read, if_neg hk]
      · rw [if_neg hp, ih, Memory.read, if_neg hk]

theorem Memory.read_clear (m : List Host.Cell) (a n b : Nat) :
    Memory.read (Memory.clear m a n) b = if b < a ∨ a + n ≤ b then Memory.read m b else 0 := by
  have h := Memory.read_filter m (fun x => x < a || a + n ≤ x) b
  simpa [Memory.clear] using h

/-! ## Equal contents are equal data -/

theorem Memory.ext_from {lo hi : Nat} {m n : List Host.Cell} (wm : Memory.wfFrom lo m = true) (wn : Memory.wfFrom hi n = true)
    (h : ∀ a, Memory.read m a = Memory.read n a) : m = n := by
  induction m generalizing n lo hi with
  | nil =>
    cases n with
    | nil => rfl
    | cons c r => exact absurd (h c.1).symm (Memory.read_head_ne_zero wn)
  | cons c l ih =>
    obtain ⟨k, v⟩ := c
    cases n with
    | nil => exact absurd (h k) (Memory.read_head_ne_zero wm)
    | cons d r =>
      obtain ⟨j, u⟩ := d
      have hm := Memory.read_head_ne_zero wm
      have hn := Memory.read_head_ne_zero wn
      simp only [Memory.wfFrom, Bool.and_eq_true, decide_eq_true_eq] at wm wn
      obtain ⟨⟨-, -⟩, hl⟩ := wm
      obtain ⟨⟨-, -⟩, hr⟩ := wn
      obtain rfl : k = j := by
        rcases Nat.lt_trichotomy k j with hkj | rfl | hkj
        · rw [h k, Memory.read, if_neg (by omega), Memory.read_below hr (by omega)] at hm
          exact absurd rfl hm
        · rfl
        · rw [← h j, Memory.read, if_neg (by omega), Memory.read_below hl (by omega)] at hn
          exact absurd rfl hn
      have hv : v = u := by simpa [Memory.read] using h k
      have htail : ∀ a, Memory.read l a = Memory.read r a := by
        intro a
        by_cases ha : k = a
        · rw [← ha, Memory.read_below hl (by omega), Memory.read_below hr (by omega)]
        · simpa [Memory.read, ha] using h a
      rw [hv, ih hl hr htail]

theorem Memory.ext {m n : List Host.Cell} (wm : Memory.wf m = true) (wn : Memory.wf n = true)
    (h : ∀ a, Memory.read m a = Memory.read n a) : m = n := Memory.ext_from wm wn h

theorem Memory.write_of_read {m : List Host.Cell} (w : Memory.wf m = true) {a : Nat} {v : Byte} (h : Memory.read m a = v) :
    Memory.write m a v = m := by
  refine Memory.ext (Memory.wf_write a v w) w fun b => ?_
  rw [Memory.read_write w]
  split
  next hb => rw [hb, h]
  · rfl

theorem Memory.write_comm {m : List Host.Cell} (w : Memory.wf m = true) {a b : Nat} (h : a ≠ b) (v u : Byte) :
    Memory.write (Memory.write m a v) b u = Memory.write (Memory.write m b u) a v := by
  have wa := Memory.wf_write a v w
  have wb := Memory.wf_write b u w
  refine Memory.ext (Memory.wf_write b u wa) (Memory.wf_write a v wb) fun x => ?_
  rw [Memory.read_write wa, Memory.read_write w, Memory.read_write wb, Memory.read_write w]
  by_cases hx : x = a
  · rw [if_pos hx, if_pos hx, if_neg (hx ▸ h)]
  · rw [if_neg hx, if_neg hx]

theorem Memory.write_write {m : List Host.Cell} (w : Memory.wf m = true) (a : Nat) (v u : Byte) :
    Memory.write (Memory.write m a v) a u = Memory.write m a u := by
  have wa := Memory.wf_write a v w
  refine Memory.ext (Memory.wf_write a u wa) (Memory.wf_write a u w) fun x => ?_
  rw [Memory.read_write wa, Memory.read_write w, Memory.read_write w]
  split <;> rfl

/-! ## The obligation -/

/-- Settles O4: reads by what each operation leaves at an address, equalities by the extensionality of canonical memories. -/
theorem memoryReadsBack : Obligations.MemoryReadsBack := by
  unfold Obligations.MemoryReadsBack
  refine ⟨fun m w => ⟨fun a v => ?same, fun a b v hb => ?other, Memory.readN_writeN w, fun a b bs => Memory.read_writeN_outside w,
    fun a n b hlo hhi => ?inside, fun a n b hout => ?outside⟩,
    fun m w => ⟨fun a v => Memory.write_of_read w, fun a b v u h => Memory.write_comm w h v u, Memory.write_write w,
      fun n wn => Memory.ext w wn⟩⟩
  case same => rw [Memory.read_write w, if_pos rfl]
  case other => rw [Memory.read_write w, if_neg hb]
  case inside => rw [Memory.read_clear, if_neg (by omega)]
  case outside => rw [Memory.read_clear, if_pos hout]

end Sys2Proof.Machine
end

section
/-! Program addresses (R128 to R135): what a translation can reach (O10), and the striped view over the segment view (O54). -/

namespace Sys2Proof.Machine

/-! ## What an address reaches -/

/-- What a translation can answer: a place in an operand buffer of the core, or in storage that the isle's view maps. -/
def AtHome (s : State) (k h : Nat) (core : Option Nat) : Phys → Prop
  | .ob x => ∃ c o, core = some c ∧ o < 2 ^ 20 ∧ x = c * 2 ^ 20 + o
  | .lagoon x => ∃ l u o, l ∈ (s.isle k).slotMap.getD h [] ∧ u ∈ l ∧ o < 2 ^ 19 ∧ x = u / 32 * 2 ^ 24 + u % 32 * 2 ^ 19 + o
  | .shelf x => ∃ e seg o, e ∈ (s.isle k).extents.getD h [] ∧ seg < 64 ∧ o < 2 ^ 20 ∧ x = seg * 2 ^ 28 + e * 2 ^ 20 + o
  | .hbm x => ∃ f o, f ∈ (s.isle k).frames.getD h [] ∧ o < 2 ^ 21 ∧ x = f * 2 ^ 21 + o

/-- A list that holds something at an index of a list of lists is one of them. -/
theorem mem_of_getD_getElem? {α : Type} {l : List (List α)} {i j : Nat} {x : α} (h : (l.getD i [])[j]? = some x) :
    l.getD i [] ∈ l ∧ x ∈ l.getD i [] := by
  refine ⟨?_, List.mem_of_getElem? h⟩
  by_cases hi : i < l.length
  · rw [List.getD_eq_getElem?_getD, List.getElem?_eq_getElem hi, Option.getD_some]
    exact List.getElem_mem hi
  · have hnil : l.getD i [] = [] := by
      rw [List.getD_eq_getElem?_getD, List.getElem?_eq_none (Nat.le_of_not_lt hi), Option.getD_none]
    rw [hnil, List.getElem?_nil] at h
    cases h

theorem translate_atHome {s : State} {k h a : Nat} {core : Option Nat} {p : Phys}
    (ht : Machine.translate s k h core a = some p) : AtHome s k h core p := by
  have hb : a % 2 ^ 44 < 2 ^ 44 := Nat.mod_lt _ (by decide)
  unfold Machine.translate at ht
  dsimp only at ht
  split at ht
  · cases ht
  · split at ht
    case h_1 =>
      split at ht
      · cases ht
      · split at ht
        · cases ht
        next hlow =>
          cases ht
          exact ⟨_, _, rfl, by omega, rfl⟩
    case h_2 =>
      split at ht
      · cases ht
      · split at ht
        · cases ht
        next u hu =>
          cases ht
          obtain ⟨hl, hmem⟩ := mem_of_getD_getElem? hu
          exact ⟨_, u, _, hl, hmem, Nat.mod_lt _ (by decide), rfl⟩
    case h_3 =>
      split at ht
      · cases ht
      · split at ht
        · cases ht
        next e he =>
          cases ht
          exact ⟨e, _, _, List.mem_of_getElem? he, by omega, Nat.mod_lt _ (by decide), rfl⟩
    case h_4 =>
      split at ht
      · cases ht
      · split at ht
        · cases ht
        next e he =>
          cases ht
          exact ⟨e, a % 2 ^ 44 % 2 ^ 26 / 4096 % 64, a % 2 ^ 44 % 2 ^ 26 / 4096 / 64 * 4096 + a % 2 ^ 44 % 2 ^ 26 % 4096,
            List.mem_of_getElem? he, Nat.mod_lt _ (by decide), by omega, Nat.add_assoc _ _ _⟩
    case h_5 =>
      split at ht
      · cases ht
      · split at ht
        · cases ht
        next f hf =>
          cases ht
          exact ⟨f, _, List.mem_of_getElem? hf, Nat.mod_lt _ (by decide), rfl⟩
    case h_6 => cases ht

/-- Settles O10: each kind of place is at home. -/
theorem addressesStayHome : Obligations.AddressesStayHome := by
  unfold Obligations.AddressesStayHome
  intro k h a x core s
  exact ⟨translate_atHome, translate_atHome, translate_atHome, translate_atHome⟩

/-! ## The two shelf views -/

/-- The segment view (R134): segment, isle extent, and the offset in the segment's slice of it. -/
theorem translate_segmentView {s : State} {k h seg i o : Nat} {core : Option Nat} (hseg : seg < 64) (hi : i < 256) (ho : o < 2 ^ 20) :
    Machine.translate s k h core (2 * 2 ^ 44 + seg * 2 ^ 38 + i * 2 ^ 20 + o) =
      ((s.isle k).extents.getD h [])[i]?.map fun e => .shelf (seg * 2 ^ 28 + e * 2 ^ 20 + o) := by
  obtain ⟨b, hb⟩ : ∃ b, b = seg * 2 ^ 38 + i * 2 ^ 20 + o := ⟨_, rfl⟩
  have hspace : spaceOf (2 * 2 ^ 44 + b) = 2 := by unfold spaceOf bitsOf; omega
  have hlow : (2 * 2 ^ 44 + b) % 2 ^ 44 = b := by omega
  have hzero : bitsOf b 28 10 = 0 := by unfold bitsOf; omega
  have hext : bitsOf b 20 8 = i := by unfold bitsOf; omega
  have hsegment : b / 2 ^ 38 = seg := by omega
  have hoff : b % 2 ^ 20 = o := by omega
  rw [show 2 * 2 ^ 44 + seg * 2 ^ 38 + i * 2 ^ 20 + o = 2 * 2 ^ 44 + b by omega]
  unfold Machine.translate
  rw [if_neg (by omega)]
  simp only [hspace, hlow, hzero, hext, hsegment, hoff, ne_eq, not_true_eq_false, if_false]
  cases ((s.isle k).extents.getD h [])[i]? <;> rfl

/-- The striped view (R135): 4 KiB chunk after chunk in the next of the 64 segments. -/
theorem translate_stripedView {s : State} {k h x : Nat} {core : Option Nat} (hx : x < 2 ^ 34) :
    Machine.translate s k h core (3 * 2 ^ 44 + x) =
      ((s.isle k).extents.getD h [])[x / 2 ^ 26]?.map fun e =>
        .shelf (x % 2 ^ 26 / 2 ^ 12 % 64 * 2 ^ 28 + e * 2 ^ 20 + (x % 2 ^ 26 / 2 ^ 12 / 64 * 4096 + x % 4096)) := by
  have hspace : spaceOf (3 * 2 ^ 44 + x) = 3 := by unfold spaceOf bitsOf; omega
  have hlow : (3 * 2 ^ 44 + x) % 2 ^ 44 = x := by omega
  have hhigh : x / 2 ^ 36 = 0 := by omega
  have hoff : x % 2 ^ 26 % 4096 = x % 4096 := by omega
  unfold Machine.translate
  rw [if_neg (by omega)]
  simp only [hspace, hlow, hhigh, hoff, ne_eq, not_true_eq_false, if_false, Nat.add_assoc]
  cases ((s.isle k).extents.getD h [])[x / 2 ^ 26]? <;> rfl

/-- A place of the striped view is the place of the segment view that R135 names. -/
theorem stripedView_eq_segmentView {s : State} {k h x : Nat} {core : Option Nat} (hx : x < 2 ^ 34) :
    Machine.translate s k h core (3 * 2 ^ 44 + x) =
      Machine.translate s k h core (2 * 2 ^ 44 + x % 2 ^ 26 / 2 ^ 12 % 64 * 2 ^ 38 + x / 2 ^ 26 * 2 ^ 20 +
        (x % 2 ^ 26 / 2 ^ 12 / 64 * 4096 + x % 4096)) := by
  rw [translate_stripedView hx, translate_segmentView (by omega) (by omega) (by omega)]

/-- Settles O54: the second place is the first claim's, 4 KiB further on in the same extent. -/
theorem stripedView : Obligations.StripedView := by
  unfold Obligations.StripedView
  rintro k h x y c n core s hx rfl rfl rfl
  have hoff : x % 2 ^ 26 % 4096 = x % 4096 := by omega
  refine ⟨?here, fun hnext => ?further⟩
  case here => rw [stripedView_eq_segmentView hx, hoff]
  case further =>
    have hchunk : (x + 4096) % 2 ^ 26 / 2 ^ 12 = x % 2 ^ 26 / 2 ^ 12 + 1 := by omega
    have hext : (x + 4096) / 2 ^ 26 = x / 2 ^ 26 := by omega
    have hplace : (x + 4096) % 4096 = x % 4096 := by omega
    rw [stripedView_eq_segmentView (by omega), hchunk, hext, hplace, hoff]

end Sys2Proof.Machine
end

section
/-! Counters, the dispatcher's own tasks, completions and conflicts (O51). -/

namespace Sys2Proof.Machine

/-! ## Counters (R239) -/

theorem aGet_aSet_self {α : Type} (k : Nat) (v : α) (l : List (Nat × α)) : aGet (aSet k v l) k = some v := by
  induction l with
  | nil => simp [aSet, aGet]
  | cons p l ih =>
    obtain ⟨j, w⟩ := p
    rw [aSet]
    split
    · simp [aGet]
    · split
      · simp [aGet]
      next hne =>
        have hj : (j == k) = false := beq_eq_false_iff_ne.mpr (Ne.symm hne)
        rw [aGet, List.find?_cons, hj]
        exact ih

/-- The state with a counter moved to a value. -/
def setCtr (k u c v : Nat) (s : State) : State :=
  s.mapIsle k fun r => { r with units := aSet u { unitOf s k u with counters := aSet c v (unitOf s k u).counters } r.units }

theorem ctrOf_setCtr {k : Nat} {s : State} (hk : k < s.isles.length) (u c v : Nat) : ctrOf (setCtr k u c v s) k u c = v := by
  rw [ctrOf, unitOf, setCtr, isle_mapIsle_self _ _ _ hk]
  simp only [aGet_aSet_self, Option.getD_some]

theorem bumpCtr_fits {k u c n : Nat} {s : State} (h : ctrOf s k u c + n ≤ 0xFFFFFFFF) :
    bumpCtr k u c n s = some (setCtr k u c (ctrOf s k u c + n) s) := by
  rw [bumpCtr, if_neg (by omega), setCtr]

theorem bumpCtr_overflows {k u c n : Nat} {s : State} (h : 0xFFFFFFFF < ctrOf s k u c + n) : bumpCtr k u c n s = none := by
  rw [bumpCtr, if_pos h]

theorem taskBump_moves {k u tu c n : Nat} {t : Task} {s v : State} (h : bumpCtr k tu c n s = some v) :
    taskBump k u t tu c n s = pumpRings k v := by
  rw [taskBump, h]

theorem taskBump_faults {k u tu c n : Nat} {t : Task} {s : State} (h : bumpCtr k tu c n s = none) :
    taskBump k u t tu c n s = taskFault k u t 4 s := by
  rw [taskBump, h]

/-! ## SIGNAL and WAIT (R237, R238) -/

theorem signal_adds {k u : Nat} {t : Task} {s v : State} (h : front s k u 11 = some t)
    (hb : bumpCtr k (u / 64 * 64 + bitsOf (fieldB t.desc 16 2) 6 6) (bitsOf (fieldB t.desc 16 2) 0 6) (fieldB t.desc 18 2)
      (popTask k u s) = some v) : exec (.signal k u) s = .next (endTask k u t (pumpRings k v)) := by
  change execSignal k u s = _
  rw [execSignal, h]
  dsimp only
  rw [hb]

theorem signal_overflows {k u : Nat} {t : Task} {s : State} (h : front s k u 11 = some t)
    (hb : bumpCtr k (u / 64 * 64 + bitsOf (fieldB t.desc 16 2) 6 6) (bitsOf (fieldB t.desc 16 2) 0 6) (fieldB t.desc 18 2)
      (popTask k u s) = none) : exec (.signal k u) s = .next (announceDone k (taskFault k u t 4 (popTask k u s))) := by
  change execSignal k u s = _
  rw [execSignal, h]
  dsimp only
  rw [hb]

theorem signal_none {k u : Nat} {s : State} (h : front s k u 11 = none) : exec (.signal k u) s = .next s := by
  change execSignal k u s = _
  rw [execSignal, h]

theorem wait_front {k u : Nat} {t : Task} {s : State} (h : front s k u 12 = some t) :
    exec (.wait k u) s = .next (endTask k u t (popTask k u s)) := by
  change execWait k u s = _
  rw [execWait, h]

theorem wait_none {k u : Nat} {s : State} (h : front s k u 12 = none) : exec (.wait k u) s = .next s := by
  change execWait k u s = _
  rw [execWait, h]

/-- A WAIT at the head of the window does not issue before its counter has the value. -/
theorem readyTask_waits {k u : Nat} {t : Task} {s : State} (hq : (unitOf s k u).queue.head? = some t) (hc : dClass t.desc = 12)
    (hv : ctrOf s k u (bitsOf (fieldB t.desc 16 1) 0 6) < fieldB t.desc 20 4) : readyTask s k u = none := by
  obtain ⟨l, hl⟩ := List.head?_eq_some_iff.mp hq
  unfold readyTask
  dsimp only
  rw [hl]
  split
  · rfl
  · exact if_pos (by simp [hc, hv])

theorem front_none_of_readyTask {k u : Nat} {s : State} (h : readyTask s k u = none) (cls : Nat) : front s k u cls = none := by
  rw [front, h]
  split <;> rfl

/-! ## Completion (R236, R240) -/

theorem taskComplete_over {k u id : Nat} {t : Task} {s : State}
    (h : ((unitOf s k u).running.find? fun t => t.id == id) = some t) (hp : pastReady s = true) (ho : taskOver t = true) (cs : List Nat) :
    exec (.taskComplete k u id cs) s = .next (endTask k u t
      (mapUnit k u (fun x => ({ x with running := x.running.filter (fun t => t.id != id) } : TUnit).refill)
        (noteConflicts k u t cs s))) := by
  change execTaskComplete k u id cs s = _
  rw [execTaskComplete, h]
  exact if_neg (by simp [hp, ho])

theorem taskComplete_unfinished {k u id : Nat} {t : Task} {s : State}
    (h : ((unitOf s k u).running.find? fun t => t.id == id) = some t) (ho : taskOver t = false) (cs : List Nat) :
    exec (.taskComplete k u id cs) s = .next s := by
  change execTaskComplete k u id cs s = _
  rw [execTaskComplete, h]
  exact if_pos (by simp [ho])

theorem taskComplete_none {k u id : Nat} {s : State} (h : ((unitOf s k u).running.find? fun t => t.id == id) = none) (cs : List Nat) :
    exec (.taskComplete k u id cs) s = .next s := by
  change execTaskComplete k u id cs s = _
  rw [execTaskComplete, h]

/-! ## Conflicts (R146) -/

/-- The bank that serves a program address of the unit, if one does. -/
def bankOf (s : State) (k u a : Nat) : Option Nat :=
  (Machine.translate s k (u / 64) (coreOf s k u) a).bind fun p => bankAt s p

/-- One conflict: it counts, and is recorded, where a bank serves its address. -/
def noteConflict (k u : Nat) (t : Task) (s : State) (a : Nat) : State :=
  match bankOf s k u a with
  | none => s
  | some b =>
    (recordFault dCore ((coreOf s k u).getD 0) 3 { isle := k, prog := a, info := b } [k] s).mapIsle k fun r => { r with
      conflicts := sat32 (r.conflicts + 1),
      invs := r.invs.map fun i => if i.prog == t.prog && i.num == t.inv then { i with flags := setBit i.flags 1 } else i }

theorem noteConflicts_arbitrated {k : Nat} {s : State} (h : (s.isle k).strictRel = false) (u : Nat) (t : Task) (cs : List Nat) :
    noteConflicts k u t cs s = s := by
  rw [noteConflicts, if_pos (by simp [h])]

theorem noteConflicts_strict {k : Nat} {s : State} (h : (s.isle k).strictRel = true) (u : Nat) (t : Task) (cs : List Nat) :
    noteConflicts k u t cs s = cs.foldl (noteConflict k u t) s := by
  rw [noteConflicts, if_neg (by simp [h])]
  rfl

/-- Two states that agree on what the bank of an isle's address depends on: its cores and its maps, the units and the archipelago. -/
structure SameBanks (k : Nat) (s t : State) : Prop where
  boot : t.boot = s.boot
  units : t.units = s.units
  pool : t.pool = s.pool
  fuses : t.fuses = s.fuses
  arch : t.arch = s.arch
  grant : (t.isle k).grant = (s.isle k).grant
  slotMap : (t.isle k).slotMap = (s.isle k).slotMap
  extents : (t.isle k).extents = (s.isle k).extents
  frames : (t.isle k).frames = (s.isle k).frames

theorem SameBanks.refl (k : Nat) (s : State) : SameBanks k s s := ⟨rfl, rfl, rfl, rfl, rfl, rfl, rfl, rfl, rfl⟩

theorem SameBanks.trans {k : Nat} {s t u : State} (h : SameBanks k s t) (g : SameBanks k t u) : SameBanks k s u :=
  ⟨g.boot.trans h.boot, g.units.trans h.units, g.pool.trans h.pool, g.fuses.trans h.fuses, g.arch.trans h.arch,
    g.grant.trans h.grant, g.slotMap.trans h.slotMap, g.extents.trans h.extents, g.frames.trans h.frames⟩

theorem SameBanks.bankOf {k : Nat} {s t : State} (h : SameBanks k s t) (u a : Nat) : bankOf t k u a = bankOf s k u a := by
  have hserves : unitServes t 0 = unitServes s 0 := by
    funext c
    rw [unitServes, unitServes, unitState, unitState, h.units, h.fuses]
  have hcores : execCores t k = execCores s k := by
    rw [execCores, execCores, dedicated, dedicated, poolMember, poolMember, h.grant, h.pool, hserves]
  have hhosted : hostedCount t = hostedCount s := by
    simp only [hostedCount, hostedShards, shardHost, members, chipId, h.boot, h.arch]
  have hcore : coreOf t k u = coreOf s k u := by rw [coreOf, coreOf, hcores, hhosted]
  have hplace : Machine.translate t k (u / 64) (coreOf s k u) a = Machine.translate s k (u / 64) (coreOf s k u) a := by
    simp only [Machine.translate, h.slotMap, h.extents, h.frames]
  have hbank : bankAt t = bankAt s := by
    funext p
    cases p <;> simp only [bankAt, shelfBank, h.units]
  rw [Machine.bankOf, Machine.bankOf, hcore, hplace, hbank]

theorem Reports.sameBanks {s t : State} (h : Reports s t) (k : Nat) : SameBanks k s t := by
  have hw := h.work k
  unfold Isle.sameWork at hw
  exact ⟨by rw [h.rest], by rw [h.rest], by rw [h.rest], by rw [h.rest], by rw [h.rest],
    by rw [hw], by rw [hw], by rw [hw], by rw [hw]⟩

theorem sameBanks_mapIsle {k : Nat} {s : State} (hk : k < s.isles.length) {f : Isle → Isle} (hg : ∀ r, (f r).grant = r.grant)
    (hm : ∀ r, (f r).slotMap = r.slotMap) (he : ∀ r, (f r).extents = r.extents) (hf : ∀ r, (f r).frames = r.frames) :
    SameBanks k s (s.mapIsle k f) := by
  have hisle : (s.mapIsle k f).isle k = f (s.isle k) := isle_mapIsle_self s k f hk
  exact ⟨rfl, rfl, rfl, rfl, rfl, hisle ▸ hg _, hisle ▸ hm _, hisle ▸ he _, hisle ▸ hf _⟩

theorem noteConflict_nowhere {k u a : Nat} {s : State} (h : bankOf s k u a = none) (t : Task) : noteConflict k u t s a = s := by
  rw [noteConflict, h]

theorem noteConflict_isles (k u : Nat) (t : Task) (s : State) (a : Nat) :
    (noteConflict k u t s a).isles.length = s.isles.length := by
  unfold noteConflict
  split
  · rfl
  · rw [State.mapIsle_isles, setAt_length, (reports_recordFault _ _ _ _ _ _).isles]

theorem noteConflict_sameBanks {k : Nat} {s : State} (hk : k < s.isles.length) (u : Nat) (t : Task) (a : Nat) :
    SameBanks k s (noteConflict k u t s a) := by
  unfold noteConflict
  split
  · exact SameBanks.refl k s
  next b _ =>
    have hr := reports_recordFault dCore ((coreOf s k u).getD 0) 3 { isle := k, prog := a, info := b } [k] s
    exact (hr.sameBanks k).trans (sameBanks_mapIsle (hr.isles ▸ hk) (fun _ => rfl) (fun _ => rfl) (fun _ => rfl) fun _ => rfl)

theorem noteConflict_counts {k u a b : Nat} {s : State} (hk : k < s.isles.length) (h : bankOf s k u a = some b) (t : Task) :
    ((noteConflict k u t s a).isle k).conflicts = sat32 ((s.isle k).conflicts + 1) := by
  have hr := reports_recordFault dCore ((coreOf s k u).getD 0) 3 { isle := k, prog := a, info := b } [k] s
  have hw := hr.work k
  unfold Isle.sameWork at hw
  unfold noteConflict
  rw [h]
  dsimp only
  rw [isle_mapIsle_self _ _ _ (hr.isles ▸ hk)]
  dsimp only
  rw [hw]

/-- The count grows by one for each address that a bank serves, up to its 32 bits. -/
theorem noteConflicts_count {k : Nat} {s : State} (hk : k < s.isles.length) (hc : (s.isle k).conflicts ≤ 0xFFFFFFFF) (u : Nat)
    (t : Task) (cs : List Nat) : ((cs.foldl (noteConflict k u t) s).isle k).conflicts =
      min ((s.isle k).conflicts + (cs.filter fun a => (bankOf s k u a).isSome).length) 0xFFFFFFFF := by
  induction cs generalizing s with
  | nil => exact (Nat.min_eq_left hc).symm
  | cons a cs ih =>
    rw [List.foldl_cons, List.filter_cons]
    cases hb : bankOf s k u a with
    | none =>
      rw [noteConflict_nowhere hb, if_neg (by simp)]
      exact ih hk hc
    | some b =>
      have hcount := noteConflict_counts hk hb t
      rw [sat32] at hcount
      rw [ih (noteConflict_isles k u t s a ▸ hk) (by omega), hcount, if_pos (by simp), List.length_cons]
      simp only [(noteConflict_sameBanks hk u t a).bankOf]
      omega

/-! ## The obligation -/

/-- Settles O51, from what each of the rows and each counter update does. -/
theorem taskCounters : Obligations.TaskCounters := by
  unfold Obligations.TaskCounters
  intro k u t s done hdone
  obtain rfl : done = endTask k u t := hdone
  refine ⟨?signal, wait_front, signal_none, ?holds, fun id cs h hp ho => taskComplete_over h hp ho cs,
    fun id cs h ho => taskComplete_unfinished h ho cs, fun id cs h => taskComplete_none h cs, ?fits, ?overflows,
    fun cs h => noteConflicts_arbitrated h u t cs, ?strict⟩
  case signal =>
    rintro f c n h rfl rfl rfl
    exact ⟨fun v => signal_adds h, signal_overflows h⟩
  case holds =>
    intro hq hc hv
    exact wait_none (front_none_of_readyTask (readyTask_waits hq hc hv) 12)
  case fits =>
    intro tu c n h
    have hb := bumpCtr_fits h
    exact ⟨_, hb, taskBump_moves hb, fun hk => ctrOf_setCtr hk tu c _⟩
  case overflows =>
    intro tu c n h
    have hb := bumpCtr_overflows h
    exact ⟨hb, taskBump_faults hb⟩
  case strict =>
    intro cs h hk hc
    rw [noteConflicts_strict h, noteConflicts_count hk hc]
    rfl

end Sys2Proof.Machine
end

section
/-! Queries that clear what they report, and the fault query and clear (O14). -/

namespace Sys2Proof.Machine

/-! ## Commands that are answered as they are accepted -/

/-- A command that executes when it is accepted: it waits for no boundary and asks no peer. -/
structure AtOnce (spec : CmdSpec) : Prop where
  row : cmdTable spec.opcode = some spec
  accepted : ∀ fn c s, spec.accepted fn c s = s
  boundary : spec.boundary = false
  peer : ∀ s fn p, spec.peer s fn p = false

/-- Such a command's answer is the next state, where its effect leaves the commands that are outstanding. -/
theorem AtOnce.answers {spec : CmdSpec} (ho : AtOnce spec) {c : MbxArg} {s : State} {st : Status} {w : Words} {eff : State → State}
    (h : Accepted spec c s)
    (hr : spec.run c.fn (queued spec c s) (tideNow s) (working spec c s) = answered spec c st w eff s)
    (hq : ∀ fn, ((eff (working spec c s)).func fn).cmds = ((working spec c s).func fn).cmds) :
    (.next (mbxRow cmdTable spec c s) : Host.Outcome State Fault Refusal) = .next (answered spec c st w eff s) :=
  congrArg Host.Outcome.next (mbxRow_answers h ho.row (ho.accepted _ _ _) ho.boundary (ho.peer _ _ _) hr
    fun fn e he => quiet_working h fn e (hq fn ▸ he))

theorem memQuery_atOnce : AtOnce specMemQuery := ⟨rfl, fun _ _ _ => rfl, rfl, fun _ _ _ => rfl⟩
theorem t1Query_atOnce : AtOnce specT1Query := ⟨rfl, fun _ _ _ => rfl, rfl, fun _ _ _ => rfl⟩
theorem portQuery_atOnce : AtOnce specPortQuery := ⟨rfl, fun _ _ _ => rfl, rfl, fun _ _ _ => rfl⟩
theorem winQuery_atOnce : AtOnce specWinQuery := ⟨rfl, fun _ _ _ => rfl, rfl, fun _ _ _ => rfl⟩
theorem detQuery_atOnce : AtOnce specDetQuery := ⟨rfl, fun _ _ _ => rfl, rfl, fun _ _ _ => rfl⟩
theorem sealQuery_atOnce : AtOnce specSealQuery := ⟨rfl, fun _ _ _ => rfl, rfl, fun _ _ _ => rfl⟩
theorem seqQuery_atOnce : AtOnce specSeqQuery := ⟨rfl, fun _ _ _ => rfl, rfl, fun _ _ _ => rfl⟩
theorem pressureQuery_atOnce : AtOnce specPressureQuery := ⟨rfl, fun _ _ _ => rfl, rfl, fun _ _ _ => rfl⟩
theorem faultQuery_atOnce : AtOnce specFaultQuery := ⟨rfl, fun _ _ _ => rfl, rfl, fun _ _ _ => rfl⟩
theorem faultClear_atOnce : AtOnce specFaultClear := ⟨rfl, fun _ _ _ => rfl, rfl, fun _ _ _ => rfl⟩

/-! ## What a query's execution does, by case -/

section
variable {fn tide : Nat} {c : Cmd} {s : State}

theorem runWinQuery_open {w : Window} (h : aGet (s.isle fn).windows (winIndex c) = some w) :
    runWinQuery fn c tide s = finishAt tide fn c.seq .sOk 0
      { w0 := 1 + w.rights * 2 + w.peerIsle * 256 + w.mask * 65536, w1 := w.len, w2 := w.refusals, w3 := w.bytes / 1024 }
      (s.mapIsle fn fun r => { r with windows := aMod (winIndex c) (fun w => { w with refusals := 0, bytes := 0 }) r.windows }) := by
  rw [runWinQuery, h]

theorem runWinQuery_closed (h : aGet (s.isle fn).windows (winIndex c) = none) :
    runWinQuery fn c tide s = finishAt tide fn c.seq .sOk 0 {} s := by
  rw [runWinQuery, h]

/-- In replay the query answers the run's index and horizon; the two free values that it draws go unused. -/
theorem runDetQuery_replay {m : ReplayMode} (h : (s.isle fn).replay = some m) :
    runDetQuery fn c tide s = finishAt tide fn c.seq .sOk 0
      { w0 := b2n (s.isle fn).log.isSome + 2, w1 := m.index, w2 := m.horizon, w3 := (s.isle fn).timingInvalid }
      ((drawNat (drawNat s).2).2.mapIsle fn fun r => { r with timingInvalid := 0 }) := by
  have hr : (s.isle (isleOf fn)).replay = some m := h
  simp only [runDetQuery, hr]
  rfl

theorem runSealQuery_counters (h : fieldB c.payload 0 1 = 0) :
    runSealQuery fn c tide s = finishAt tide fn c.seq .sOk 0
      { w0 := natMask ((sealedOf s fn).psets.map fun p => p.1), w1 := (sealedOf s fn).keys.length, w2 := (sealedOf s fn).jobs,
        w3 := (sealedOf s fn).checks } (mapSealed (isleOf fn) (fun x => { x with jobs := 0, checks := 0 }) s) := by
  rw [runSealQuery, if_pos h]

theorem runSealQuery_key {e : SealKey} (h : fieldB c.payload 0 1 ≠ 0)
    (he : aGet (sealedOf s fn).keys (fieldB c.payload 1 1) = some e) :
    runSealQuery fn c tide s = finishAt tide fn c.seq .sOk 0
      { w0 := e.keyId, w1 := e.kind + e.pset * 256, w2 := e.auto, w3 := ceilDiv e.len 1048576 } s := by
  rw [runSealQuery, if_neg h, he]

theorem runSeqQuery_withheld (h : seqOf s fn (seqHandle c) = none) :
    runSeqQuery fn c tide s = finishAt tide fn c.seq .sOk 0
      { w0 := (s.isle fn).withheld.1, w1 := (s.isle fn).withheld.2.1, w2 := (s.isle fn).withheld.2.2.1,
        w3 := (s.isle fn).withheld.2.2.2 } (s.mapIsle fn fun r => { r with withheld := (0, 0, 0, 0) }) := by
  have hq : seqOf s (isleOf fn) (seqHandle c) = none := h
  rw [runSeqQuery, hq]
  rfl

/-! ## FAULT_QUERY and FAULT_CLEAR (R446 to R448) -/

/-- What FAULT_QUERY answers of a `FaultInst`. -/
def instWords (x : FaultInst) : Words := { w0 := x.word, w1 := x.gen, w2 := x.cap.bit, w3 := lowHalf x.cap.tide }

/-- What a fault command names by domain and index, in the view that it names. -/
def namedInst (s : State) (fn : Nat) (c : Cmd) : FaultInst := instOf (faultView s fn (fView c)) (fDomain c) (fInst c)

theorem runFaultQuery_summary (h : fDomain c = 0xFF) :
    runFaultQuery fn c tide s = finishAt tide fn c.seq .sOk 0
      { w0 := fltSummary (faultView s fn (fView c)), w1 := (faultView s fn (fView c)).seq,
        w2 := lowHalf (fltCore (faultView s fn (fView c))), w3 := highHalf (fltCore (faultView s fn (fView c))) } s := by
  rw [runFaultQuery, if_pos h]

theorem runFaultQuery_words (h : fDomain c ≠ 0xFF) (ha : fieldB c.payload 8 8 = 0) :
    runFaultQuery fn c tide s = finishAt tide fn c.seq .sOk 0 (instWords (namedInst s fn c)) s := by
  rw [runFaultQuery, if_neg h]
  exact if_pos ha

theorem runFaultQuery_capture (h : fDomain c ≠ 0xFF) (ha : fieldB c.payload 8 8 ≠ 0) :
    runFaultQuery fn c tide s = withHost fn c tide (fun s' => finishAt tide fn c.seq .sOk 0 (instWords (namedInst s fn c))
      (hostWrite fn (fieldB c.payload 8 8) (captureBytes (namedInst s fn c).cap) s')) s := by
  rw [runFaultQuery, if_neg h]
  exact if_neg ha

theorem runFaultClear_stale (h : (namedInst s fn c).gen ≠ fieldB c.payload 8 4) :
    runFaultClear fn c tide s = finishAt tide fn c.seq .eState 0
      { w0 := (namedInst s fn c).word, w1 := (namedInst s fn c).gen } s := by
  rw [runFaultClear]
  exact if_pos h

theorem faultView_chip (s : State) : faultView s 0 0 = s.faults := rfl

/-- The physical function clears in its own view of the chip. -/
theorem runFaultClear_chip (hfn : fn = 0) (hv : fView c = 0)
    (h : (instOf s.faults (fDomain c) (fInst c)).gen = fieldB c.payload 8 4) :
    runFaultClear fn c tide s = finishAt tide fn c.seq .sOk 0
      { w0 := (instOf (clearInst (fDomain c) (fInst c) (fieldB c.payload 4 4) s.faults) (fDomain c) (fInst c)).word,
        w1 := (instOf s.faults (fDomain c) (fInst c)).gen }
      (s.mapFaults (clearInst (fDomain c) (fInst c) (fieldB c.payload 4 4))) := by
  subst hfn
  simp only [runFaultClear, hv, faultView_chip, h, ne_eq, not_true_eq_false, and_self, if_false, if_true, State.mapFaults_faults]

end

/-- A command whose access to host memory fails ends with E_FAULT (R98). -/
theorem withHost_fails {fn tide : Nat} {c : Cmd} {s : State} (h : c.hdr.tag ∈ (s.func fn).failTags) (go : State → State) :
    withHost fn c tide go s = finishAt tide fn c.seq .eFault 0 {} (recordFault dHost 0 0 {} [isleOf fn]
      (s.mapFunc fn fun f => { f with failTags := f.failTags.filter (· != c.hdr.tag) })) := by
  rw [withHost, if_pos (List.contains_iff_mem.mpr h)]

theorem withHost_goes {fn tide : Nat} {c : Cmd} {s : State} (h : c.hdr.tag ∉ (s.func fn).failTags) (go : State → State) :
    withHost fn c tide go s = go s := by
  rw [withHost, if_neg fun hc => h (List.contains_iff_mem.mp hc)]

/-- An update of a function that keeps a field keeps it in every function, existing or not. -/
theorem func_mapFunc_field {α : Type} (g : Func → α) (s : State) (fn k : Nat) (f : Func → Func) (h : ∀ x, g (f x) = g x) :
    g ((s.mapFunc fn f).func k) = g (s.func k) := by
  by_cases hk : fn = k
  · subst hk
    by_cases hl : fn < s.funcs.length
    · rw [func_mapFunc_self _ _ _ hl, h]
    · simp [State.func, State.mapFunc, setAt, List.getD_eq_getElem?_getD, hl]
  · rw [func_mapFunc_ne _ _ _ _ hk]

theorem working_failTags (spec : CmdSpec) (c : MbxArg) (s : State) (fn : Nat) :
    ((working spec c s).func fn).failTags = (s.func fn).failTags :=
  calc ((working spec c s).func fn).failTags
    _ = ((entered spec c s).func fn).failTags := func_mapFunc_field Func.failTags _ _ _ _ fun _ => rfl
    _ = ((s.mapFunc c.fn (putSlot c.slot { c.hdr with opcode := spec.opcode } c.payload)).func fn).failTags :=
      func_mapFunc_field Func.failTags _ _ _ _ fun _ => rfl
    _ = (s.func fn).failTags := func_mapFunc_field Func.failTags _ _ _ _ fun f => by rw [putSlot_eq]

/-! ## Recording a fault leaves the commands that are outstanding -/

theorem recordIsle_cmds (k d inst bit : Nat) (a : FaultAt) (fn : Nat) (s : State) :
    ((recordIsle k d inst bit a s).func fn).cmds = (s.func fn).cmds := by
  unfold recordIsle
  dsimp only
  split
  · rfl
  · split
    · rfl
    · rw [setCause_cmds]
      rfl

theorem recordIsles_cmds (l : List Nat) (d inst bit : Nat) (a : FaultAt) (fn : Nat) (s : State) :
    ((l.foldl (fun s k => recordIsle k d inst bit a s) s).func fn).cmds = (s.func fn).cmds := by
  induction l generalizing s with
  | nil => rfl
  | cons k l ih => rw [List.foldl_cons, ih, recordIsle_cmds]

theorem fatalHalt_cmds (d bit fn : Nat) (s : State) : ((fatalHalt d bit s).func fn).cmds = (s.func fn).cmds := by
  unfold fatalHalt
  dsimp only
  split <;> rfl

theorem recordFault_cmds (d inst bit : Nat) (a : FaultAt) (l : List Nat) (fn : Nat) (s : State) :
    ((recordFault d inst bit a l s).func fn).cmds = (s.func fn).cmds := by
  have hchip : ∀ t : State, ((if isleOnlyBit d bit then t else
      setCause 0 4 (t.mapFaults fun v => viewRecord d inst bit (capOf t a a.unit a.phys) v)).func fn).cmds = (t.func fn).cmds := by
    intro t
    split
    · rfl
    · rw [setCause_cmds]
      rfl
  have halert : ∀ t : State, ((if isleOnlyBit d bit || fatalBit d bit then t else
      t.mapPins fun p => { p with alertLow := true }).func fn).cmds = (t.func fn).cmds := by
    intro t
    split <;> rfl
  unfold recordFault
  dsimp only
  split
  · rw [fatalHalt_cmds, recordIsles_cmds, halert, hchip]
  · rw [recordIsles_cmds, halert, hchip]

theorem accessFails_cmds (c : MbxArg) (fn : Nat) (s : State) : ((accessFails c s).func fn).cmds = (s.func fn).cmds := by
  rw [accessFails, recordFault_cmds]
  exact func_mapFunc_cmds _ _ _ _ fun _ => rfl

/-! ## PRESSURE_QUERY (R469) -/

section
variable (spec : CmdSpec) (c : MbxArg) (s : State) (k : Nat)

@[simp] theorem working_execCores : execCores (working spec c s) k = execCores s k := rfl

theorem working_pressureWords (sel : Nat) : (pressureWords (working spec c s) k sel).1 = (pressureWords s k sel).1 := by
  unfold pressureWords
  simp only [working_isle, working_execCores, working_tide, working_unparkQ, drawNat, working_clk, State.mapClk_clk]
  split <;> rfl

end

theorem runPressureQuery_eq (fn tide : Nat) (c : Cmd) (s : State) :
    runPressureQuery fn c tide s = finishAt tide fn c.seq .sOk 0 (pressureWords s fn (byteAt c.payload 0)).1
      (pressureWords s fn (byteAt c.payload 0)).2 := rfl

theorem pressureWords_funcs (s : State) (k sel : Nat) : (pressureWords s k sel).2.funcs = s.funcs := by
  unfold pressureWords
  dsimp only
  split <;> rfl

/-! ## FAULT_QUERY with an address for the capture -/

theorem faultQuery_accessFails {c : MbxArg} {s : State} (h : fieldB (bodyOf c) 0 1 ≠ 0xFF) (ha : fieldB (bodyOf c) 8 8 ≠ 0)
    (ht : c.hdr.tag ∈ (s.func c.fn).failTags) (hacc : Accepted specFaultQuery c s) :
    exec (.faultQuery c) s = .next (answered specFaultQuery c .eFault {} (accessFails c) s) := by
  have htag : (queued specFaultQuery c s).hdr.tag ∈ ((working specFaultQuery c s).func c.fn).failTags := by
    rw [working_failTags]
    exact ht
  exact faultQuery_atOnce.answers hacc
    ((runFaultQuery_capture (c := queued specFaultQuery c s) h ha).trans (withHost_fails htag _)) fun fn => accessFails_cmds c fn _

theorem faultQuery_writesCapture {c : MbxArg} {s : State} (h : fieldB (bodyOf c) 0 1 ≠ 0xFF) (ha : fieldB (bodyOf c) 8 8 ≠ 0)
    (ht : c.hdr.tag ∉ (s.func c.fn).failTags) (hacc : Accepted specFaultQuery c s) :
    exec (.faultQuery c) s = .next (answered specFaultQuery c .sOk (instWords (namedInst s c.fn (queued specFaultQuery c s)))
      (hostWrite c.fn (fieldB (bodyOf c) 8 8) (captureBytes (namedInst s c.fn (queued specFaultQuery c s)).cap)) s) := by
  have htag : (queued specFaultQuery c s).hdr.tag ∉ ((working specFaultQuery c s).func c.fn).failTags := by
    rw [working_failTags]
    exact ht
  exact faultQuery_atOnce.answers hacc
    ((runFaultQuery_capture (c := queued specFaultQuery c s) h ha).trans (withHost_goes htag _)) fun fn => by rw [hostWrite_func]

/-! ## The obligation -/

/-- Settles O14, from what the execution of each query does. -/
theorem clearingQueriesAnswer : Obligations.ClearingQueriesAnswer := by
  unfold Obligations.ClearingQueriesAnswer
  refine ⟨fun c s => ⟨fun h => memQuery_atOnce.answers h rfl fun _ => rfl, fun h => t1Query_atOnce.answers h rfl fun _ => rfl,
    fun h => portQuery_atOnce.answers h rfl fun _ => rfl,
    fun w hw h => winQuery_atOnce.answers h (runWinQuery_open hw) fun _ => rfl,
    fun hw h => winQuery_atOnce.answers h (runWinQuery_closed hw) fun _ => rfl,
    fun m hm h => detQuery_atOnce.answers h (runDetQuery_replay hm) fun _ => rfl,
    fun hsel h => sealQuery_atOnce.answers h (runSealQuery_counters hsel) fun _ => rfl,
    fun e hsel he h => sealQuery_atOnce.answers h (runSealQuery_key (fun h0 => absurd (hsel.symm.trans h0) Nat.one_ne_zero) he) fun _ => rfl,
    fun hq h => seqQuery_atOnce.answers h (runSeqQuery_withheld hq) fun _ => rfl, ?pressure⟩, ?fault⟩
  case pressure =>
    intro h
    have hrun := runPressureQuery_eq c.fn (tideNow s) (queued specPressureQuery c s) (working specPressureQuery c s)
    rw [working_pressureWords] at hrun
    exact pressureQuery_atOnce.answers h hrun fun fn => by rw [State.func, pressureWords_funcs, State.func]
  case fault =>
    rintro c s v x rfl rfl
    refine ⟨fun hd h => faultQuery_atOnce.answers h (runFaultQuery_summary hd) fun _ => rfl,
      fun hd ha h => faultQuery_atOnce.answers h (runFaultQuery_words hd ha) fun _ => rfl,
      faultQuery_accessFails, faultQuery_writesCapture, fun hg hfn hv h => ?clears,
      fun hg h => faultClear_atOnce.answers h (runFaultClear_stale hg) fun _ => rfl⟩
    case clears =>
      have hview : faultView s c.fn (fieldB (bodyOf c) 2 1) = s.faults := by rw [hfn, hv]; rfl
      rw [hview] at hg ⊢
      exact faultClear_atOnce.answers h (runFaultClear_chip (c := queued specFaultClear c s) hfn hv hg) fun _ => rfl

end Sys2Proof.Machine
end

section
/-! Service copies and self-tests that end, and what patrol reads find (O36). -/

namespace Sys2Proof.Machine

/-! ## Copies and self-tests (R138, R166, R456) -/

section
variable {s : State} {j : UnitJob} {seg bank pc cls idx : Nat}

theorem spareCopyDone_agrees (h : findJob s 1 (34 * seg + bank) = some j) (ht : j.t = none) (hr : j.ret = false)
    (hc : counting s = true) : exec (.spareCopyDone seg bank) s = .next (agreeJob j s) := by
  change execSpareCopyDone seg bank s = _
  rw [execSpareCopyDone, h]
  exact if_neg (by simp [ht, hr, hc])

theorem spareCopyDone_none (h : findJob s 1 (34 * seg + bank) = none) : exec (.spareCopyDone seg bank) s = .next s := by
  change execSpareCopyDone seg bank s = _
  rw [execSpareCopyDone, h]

theorem retireCopyDone_agrees (h : findJob s 2 pc = some j) (ht : j.t = none) (hr : j.ret = false) (hc : counting s = true) :
    exec (.retireCopyDone pc) s = .next (agreeJob j s) := by
  change execRetireCopyDone pc s = _
  rw [execRetireCopyDone, h]
  exact if_neg (by simp [ht, hr, hc])

theorem retireCopyDone_none (h : findJob s 2 pc = none) : exec (.retireCopyDone pc) s = .next s := by
  change execRetireCopyDone pc s = _
  rw [execRetireCopyDone, h]

theorem dirtyCopyDone_ends (h : findJob s 2 pc = some j) (hh : j.hold ≠ []) :
    exec (.dirtyCopyDone pc) s = .next (nextPcRetire (dropJob 2 pc s)) := by
  change execDirtyCopyDone pc s = _
  rw [execDirtyCopyDone, h]
  exact if_neg (by simp [hh])

theorem dirtyCopyDone_none (h : findJob s 2 pc = none) : exec (.dirtyCopyDone pc) s = .next s := by
  change execDirtyCopyDone pc s = _
  rw [execDirtyCopyDone, h]

theorem nextPcRetire_nobody (h : s.units.pcQueue = []) : nextPcRetire s = s := by
  rw [nextPcRetire, h, List.foldl_nil]

/-- The one pseudo-channel that waits is retired where none is being retired. -/
theorem nextPcRetire_single {q : Nat} (h : s.units.pcQueue = [q]) (hj : ∀ x ∈ s.units.jobs, x.cls ≠ 2) :
    nextPcRetire s = autoRetire 2 q (s.mapUnits fun x => { x with pcQueue := [] }) := by
  have hfree : ¬ (s.units.jobs.any fun j => j.cls == 2) = true := by simpa using hj
  have hempty : (s.mapUnits fun x => { x with pcQueue := x.pcQueue.filter (· != q) }) =
      s.mapUnits fun x => { x with pcQueue := [] } := by
    simp [State.mapUnits, h]
  rw [nextPcRetire, h, List.foldl_cons, List.foldl_nil, if_neg hfree, hempty]

/-- A returning unit whose self-test has not yet ended. -/
theorem unitSelftestDone_ends (h : findJob s cls idx = some j) (hr : j.ret = true) (ht : j.t = none) (ok : Bool) :
    exec (.unitSelftestDone cls idx ok) s =
      if ok then .next (agreeJob j (if cls = 3 then retrainedPort idx s else s))
      else .next (nextPcRetire (jobEnds j (tideNow s) .eFault 0 {}
        (returnFailure cls idx (setUnitState cls idx 2 (tideNow s) (dropJob cls idx s))))) := by
  change execUnitSelftestDone cls idx ok s = _
  rw [execUnitSelftestDone, h]
  exact if_neg (by simp [hr, ht])

theorem unitSelftestDone_none (h : findJob s cls idx = none) (ok : Bool) : exec (.unitSelftestDone cls idx ok) s = .next s := by
  change execUnitSelftestDone cls idx ok s = _
  rw [execUnitSelftestDone, h]

end

/-! ## On-chip patrols (R445, R450) -/

section
variable {s : State} {addr : Nat}

theorem onChipPatrol_clean (space addr : Nat) (s : State) : exec (.onChipPatrol space addr .clean) s = .next s := by
  change execOnChipPatrol space addr .clean s = _
  unfold execOnChipPatrol
  split <;> rfl

/-- A space that is neither lagoon nor shelf nor operand buffer is the control processor's memory (log 1). -/
theorem onChipPatrol_cpCorrected (hr : isReady s = true) {space : Nat} (h2 : 2 ≤ space) (h3 : space ≠ 3) :
    exec (.onChipPatrol space addr .corrected) s =
      .next (if (noteCe dCp 0 s).1 > 100 then recordFault dCp 0 2 {} [] (noteCe dCp 0 s).2 else (noteCe dCp 0 s).2) := by
  change execOnChipPatrol space addr .corrected s = _
  unfold execOnChipPatrol
  rw [if_neg (by simp [hr])]
  match space, h2, h3 with
  | 2, _, _ => rfl
  | _ + 4, _, _ => rfl

theorem onChipPatrol_cpUncorrectable (hr : isReady s = true) {space : Nat} (h2 : 2 ≤ space) (h3 : space ≠ 3) :
    exec (.onChipPatrol space addr .uncorrectable) s = .next (recordFault dCp 0 1 {} [] s) := by
  change execOnChipPatrol space addr .uncorrectable s = _
  unfold execOnChipPatrol
  rw [if_neg (by simp [hr])]
  match space, h2, h3 with
  | 2, _, _ => rfl
  | _ + 4, _, _ => rfl

/-- The logical bank of a lagoon's byte (R133). -/
def lagoonBank (o : Nat) : Nat := (o / 256 % 32) ^^^ (o / 8192 % 32)

theorem onChipPatrol_lagoonCorrected (hr : isReady s = true) {c bank n : Nat} {u : State} (hc : c = addr / 2 ^ 24 % 64)
    (hb : bank = lagoonBank (addr % 2 ^ 24)) (hn : noteCe dCore (c * 32 + bank) s = (n, u)) :
    exec (.onChipPatrol 0 addr .corrected) s =
      .next (if n > 1000 then recordFault dCore c 5 { unit := c, info := bank } (islesOnCore u c) u else u) := by
  change execOnChipPatrol 0 addr .corrected s = _
  unfold execOnChipPatrol
  rw [if_neg (by simp [hr])]
  subst hc hb
  unfold lagoonBank at hn ⊢
  simp only [hn]

theorem onChipPatrol_shelfCorrected (hr : isReady s = true) {seg bank n : Nat} {u : State} (hs : seg = addr / 2 ^ 28 % 64)
    (hb : bank = shelfBank s seg (addr % 2 ^ 28)) (hn : noteCe dShelf (seg * 34 + bank) s = (n, u)) :
    exec (.onChipPatrol 1 addr .corrected) s = .next (if n > 1000 then
      autoRetire 1 (seg * 34 + bank) (recordFault dShelf 0 2 { unit := seg, info := bank } [] u) else u) := by
  change execOnChipPatrol 1 addr .corrected s = _
  unfold execOnChipPatrol
  rw [if_neg (by simp [hr])]
  subst hs hb
  simp only [hn]

theorem onChipPatrol_bufferUncorrectable (hr : isReady s = true) {c : Nat} (hc : c = addr / 2 ^ 20 % 64) :
    exec (.onChipPatrol 3 addr .uncorrectable) s = .next (recordFault dCore c 6
      { unit := c, phys := physAddr (.ob (addr % 2 ^ 26)), isle := (obUser s c).getD 0xFF, prog := addr % 2 ^ 20 } (obUser s c).toList
      (s.mapMems fun m => physMark m (.ob (addr % 2 ^ 26)))) := by
  change execOnChipPatrol 3 addr .uncorrectable s = _
  unfold execOnChipPatrol
  rw [if_neg (by simp [hr]), hc]
  rfl

end

/-! ## The tier-one patrol (R163, R165) -/

/-- The patrol reads a unit of tier one whose pseudo-channel is in service, in a stack that has not failed. -/
def Patrolled (s : State) (addr : Nat) : Prop :=
  addr < 384 * 2 ^ 30 ∧ unitServes s 2 (addr / 2 ^ 21 % 512) = true ∧ s.mems.stackFail.contains (addr / 2 ^ 21 % 512 / 64) = false

section
variable {s : State} {addr : Nat}

theorem tierOnePatrol_unread (h : ¬ Patrolled s addr) (r : EccResult) : exec (.tierOnePatrol addr r) s = .next s := by
  change execTierOnePatrol addr r s = _
  unfold execTierOnePatrol
  refine if_pos (Decidable.byContradiction fun hb => ?_)
  simp only [Bool.or_eq_true, Bool.not_eq_true', decide_eq_true_eq, not_or, Bool.not_eq_true, Bool.not_eq_false] at hb
  obtain ⟨⟨⟨-, haddr⟩, hserves⟩, hstack⟩ := hb
  exact h ⟨by omega, hserves, hstack⟩

theorem tierOnePatrol_clean (addr : Nat) (s : State) : exec (.tierOnePatrol addr .clean) s = .next s := by
  change execTierOnePatrol addr .clean s = _
  unfold execTierOnePatrol
  dsimp only
  split <;> rfl

/-- Nothing keeps the patrol from a unit that it reads: the row's guard does not hold. -/
theorem tierOnePatrol_guard (hr : isReady s = true) (h : Patrolled s addr) :
    (!isReady s || decide (addr ≥ 384 * 2 ^ 30) || !unitServes s 2 (addr / 2 ^ 21 % 512) ||
      s.mems.stackFail.contains (addr / 2 ^ 21 % 512 / 64)) = false := by
  obtain ⟨haddr, hserves, hstack⟩ := h
  rw [hr, hserves, hstack, decide_eq_false (by omega)]
  rfl

theorem tierOnePatrol_correctedUnowned (hr : isReady s = true) (h : Patrolled s addr) {n : Nat} {u : State}
    (ho : frameOwner s (addr / 2 ^ 21) = none) (hn : noteCe dHbm (addr / 2 ^ 21 % 512) s = (n, u)) :
    exec (.tierOnePatrol addr .corrected) s = if n > 1000 then
      .next (autoRetire 2 (addr / 2 ^ 21 % 512) (recordFault dHbm 0 2 { unit := addr / 2 ^ 21 % 512 }
        (islesOnPc u (addr / 2 ^ 21 % 512)) u)) else .next u := by
  change execTierOnePatrol addr .corrected s = _
  unfold execTierOnePatrol
  simp only [tierOnePatrol_guard hr h, ho, hn, Bool.false_eq_true, if_false]

theorem tierOnePatrol_correctedOwned (hr : isReady s = true) (h : Patrolled s addr) {n k v : Nat} {u : State}
    (ho : frameOwner s (addr / 2 ^ 21) = some (k, v)) (hn : noteCe dHbm (addr / 2 ^ 21 % 512) s = (n, u)) (hfew : n ≤ 1000) :
    exec (.tierOnePatrol addr .corrected) s = .next (u.mapIsle k fun x => { x with t1Corrected := sat32 (x.t1Corrected + 1) }) := by
  change execTierOnePatrol addr .corrected s = _
  unfold execTierOnePatrol
  simp only [tierOnePatrol_guard hr h, ho, hn, Bool.false_eq_true, if_false]
  exact if_neg (by omega)

/-- The record of an uncorrectable word, and its mark. -/
def poisonedAt (addr isle prog : Nat) (touched : List Nat) (s : State) : State :=
  recordFault dHbm 0 3 { unit := addr / 2 ^ 21 % 512, phys := physAddr (.hbm addr), isle := isle, prog := prog } touched
    (s.mapMems fun m => physMark m (.hbm addr))

theorem tierOnePatrol_uncorrectableUnowned (hr : isReady s = true) (h : Patrolled s addr) {again : Bool} {v : State}
    (ho : frameOwner s (addr / 2 ^ 21) = none) (hrow : ∀ g < 512, rowZeroAt s g ≠ addr / 2 ^ 21)
    (hn : noteUe dHbm (addr / 2 ^ 21 % 512) (addr / 64) (poisonedAt addr 0xFF 0 [] s) = (again, v)) :
    exec (.tierOnePatrol addr .uncorrectable) s = .next (if again then autoRetire 2 (addr / 2 ^ 21 % 512) v else v) := by
  have hrow' : ((List.range 512).map fun g => rowZeroAt s g).contains (addr / 2 ^ 21) = false := by
    rw [Bool.eq_false_iff, ne_eq, List.contains_iff_mem, List.mem_map]
    rintro ⟨g, hg, heq⟩
    exact hrow g (List.mem_range.mp hg) heq
  change execTierOnePatrol addr .uncorrectable s = _
  unfold execTierOnePatrol
  rw [poisonedAt] at hn
  simp only [tierOnePatrol_guard hr h, ho, hrow', Bool.false_eq_true, if_false, List.map_nil, List.eraseDups_nil, List.filter_nil,
    List.append_nil, List.foldl_nil, hn]

/-- A word of a frame that the isle's programs can address. -/
theorem tierOnePatrol_uncorrectableOwned (hr : isReady s = true) (h : Patrolled s addr) {again : Bool} {k a : Nat} {v : State}
    (ho : frameOwner s (addr / 2 ^ 21) = some (k, a)) (ha : a ≠ 0)
    (hn : noteUe dHbm (addr / 2 ^ 21 % 512) (addr / 64) (poisonedAt addr k (a + addr % 2 ^ 21) [k] s) = (again, v)) :
    exec (.tierOnePatrol addr .uncorrectable) s = .next (if again then autoRetire 2 (addr / 2 ^ 21 % 512) v else v) := by
  obtain ⟨b, rfl⟩ := Nat.exists_eq_succ_of_ne_zero ha
  change execTierOnePatrol addr .uncorrectable s = _
  unfold execTierOnePatrol
  rw [poisonedAt] at hn
  simp only [tierOnePatrol_guard hr h, ho, ha, Bool.false_eq_true, if_false, List.map_nil, List.eraseDups_nil, List.filter_nil,
    List.append_nil, List.foldl_nil, hn]

end

/-! ## The obligation -/

/-- Settles O36, from what each row does with its job and with what its read finds. -/
theorem serviceFindsErrors : Obligations.ServiceFindsErrors := by
  unfold Obligations.ServiceFindsErrors
  refine ⟨fun seg bank pc cls idx j s => ⟨spareCopyDone_agrees, spareCopyDone_none, retireCopyDone_agrees, retireCopyDone_none, ?dirty,
    dirtyCopyDone_none, fun h hr ht => unitSelftestDone_ends h hr ht true, fun h hr ht => unitSelftestDone_ends h hr ht false,
    unitSelftestDone_none⟩, fun space addr s hr => ⟨onChipPatrol_clean space addr s, tierOnePatrol_clean addr s, ?cpFew, ?cpMany,
    onChipPatrol_cpUncorrectable hr, ?outOfService, ?beyond, ?tierOne, ?lagoon, ?shelf, fun c => onChipPatrol_bufferUncorrectable hr⟩⟩
  case dirty =>
    rintro u h hh rfl
    exact ⟨dirtyCopyDone_ends h hh, nextPcRetire_nobody, fun q => nextPcRetire_single⟩
  case cpFew =>
    intro n u h2 h3 hn hfew
    rw [onChipPatrol_cpCorrected hr h2 h3, hn, if_neg (by simpa using hfew)]
  case cpMany =>
    intro n u h2 h3 hn hmany
    rw [onChipPatrol_cpCorrected hr h2 h3, hn, if_pos hmany]
  case outOfService =>
    rintro r p rfl hout
    refine tierOnePatrol_unread ?_ r
    rintro ⟨-, hserves, hstack⟩
    rcases hout with hout | hout
    · exact Bool.false_ne_true (hout.symm.trans hserves)
    · exact Bool.false_ne_true (hstack.symm.trans hout)
  case beyond =>
    intro haddr r
    exact tierOnePatrol_unread (fun hp => absurd hp.1 (by omega)) r
  case tierOne =>
    rintro p haddr rfl hserves hstack
    have hp : Patrolled s addr := ⟨haddr, hserves, hstack⟩
    refine ⟨fun n u ho hn hfew => ?_, fun n u ho hn hmany => ?_, fun k v n u ho hn hfew => tierOnePatrol_correctedOwned hr hp ho hn hfew,
      ?_, ?_⟩
    · rw [tierOnePatrol_correctedUnowned hr hp ho hn, if_neg (by omega)]
    · rw [tierOnePatrol_correctedUnowned hr hp ho hn, if_pos hmany]
    · rintro u v ho hrow rfl
      exact ⟨tierOnePatrol_uncorrectableUnowned hr hp ho hrow, tierOnePatrol_uncorrectableUnowned hr hp ho hrow⟩
    · rintro k a u v ho ha rfl
      exact ⟨tierOnePatrol_uncorrectableOwned hr hp ho ha, tierOnePatrol_uncorrectableOwned hr hp ho ha⟩
  case lagoon =>
    rintro c o bank n u hc rfl hb hn
    rw [onChipPatrol_lagoonCorrected hr hc hb hn]
    exact ⟨fun hfew => by rw [if_neg (by omega)], fun hmany => by rw [if_pos hmany]⟩
  case shelf =>
    intro seg bank n u hs hb hn
    rw [onChipPatrol_shelfCorrected hr hs hb hn]
    exact ⟨fun hfew => by rw [if_neg (by omega)], fun hmany => by rw [if_pos hmany]⟩

end Sys2Proof.Machine
end

section
/-! A stack that fails, the sequence of a fatal fault, and a PROG_RUN that is not accepted (O37). -/

namespace Sys2Proof.Machine

/-! ## A stack fails (R165, R313) -/

section
variable {s : State} {stack b : Nat}

theorem stackFail_again (h : s.mems.stackFail.contains stack = true) : exec (.stackFail stack) s = .next s := by
  change execStackFail stack s = _
  rw [execStackFail, h, Bool.or_true, if_pos rfl]

theorem stackFail_notReady (h : isReady s = false) : exec (.stackFail stack) s = .next s := by
  change execStackFail stack s = _
  rw [execStackFail, h, Bool.not_false, Bool.true_or, if_pos rfl]

theorem stackFail_records (hr : isReady s = true) (h : s.mems.stackFail.contains stack = false) :
    exec (.stackFail stack) s = .next (recordFault dHbm 0 5 { unit := stack } []
      (s.mapMems fun m => { m with stackFail := insNat stack m.stackFail })) := by
  change execStackFail stack s = _
  rw [execStackFail, hr, h, if_neg (by decide)]

theorem loseStackPages_noFailure (h : s.mems.stackFail = []) : loseStackPages b s = s := by
  rw [loseStackPages, h, List.foldl_nil]

/-- An isle without a pool has no page to lose, so the fold over the stacks and the isles stays where it starts. -/
theorem loseStackPages_noPool (h : ∀ k, k < 32 → (s.isle k).pool = none) : loseStackPages b s = s := by
  refine List.foldlRecOn (motive := (· = s)) _ _ rfl fun t ht stack _ =>
    List.foldlRecOn (motive := (· = s)) _ _ ht fun u hu k hk => ?_
  rw [hu, h k (List.mem_range.mp hk), Option.isNone_none, if_pos rfl]

/-- Each sequence of an isle loses its pages in the stack with E_POISON. -/
def losesInStack (b stack : Nat) (w : State) (k : Nat) : State :=
  (w.isle k).seqs.foldl (fun s q =>
    let idx := (List.range q.2.pages.length).filter fun i => pageInStack s k (poolView w k) (pageAt q.2 i).addr (pageBytes (poolOf w k)) stack
    if idx.isEmpty then s else losePages k q.1 idx .ePoison b s) w

theorem loseStackPages_single (h : s.mems.stackFail = [stack]) :
    loseStackPages b s = (List.range 32).foldl (fun s k =>
      if (s.isle k).pool.isNone then s else pruneTree k ((losesInStack b stack s k).mapIsle k fun r =>
        { r with tree := r.tree.map fun x =>
          if pageInStack (losesInStack b stack s k) k (poolView s k) x.addr (pageBytes (poolOf s k)) stack then
            { x with inTree := false, poisoned := true } else x })) s := by
  rw [loseStackPages, h, List.foldl_cons, List.foldl_nil]
  rfl

end

/-! ## Ports go idle (R36, R59, R454) -/

theorem updateLeader_ports (s : State) : (updateLeader s).ports = s.ports := by
  unfold updateLeader
  split <;> rfl

/-- What a change of a port's state does to the ports: it updates that one, whose link it does not bring up. -/
theorem setPortState_ports (q : Nat) (st : PortState) (s : State) : ∃ f : Port → Port,
    (setPortState q st s).ports = setAt s.ports q f ∧ (f (s.port q)).state = st ∧
    ((s.port q).linkUp = false → (f (s.port q)).linkUp = false) := by
  unfold setPortState
  split
  next h => exact ⟨id, by simp [setAt], h, id⟩
  next =>
    refine ⟨_, (congrArg State.ports (posts_postEvent _ _ _ _ _ _ _ _).rest).trans (updateLeader_ports _), ?_, fun hdown => ?_⟩
    · rfl
    · simp only [hdown, Bool.false_and]

/-- A port's link in electrical idle, with nothing to send. -/
def downPort (r : Port) : Port := { freshLink r with linkUp := false, heldMsgs := [] }

/-- One port in electrical idle, as `portsIdle` puts each: a RETIRED one stays RETIRED. -/
def idlePort (s : State) (q : Nat) : State :=
  if ((s.mapPort q downPort).port q).state = .retired then s.mapPort q downPort else setPortState q .idle (s.mapPort q downPort)

theorem portsIdle_eq (s : State) : portsIdle s = (List.range 15).foldl idlePort s := rfl

/-- A port that a chip has and that is not RETIRED. -/
def PortInUse (p : Nat) (s : State) : Prop := p < s.ports.length ∧ (s.port p).state ≠ .retired

/-- A port that a chip has, in electrical idle. -/
def PortIsIdle (p : Nat) (s : State) : Prop := p < s.ports.length ∧ (s.port p).state = .idle ∧ (s.port p).linkUp = false

/-- What one port in electrical idle does to the ports: it updates that one, and takes it to IDLE where it was in use. -/
theorem idlePort_ports (q : Nat) (s : State) : ∃ f : Port → Port, (idlePort s q).ports = setAt s.ports q f ∧
    (PortInUse q s → (f (s.port q)).state = .idle ∧ (f (s.port q)).linkUp = false) := by
  have hdown : PortInUse q s → (s.mapPort q downPort).port q = downPort (s.port q) := fun h => getD_setAt_self _ _ _ _ h.1
  unfold idlePort
  split
  next hretired =>
    refine ⟨downPort, rfl, fun h => absurd ?_ h.2⟩
    rwa [hdown h] at hretired
  next =>
    obtain ⟨f, hports, hstate, hlink⟩ := setPortState_ports q .idle (s.mapPort q downPort)
    refine ⟨f ∘ downPort, hports.trans (List.modify_modify_eq ..), fun h => ?_⟩
    rw [hdown h] at hstate hlink
    exact ⟨hstate, hlink rfl⟩

section
variable {s : State} {p : Nat}

theorem PortIsIdle.inUse (h : PortIsIdle p s) : PortInUse p s := by
  obtain ⟨hp, hidle, -⟩ := h
  exact ⟨hp, by simp [hidle]⟩

theorem idlePort_length (q : Nat) (s : State) : (idlePort s q).ports.length = s.ports.length := by
  obtain ⟨f, hports, -⟩ := idlePort_ports q s
  rw [hports, setAt_length]

theorem idlePort_port_ne {q : Nat} (h : q ≠ p) : (idlePort s q).port p = s.port p := by
  obtain ⟨f, hports, -⟩ := idlePort_ports q s
  rw [State.port, hports]
  exact getD_setAt_ne _ _ _ _ _ h

theorem idlePort_self (h : PortInUse p s) : PortIsIdle p (idlePort s p) := by
  obtain ⟨f, hports, hidle⟩ := idlePort_ports p s
  have hself : (idlePort s p).port p = f (s.port p) := by
    rw [State.port, hports]
    exact getD_setAt_self _ _ _ _ h.1
  rw [PortIsIdle, idlePort_length, hself]
  exact ⟨h.1, hidle h⟩

theorem idlePort_keepsInUse (q : Nat) (h : PortInUse p s) : PortInUse p (idlePort s q) := by
  by_cases hq : q = p
  · subst hq
    exact (idlePort_self h).inUse
  · rwa [PortInUse, idlePort_length, idlePort_port_ne hq]

theorem idlePort_keepsIdle (q : Nat) (h : PortIsIdle p s) : PortIsIdle p (idlePort s q) := by
  by_cases hq : q = p
  · subst hq
    exact idlePort_self h.inUse
  · rwa [PortIsIdle, idlePort_length, idlePort_port_ne hq]

/-- The ports before p leave it in use, then it goes idle, and the ports after it leave it so. -/
theorem portsIdle_idles (hp : p < 15) (h : PortInUse p s) : PortIsIdle p (portsIdle s) := by
  obtain ⟨before, after, hsplit⟩ := List.append_of_mem (List.mem_range.mpr hp)
  rw [portsIdle_eq, hsplit, List.foldl_append, List.foldl_cons]
  have hused : PortInUse p (before.foldl idlePort s) :=
    List.foldlRecOn before idlePort h fun _ ht q _ => idlePort_keepsInUse q ht
  exact List.foldlRecOn after idlePort (idlePort_self hused) fun _ ht q _ => idlePort_keepsIdle q ht

end

/-! ## The fatal sequence (R454) -/

section
variable {s : State} {f : Nat}

theorem fatalKeyDestroy_halted (h : s.halt = some f) : exec .fatalKeyDestroy s = .next ((List.range 32).foldl
    (fun s fn => (s.func fn).cmds.foldl (fun s c => finish fn c.seq .eFault 0 {} s) s)
    (destroyAllKeys ((advanceTicks (f + 100) s).mapPins fun p => { p with readyLow := false }))) := by
  change execFatalKeyDestroy s = _
  rw [execFatalKeyDestroy, h]

theorem fatalKeyDestroy_running (h : s.halt = none) : exec .fatalKeyDestroy s = .next s := by
  change execFatalKeyDestroy s = _
  rw [execFatalKeyDestroy, h]

theorem fatalPortsIdle_halted {u : State} (h : s.halt = some f) (hu : u = advanceTicks (f + 200) s) :
    exec .fatalPortsIdle s = .next (portsIdle ((otherPresent u).foldl (fun s j => ctrlTo j pmDepart [chipId u] [] s) u)) := by
  change execFatalPortsIdle s = _
  rw [execFatalPortsIdle, h, hu, advanceTicks_chipId]
  rfl

theorem fatalPortsIdle_running (h : s.halt = none) : exec .fatalPortsIdle s = .next s := by
  change execFatalPortsIdle s = _
  rw [execFatalPortsIdle, h]

end

/-! ## A PROG_RUN that is not accepted (R331) -/

/-- The PROG_RUN of a program that waits for its boundary. -/
def waitingRun (s : State) (k g : Nat) : Option Cmd :=
  (s.func k).cmds.find? fun c => c.hdr.opcode == 0x0402 && c.phase == .boundary && handleArg c == g

/-- This chip's acceptance of a run of an image is dropped. -/
def dropAccept (k dg : Nat) (s : State) : State :=
  s.mapArch fun a => { a with accepts := a.accepts.filter fun r => !(r.isle == k && r.digest == dg && r.chip == chipId s) }

section
variable {s : State} {k g : Nat} {c : Cmd}

theorem progRunTimeout_expires {u : State} {dg : Nat} (h : waitingRun s k g = some c)
    (ha : runAgreed s k g (runMode c) (tideNow s + 2 ^ 63) = false) (hu : u = advanceQuant (c.d + 100000000) s)
    (hd : dg = leNat (imgDigest ((aGet (u.isle k).progs g).getD {}).image)) :
    exec (.progRunTimeout k g) s =
      .next (pumpAll cmdTable (refuseAt (tideNow (dropAccept k dg u)) k c.seq .eRetry 0 (dropAccept k dg u))) := by
  change execProgRunTimeout k g s = _
  rw [waitingRun] at h
  rw [execProgRunTimeout, runTimeout, h, hd, hu]
  dsimp only
  rw [ha]
  rfl

theorem progRunTimeout_agreed (h : waitingRun s k g = some c) (ha : runAgreed s k g (runMode c) (tideNow s + 2 ^ 63) = true) :
    exec (.progRunTimeout k g) s = .next (pumpAll cmdTable s) := by
  change execProgRunTimeout k g s = _
  rw [waitingRun] at h
  rw [execProgRunTimeout, runTimeout, h]
  dsimp only
  rw [if_pos ha]

theorem progRunTimeout_none (h : waitingRun s k g = none) : exec (.progRunTimeout k g) s = .next (pumpAll cmdTable s) := by
  change execProgRunTimeout k g s = _
  rw [waitingRun] at h
  rw [execProgRunTimeout, runTimeout, h]

end

/-! ## The obligation -/

/-- Settles O37, from what a failed stack, each step of the fatal sequence, and the end of a PROG_RUN's second do. -/
theorem fatalFaultsAndStacks : Obligations.FatalFaultsAndStacks := by
  unfold Obligations.FatalFaultsAndStacks
  refine ⟨fun stack s => ⟨stackFail_again, stackFail_notReady, stackFail_records, fun b => loseStackPages_noFailure,
      fun b => loseStackPages_noPool, ?single⟩,
    fun f s => ⟨fatalKeyDestroy_halted, fatalKeyDestroy_running, fun u => fatalPortsIdle_halted, fun p hlen hp hused => ?idle,
      fatalPortsIdle_running⟩,
    fun k g s => ⟨fun c u dg => progRunTimeout_expires, fun c => progRunTimeout_agreed, progRunTimeout_none⟩⟩
  case single =>
    intro b lose h hlose
    obtain rfl : lose = losesInStack b stack := funext fun w => funext (hlose w)
    exact loseStackPages_single h
  case idle =>
    obtain ⟨-, hstate, hlink⟩ := portsIdle_idles hp ⟨hlen, hused⟩
    exact ⟨hstate, hlink⟩

end Sys2Proof.Machine
end

section
/-! Commands that execute at once and change what they name (O16): what each one's execution does, by case. -/

namespace Sys2Proof.Machine

/-- The state after a command that executes when it is accepted, whatever its execution does. -/
theorem AtOnce.runs {spec : CmdSpec} (ho : AtOnce spec) {c : MbxArg} {s t : State} (h : Accepted spec c s)
    (hr : spec.run c.fn (queued spec c s) (tideNow s) (working spec c s) = t) :
    (.next (mbxRow cmdTable spec c s) : Host.Outcome State Fault Refusal) = .next (settle c.fn t) :=
  exec_runs h ho.row (ho.accepted _ _ _) ho.boundary (ho.peer _ _ _) hr

theorem streamCreate_atOnce : AtOnce specStreamCreate := ⟨rfl, fun _ _ _ => rfl, rfl, fun _ _ _ => rfl⟩
theorem alertAck_atOnce : AtOnce specAlertAck := ⟨rfl, fun _ _ _ => rfl, rfl, fun _ _ _ => rfl⟩
theorem shardSelect_atOnce : AtOnce specShardSelect := ⟨rfl, fun _ _ _ => rfl, rfl, fun _ _ _ => rfl⟩
theorem replayAdvance_atOnce : AtOnce specReplayAdvance := ⟨rfl, fun _ _ _ => rfl, rfl, fun _ _ _ => rfl⟩
theorem cartUnpair_atOnce : AtOnce specCartUnpair := ⟨rfl, fun _ _ _ => rfl, rfl, fun _ _ _ => rfl⟩
theorem cartLifeSet_atOnce : AtOnce specCartLifeSet := ⟨rfl, fun _ _ _ => rfl, rfl, fun _ _ _ => rfl⟩
theorem cartTimeSet_atOnce : AtOnce specCartTimeSet := ⟨rfl, fun _ _ _ => rfl, rfl, fun _ _ _ => rfl⟩
theorem seqWakeHint_atOnce : AtOnce specSeqWakeHint := ⟨rfl, fun _ _ _ => rfl, rfl, fun _ _ _ => rfl⟩
theorem lcChallenge_atOnce : AtOnce specLcChallenge := ⟨rfl, fun _ _ _ => rfl, rfl, fun _ _ _ => rfl⟩
theorem rngRead_atOnce : AtOnce specRngRead := ⟨rfl, fun _ _ _ => rfl, rfl, fun _ _ _ => rfl⟩
theorem lcTransition_atOnce : AtOnce specLcTransition := ⟨rfl, fun _ _ _ => rfl, rfl, fun _ _ _ => rfl⟩
theorem debugUnlock_atOnce : AtOnce specDebugUnlock := ⟨rfl, fun _ _ _ => rfl, rfl, fun _ _ _ => rfl⟩
theorem attestCerts_atOnce : AtOnce specAttestCerts := ⟨rfl, fun _ _ _ => rfl, rfl, fun _ _ _ => rfl⟩
theorem attestQuote_atOnce : AtOnce specAttestQuote := ⟨rfl, fun _ _ _ => rfl, rfl, fun _ _ _ => rfl⟩
theorem keyAdvance_atOnce : AtOnce specKeyAdvance := ⟨rfl, fun _ _ _ => rfl, rfl, fun _ _ _ => rfl⟩
theorem keyRevoke_atOnce : AtOnce specKeyRevoke := ⟨rfl, fun _ _ _ => rfl, rfl, fun _ _ _ => rfl⟩

section
variable {fn tide : Nat} {c : Cmd} {s : State}

/-! ## Streams, alerts and replay (R113, R365, R460) -/

/-- The stream that a STREAM_CREATE describes (Table 5.11). -/
def streamIn (p : Bytes) : Stream :=
  { ring := fieldB p 0 8, shadow := fieldB p 8 8, entries := fieldB p 16 4, dirOut := fieldB p 20 1 == 1,
    slotLog2 := fieldB p 21 1, vector := fieldB p 22 2, irqOnConsume := fieldB p 24 1 == 1 }

theorem runStreamCreate_free {h : Nat} (hf : aFree (s.isle fn).streams (s.isle fn).grant.streams = some h) :
    runStreamCreate fn c tide s = finishAt tide fn c.seq .sOk 0 { w0 := h }
      (s.mapIsle fn fun r => { r with streams := aSet h (streamIn c.payload) r.streams }) := by
  rw [runStreamCreate, isleOf, hf]
  rfl

theorem runStreamCreate_full (hf : aFree (s.isle fn).streams (s.isle fn).grant.streams = none) :
    runStreamCreate fn c tide s = finishAt tide fn c.seq .eNores 0 {} s := by
  rw [runStreamCreate, isleOf, hf]

theorem runAlertAck_current (h : fieldB c.payload 0 4 = s.faults.seq) :
    runAlertAck fn c tide s = finishAt tide fn c.seq .sOk 0 { w0 := s.faults.seq }
      (s.mapPins fun p => { p with alertLow := alertHeld s }) := by
  rw [runAlertAck, ackAlert]
  rw [if_pos h, if_pos h]

theorem runAlertAck_stale (h : fieldB c.payload 0 4 ≠ s.faults.seq) :
    runAlertAck fn c tide s = finishAt tide fn c.seq .eState 0 { w0 := s.faults.seq } s := by
  rw [runAlertAck, ackAlert]
  rw [if_neg h, if_neg h]

theorem runReplayAdvance_replaying {m : ReplayMode} (h : (s.isle fn).replay = some m) :
    runReplayAdvance fn c tide s = finishAt tide fn c.seq .sOk 0 { w0 := m.index } (s.mapIsle fn fun r =>
      { r with replay := some { m with horizon := if fieldB c.payload 0 4 < m.index then m.horizon else fieldB c.payload 0 4 } }) := by
  rw [runReplayAdvance, isleOf, h]

/-! ## Cartridges and parked sequences (R13, R190 to R192) -/

theorem readForCheck_idle {i : Nat} (h : (s.caySlot i).reading = false) :
    readForCheck i s = (s.mapCay i fun x => { x with reading := true }).emit (.cart i 5 []) := by
  rw [readForCheck, if_neg (by simp [h])]

/-- With no slot served and none being read, the first setting of the clock completes at once. -/
theorem runCartTimeSet_unserved (hu : s.utc = none) (h0 : governed s 0 = false) (h1 : governed s 1 = false)
    (r0 : (s.caySlot 0).reading = false) (r1 : (s.caySlot 1).reading = false) :
    runCartTimeSet fn c tide s = finishAt tide fn c.seq .sOk 0 {} { s with utc := some (fieldB c.payload 0 8, tideNow s) } := by
  have hset : ∀ u i, governed { s with utc := u } i = governed s i := fun _ _ => rfl
  have hread : ∀ u i, (State.caySlot { s with utc := u } i) = s.caySlot i := fun _ _ => rfl
  simp [runCartTimeSet, hu, List.range_succ, hset, hread, h0, h1, r0, r1]

theorem wakeSeq_parked {k h : Nat} {q : Seq} (hq : seqOf s k h = some q) (hp : q.state = .parked) (hh : q.home = true) :
    wakeSeq k h s = queueUnpark k h s := by
  rw [wakeSeq, hq]
  dsimp only
  rw [hp]
  exact if_pos hh

/-! ## The entropy service (R407, R419) -/

theorem askFor_running {n : Nat} {go : Nat → Cmd → Nat → State → State} (h : s.ent.state = .running) :
    askFor n go fn c tide s = go fn c tide s := by
  rw [askFor, entAsk, h]

theorem askFor_failed {n : Nat} {go : Nat → Cmd → Nat → State → State} (h : s.ent.state = .failed) :
    askFor n go fn c tide s = refuse fn c.seq c false .eRng 0 s := by
  rw [askFor, entAsk, h]

theorem challengeNow_goes (h : c.hdr.tag ∉ (s.func fn).failTags) :
    challengeNow fn c tide s = finishAt tide fn c.seq .sOk 0 {} (hostWrite fn (fieldB c.payload 0 8) (natLe 32 (drawEntropy 32 s).1)
      ((drawEntropy 32 s).2.mapSec fun x => { x with challenge := some (natLe 32 (drawEntropy 32 s).1, s.clk.ticks) })) := by
  unfold challengeNow
  exact withHost_goes (s := (drawEntropy 32 s).2) h _

theorem challengeNow_fails (h : c.hdr.tag ∈ (s.func fn).failTags) :
    challengeNow fn c tide s = finishAt tide fn c.seq .eFault 0 {} (recordFault dHost 0 0 {} [isleOf fn]
      ((drawEntropy 32 s).2.mapFunc fn fun f => { f with failTags := f.failTags.filter (· != c.hdr.tag) })) := by
  unfold challengeNow
  exact withHost_fails (s := (drawEntropy 32 s).2) h _

theorem rngNow_goes (h : c.hdr.tag ∉ (s.func fn).failTags) :
    rngNow fn c tide s = finishAt tide fn c.seq .sOk 0 {} (hostWrite fn (fieldB c.payload 0 8)
      (natLe (rngLen c) (drawEntropy (rngLen c) s).1) (drawEntropy (rngLen c) s).2) := by
  unfold rngNow
  exact withHost_goes (s := (drawEntropy (rngLen c) s).2) h _

theorem rngNow_fails (h : c.hdr.tag ∈ (s.func fn).failTags) :
    rngNow fn c tide s = finishAt tide fn c.seq .eFault 0 {} (recordFault dHost 0 0 {} [isleOf fn]
      ((drawEntropy (rngLen c) s).2.mapFunc fn fun f => { f with failTags := f.failTags.filter (· != c.hdr.tag) })) := by
  unfold rngNow
  exact withHost_fails (s := (drawEntropy (rngLen c) s).2) h _

/-! ## Life cycle and debug (R407 to R410) -/

theorem runLcTransition_noToken (h : needsToken s (byteAt c.payload 0) = false) :
    runLcTransition fn c tide s =
      beginBurn fn c.seq (.transition (byteAt c.payload 0)) [10 + byteAt c.payload 0, 20 + byteAt c.payload 0] s := by
  simp [runLcTransition, h]

theorem runLcTransition_token (h : needsToken s (byteAt c.payload 0) = true)
    (hk : tokenOk s labelLc (byteAt c.payload 0) (sliceB c.payload 8 96) = true) :
    runLcTransition fn c tide s =
      beginBurn fn c.seq (.transition (byteAt c.payload 0)) [10 + byteAt c.payload 0, 20 + byteAt c.payload 0] (dropChallenge s) := by
  simp [runLcTransition, h, hk]

theorem runLcTransition_denied (h : needsToken s (byteAt c.payload 0) = true)
    (hk : tokenOk s labelLc (byteAt c.payload 0) (sliceB c.payload 8 96) = false) :
    runLcTransition fn c tide s = refuse fn c.seq c false .eDenied 0 (dropChallenge s) := by
  simp [runLcTransition, h, hk]

theorem runDebugUnlock_opens (hk : tokenOk s labelDebug (byteAt c.payload 0) (sliceB c.payload 8 96) = true) :
    runDebugUnlock fn c tide s = finishAt tide fn c.seq .sOk 0 {} (debugOpens (byteAt c.payload 0) (dropChallenge s)) := by
  simp [runDebugUnlock, hk]

theorem runDebugUnlock_denied (hk : tokenOk s labelDebug (byteAt c.payload 0) (sliceB c.payload 8 96) = false) :
    runDebugUnlock fn c tide s = refuse fn c.seq c false .eDenied 0 (dropChallenge s) := by
  simp [runDebugUnlock, hk]

/-! ## Attestation (R401, R402) -/

theorem runAttestCerts_goes (h : c.hdr.tag ∉ (s.func fn).failTags) :
    runAttestCerts fn c tide s = finishAt tide fn c.seq .sOk 0 { w0 := (certChain s).length }
      (hostWrite fn (fieldB c.payload 0 8) (certChain s) s) :=
  withHost_goes h _

theorem runAttestCerts_fails (h : c.hdr.tag ∈ (s.func fn).failTags) :
    runAttestCerts fn c tide s = finishAt tide fn c.seq .eFault 0 {} (recordFault dHost 0 0 {} [isleOf fn]
      (s.mapFunc fn fun f => { f with failTags := f.failTags.filter (· != c.hdr.tag) })) :=
  withHost_fails h _

theorem runAttestQuote_goes (h : c.hdr.tag ∉ (s.func fn).failTags) :
    runAttestQuote fn c tide s = finishAt tide fn c.seq .sOk 0 {} (hostWrite fn (fieldB c.payload 0 8)
      (quoteBody s fn (sliceB c.payload 16 32) ++ ecdsaSign (attestKey s) (sha384 (quoteBody s fn (sliceB c.payload 16 32)))) s) := by
  unfold runAttestQuote
  exact withHost_goes h _

theorem runAttestQuote_fails (h : c.hdr.tag ∈ (s.func fn).failTags) :
    runAttestQuote fn c tide s = finishAt tide fn c.seq .eFault 0 {} (recordFault dHost 0 0 {} [isleOf fn]
      (s.mapFunc fn fun f => { f with failTags := f.failTags.filter (· != c.hdr.tag) })) := by
  unfold runAttestQuote
  exact withHost_fails h _

end

/-! ## What acceptance leaves as these commands read it -/

section
variable {spec : CmdSpec} {c : MbxArg} {s : State}

theorem working_alertHeld : alertHeld (working spec c s) = alertHeld s := rfl
theorem working_attestKey : attestKey (working spec c s) = attestKey s := rfl
theorem working_quoteBody (k : Nat) (nonce : Bytes) : quoteBody (working spec c s) k nonce = quoteBody s k nonce := rfl

theorem working_failing (h : c.hdr.tag ∈ (s.func c.fn).failTags) :
    (queued spec c s).hdr.tag ∈ ((working spec c s).func c.fn).failTags := (working_failTags spec c s c.fn).symm ▸ h

theorem working_reaching (h : c.hdr.tag ∉ (s.func c.fn).failTags) :
    (queued spec c s).hdr.tag ∉ ((working spec c s).func c.fn).failTags := (working_failTags spec c s c.fn).symm ▸ h

end

/-! ## The commands that reach host memory, row by row -/

section
variable {c : MbxArg} {s : State}

theorem lcChallenge_draws (he : s.ent.state = .running) (ht : c.hdr.tag ∉ (s.func c.fn).failTags) (h : Accepted specLcChallenge c s) :
    exec (.lcChallenge c) s = .next (settle c.fn (answered specLcChallenge c .sOk {} (fun t =>
      let d := drawEntropy 32 t
      hostWrite c.fn (fieldB (bodyOf c) 0 8) (natLe 32 d.1) (d.2.mapSec fun x => { x with challenge := some (natLe 32 d.1, s.clk.ticks) })) s)) := by
  refine lcChallenge_atOnce.runs h ?_
  rw [specLcChallenge_run, askFor_running (s := working specLcChallenge c s) he, challengeNow_goes (working_reaching ht)]
  rfl

theorem lcChallenge_accessFails (he : s.ent.state = .running) (ht : c.hdr.tag ∈ (s.func c.fn).failTags)
    (h : Accepted specLcChallenge c s) : exec (.lcChallenge c) s = .next (settle c.fn
      (answered specLcChallenge c .eFault {} (fun t => accessFails c (drawEntropy 32 t).2) s)) := by
  refine lcChallenge_atOnce.runs h ?_
  rw [specLcChallenge_run, askFor_running (s := working specLcChallenge c s) he, challengeNow_fails (working_failing ht)]
  rfl

theorem rngRead_draws (he : s.ent.state = .running) (ht : c.hdr.tag ∉ (s.func c.fn).failTags) (h : Accepted specRngRead c s) :
    exec (.rngRead c) s = .next (settle c.fn (answered specRngRead c .sOk {} (fun t =>
      let d := drawEntropy (byteAt (bodyOf c) 8) t
      hostWrite c.fn (fieldB (bodyOf c) 0 8) (natLe (byteAt (bodyOf c) 8) d.1) d.2) s)) := by
  refine rngRead_atOnce.runs h ?_
  rw [specRngRead_run, runRngRead, askFor_running (s := working specRngRead c s) he, rngNow_goes (working_reaching ht)]
  rfl

theorem rngRead_accessFails (he : s.ent.state = .running) (ht : c.hdr.tag ∈ (s.func c.fn).failTags) (h : Accepted specRngRead c s) :
    exec (.rngRead c) s = .next (settle c.fn
      (answered specRngRead c .eFault {} (fun t => accessFails c (drawEntropy (byteAt (bodyOf c) 8) t).2) s)) := by
  refine rngRead_atOnce.runs h ?_
  rw [specRngRead_run, runRngRead, askFor_running (s := working specRngRead c s) he, rngNow_fails (working_failing ht)]
  rfl

theorem rngRead_noService (he : s.ent.state = .failed) (h : Accepted specRngRead c s) :
    exec (.rngRead c) s = .next (settle c.fn
      (refuse c.fn (s.func c.fn).nextSeq (queued specRngRead c s) false .eRng 0 (working specRngRead c s))) := by
  refine rngRead_atOnce.runs h ?_
  rw [specRngRead_run, runRngRead, askFor_failed (s := working specRngRead c s) he, queued_seq]

theorem attestCerts_writes (ht : c.hdr.tag ∉ (s.func c.fn).failTags) (h : Accepted specAttestCerts c s) :
    exec (.attestCerts c) s = .next (settle c.fn (answered specAttestCerts c .sOk { w0 := (certChain s).length }
      (fun t => hostWrite c.fn (fieldB (bodyOf c) 0 8) (certChain s) t) s)) := by
  refine attestCerts_atOnce.runs h ?_
  rw [specAttestCerts_run, runAttestCerts_goes (working_reaching ht)]
  rfl

theorem attestCerts_accessFails (ht : c.hdr.tag ∈ (s.func c.fn).failTags) (h : Accepted specAttestCerts c s) :
    exec (.attestCerts c) s = .next (settle c.fn (answered specAttestCerts c .eFault {} (accessFails c) s)) := by
  refine attestCerts_atOnce.runs h ?_
  rw [specAttestCerts_run, runAttestCerts_fails (working_failing ht)]
  rfl

theorem attestQuote_writes (ht : c.hdr.tag ∉ (s.func c.fn).failTags) (h : Accepted specAttestQuote c s) :
    exec (.attestQuote c) s = .next (settle c.fn (answered specAttestQuote c .sOk {} (fun t =>
      hostWrite c.fn (fieldB (bodyOf c) 0 8) (quoteBody s c.fn (sliceB (bodyOf c) 16 32) ++
        ecdsaSign (attestKey s) (sha384 (quoteBody s c.fn (sliceB (bodyOf c) 16 32)))) t) s)) := by
  refine attestQuote_atOnce.runs h ?_
  rw [specAttestQuote_run, runAttestQuote_goes (working_reaching ht), queued_payload, working_attestKey, working_quoteBody]
  rfl

theorem attestQuote_accessFails (ht : c.hdr.tag ∈ (s.func c.fn).failTags) (h : Accepted specAttestQuote c s) :
    exec (.attestQuote c) s = .next (settle c.fn (answered specAttestQuote c .eFault {} (accessFails c) s)) := by
  refine attestQuote_atOnce.runs h ?_
  rw [specAttestQuote_run, runAttestQuote_fails (working_failing ht)]
  rfl

end

/-! ## The obligation -/

/-- Settles O16, from what the execution of each command does. -/
theorem settersTakeEffect : Obligations.SettersTakeEffect := by
  unfold Obligations.SettersTakeEffect
  refine ⟨fun c s => ⟨?create, fun hf h => streamCreate_atOnce.runs h (runStreamCreate_full hf), ?ack, ?stale,
      fun h => shardSelect_atOnce.runs h rfl, fun m hm h => replayAdvance_atOnce.runs h (runReplayAdvance_replaying hm),
      fun h => cartUnpair_atOnce.runs h rfl, ?lifeDate,
      fun hu g0 g1 r0 r1 h => cartTimeSet_atOnce.runs h (runCartTimeSet_unserved hu g0 g1 r0 r1), ?wake⟩,
    fun c s => ⟨lcChallenge_draws, rngRead_draws, rngRead_noService, ?noToken, ?token, ?lcDenied,
      fun hk h => debugUnlock_atOnce.runs h (runDebugUnlock_opens hk), fun hk h => debugUnlock_atOnce.runs h (runDebugUnlock_denied hk),
      attestCerts_writes, fun ht => ⟨fun he => lcChallenge_accessFails he ht, fun he => rngRead_accessFails he ht,
        attestCerts_accessFails ht, attestQuote_accessFails ht⟩, attestQuote_writes,
      fun h => keyAdvance_atOnce.runs h rfl, fun h => keyRevoke_atOnce.runs h rfl⟩⟩
  case create =>
    intro h x hf hx hacc
    obtain rfl : x = streamIn (bodyOf c) := hx
    exact streamCreate_atOnce.runs hacc (runStreamCreate_free hf)
  case ack =>
    intro he h
    refine alertAck_atOnce.runs h ?_
    rw [specAlertAck_run, runAlertAck_current he, working_alertHeld]
    rfl
  case stale =>
    intro he h
    refine alertAck_atOnce.runs h ?_
    rw [specAlertAck_run, runAlertAck_stale he]
    rfl
  case lifeDate =>
    intro u hu hr h
    subst hu
    exact cartLifeSet_atOnce.runs h (readForCheck_idle hr)
  case wake =>
    intro q hq hp hh h
    refine seqWakeHint_atOnce.runs h ?_
    rw [specSeqWakeHint_run, runSeqWakeHint, isleOf, seqHandle, queued_payload,
      wakeSeq_parked (s := working specSeqWakeHint c s) hq hp hh]
    rfl
  case noToken =>
    rintro x rfl hn h
    exact lcTransition_atOnce.runs h (runLcTransition_noToken (tide := tideNow s) hn)
  case token =>
    rintro x rfl hn hk h
    exact lcTransition_atOnce.runs h (runLcTransition_token (tide := tideNow s) hn hk)
  case lcDenied =>
    rintro x rfl hn hk h
    exact lcTransition_atOnce.runs h (runLcTransition_denied (tide := tideNow s) hn hk)

end Sys2Proof.Machine
end

section
/-! The governor's checkpoints, and images on a cartridge at fault (O40): what each command of a served slot does. -/

namespace Sys2Proof.Machine

/-! ## The governor (R190, R192, R194) -/

section
variable {i : Nat} {s : State}

theorem governorCheckpoint_governed (sm : Smart) (h : governed s i = true) :
    exec (.governorCheckpoint i sm) s = .next (checkpoint i none
      ((advanceCount ((s.caySlot i).checkTick + 360000000000) s).mapCay i fun c => { c with smart := sm, sinceRead := 0 })) := by
  change execGovernorCheckpoint i sm s = _
  rw [execGovernorCheckpoint, if_neg (by simp [h])]

theorem governorCheckpoint_ungoverned (sm : Smart) (h : governed s i = false) : exec (.governorCheckpoint i sm) s = .next s := by
  change execGovernorCheckpoint i sm s = _
  rw [execGovernorCheckpoint, if_pos (by simp [h])]

theorem caySmartEvent_governed (sm : Smart) (h : governed s i = true) :
    exec (.caySmartEvent i sm) s = .next (wearCheck i (s.mapCay i fun c => { c with smart := sm, sinceRead := 0 })) := by
  change execCaySmartEvent i sm s = _
  rw [execCaySmartEvent, if_neg (by simp [h])]

theorem caySmartEvent_ungoverned (sm : Smart) (h : governed s i = false) : exec (.caySmartEvent i sm) s = .next s := by
  change execCaySmartEvent i sm s = _
  rw [execCaySmartEvent, if_pos (by simp [h])]

theorem lifeDatePassed_records (h : governed s i = true) (hb : (faultWord s.faults dCay i).testBit 9 = false) :
    exec (.lifeDatePassed i) s = .next (recordFault dCay i 9 { unit := i } []
      (advanceCount (tideNow s + (lifeDate s i * 86400 - governorClock s i) * 100000000) s)) := by
  change execLifeDatePassed i s = _
  rw [execLifeDatePassed, if_neg (by simp [h, hb])]

theorem lifeDatePassed_again (hb : (faultWord s.faults dCay i).testBit 9 = true) : exec (.lifeDatePassed i) s = .next s := by
  change execLifeDatePassed i s = _
  rw [execLifeDatePassed, if_pos (by simp [hb])]

end

/-! ## Errors of a cartridge's reads and writes (R197, R200) -/

section
variable {i k h : Nat} {q : Seq} {img : Image} {s : State} {e : Nat}

theorem migrates_ejecting (hi : q.image = some img) (he : (s.caySlot img.slot).eject = some (false, e)) :
    migrates s img.slot q = true := by
  simp [migrates, hi, he]

theorem contentOn_unparking (hi : q.image = some img) (hst : q.state = .unparking) (hr : q.unparkRead = false) :
    contentOn img.slot q = true := by
  simp [contentOn, hi, hst, hr]

theorem contentOn_parked (hi : q.image = some img) (hst : q.state = .parked) (ht : q.tierOnePark = false) :
    contentOn img.slot q = true := by
  simp [contentOn, hi, hst, ht]

/-- A resident sequence has only a shadow image on a slot. -/
theorem contentOn_resident (i : Nat) (hst : q.state = .resident) : contentOn i q = false := by
  simp [contentOn, hst]

theorem cayIoError_parkWrite {t : Nat} (hq : seqOf s k h = some q) (hi : q.parkImage = some img) (hst : q.state = .parking)
    (hf : q.parkFlush = false) (hs : q.parkStart = some t) (tag : Bool) :
    exec (.cayIoError img.slot k h true tag) s =
      .next (mapSeq k h (fun q => { q with abandon := some .eCart }) (recordFault dCay img.slot 6 { unit := img.slot } [k] s)) := by
  change execCayIoError img.slot k h true tag s = _
  have hp : parksTo img.slot q = true := by simp [parksTo, hi, hst]
  rw [execCayIoError, hq]
  dsimp only
  rw [if_pos rfl, if_pos (by simp [hp, hf, hs])]

/-- A write error of a sequence that parks nothing is one of the migration towards the slot. -/
theorem cayIoError_migrationWrite (hi2 : i < 2) (hq : seqOf s k h = some q) (hi : q.image = some img) (hsl : img.slot = 1 - i)
    (hst : q.state ≠ .parking) (he : (s.caySlot (1 - i)).eject = some (false, e)) (tag : Bool) :
    exec (.cayIoError i k h true tag) s =
      .next (migrationEnds i .eCart (tideNow s) (recordFault dCay i 6 { unit := i } [] s)) := by
  change execCayIoError i k h true tag s = _
  have hp : parksTo i q = false := by simp [parksTo, hst]
  have hm : migrates s (1 - i) q = true := hsl ▸ migrates_ejecting hi (hsl ▸ he)
  rw [execCayIoError, hq]
  dsimp only
  rw [if_pos rfl, if_neg (by simp [hp]), if_pos ⟨hi2, hm⟩]

/-- A read, for an unpark or a migration, that fails: the content is lost, or the shadow image dropped. -/
theorem cayIoError_read (hq : seqOf s k h = some q) (hi : q.image = some img)
    (hr : (q.state = .unparking ∧ q.unparkRead = false) ∨ migrates s img.slot q = true) (tag : Bool) :
    exec (.cayIoError img.slot k h false tag) s =
      if contentOn img.slot q then .next (mapSeq k h (fun q => { q with lossDue := some (if tag then .eDenied else .eCart) })
        (recordFault dCay img.slot (if tag then 7 else 6) { unit := img.slot } (if tag then [] else [k]) s))
      else .next (deallocBlocks img.slot img.blocks (mapSeq k h (fun q => { q with image := none })
        (recordFault dCay img.slot (if tag then 7 else 6) { unit := img.slot } [] s))) := by
  change execCayIoError img.slot k h false tag s = _
  rw [execCayIoError, hq]
  dsimp only
  rw [if_neg Bool.false_ne_true, hi]
  dsimp only
  rw [if_neg (by rcases hr with ⟨hst, hu⟩ | hm <;> simp [*])]

theorem cayIoError_noImage (hq : seqOf s k h = some q) (hi : q.image = none) (tag : Bool) :
    exec (.cayIoError i k h false tag) s = .next s := by
  change execCayIoError i k h false tag s = _
  rw [execCayIoError, hq]
  dsimp only
  rw [if_neg Bool.false_ne_true, hi]

/-! ## Images that a migration moves (R195, R196) -/

theorem migrateImageDone_noCredit (hq : seqOf s k h = some q) (he : (s.caySlot i).eject = some (false, e)) (hi : q.image = some img)
    (hc : (bucketNow s (1 - i) k).credit - img.bytes < -(bucketDepth s (1 - i) k : Int)) :
    exec (.migrateImageDone i k h) s = .next s := by
  change execMigrateImageDone i k h s = _
  rw [execMigrateImageDone, hq, he]
  dsimp only
  rw [hi]
  dsimp only
  rw [if_pos (by simp [hc])]

/-- The conditions of R195 and R196 under which an image of a slot that is ejected has its place on the other slot. -/
structure Moves (s : State) (i k h : Nat) (q : Seq) (img : Image) : Prop where
  slot : img.slot = i
  takes : takesParks s (1 - i) = true
  notParking : q.parkImage = none
  notLost : q.lossDue = none
  live : epochLive s k img.epoch = true
  first : ((s.caySlot (1 - i)).migrated.any fun m => m.1 == (k, h)) = false
  credit : -(bucketDepth s (1 - i) k : Int) ≤ (bucketNow s (1 - i) k).credit - img.bytes

theorem migrateImageDone_moves {bl : List Nat} (hq : seqOf s k h = some q) (he : (s.caySlot i).eject = some (false, e))
    (hi : q.image = some img) (hm : Moves s i k h q img) (hb : freeRun s (1 - i) img.blocks.length = some bl) :
    exec (.migrateImageDone i k h) s = .next (checkWear (1 - i)
      ((setBucket (1 - i) k (fun b => { b with credit := b.credit - img.bytes, written := b.written + img.bytes }) s).mapCay (1 - i)
        fun c => { c with
          sinceRead := c.sinceRead + img.bytes,
          migrated := c.migrated ++ [((k, h), { img with slot := 1 - i, blocks := bl })] })) := by
  change execMigrateImageDone i k h s = _
  obtain ⟨hsl, htakes, hpark, hlost, hlive, hfirst, hcredit⟩ := hm
  rw [execMigrateImageDone, hq, he]
  dsimp only
  rw [hi]
  dsimp only
  have hpaid : ¬ (bucketNow s (1 - i) k).credit - img.bytes < -(bucketDepth s (1 - i) k : Int) := Int.not_lt.mpr hcredit
  rw [if_neg (by
    simp only [hsl, htakes, hpark, hlost, hlive, hfirst, hpaid, ne_eq, not_true_eq_false, Bool.not_true, Option.isSome_none,
      Bool.false_eq_true, or_self, not_false_eq_true]), hb]

theorem migrateImageDone_noImage (hq : seqOf s k h = some q) (hi : q.image = none) : exec (.migrateImageDone i k h) s = .next s := by
  change execMigrateImageDone i k h s = _
  rw [execMigrateImageDone, hq]
  rcases (s.caySlot i).eject with _ | ⟨_ | _, e⟩
  · rfl
  · dsimp only
    rw [hi]
  · rfl

end

/-! ## The obligation -/

/-- Settles O40, from what each command of the governor does, and each error of an image. -/
theorem governorAndImages : Obligations.GovernorAndImages := by
  unfold Obligations.GovernorAndImages
  refine ⟨fun i s => ⟨?checkpoint, governorCheckpoint_ungoverned, caySmartEvent_governed, caySmartEvent_ungoverned, ?lifeDate,
      lifeDatePassed_again⟩,
    fun i k h q s hq => ⟨?parkWrite, ?unpark, ?parked, ?shadow, ?migrationWrite, fun hi => cayIoError_noImage hq hi, ?noCredit, ?moves,
      migrateImageDone_noImage hq⟩⟩
  case checkpoint =>
    rintro sm u hg rfl
    exact governorCheckpoint_governed sm hg
  case lifeDate =>
    rintro u hg hb rfl
    exact lifeDatePassed_records hg hb
  case parkWrite =>
    rintro img t tag hi rfl hst hf hs
    exact cayIoError_parkWrite hq hi hst hf hs tag
  case unpark =>
    rintro img hi rfl hst hr
    have hread := cayIoError_read hq hi (.inl ⟨hst, hr⟩)
    simp only [contentOn_unparking hi hst hr, if_true] at hread
    exact ⟨hread false, hread true⟩
  case parked =>
    rintro img e hi rfl hst ht he
    rw [cayIoError_read hq hi (.inr (migrates_ejecting hi he)), if_pos (contentOn_parked hi hst ht)]
    rfl
  case shadow =>
    rintro img e tag hi rfl hst he
    rw [cayIoError_read hq hi (.inr (migrates_ejecting hi he)), if_neg (by simp [contentOn_resident _ hst])]
  case migrationWrite =>
    intro img e tag hi2 hi hsl hst he
    exact cayIoError_migrationWrite hi2 hq hi hsl hst he tag
  case noCredit =>
    rintro e img t rfl he hi hc
    exact migrateImageDone_noCredit hq he hi hc
  case moves =>
    rintro e img bl t u rfl he hi hsl htakes hpark hlost hlive hfirst hcredit hb rfl
    exact migrateImageDone_moves hq he hi ⟨hsl, htakes, hpark, hlost, hlive, hfirst, hcredit⟩ hb

end Sys2Proof.Machine
end

section
/-! Parking images that are written and read back, and replicas that follow their home (O38). -/

namespace Sys2Proof.Machine

/-! ## Writing an image (R193, R307, R309) -/

/-- The write of an image is charged to its isle's bucket of the slot, and to what the cartridge has written. -/
def parkCharged (k : Nat) (i : Image) (s : State) : State :=
  (setBucket i.slot k (fun b => { b with
    credit := b.credit - i.bytes, queued := b.queued - i.bytes, written := b.written + i.bytes }) s).mapCay i.slot
      fun x => { x with sinceRead := x.sinceRead + i.bytes }

/-- The nonce that the next image of an epoch takes. -/
def nextNonce (k : Nat) (i : Image) (s : State) : Nat := (aGet (s.isle k).keys.images i.epoch).getD 0

/-- The state after an image took its nonce. -/
def nonceTaken (k : Nat) (i : Image) (s : State) : State :=
  s.mapIsle k fun r => { r with keys := { r.keys with images := aSet i.epoch (nextNonce k i s + 1) r.keys.images } }

/-- The image under its epoch's key, as it goes to the cartridge. -/
def sealedFor (s : State) (k h : Nat) (x : Image) : Image := { x with sealed := sealImage s h (poolOf s k) x }

section
variable {k h : Nat} {q : Seq} {i : Image} {s : State}

theorem parkWriteStart_pays {bl : List Nat} {w : State} (hq : seqOf s k h = some q) (hi : q.parkImage = some i)
    (hst : q.state = .parking) (hs : q.parkStart = none) (ha : q.abandon = none) (hl : q.lossDue = none)
    (hc : (i.bytes : Int) ≤ (bucketNow s i.slot k).credit)
    (hb : (if i.blocks.isEmpty then freeRun s i.slot (imageBlocks i.bytes) else some i.blocks) = some bl)
    (hw : w = nonceTaken k i (parkCharged k i s)) (hbad : (captureImage w k q).2.2 = false) :
    exec (.parkWriteStart k h) s = .next (checkWear i.slot (mapSeq k h (fun q' => { q' with
      parkStart := some w.clk.ticks,
      parkImage := some (sealedFor w k h { i with
        blocks := bl, nonce := nextNonce k i (parkCharged k i s),
        pages := (captureImage w k q).1, shoal := (captureImage w k q).2.1 }) })
      (w.mapClk fun c => { c with freeCtr := c.freeCtr + 1 }))) := by
  change execParkWriteStart k h s = _
  subst hw
  have hneed : (i.bytes : Int) - (bucketNow s i.slot k).credit ≤ 0 := by omega
  rw [execParkWriteStart, hq]
  dsimp only
  rw [hi]
  dsimp only
  rw [if_neg (by simp [hst, hs, ha, hl]), if_neg (fun hn => absurd hn.1 (by omega)), hb]
  dsimp only
  rw [if_pos hneed]
  exact if_neg (ne_true_of_eq_false hbad)

/-- With no run of blocks for the image its write does not start (log 117). -/
theorem parkWriteStart_noRun (hq : seqOf s k h = some q) (hi : q.parkImage = some i) (he : i.blocks = [])
    (hf : freeRun s i.slot (imageBlocks i.bytes) = none) : exec (.parkWriteStart k h) s = .next s := by
  change execParkWriteStart k h s = _
  rw [execParkWriteStart, hq]
  dsimp only
  rw [hi]
  dsimp only
  rw [he, if_pos (show ([] : List Nat).isEmpty = true from rfl), hf]
  split
  · rfl
  · split <;> rfl

theorem parkWriteStart_noImage (hq : seqOf s k h = some q) (hi : q.parkImage = none) : exec (.parkWriteStart k h) s = .next s := by
  change execParkWriteStart k h s = _
  rw [execParkWriteStart, hq]
  dsimp only
  rw [hi]

theorem parkWriteDone_flushes {t : Nat} (hq : seqOf s k h = some q) (hi : q.parkImage = some i) (hst : q.state = .parking)
    (hs : q.parkStart = some t) (hf : q.parkFlush = false) (ha : q.abandon = none) (hl : q.lossDue = none) :
    exec (.parkWriteDone k h) s = .next (checkWear i.slot (mapSeq k h (fun q => { q with parkFlush := true }) s)) := by
  change execParkWriteDone k h s = _
  rw [execParkWriteDone, hq]
  dsimp only
  rw [if_neg (by simp [hst, hs, hf, ha, hl]), hi]

theorem parkWriteDone_unstarted (hq : seqOf s k h = some q) (hs : q.parkStart = none) : exec (.parkWriteDone k h) s = .next s := by
  change execParkWriteDone k h s = _
  rw [execParkWriteDone, hq]
  dsimp only
  rw [if_pos (by simp [hs])]

/-! ## Reading an image back (R200, R311, R312) -/

/-- A sequence whose image is being read, with nothing that ends its unpark. -/
structure Reads (q : Seq) : Prop where
  state : q.state = .unparking
  unread : q.unparkRead = false
  notLost : q.lossDue = none
  notEnded : q.unparkEnd = none

theorem unparkReadDone_badTag {read : Bytes} (hq : seqOf s k h = some q) (hi : q.image = some i) (hr : Reads q)
    (ho : openImage s k i read = false) :
    exec (.unparkReadDone k h read) s = .next
      (mapSeq k h (fun q => { q with lossDue := some .eDenied }) (recordFault dCay i.slot 7 { unit := i.slot } [] s)) := by
  change execUnparkReadDone k h read s = _
  obtain ⟨hst, hun, hl, he⟩ := hr
  rw [execUnparkReadDone, hq]
  dsimp only
  rw [hi]
  dsimp only
  rw [if_neg (by simp [hst, hun, hl, he]), if_pos (by simp [ho])]

theorem unparkReadDone_noImage (hq : seqOf s k h = some q) (hi : q.image = none) (read : Bytes) :
    exec (.unparkReadDone k h read) s = .next s := by
  change execUnparkReadDone k h read s = _
  rw [execUnparkReadDone, hq]
  dsimp only
  rw [hi]

/-- The pages of an image written where the sequence has them. -/
def pagesWritten (k : Nat) (q : Seq) (i : Image) (s : State) : State :=
  (List.range q.pages.length).foldl (fun w j =>
    writeBytes k (poolView s k) (pageAt q j).addr (((i.pages[j]?).map fun x => x.1).getD []) w) s

/-- The shoal positions of an image, too, in a pool of state s. -/
def shoalWritten (k : Nat) (q : Seq) (i : Image) (s t : State) : State :=
  (List.range q.shoal.length).foldl (fun w j => writeBytes k (poolView s k)
    (shoalAddr (poolOf s k) q.owner ((q.shoal[j]?.map fun x => x.slot).getD 0)) (((i.shoal[j]?).map fun x => x.1).getD []) w) t

/-- The sequence has read its image: it keeps the image's tokens. -/
def imageRead (k h : Nat) (i : Image) (u : State) : State :=
  mapSeq k h (fun q => { q with
    unparkRead := true, unparkDone := (replicaChips u q).isEmpty, content := some i,
    pages := q.pages.mapIdx (fun j x => { x with tokens := ((i.pages[j]?).map fun y => y.2).getD [] }),
    shoal := q.shoal.mapIdx fun j x => { x with token := ((i.shoal[j]?).map fun y => y.2).getD 0 } }) u

theorem unparkReadDone_fills {read : Bytes} (hq : seqOf s k h = some q) (hi : q.image = some i) (hr : Reads q)
    (ho : openImage s k i read = true) :
    exec (.unparkReadDone k h read) s =
      .next (sendCopies k h (imageRead k h i (shoalWritten k q i s (pagesWritten k q i s)))) := by
  change execUnparkReadDone k h read s = _
  obtain ⟨hst, hun, hl, he⟩ := hr
  rw [execUnparkReadDone, hq]
  dsimp only
  rw [hi]
  dsimp only
  rw [if_neg (by simp [hst, hun, hl, he]), if_neg (by simp [ho])]
  rfl

/-! ## Copies on replica chips, and pages that move (R287, R311) -/

theorem replicaCopyDone_tells (hq : seqOf s k h = some q) (hi : q.content = some i) (hst : q.state = .unparking)
    (hr : q.unparkRead = true) (hd : q.unparkDone = false) (hc : copiesOut s k h = false)
    (hs : ∀ j ∈ replicaChips s q, q.farSent.contains j = true) :
    exec (.replicaCopyDone k h) s = .next (tellReplicas k h 9 (unparkWords q i)
      (mapSeq k h (fun q => { q with unparkDone := true }) s)) := by
  change execReplicaCopyDone k h s = _
  have hall : (replicaChips s q).all (fun j => q.farSent.contains j) = true := List.all_eq_true.mpr hs
  rw [execReplicaCopyDone, hq]
  dsimp only
  rw [hi]
  dsimp only
  rw [if_neg (by simp only [hst, hr, hd, hc, hall]; simp)]

theorem replicaCopyDone_waits (hq : seqOf s k h = some q) (hw : q.unparkRead = false ∨ copiesOut s k h = true) :
    exec (.replicaCopyDone k h) s = .next s := by
  change execReplicaCopyDone k h s = _
  rw [execReplicaCopyDone, hq]
  dsimp only
  cases q.content with
  | none => rfl
  | some i => exact if_pos (by rcases hw with hw | hw <;> simp [hw])

end

/-! ## Messages about a replicated sequence (R288, R307) -/

section
variable {hd : FlitHdr} {k h : Nat} {b : Bytes} {s u : State}

/-- What a message about a sequence does in an isle that has a pool, by its kind. -/
def toldInPool (hd : FlitHdr) (k h kind : Nat) (b : Bytes) (s : State) : State :=
  if kind = 6 then answerCreate k h b s
  else if kind = 8 then
    sendCopies k h (mapSeq k h (fun q => if q.home && q.state == .unparking then
      { q with farPlaces := aSet hd.orig ((List.range (b.length / 8)).map fun n => fieldB b (8 * n) 8) q.farPlaces } else q) s)
  else if kind = 10 then mapSeq k h (fun q => if q.home then { q with farDone := insNat hd.orig q.farDone } else q) s
  else s.mapArch fun a => { a with creates := a.creates ++ [(k, h, kind, b)] }

/-- What it does where it is delivered. -/
def toldNow (hd : FlitHdr) (k h kind : Nat) (b : Bytes) (s : State) : State :=
  if (s.isle k).state ≠ .enabled ∨ (s.isle k).pool.isNone then s else toldInPool hd k h kind b s

theorem replicaCreate_undelivered (kind : Nat) (hr : (receive hd 4 false (1 + b.length / 240) s).2 = false) :
    exec (.replicaCreate hd k h kind b) s = .next (receive hd 4 false (1 + b.length / 240) s).1 := by
  change execReplicaCreate hd k h kind b s = _
  rw [execReplicaCreate, onCtrl, onMessage_eq, if_neg (ne_true_of_eq_false hr)]

theorem replicaCreate_delivered (kind : Nat) (hr : receive hd 4 false (1 + b.length / 240) s = (u, true)) :
    exec (.replicaCreate hd k h kind b) s = .next (ackPast hd 4 (toldNow hd k h kind b u)) := by
  change execReplicaCreate hd k h kind b s = _
  rw [execReplicaCreate, onCtrl, onMessage_eq, hr, if_pos rfl]
  rfl

theorem toldNow_noPool (kind : Nat) (hp : (u.isle k).state ≠ .enabled ∨ (u.isle k).pool = none) : toldNow hd k h kind b u = u :=
  if_pos (by simpa using hp)

theorem toldNow_pool {p : KvPool × Nat} (kind : Nat) (he : (u.isle k).state = .enabled) (hp : (u.isle k).pool = some p) :
    toldNow hd k h kind b u = toldInPool hd k h kind b u :=
  if_neg (by simp [he, hp])

theorem toldInPool_waits {kind : Nat} (hk : kind ∉ [6, 8, 10]) :
    toldInPool hd k h kind b u = u.mapArch fun a => { a with creates := a.creates ++ [(k, h, kind, b)] } := by
  simp only [List.mem_cons, List.not_mem_nil, or_false, not_or] at hk
  obtain ⟨h6, h8, h10⟩ := hk
  rw [toldInPool, if_neg h6, if_neg h8, if_neg h10]

end

/-! ## What waited, at the boundary (R288, R291) -/

section
variable {k h t : Nat} {b : Bytes} {q : Seq} {s : State}

theorem applyTold_home {kind : Nat} (hq : seqOf s k h = some q) (hh : q.home = true) (hk : kind ≠ 7) :
    applyTold k h kind t b s = some s := by
  rw [applyTold, hq]
  dsimp only
  rw [if_neg hk, if_pos hh]

theorem applyTold_replica (hq : seqOf s k h = some q) (hh : q.home = false) :
    applyTold k h 1 t b s = some (freeSeq k h t s) ∧ applyTold k h 2 t b s = some (parkFree k h s) ∧
    applyTold k h 4 t b s = some (parkTierOne k h s).2 ∧
    applyTold k h 9 t b s = some (tellHome k h 10 [] (if q.state = .unparking then replicaUnpark k h t b s else s)) := by
  simp [applyTold, hq, hh]

theorem applyTold_creates (hq : seqOf s k h = none) : applyTold k h 0 t b s = some (replicaCreate k h t b s) := by
  rw [applyTold, hq]
  rfl

/-- The sequence that a create adds, with its tables. -/
def seqAdded (k h : Nat) (b : Bytes) (s : State) : State :=
  (openTable k h (s.mapIsle k fun r => { r with seqs := aSet h (createSeq b false) r.seqs })).getD
    (s.mapIsle k fun r => { r with seqs := aSet h (createSeq b false) r.seqs })

/-- A create whose adopted pages all are in this chip's tree loses none. -/
theorem replicaCreate_whole {v : State} {n len : Nat} (hv : v = seqAdded k h b s) (hn : n = (b.drop 48).length / (4 * pageTok (poolOf v k)))
    (hlen : len = n * pageTok (poolOf (adoptRun k h (tokensOf (b.drop 48)) n 0 v) k)) {w : State}
    (hw : w = (allocStaging k h (mapSeq k h (fun q => { q with c := len, f := len }) (adoptRun k h (tokensOf (b.drop 48)) n 0 v))).2)
    (hq : seqOf w k h = some q) (hr : pagesReady (poolOf w k) q = true) : replicaCreate k h t b s = w := by
  subst hv hn hlen
  have hcut : replicaCreate k h t b s = match seqOf w k h with
      | none => w
      | some q => if pagesReady (poolOf w k) q then w else
          losePages k h ((List.range ((b.drop 48).length / (4 * pageTok (poolOf (seqAdded k h b s) k)))).filter fun i =>
            (pageAt q i).state == .free) .eState t w := by
    rw [hw]
    rfl
  rw [hcut, hq]
  exact if_pos hr

end

/-! ## The obligation -/

/-- Settles O38, from what each command and each message does. -/
theorem parkImagesMove : Obligations.ParkImagesMove := by
  unfold Obligations.ParkImagesMove
  refine ⟨fun k h q s hq => ⟨?starts, fun i => parkWriteStart_noRun hq, parkWriteStart_noImage hq,
      fun i t hi hst hs hf ha hl => parkWriteDone_flushes hq hi hst hs hf ha hl, parkWriteDone_unstarted hq,
      fun i read hi hst hu hl he => unparkReadDone_badTag hq hi ⟨hst, hu, hl, he⟩,
      fun hi read => unparkReadDone_noImage hq hi read, fun i => replicaCopyDone_tells hq, replicaCopyDone_waits hq, fun page => rfl⟩,
    ?reads, fun k h b s => ⟨fun hd kind => replicaCreate_undelivered kind, ?noPool, ?pool,
      fun t q hq hh kind => applyTold_home hq hh, ?replica, fun t => applyTold_creates, ?creates⟩⟩
  case starts =>
    intro i b bl u v w x y n pages shoal hi hst hs ha hl hb hc hbl hfree hu hv hn hw hcap hx hy
    have hrun : (if i.blocks.isEmpty then freeRun s i.slot (imageBlocks i.bytes) else some i.blocks) = some bl := by
      by_cases he : i.blocks = []
      · rw [if_pos (List.isEmpty_iff.mpr he), hfree he]
      · rw [if_neg (by simpa using he), hbl he]
    obtain rfl : v = parkCharged k i s := hv.trans (by rw [hu]; rfl)
    obtain rfl : n = nextNonce k i (parkCharged k i s) := hn
    have hbad : (captureImage w k q).2.2 = false := by rw [hcap]
    rw [parkWriteStart_pays hq hi hst hs ha hl (hb ▸ hc) hrun hw hbad, hcap, hy, hx]
    rfl
  case reads =>
    intro k h q i s t u v hq hi hst hr hl he ht hu hv read ho
    rw [unparkReadDone_fills hq hi ⟨hst, hr, hl, he⟩ ho, hv, hu, ht]
    rfl
  case noPool =>
    intro hd kind u hr hp
    rw [replicaCreate_delivered kind hr, toldNow_noPool kind hp]
  case pool =>
    rintro hd p who u hr rfl he hp
    refine ⟨fun kind hk => ?_, ?_, ?_, fun places hpl => ?_⟩
    · rw [replicaCreate_delivered kind hr, toldNow_pool kind he hp, toldInPool_waits hk]
    · rw [replicaCreate_delivered 6 hr, toldNow_pool 6 he hp]
      rfl
    · rw [replicaCreate_delivered 10 hr, toldNow_pool 10 he hp]
      rfl
    · rw [replicaCreate_delivered 8 hr, toldNow_pool 8 he hp, hpl]
      rfl
  case replica =>
    intro t q hq hh
    obtain ⟨h1, h2, h4, h9⟩ := applyTold_replica hq hh
    exact ⟨h1, h2, h4, fun hst => by rw [h9, if_pos hst]⟩
  case creates =>
    intro t u v n len hnone hu hv hn hlen q w hw hq hr
    exact replicaCreate_whole (hv.trans (by rw [hu]; rfl)) hn hlen hw hq hr

end Sys2Proof.Machine
end

section
/-! Sums and products of binary32: NaN, infinities, and the order of the operands (O12). -/

namespace Sys2Proof.Machine

/-- The exact sum of two finite values, scaled to the smaller of their exponents (R213). -/
def alignedSum (a : Bool) (m : Nat) (e : Int) (b : Bool) (n : Nat) (g : Int) : Int :=
  signedM a (m * 2 ^ (e - min e g).toNat) + signedM b (n * 2 ^ (g - min e g).toNat)

theorem alignedSum_comm (a : Bool) (m : Nat) (e : Int) (b : Bool) (n : Nat) (g : Int) :
    alignedSum a m e b n g = alignedSum b n g a m e := by
  rw [alignedSum, alignedSum, Int.min_comm g e, Int.add_comm]

section
variable {x y : F32}

theorem addF_nan_left (h : unpack x = .nan) (y : F32) : addF x y = nanF := by
  simp only [addF, h]

theorem mulF_nan_left (h : unpack x = .nan) (y : F32) : mulF x y = nanF := by
  simp only [mulF, h]

theorem addF_infs {a b : Bool} (hx : unpack x = .inf a) (hy : unpack y = .inf b) : addF x y = if a = b then infF a else nanF := by
  simp only [addF, hx, hy]

theorem mulF_infs {a b : Bool} (hx : unpack x = .inf a) (hy : unpack y = .inf b) : mulF x y = infF (a != b) := by
  simp only [mulF, hx, hy]

theorem mulF_inf_fin {a b : Bool} {n : Nat} {g : Int} (hx : unpack x = .inf a) (hy : unpack y = .fin b n g) :
    mulF x y = if n = 0 then nanF else infF (a != b) := by
  simp only [mulF, hx, hy]

theorem addF_fins {a b : Bool} {m n : Nat} {e g : Int} (hx : unpack x = .fin a m e) (hy : unpack y = .fin b n g) :
    addF x y = if alignedSum a m e b n g = 0 then pack (.fin (a && b) 0 0)
      else pack (.fin (decide (alignedSum a m e b n g < 0)) (alignedSum a m e b n g).natAbs (min e g)) := by
  simp only [addF, hx, hy]
  rfl

/-- The exact product of two finite values, rounded once (R213). -/
theorem mulF_fins {a b : Bool} {m n : Nat} {e g : Int} (hx : unpack x = .fin a m e) (hy : unpack y = .fin b n g) :
    mulF x y = pack (.fin (a != b) (m * n) (e + g)) := by
  simp only [mulF, hx, hy]

end

theorem addF_comm (x y : F32) : addF x y = addF y x := by
  cases hx : unpack x with
  | nan => cases hy : unpack y <;> simp only [addF, hx, hy]
  | inf a =>
    cases hy : unpack y with
    | nan => simp only [addF, hx, hy]
    | inf b =>
      rw [addF_infs hx hy, addF_infs hy hx]
      split
      next h => rw [h, if_pos rfl]
      next h => rw [if_neg (Ne.symm h)]
    | fin b n g => simp only [addF, hx, hy]
  | fin a m e =>
    cases hy : unpack y with
    | nan => simp only [addF, hx, hy]
    | inf b => simp only [addF, hx, hy]
    | fin b n g =>
      rw [addF_fins hx hy, addF_fins hy hx, alignedSum_comm b, Int.min_comm g e, Bool.and_comm b a]

theorem mulF_comm (x y : F32) : mulF x y = mulF y x := by
  cases hx : unpack x with
  | nan => cases hy : unpack y <;> simp only [mulF, hx, hy]
  | inf a =>
    cases hy : unpack y with
    | nan => simp only [mulF, hx, hy]
    | inf b => rw [mulF_infs hx hy, mulF_infs hy hx, bne_comm]
    | fin b n g => simp only [mulF, hx, hy, bne_comm]
  | fin a m e =>
    cases hy : unpack y with
    | nan => simp only [mulF, hx, hy]
    | inf b => simp only [mulF, hx, hy, bne_comm]
    | fin b n g => rw [mulF_fins hx hy, mulF_fins hy hx, bne_comm, Nat.mul_comm, Int.add_comm]

/-- Settles O12: each operand on the left by the operation's own cases, on the right by commutativity. -/
theorem nanIsCanonical : Obligations.NanIsCanonical := by
  unfold Obligations.NanIsCanonical
  intro x y
  refine ⟨fun h => ?nan, fun a hx hy => ?opposite, fun a b e hx hy => ?zeroTimesInf, fun a b => mulF_infs, addF_comm x y, mulF_comm x y⟩
  case nan =>
    rw [addF_comm y x, mulF_comm y x, addF_nan_left h, mulF_nan_left h]
    exact ⟨rfl, rfl, rfl, rfl⟩
  case opposite =>
    rw [addF_infs hx hy, if_neg (by simp)]
    rfl
  case zeroTimesInf =>
    rw [mulF_comm y x, mulF_inf_fin hx hy, if_pos rfl]
    exact ⟨rfl, rfl⟩

end Sys2Proof.Machine
end

section
/-! MOVE, MATMUL, ATTEND and verify: what each task does when it issues (O49). -/

namespace Sys2Proof.Machine

/-! ## The task that issues runs on its unit (R241) -/

theorem aGet_aMod_self {α : Type} (k : Nat) (f : α → α) (l : List (Nat × α)) : aGet (aMod k f l) k = (aGet l k).map f := by
  have hkeys : ((fun p : Nat × α => p.1 == k) ∘ fun p => if p.1 = k then (p.1, f p.2) else p) = fun p => p.1 == k := by
    funext p
    by_cases h : p.1 = k <;> simp [h]
  rw [aGet, aMod, List.find?_map, hkeys, aGet]
  cases hp : l.find? fun p => p.1 == k with
  | none => rfl
  | some p =>
    have h : p.1 = k := by simpa using List.find?_some hp
    simp [h]

theorem readyTask_of_front {k u cls : Nat} {t : Task} {s : State} (h : front s k u cls = some t) : readyTask s k u = some t := by
  rw [front] at h
  split at h
  · cases h
  · split at h
    · cases h
    next x hx =>
      split at h
      · rw [hx, h]
      · cases h

theorem queue_of_readyTask {k u : Nat} {t : Task} {s : State} (h : readyTask s k u = some t) : ∃ l, (unitOf s k u).queue = t :: l := by
  unfold readyTask at h
  dsimp only at h
  split at h
  · cases h
  · split at h
    · cases h
    next x l hq =>
      split at h
      · cases h
      · exact ⟨l, by rw [hq, Option.some.inj h]⟩

/-- A unit with a window is one of its isle's. -/
theorem unit_of_queue {k u : Nat} {t : Task} {l : List Task} {s : State} (h : (unitOf s k u).queue = t :: l) :
    k < s.isles.length ∧ aGet (s.isle k).units u = some (unitOf s k u) := by
  have hunit : aGet (s.isle k).units u = some (unitOf s k u) := by
    rw [unitOf] at h ⊢
    cases hg : aGet (s.isle k).units u with
    | none => rw [hg] at h; cases h
    | some x => rfl
  refine ⟨Nat.lt_of_not_le fun hk => ?_, hunit⟩
  rw [State.isle, List.getD_eq_getElem?_getD, List.getElem?_eq_none hk] at hunit
  cases hunit

theorem poolSwitch_isles (k u : Nat) (s : State) : (poolSwitch k u s).isles = s.isles := by
  unfold poolSwitch
  split
  · rfl
  · split
    · rfl
    · dsimp only
      split <;> split <;> rfl

theorem noteTurn_units {k : Nat} {s : State} (hk : k < s.isles.length) (u : Nat) :
    ((noteTurn k u s).isle k).units = (s.isle k).units := by
  unfold noteTurn
  split
  · rfl
  · rw [isle_mapIsle_self _ _ _ hk]

theorem noteTurn_islesLength (k u : Nat) (s : State) : (noteTurn k u s).isles.length = s.isles.length := by
  unfold noteTurn
  split
  · rfl
  · exact setAt_length _ _ _

theorem unitOf_mapUnit {k u : Nat} {s : State} {x : TUnit} (hk : k < s.isles.length) (hx : aGet (s.isle k).units u = some x)
    (f : TUnit → TUnit) : unitOf (mapUnit k u f s) k u = f x := by
  rw [unitOf, mapUnit, isle_mapIsle_self _ _ _ hk, aGet_aMod_self, hx]
  rfl

theorem unitOf_issueTask {k u cls : Nat} {t : Task} {s : State} (h : front s k u cls = some t) :
    unitOf (issueTask k u t s) k u =
      { unitOf s k u with queue := (unitOf s k u).queue.drop 1, running := (unitOf s k u).running ++ [t] } := by
  obtain ⟨l, hq⟩ := queue_of_readyTask (readyTask_of_front h)
  obtain ⟨hk, hunit⟩ := unit_of_queue hq
  have hswitched : k < (poolSwitch k u s).isles.length := by rwa [poolSwitch_isles]
  have hisle : (poolSwitch k u s).isle k = s.isle k := by rw [State.isle, poolSwitch_isles, State.isle]
  exact unitOf_mapUnit (by rwa [noteTurn_islesLength]) (by rw [noteTurn_units hswitched, hisle, hunit]) _

theorem stillRuns_issueTask {k u cls : Nat} {t : Task} {s : State} (h : front s k u cls = some t) :
    stillRuns (issueTask k u t s) k u t.id = true := by
  rw [stillRuns, unitOf_issueTask h]
  simp

/-! ## Runs of steps -/

/-- A loop over the numbers below n ends in the nth state of the sequence that its body steps through. -/
theorem foldl_range_eq_of_steps {α : Type} {f : Nat → α} {g : α → Nat → α} {a : α} (h0 : f 0 = a)
    (h : ∀ i, f (i + 1) = g (f i) i) (n : Nat) : (List.range n).foldl g a = f n := by
  induction n with
  | zero => exact h0.symm
  | succ n ih => rw [List.range_succ, List.foldl_append, ih, h]; rfl

/-! ## MOVE (R242) -/

/-- A1 refuses a column stride of 0 outside an operand buffer. -/
def strideRefused (s : State) (m : MoveD) : Prop :=
  s.fuses.stepping = 0xA1 ∧ ((m.scs = 0 ∧ spaceOf m.src ≠ 0) ∨ (m.dcs = 0 ∧ spaceOf m.dst ≠ 0))

theorem move_issues {k u : Nat} {t : Task} {s : State} (h : front s k u 1 = some t) :
    exec (.move k u) s = .next (runMove k u t (issueTask k u t s)) := by
  change execMove k u s = _
  rw [execMove, h]

theorem move_none {k u : Nat} {s : State} (h : front s k u 1 = none) : exec (.move k u) s = .next s := by
  change execMove k u s = _
  rw [execMove, h]

theorem runMove_refused {k u : Nat} {t : Task} {s : State} (h : strideRefused s (moveOf t.desc)) :
    runMove k u t s = taskFault k u t 5 s := if_pos h

theorem runMove_repeats {k u : Nat} {t : Task} {s : State} {m : MoveD} {f : Nat → State} (hm : m = moveOf t.desc)
    (hn : ¬ strideRefused s m) (h0 : f 0 = s)
    (h : ∀ i, f (i + 1) = countRepeat k u t m ((waitTags (moveOnce (siteOf s k u t) t m i (f i)) k u t.id).filter fun x =>
      !(waitTags (f i) k u t.id).contains x) (moveOnce (siteOf s k u t) t m i (f i))) :
    runMove k u t s = f (m.rep + 1) := by
  subst hm
  exact (if_neg hn).trans (foldl_range_eq_of_steps h0 h _)

theorem countRepeat_uncounted {m : MoveD} (h : m.perEn = false) (k u : Nat) (t : Task) (tags : List Nat) (s : State) :
    countRepeat k u t m tags s = s := by
  rw [countRepeat, if_pos (by simp [h])]

theorem runMove_single {k u : Nat} {t : Task} {s : State} {m : MoveD} (hm : m = moveOf t.desc) (hn : ¬ strideRefused s m)
    (hrep : m.rep = 0) (hper : m.perEn = false) : runMove k u t s = moveOnce (siteOf s k u t) t m 0 s := by
  subst hm
  refine (if_neg hn).trans ?_
  rw [hrep, List.range_one, List.foldl_cons, List.foldl_nil, countRepeat_uncounted hper]

section
variable {w : Site} {t : Task} {m : MoveD} {i : Nat} {s : State}

theorem moveOnce_outside (hr : stillRuns s w.k w.u t.id = true) (hsrc : spaceOf (m.srcBlock i).base ≠ 5)
    (hdst : spaceOf (m.dstBlock i).base ≠ 5) (h : (w.blockOk s (m.srcBlock i) && w.blockOk s (m.dstBlock i)) = false) :
    moveOnce w t m i s = taskFault w.k w.u t 2 s := by
  have hbad : (spaceOf (m.srcBlock i).base ≠ 5 ∧ (!w.blockOk s (m.srcBlock i)) = true) ∨
      (spaceOf (m.dstBlock i).base ≠ 5 ∧ (!w.blockOk s (m.dstBlock i)) = true) := by
    rcases Bool.and_eq_false_iff.mp h with hs | hd
    · exact .inl ⟨hsrc, by rw [hs]; rfl⟩
    · exact .inr ⟨hdst, by rw [hd]; rfl⟩
  rw [moveOnce, if_neg (by simp [hr]), if_pos hbad]

theorem moveOnce_copies (hr : stillRuns s w.k w.u t.id = true) (hsrc : spaceOf (m.srcBlock i).base ≠ 5)
    (hdst : spaceOf (m.dstBlock i).base ≠ 5) (hs : w.blockOk s (m.srcBlock i) = true) (hd : w.blockOk s (m.dstBlock i) = true)
    {n : State} (hn : n = w.noteReads ((m.srcBlock i).order.map fun x => ((m.srcBlock i).addr x.1 x.2, m.esz)) s)
    {vals : List (List (Byte × Bool))} (hv : vals = moveVals m (m.dstBlock i) fun a b => w.read n ((m.srcBlock i).addr a b) m.esz) :
    moveOnce w t m i s = w.scatter (((m.dstBlock i).order.zip vals).flatMap fun x =>
      x.2.mapIdx fun j b => ((m.dstBlock i).addr x.1.1 x.1.2 + j, b)) n := by
  subst hv hn
  rw [moveOnce, if_neg (by simp [hr]), if_neg (by simp [hs, hd]), if_neg hsrc]
  exact if_neg hdst

end

/-- The element that each place of the destination takes is read at the place of the source that TRANSPOSE gives it. -/
theorem moveVals_read (m : MoveD) (dst : Block) (addr : Nat → Nat → Nat) (read : Nat → List (Byte × Bool)) :
    moveVals m dst (fun a b => read (addr a b)) =
      dst.order.map fun x => read (if m.transpose then addr x.2 x.1 else addr x.1 x.2) := by
  simp only [moveVals, apply_ite read]

/-! ## MATMUL (R244, R252) -/

theorem matmul_none {k u : Nat} {s : State} (h : front s k u 2 = none) : exec (.matmul k u) s = .next s := by
  change execMatmul k u s = _
  rw [execMatmul, h]

theorem matmul_inner {k u : Nat} {t : Task} {s : State} (h : front s k u 2 = some t) (he : hasExt t.desc = false) :
    exec (.matmul k u) s = .next (matInner k u t (issueTask k u t s)) := by
  change execMatmul k u s = _
  rw [execMatmul, h]
  simp only [he, Bool.false_eq_true, if_false]

theorem matmul_nest {k u : Nat} {t : Task} {s : State} (h : front s k u 2 = some t) (he : hasExt t.desc = true) :
    exec (.matmul k u) s = .next (matNest k u t (issueTask k u t s)) := by
  change execMatmul k u s = _
  rw [execMatmul, h]
  simp only [he, if_true]

/-- The state in which an inner MATMUL loads its tiles: its reads are noted and its row-steps counted. -/
def matLoaded (w : Site) (m : MatD) (l : List Nat) (s : State) : State :=
  addPressure w.k (fun p => { p with mat := p.mat + matSteps m l }) (w.noteReads (matFixedReads m l) s)

/-- Row r of an inner MATMUL: read, finished and written. -/
def matRowWritten (w : Site) (m : MatD) (l : List Nat) (tiles : List Tile) (bad : Bool) (s : State) (r : Nat) : State :=
  w.write (obAddr 2 (m.outOff + r * outRow l m.n)) (matFinishRow w m l tiles bad r r s).1 (matFinishRow w m l tiles bad r r s).2

theorem matInner_rows {k u : Nat} {t : Task} {s n : State} {m : MatD} {l : List Nat} {w : Site} {f : Nat → State} (hm : m = matOf t.desc)
    (hl : l = stages t.desc) (hw : w = siteOf s k u t) (hring : m.ring = false) (hn : n = matLoaded w m l s) (h0 : f 0 = n)
    (h : ∀ r, f (r + 1) = matRowWritten w m l (loadTiles w m n) (w.anyPoison n (matFixedReads m l)) (f r) r) :
    matInner k u t s = countLoads k u t m m.passes (f m.rows) := by
  subst hm hl hw hn
  exact (if_neg (by simp [hring])).trans (congrArg (countLoads k u t _ _) (foldl_range_eq_of_steps h0 h _))

theorem matInner_ring {k u : Nat} {t : Task} {s n : State} {m : MatD} {l : List Nat} {w : Site} {ring : RingRun} (hm : m = matOf t.desc)
    (hl : l = stages t.desc) (hw : w = siteOf s k u t) (hring : m.ring = true) (hn : n = matLoaded w m l s)
    (hr : ring = { tile := (w.bytes n (m.tileAt 0).1 (m.tileAt 0).2).1, scales := (w.bytes n (m.scalesAt 0).1 (m.scalesAt 0).2).1,
                   poison := w.anyPoison n (matFixedReads m l) }) :
    matInner k u t s = countLoads k u t m 1
      (pumpRings k (mapTask k u t.id (fun t => { t with ring := some ring, busy := true }) n)) := by
  subst hm hl hw hn hr
  exact if_pos hring

theorem matNest_outside {k u : Nat} {t : Task} {s : State}
    (h : ((nestRanges (matOf t.desc) (nestOf t.ext) (stages t.desc) ++ nestScratch (matOf t.desc) (nestOf t.ext) (stages t.desc)).all
      fun r => (siteOf s k u t).ok s r.1 r.2) = false) : matNest k u t s = taskFault k u t 2 s :=
  if_pos (by rw [h]; rfl)

/-! ## ATTEND and verify (R258, R259, R273) -/

/-- Entries in table order: each one's effect, until one faults. -/
def runEntries {σ : Type} (step : Nat → σ → Except Nat σ) (done : σ → State) (fault : Nat → σ → State) : List Nat → σ → State
  | [], x => done x
  | n :: l, x =>
    match step n x with
    | .ok y => runEntries step done fault l y
    | .error r => fault r x

section
variable {σ : Type} {step : Nat → σ → Except Nat σ} {done : σ → State} {fault : Nat → σ → State} {f : Nat → σ}

/-- Past the entries that end well. -/
theorem runEntries_passes (n d i : Nat) (h : ∀ j, i ≤ j → j < i + d → step j (f j) = .ok (f (j + 1))) :
    runEntries step done fault (List.range' i (d + n)) (f i) = runEntries step done fault (List.range' (i + d) n) (f (i + d)) := by
  induction d generalizing i with
  | zero => rw [Nat.zero_add, Nat.add_zero]
  | succ d ih =>
    rw [Nat.add_right_comm d 1 n, List.range'_succ, runEntries, h i (Nat.le_refl i) (by omega)]
    rw [show i + (d + 1) = i + 1 + d by omega]
    exact ih (i + 1) fun j hj hd => h j (by omega) (by omega)

theorem runEntries_all {n : Nat} (h : ∀ i, i < n → step i (f i) = .ok (f (i + 1))) :
    runEntries step done fault (List.range n) (f 0) = done (f n) := by
  have hpass := runEntries_passes (done := done) (fault := fault) 0 n 0 fun j _ hj => h j (by omega)
  rw [Nat.add_zero, Nat.zero_add] at hpass
  rw [List.range_eq_range', hpass]
  rfl

theorem runEntries_faults {n j r : Nat} (h : ∀ i, i < j → step i (f i) = .ok (f (i + 1))) (hj : j < n) (hr : step j (f j) = .error r) :
    runEntries step done fault (List.range n) (f 0) = fault r (f j) := by
  have hpass := runEntries_passes (done := done) (fault := fault) (n - j) j 0 fun i _ hi => h i (by omega)
  rw [Nat.add_sub_cancel' (Nat.le_of_lt hj), Nat.zero_add] at hpass
  rw [List.range_eq_range', hpass, show n - j = n - j - 1 + 1 by omega, List.range'_succ, runEntries, hr]

end

theorem attEntries_eq (w : Site) (t : Task) (v : AttEnv) (k u : Nat) (l : List Nat) (x : State × Nat) :
    attEntries w t v k u l x = runEntries (attEntry w t v) Prod.fst (fun r y => taskFault k u t r y.1) l x := by
  induction l generalizing x with
  | nil => rfl
  | cons n l ih =>
    rw [attEntries, runEntries]
    cases attEntry w t v n x with
    | ok y => exact ih y
    | error r => rfl

theorem verifyEntries_eq (w : Site) (t : Task) (a : AttD) (k u : Nat) (l : List Nat) (x : State) :
    verifyEntries w t a k u l x = runEntries (verifyEntry w a) id (taskFault k u t) l x := by
  induction l generalizing x with
  | nil => rfl
  | cons n l ih =>
    rw [verifyEntries, runEntries]
    cases verifyEntry w a n x with
    | ok y => exact ih y
    | error r => rfl

theorem attend_none {k u : Nat} {s : State} (h : front s k u 3 = none) : exec (.attend k u) s = .next s := by
  change execAttend k u s = _
  rw [execAttend, frontIf, h]

theorem verify_none {k u : Nat} {s : State} (h : front s k u 3 = none) : exec (.verify k u) s = .next s := by
  change execVerify k u s = _
  rw [execVerify, frontIf, h]

theorem frontIf_holds {k u cls : Nat} {t : Task} {s : State} {f : Bytes → Bool} (h : front s k u cls = some t) (hf : f t.desc = true) :
    frontIf s k u cls f = some t := by
  rw [frontIf, h]
  exact if_pos hf

theorem attend_issues {k u : Nat} {t : Task} {s : State} (h : front s k u 3 = some t) (hs : (attOf t.desc).subop = 0) :
    exec (.attend k u) s = .next (runAttend k u t (attOf t.desc) (issueTask k u t s)) := by
  change execAttend k u s = _
  rw [execAttend, frontIf_holds h (by simp [hs])]

theorem verify_issues {k u : Nat} {t : Task} {s : State} (h : front s k u 3 = some t) (hs : (attOf t.desc).subop = 1) :
    exec (.verify k u) s = .next (runVerify k u t (attOf t.desc) (issueTask k u t s)) := by
  change execVerify k u s = _
  rw [execVerify, frontIf_holds h (by simp [hs])]

theorem runAttend_envFaults {k u r : Nat} {t : Task} {a : AttD} {s : State} (h : attEnv (siteOf s k u t) a s = .error r) :
    runAttend k u t a s = taskFault k u t r s := by
  rw [runAttend, h]

theorem runAttend_env {k u : Nat} {t : Task} {a : AttD} {s n : State} {e : AttEnv} (h : attEnv (siteOf s k u t) a s = .ok (e, n)) :
    runAttend k u t a s = runEntries (attEntry (siteOf s k u t) t e) Prod.fst (fun r y => taskFault k u t r y.1) (List.range a.entries)
      (addPressure k (fun p => { p with att := p.att + 24 }) n, 0) := by
  rw [runAttend, h]
  exact attEntries_eq _ _ _ _ _ _ _

theorem runVerify_eq (k u : Nat) (t : Task) (a : AttD) (s : State) :
    runVerify k u t a s = runEntries (verifyEntry (siteOf s k u t) a) id (taskFault k u t) (List.range a.entries)
      (addPressure k (fun p => { p with att := p.att + 16 + 4 * a.entries }) s) :=
  verifyEntries_eq _ _ _ _ _ _ _

/-- Settles O49: each engine's task on the state that issues it; loops by the sequence of states they step through, tables by
`runEntries`. -/
theorem engineTasksRun : Obligations.EngineTasksRun := by
  unfold Obligations.EngineTasksRun
  rintro k u t s v w rfl rfl
  refine ⟨?move, ?stride, ?repeats, ?inner, ?ring, ?nest, ?attend, ?verify, move_none, matmul_none, fun h => ⟨attend_none h, verify_none h⟩⟩
  case move =>
    rintro m src dst n vals h hm rfl rfl hrep hper hstride hsrc hdst hn hv
    have hrun := stillRuns_issueTask h
    rw [move_issues h, runMove_single hm hstride hrep hper]
    refine ⟨fun hs hd => congrArg _ (moveOnce_copies hrun hsrc hdst hs hd hn
      (hv.trans (moveVals_read m _ _ fun a => (siteOf (issueTask k u t s) k u t).read n a m.esz).symm)),
      fun hbad => congrArg _ (moveOnce_outside hrun hsrc hdst hbad)⟩
  case stride =>
    rintro m h rfl ha hz
    rw [move_issues h, runMove_refused ⟨ha, hz⟩]
  case repeats =>
    intro m f h hm hstride h0 hf
    rw [move_issues h, runMove_repeats hm hstride h0 hf]
  case inner =>
    rintro m l n tiles bad f h he hm hring hl hn rfl rfl h0 hf
    rw [matmul_inner h he, matInner_rows hm hl rfl hring hn h0 hf]
  case ring =>
    intro m l n ring h he hm hring hl hn hr
    rw [matmul_inner h he, matInner_ring hm hl rfl hring hn hr]
  case nest =>
    rintro m e l h he rfl rfl rfl
    rw [matmul_nest h he]
    exact ⟨fun _ => rfl, fun hbad => by rw [matNest_outside hbad]⟩
  case attend =>
    rintro a h rfl hs
    rw [attend_issues h hs]
    refine ⟨fun r hr => by rw [runAttend_envFaults hr], fun e n f j he h0 hj hok => ?_⟩
    rw [runAttend_env he, ← h0]
    exact ⟨fun hall => by rw [← hall, runEntries_all hok], fun r hlt hr => by rw [runEntries_faults hok hlt hr]⟩
  case verify =>
    rintro a f j h rfl hs h0 hj hok
    rw [verify_issues h hs, runVerify_eq, ← h0]
    exact ⟨fun hall => by rw [← hall, runEntries_all hok]; rfl, fun r hlt hr => by rw [runEntries_faults hok hlt hr]⟩

end Sys2Proof.Machine
end

section
/-! The order in which tasks issue, and the refill of a unit's window (O48). -/

namespace Sys2Proof.Machine

/-! ## The task that a unit offers (R235 to R238) -/

theorem readyTask_eq_some_iff {s : State} {k u : Nat} {t : Task} : readyTask s k u = some t ↔
    (unitOf s k u).stopped = false ∧ (unitOf s k u).queue.head? = some t ∧
    (dFence t.desc = true → (unitOf s k u).running = []) ∧ engineFree s k u t.desc = true ∧
    (dClass t.desc = 12 → fieldB t.desc 20 4 ≤ ctrOf s k u (bitsOf (fieldB t.desc 16 1) 0 6)) := by
  unfold readyTask
  cases hstop : (unitOf s k u).stopped with
  | true => simp [hstop]
  | false =>
    cases hq : (unitOf s k u).queue with
    | nil => simp [hstop, hq]
    | cons x l =>
      simp only [hstop, hq, Bool.false_eq_true, if_false, Option.ite_none_left_eq_some, List.head?_cons, Option.some.injEq, true_and]
      constructor
      · rintro ⟨hfree, rfl⟩
        simpa [and_assoc] using hfree
      · rintro ⟨rfl, hfree⟩
        simpa [and_assoc] using hfree

theorem front_eq_some_iff {s : State} {k u cls : Nat} {t : Task} : front s k u cls = some t ↔
    isReady s = true ∧ poolTurn s k u = true ∧ offered s k u = true ∧ readyTask s k u = some t ∧ dClass t.desc = cls := by
  unfold front
  cases hr : readyTask s k u with
  | none => simp
  | some x =>
    simp only [Option.ite_none_left_eq_some, Option.ite_none_right_eq_some, Option.some.injEq, beq_iff_eq, Bool.or_eq_true,
      Bool.not_eq_true', not_or, Bool.not_eq_false, and_assoc]
    constructor
    · rintro ⟨hready, hturn, hoff, hcls, rfl⟩
      exact ⟨hready, hturn, hoff, rfl, hcls⟩
    · rintro ⟨hready, hturn, hoff, rfl, hcls⟩
      exact ⟨hready, hturn, hoff, hcls, rfl⟩

/-! ## Its engine (R238, R257, R425) -/

/-- A SEAL task finds room in the queue of its core's RAU. -/
theorem rauQueue_of_engineFree {s : State} {k u c r : Nat} {d : Bytes} (h : engineFree s k u d = true) (hd : dClass d = 10)
    (hc : coreOf s k u = some c) (hr : rauOf s c = some r) : (s.rau r).queue.length < 256 := by
  simpa [engineFree, hd, hc, hr] using h

theorem engineFree_of_shared {s : State} {k u : Nat} {d : Bytes} (h10 : dClass d ≠ 10) (h11 : dClass d ≠ 11) (h12 : dClass d ≠ 12) :
    engineFree s k u d = !coreRuns s k u fun e => ((enginesOf e).any fun g => (enginesOf d).contains g) ||
      (dClass d == 2 && holdsArray e) || (holdsArray d && dClass e == 2) := by
  unfold engineFree
  split
  · contradiction
  · contradiction
  · contradiction
  · rfl

theorem coreRuns_of_running {s : State} {k u x : Nat} {r : TUnit} {y : Task} {f : Bytes → Bool} (hx : (x, r) ∈ (s.isle k).units)
    (hc : coreOf s k x = coreOf s k u) (hy : y ∈ r.running) (hf : f y.desc = true) : coreRuns s k u f = true :=
  List.any_eq_true.mpr ⟨(x, r), hx, Bool.and_eq_true_iff.mpr ⟨beq_iff_eq.mpr hc, List.any_eq_true.mpr ⟨y, hy, hf⟩⟩⟩

/-- No task that runs on the core holds an engine of a task that its shared engine accepts. -/
theorem engines_disjoint_of_engineFree {s : State} {k u x g : Nat} {d : Bytes} {r : TUnit} {y : Task} (h : engineFree s k u d = true)
    (h10 : dClass d ≠ 10) (h11 : dClass d ≠ 11) (h12 : dClass d ≠ 12) (hx : (x, r) ∈ (s.isle k).units)
    (hc : coreOf s k x = coreOf s k u) (hy : y ∈ r.running) (hg : g ∈ enginesOf y.desc) : g ∉ enginesOf d := by
  intro hd
  have hshared : ((enginesOf y.desc).any fun g => (enginesOf d).contains g) = true :=
    List.any_eq_true.mpr ⟨g, hg, List.contains_iff_mem.mpr hd⟩
  rw [engineFree_of_shared h10 h11 h12, coreRuns_of_running hx hc hy (by simp only [hshared, Bool.true_or])] at h
  cases h

/-! ## The dispatcher's order (R235) -/

/-- The units of the isle on the unit's core, in the order of their numbers. -/
def coreUnits (s : State) (k u : Nat) : List Nat := ((s.isle k).units.map fun x => x.1).filter fun x => coreOf s k x == coreOf s k u

theorem offerOrder_after {s : State} {k u c v : Nat} (hc : coreOf s k u = some c) (hv : aGet (s.isle k).turn c = some v) :
    offerOrder s k u = (coreUnits s k u).filter (fun x => decide (v < x)) ++ (coreUnits s k u).filter fun x => decide (x ≤ v) := by
  simp only [offerOrder, hc, Option.bind_some, hv, coreUnits]

theorem offerOrder_first {s : State} {k u c : Nat} (hc : coreOf s k u = some c) (hv : aGet (s.isle k).turn c = none) :
    offerOrder s k u = coreUnits s k u := by
  simp only [offerOrder, hc, Option.bind_some, hv, coreUnits]

theorem readyTask_none_of_offered {s : State} {k u x : Nat} (h : offered s k u = true)
    (hx : x ∈ (offerOrder s k u).takeWhile fun v => v != u) : readyTask s k x = none :=
  Option.isNone_iff_eq_none.mp (List.all_eq_true.mp h x hx)

/-! ## What the issue of a task changes (R235, R236) -/

theorem aGet_aMod_ne {α : Type} {k j : Nat} (h : j ≠ k) (f : α → α) (l : List (Nat × α)) : aGet (aMod k f l) j = aGet l j := by
  have hkeys : ((fun p : Nat × α => p.1 == j) ∘ fun p => if p.1 = k then (p.1, f p.2) else p) = fun p => p.1 == j := by
    funext p
    by_cases hp : p.1 = k <;> simp [hp]
  rw [aGet, aMod, List.find?_map, hkeys, aGet, Option.map_map]
  cases hp : l.find? fun p => p.1 == j with
  | none => rfl
  | some p =>
    have hj : p.1 = j := by simpa using List.find?_some hp
    simp [hj, h]

theorem coreOf_poolSwitch (k u j x : Nat) (s : State) : coreOf (poolSwitch k u s) j x = coreOf s j x := by
  unfold poolSwitch
  split
  · rfl
  · split
    · rfl
    · dsimp only
      split <;> split <;> rfl

section
variable {k : Nat} {s : State} (hk : k < s.isles.length) (u : Nat) (t : Task)
include hk

theorem units_issueTask : ((issueTask k u t s).isle k).units =
    aMod u (fun x => { x with queue := x.queue.drop 1, running := x.running ++ [t] }) (s.isle k).units := by
  have hswitched : k < (poolSwitch k u s).isles.length := by rwa [poolSwitch_isles]
  have hisle : (poolSwitch k u s).isle k = s.isle k := by rw [State.isle, poolSwitch_isles, State.isle]
  rw [issueTask, mapUnit, isle_mapIsle_self _ _ _ (by rwa [noteTurn_islesLength]), noteTurn_units hswitched, hisle]

theorem turn_issueTask {c : Nat} (hc : coreOf s k u = some c) : aGet ((issueTask k u t s).isle k).turn c = some u := by
  have hswitched : k < (poolSwitch k u s).isles.length := by rwa [poolSwitch_isles]
  have hcore : coreOf (poolSwitch k u s) k u = some c := (coreOf_poolSwitch k u k u s).trans hc
  rw [issueTask, mapUnit, isle_mapIsle_self _ _ _ (by rwa [noteTurn_islesLength]), noteTurn, hcore]
  dsimp only
  rw [isle_mapIsle_self _ _ _ hswitched]
  exact aGet_aSet_self c u _

theorem unitOf_issueTask_ne {x : Nat} (hx : x ≠ u) : unitOf (issueTask k u t s) k x = unitOf s k x := by
  rw [unitOf, units_issueTask hk, aGet_aMod_ne hx, unitOf]

end

/-! ## The window (R235, R236) -/

theorem entriesOf_append (l m : List Task) : entriesOf (l ++ m) = entriesOf l + entriesOf m := by
  simp [entriesOf]

theorem fillWindow_keepsOrder (free : Nat) (q l : List Task) : (fillWindow free q l).1 ++ (fillWindow free q l).2 = q ++ l := by
  induction l generalizing free q with
  | nil => rfl
  | cons t l ih =>
    unfold fillWindow
    split
    · rw [ih, List.append_assoc, List.singleton_append]
    · rfl

theorem entriesOf_fillWindow_le (free : Nat) (q l : List Task) : entriesOf (fillWindow free q l).1 ≤ entriesOf q + free := by
  induction l generalizing free q with
  | nil => exact Nat.le_add_right _ _
  | cons t l ih =>
    unfold fillWindow
    split
    next hfree =>
      have hrest := ih (free - entriesOf [t]) (q ++ [t])
      rw [entriesOf_append] at hrest
      omega
    · exact Nat.le_add_right _ _

/-- A descriptor stays in the table frames only where the window lacks the entries for it. -/
theorem lt_entriesOf_fillWindow {free : Nat} {q l : List Task} {t : Task} (h : (fillWindow free q l).2.head? = some t) :
    entriesOf q + free < entriesOf (fillWindow free q l).1 + entriesOf [t] := by
  induction l generalizing free q with
  | nil => cases h
  | cons x l ih =>
    unfold fillWindow at h ⊢
    split at h
    next hfree =>
      rw [if_pos hfree]
      have hrest := ih h
      rw [entriesOf_append] at hrest
      omega
    next hfull =>
      obtain rfl : x = t := Option.some.inj h
      rw [if_neg hfull]
      exact Nat.add_lt_add_left (Nat.lt_of_not_le hfull) _

namespace TUnit
variable (x : TUnit)

theorem refill_tasks : x.refill.tasks = x.tasks := by
  simp only [TUnit.tasks, TUnit.refill, fillWindow_keepsOrder]

theorem entriesOf_refill_le (h : entriesOf (x.running ++ x.queue) ≤ x.window) :
    entriesOf (x.refill.running ++ x.refill.queue) ≤ x.window := by
  have hfill := entriesOf_fillWindow_le (x.window - entriesOf (x.running ++ x.queue)) x.queue x.later
  rw [entriesOf_append] at h hfill
  simp only [TUnit.refill, entriesOf_append]
  omega

theorem window_lt_of_later {t : Task} (h : x.refill.later.head? = some t) :
    x.window < entriesOf (x.refill.running ++ x.refill.queue) + entriesOf [t] := by
  have hfull := lt_entriesOf_fillWindow h
  rw [entriesOf_append] at hfull
  simp only [TUnit.refill, entriesOf_append]
  omega

end TUnit

/-! ## The obligation -/

/-- Settles O48, from what it takes for a unit to offer a task and what the issue of a task and a refill change (logs 105 and 115). -/
theorem tasksIssueInOrder : Obligations.TasksIssueInOrder := by
  unfold Obligations.TasksIssueInOrder
  refine ⟨fun k u cls t s h => ?_, fun x => ⟨x.refill_tasks, rfl, x.entriesOf_refill_le, fun t => x.window_lt_of_later⟩⟩
  obtain ⟨hready, hturn, hoff, hfront, rfl⟩ := front_eq_some_iff.mp h
  obtain ⟨hstop, hhead, hfence, hfree, hwait⟩ := readyTask_eq_some_iff.mp hfront
  refine ⟨hhead, rfl, hready, hstop, hturn, hfence, hwait,
    fun h10 h11 h12 x r y hx hc hy g => engines_disjoint_of_engineFree hfree h10 h11 h12 hx hc hy,
    fun h10 c r => rauQueue_of_engineFree hfree h10, ?order, ?issued⟩
  case order =>
    rintro l rfl
    exact ⟨fun c v hc hv x hx => readyTask_none_of_offered hoff ((offerOrder_after hc hv).symm ▸ hx),
      fun c hc hv x hx => readyTask_none_of_offered hoff ((offerOrder_first hc hv).symm ▸ hx)⟩
  case issued =>
    intro r hr hk
    have hunit : unitOf s k u = r := by rw [unitOf, hr, Option.getD_some]
    rw [unitOf_issueTask h, hunit]
    exact ⟨rfl, rfl, fun c => turn_issueTask hk u t, fun x => unitOf_issueTask_ne hk u t⟩

end Sys2Proof.Machine
end

section
/-! VCHAIN and COMBINE: rows that are read, worked on and written in turn (O50). -/

namespace Sys2Proof.Machine

/-- Work under a check that does not hold: the answer of the check. -/
theorem unless_of_false {α : Type} {b : Bool} {x y : α} (h : b = false) : (if !b then x else y) = x := if_pos (by rw [h]; rfl)

/-- Work under a check that holds: the work. -/
theorem unless_of_true {α : Type} {b : Bool} {x y : α} (h : b = true) : (if !b then x else y) = y := if_neg (by simp [h])

/-- The ranges are the task's. -/
def Site.allOk (w : Site) (s : State) (rs : List (Nat × Nat)) : Bool := rs.all fun r => w.ok s r.1 r.2

/-! ## VCHAIN (R245, R248) -/

theorem vchain_issues {k u : Nat} {t : Task} {s : State} (h : front s k u 5 = some t) :
    exec (.vchain k u) s = .next (runVchain k u t (issueTask k u t s)) := by
  change execVchain k u s = _
  rw [execVchain, h]

theorem vchain_none {k u : Nat} {s : State} (h : front s k u 5 = none) : exec (.vchain k u) s = .next s := by
  change execVchain k u s = _
  rw [execVchain, h]

/-- What a chain reads: its rows, and those of its second operand where an operation names it. -/
def chainIns (d : Bytes) : List (Nat × Nat) :=
  [((chainOf' d).a, (chainOf' d).rows * ((chainOf' d).cols * fmtBytes (chainOf' d).afmt))] ++
    if chainUsesB d then [((chainOf' d).b, (chainOf' d).rows * ((chainOf' d).cols * fmtBytes (chainOf' d).bfmt))] else []

/-- Row r of a chain: read, worked on and written. -/
def chainRowWritten (w : Site) (d : Bytes) (s : State) (r : Nat) : State :=
  let c := chainOf' d
  let ra := c.cols * fmtBytes c.afmt
  let rb := c.cols * fmtBytes c.bfmt
  let b := if chainUsesB d then elemsF c.bfmt (w.read s (c.b + r * rb) rb) else []
  w.write (c.out + r * chainRow d) (chainOut c (chainOps d)
    ((chainOps d).foldl (fun v word => chainOp c.consts b word v) { x := elemsF c.afmt (w.read s (c.a + r * ra) ra) })) s

theorem runVchain_eq (k u : Nat) (t : Task) (s : State) : runVchain k u t s =
    if !(siteOf s k u t).allOk s (chainIns t.desc ++ [((chainOf' t.desc).out, (chainOf' t.desc).rows * chainRow t.desc)])
    then taskFault k u t 2 s
    else (List.range (chainOf' t.desc).rows).foldl (chainRowWritten (siteOf s k u t) t.desc)
      ((siteOf s k u t).noteReads (chainIns t.desc) s) := rfl

/-! ## COMBINE (R246) -/

theorem combine_issues {k u : Nat} {t : Task} {s : State} (h : front s k u 4 = some t) :
    exec (.combine k u) s = .next (runCombine k u t (issueTask k u t s)) := by
  change execCombine k u s = _
  rw [execCombine, h]

theorem combine_none {k u : Nat} {s : State} (h : front s k u 4 = none) : exec (.combine k u) s = .next s := by
  change execCombine k u s = _
  rw [execCombine, h]

/-- The parts of a combine whose rows have n bytes. -/
def combIns (c : CombD) (n : Nat) : List (Nat × Nat) := (List.range c.parts).map fun p => (c.base + p * c.stride, c.rows * n)

/-- Row r of each part. -/
def partRows (w : Site) (c : CombD) (n r : Nat) (s : State) : List (List (Byte × Bool)) :=
  (List.range c.parts).map fun p => w.read s (c.base + p * c.stride + r * n) n

/-- Row r of a join of statistics: read, joined and written. -/
def statsRowWritten (w : Site) (c : CombD) (s : State) (r : Nat) : State :=
  let b := combineStats ((partRows w c 16 r s).map fun x => (x.map fun y => y.1, x.any fun y => y.2))
  w.write (c.out + 16 * r) (flagBytes b.2 b.1) s

/-- Row r of a sum of parts: read, summed, taken through the stages and written. -/
def sumRowWritten (w : Site) (c : CombD) (l : List Nat) (s : State) (r : Nat) : State :=
  let y := runStages w l r (combineRow ((partRows w c (4 * c.cols) r s).map (elemsF 6))) s
  w.write (c.out + r * outRow l c.cols) (rowBytes l y.1) y.2

theorem runCombine_stats {t : Task} {c : CombD} (hc : c = combOf t.desc) (h : c.stats = true) (k u : Nat) (s : State) :
    runCombine k u t s =
      if !(siteOf s k u t).allOk s (combIns c 16 ++ [(c.out, c.rows * 16)]) then taskFault k u t 2 s
      else (List.range c.rows).foldl (statsRowWritten (siteOf s k u t) c) ((siteOf s k u t).noteReads (combIns c 16) s) := by
  subst hc
  unfold runCombine
  simp only [h, if_true, List.append_nil]
  rfl

theorem runCombine_sums {t : Task} {c : CombD} (hc : c = combOf t.desc) (h : c.stats = false) (k u : Nat) (s : State) :
    runCombine k u t s =
      if !(siteOf s k u t).allOk s (combIns c (4 * c.cols) ++ [(c.out, c.rows * outRow (stages t.desc) c.cols)]) then taskFault k u t 2 s
      else (List.range c.rows).foldl (sumRowWritten (siteOf s k u t) c (stages t.desc))
        ((siteOf s k u t).noteReads (combIns c (4 * c.cols) ++ stageReads (stages t.desc) c.rows c.cols) s) := by
  subst hc
  unfold runCombine
  simp only [h, Bool.false_eq_true, if_false]
  rfl

theorem partRows_elems (w : Site) (c : CombD) (n r : Nat) (s : State) : (partRows w c n r s).map (elemsF 6) =
    (List.range c.parts).map fun p => elemsF 6 (w.read s (c.base + p * c.stride + r * n) n) :=
  List.map_map ..

/-! ## The obligation -/

/-- Settles O50: each row task on the state that issues it, under the check of its ranges. -/
theorem rowTasksWrite : Obligations.RowTasksWrite := by
  unfold Obligations.RowTasksWrite
  rintro k u t s v w rfl rfl
  refine ⟨?vchain, ?stats, ?sums, combine_none, vchain_none⟩
  case vchain =>
    rintro c ins ra rb ro n h rfl rfl rfl rfl rfl rfl
    rw [vchain_issues h, runVchain_eq]
    exact ⟨fun hok => congrArg _ (unless_of_true hok), fun hbad => congrArg _ (unless_of_false hbad)⟩
  case stats =>
    rintro c ins h hc hstats rfl
    rw [combine_issues h, runCombine_stats hc hstats]
    exact ⟨fun hok => congrArg _ (unless_of_true hok), fun hbad => congrArg _ (unless_of_false hbad)⟩
  case sums =>
    rintro c l ins ro f h hc hstats rfl rfl rfl h0 hf
    rw [combine_issues h, runCombine_sums hc hstats]
    refine ⟨fun hok => congrArg _ ((unless_of_true hok).trans (foldl_range_eq_of_steps h0 (fun r => ?_) c.rows)),
      fun hbad => congrArg _ (unless_of_false hbad)⟩
    rw [sumRowWritten, partRows_elems]
    exact hf r _ rfl

end Sys2Proof.Machine
end

section
/-! TAP, KVAPPEND, KVFLUSH and COLLECT: what each task does when it issues (O60). -/

namespace Sys2Proof.Machine

/-! ## TAP (R277, R278) -/

theorem tap_issues {k u : Nat} {t : Task} {s : State} (h : front s k u 7 = some t) :
    exec (.tap k u) s = .next (runTap k u t (issueTask k u t s)) := by
  change execTap k u s = _
  rw [execTap, h]

theorem tap_none {k u : Nat} {s : State} (h : front s k u 7 = none) : exec (.tap k u) s = .next s := by
  change execTap k u s = _
  rw [execTap, h]

/-! ## KVAPPEND (R298) -/

theorem kvappend_issues {k u : Nat} {t : Task} {s : State} (h : front s k u 8 = some t) :
    exec (.kvappend k u) s = .next (runKvAppend k u t (issueTask k u t s)) := by
  change execKvappend k u s = _
  rw [execKvappend, h]

theorem kvappend_none {k u : Nat} {s : State} (h : front s k u 8 = none) : exec (.kvappend k u) s = .next s := by
  change execKvappend k u s = _
  rw [execKvappend, h]

theorem runKvAppend_noEntry {k u : Nat} {t : Task} {s : State} (h : batchEntry s (siteOf s k u t) (appOf t.desc).entry = none) :
    runKvAppend k u t s = taskFault k u t 2 s := by
  unfold runKvAppend
  dsimp only
  rw [h]

/-- What an append reads: its tokens, where it names some, and its vectors. -/
def appendReads (a : AppD) (g : KvPool) : List (Nat × Nat) :=
  (if a.tok = 0 then (0, 0) else (a.tok, 4 * a.count)) :: (List.range a.count).map fun i => (a.src + i * a.stride, g.vec)

/-- The pool lacks the layer or the head of an append, or its vectors overlap. -/
def appendMisfits (a : AppD) (g : KvPool) : Prop := g.layers ≤ a.layer ∨ g.heads ≤ a.head ∨ a.stride < g.vec

/-- Each vector of an append in its provisional slot. -/
def appendVectors (w : Site) (a : AppD) (x : Entry12) (s : State) : State :=
  (List.range a.count).foldl (fun s i => appendOne w a x i s) s

theorem appendVectors_of_steps {w : Site} {a : AppD} {x : Entry12} {s : State} {f : Nat → State} (h0 : f 0 = s)
    (hf : ∀ i, f (i + 1) = appendOne w a x i (f i)) : appendVectors w a x s = f a.count :=
  foldl_range_eq_of_steps h0 hf _

/-- The entry of an append holds the vectors that it wrote. -/
def noteWrote (w : Site) (a : AppD) (s : State) : State :=
  mapEntry w a.entry (fun e => { e with
    wrote := e.wrote ++ ((List.range a.count).map fun i => ((hostedShards s).getD w.h 0, a.layer, a.first + i, a.head)).filter fun y =>
      !e.wrote.contains y }) s

section
variable {k u : Nat} {t : Task} {s : State} {a : AppD} {w : Site} {x : Entry12} (ha : a = appOf t.desc) (hw : w = siteOf s k u t)
  (hx : batchEntry s w a.entry = some x)
include ha hw hx

theorem runKvAppend_beyond (h : x.a < a.first + a.count ∨ (s.isle k).pool = none) : runKvAppend k u t s = taskFault k u t 2 s := by
  subst ha hw
  unfold runKvAppend
  dsimp only
  rw [hx]
  exact if_pos (by simpa using h)

variable (hslots : a.first + a.count ≤ x.a) (hpool : (s.isle k).pool ≠ none)
include hslots hpool

theorem runKvAppend_misfits (h : appendMisfits a (poolOf s k)) : runKvAppend k u t s = taskFault k u t 3 s := by
  subst ha hw
  unfold runKvAppend
  dsimp only
  rw [hx]
  exact (if_neg (by simp [hslots, hpool])).trans (if_pos h)

theorem runKvAppend_fits (h : ¬ appendMisfits a (poolOf s k)) : runKvAppend k u t s =
    if !w.allOk s (appendReads a (poolOf s k)) then taskFault k u t 2 s
    else noteWrote w a (appendVectors w a x (w.noteReads (appendReads a (poolOf s k)) s)) := by
  subst ha hw
  unfold runKvAppend
  dsimp only
  rw [hx]
  exact (if_neg (by simp [hslots, hpool])).trans (if_neg h)

end

/-! ## KVFLUSH (R299) -/

theorem kvflush_issues {k u : Nat} {t : Task} {s : State} (h : front s k u 9 = some t) :
    exec (.kvflush k u) s = .next (runKvFlush k u t (issueTask k u t s)) := by
  change execKvflush k u s = _
  rw [execKvflush, h]

theorem kvflush_none {k u : Nat} {s : State} (h : front s k u 9 = none) : exec (.kvflush k u) s = .next s := by
  change execKvflush k u s = _
  rw [execKvflush, h]

theorem runKvFlush_noEntry {k u : Nat} {t : Task} {s : State} (h : batchEntry s (siteOf s k u t) (fieldB t.desc 16 2) = none) :
    runKvFlush k u t s = s := by
  unfold runKvFlush
  dsimp only
  rw [h]

/-- An entry counts the pages of a flush. -/
def noteFlushed (w : Site) (n first pages l0 nl : Nat) (s : State) : State :=
  mapEntry w n (fun e => { e with flushed := e.flushed ++ (List.range pages).map fun j => (first + j, l0, nl) }) s

section
variable {k u l0 nl : Nat} {t : Task} {s : State} {w : Site} {x : Entry12} (hl0 : l0 = fieldB t.desc 19 1) (hnl : nl = fieldB t.desc 20 2)
  (hw : w = siteOf s k u t) (hx : batchEntry s w (fieldB t.desc 16 2) = some x)
include hl0 hnl hw hx

theorem runKvFlush_noLayers (h : (poolOf s k).layers < l0 + nl) : runKvFlush k u t s = taskFault k u t 3 s := by
  subst hl0 hnl hw
  unfold runKvFlush
  dsimp only
  rw [hx]
  exact if_pos h

variable (hl : l0 + nl ≤ (poolOf s k).layers)
include hl

theorem runKvFlush_noSeq (h : seqOf s k x.seq = none) : runKvFlush k u t s = s := by
  subst hl0 hnl hw
  unfold runKvFlush
  dsimp only
  rw [hx]
  dsimp only
  rw [if_neg (Nat.not_lt.mpr hl), h]

theorem runKvFlush_pages {q : Seq} {pages : Nat} {f : Nat → State} (h : seqOf s k x.seq = some q)
    (hp : pages = min (fieldB t.desc 18 1) x.flushable) (h0 : f 0 = poisonInv k t.prog t.inv (flushLines s k q l0 nl pages) s)
    (hf : ∀ j, f (j + 1) = flushPage k q l0 nl j (f j)) :
    runKvFlush k u t s = noteFlushed w (fieldB t.desc 16 2) (x.f / pageTok (poolOf s k)) pages l0 nl (f pages) := by
  subst hl0 hnl hw hp
  unfold runKvFlush
  dsimp only
  rw [hx]
  dsimp only
  rw [if_neg (Nat.not_lt.mpr hl), h]
  dsimp only
  rw [foldl_range_eq_of_steps h0 hf, noteFlushed]

end

/-! ## COLLECT (R341, R452) -/

theorem collect_issueColl {op k u : Nat} {i : Instr} (h : (op, i) ∈ [(0, .allGather k u), (1, .reduceScatter k u), (2, .allReduce k u)])
    (s : State) : exec i s = .next (issueColl op k u s) := by
  simp only [List.mem_cons, List.not_mem_nil, or_false, Prod.mk.injEq] at h
  obtain ⟨rfl, rfl⟩ | ⟨rfl, rfl⟩ | ⟨rfl, rfl⟩ := h <;> rfl

theorem issueColl_none {k u : Nat} {s : State} (h : front s k u 6 = none) (op : Nat) : issueColl op k u s = s := by
  rw [issueColl, frontIf, h]

theorem issueColl_issues {k u : Nat} {t : Task} {s : State} (h : front s k u 6 = some t) :
    issueColl (fieldB t.desc 16 1) k u s = runCollect k u t (issueTask k u t s) := by
  rw [issueColl, frontIf_holds (f := fun d => fieldB d 16 1 == fieldB t.desc 16 1) h (beq_self_eq_true _)]

section
variable {k u : Nat} {t : Task} {s : State} {c : Coll} (hc : c = collOfTask s k u t)
include hc

theorem runCollect_noMember (h : c.mem.contains c.shard = false) : runCollect k u t s = taskFault k u t 3 s := by
  subst hc
  exact unless_of_false h

variable {w : Site} (hw : w = siteOf s k u t) (hmem : c.mem.contains c.shard = true)
include hw hmem

theorem runCollect_outside (h : (w.ok s c.d.src c.d.bytes && w.ok s c.d.dst c.outLen) = false) :
    runCollect k u t s = taskFault k u t 2 s := by
  subst hc hw
  exact (unless_of_true hmem).trans (unless_of_false h)

variable (hok : (w.ok s c.d.src c.d.bytes && w.ok s c.d.dst c.outLen) = true)
include hok

theorem runCollect_poisoned (h : (w.bytes s c.d.src c.d.bytes).2 = true) :
    runCollect k u t s = w.noteReads [(c.d.src, c.d.bytes)] s := by
  subst hc hw
  exact (unless_of_true hmem).trans ((unless_of_true hok).trans (if_pos h))

theorem runCollect_sends {n : State} {b : Bytes} (hn : n = w.noteReads [(c.d.src, c.d.bytes)] s)
    (hb : b = (w.bytes s c.d.src c.d.bytes).1) (h : (w.bytes s c.d.src c.d.bytes).2 = false) :
    runCollect k u t s = pumpColl k (beginRound w t c 0 (fun q => if c.d.op = 0 then b else sliceB b (q * c.chunk) c.chunk)
      (mapTask k u t.id (fun t => { t with busy := true }) n)) := by
  rw [hn, hb]
  subst hc hw
  exact (unless_of_true hmem).trans ((unless_of_true hok).trans (if_neg (ne_true_of_eq_false h)))

end

/-! ## The obligation -/

/-- Settles O60: each task on the state that issues it, check by check, then its work (logs 52, 54, 55 and 56). -/
theorem kvAndCollectTasksRun : Obligations.KvAndCollectTasksRun := by
  unfold Obligations.KvAndCollectTasksRun
  rintro k u t s v w rfl rfl
  refine ⟨?tap, ?append, ?flush, ?collect, tap_none, kvappend_none, kvflush_none⟩
  case tap =>
    rintro acc mine tap ids entries own n h hacc rfl rfl rfl rfl rfl rfl
    -- The equation is turned first: `subst` would evaluate the field.
    obtain rfl := hacc.symm
    rw [tap_issues h]
    exact ⟨fun hout => congrArg _ (unless_of_false hout),
      fun hok hbad => congrArg _ ((unless_of_true hok).trans (unless_of_false hbad)),
      fun hok haccept => congrArg _ ((unless_of_true hok).trans (unless_of_true haccept))⟩
  case append =>
    rintro a h rfl
    rw [kvappend_issues h]
    refine ⟨fun hnone => congrArg _ (runKvAppend_noEntry hnone), fun x hx =>
      ⟨fun hbeyond => congrArg _ (runKvAppend_beyond rfl rfl hx hbeyond), ?_⟩⟩
    rintro g vecs rows f hslots hpool rfl rfl rfl
    refine ⟨fun hmis => congrArg _ (runKvAppend_misfits rfl rfl hx hslots hpool hmis), fun hlayer hhead hvec => ?_⟩
    have hfits : ¬ appendMisfits (appOf t.desc) (poolOf (issueTask k u t s) k) := by
      unfold appendMisfits
      omega
    rw [runKvAppend_fits rfl rfl hx hslots hpool hfits]
    exact ⟨fun hbad => congrArg _ (unless_of_false hbad), fun hok h0 hf => congrArg _
      ((unless_of_true hok).trans (congrArg (noteWrote _ _) (appendVectors_of_steps h0 hf)))⟩
  case flush =>
    rintro n l0 nl g h rfl hl0 hnl rfl
    rw [kvflush_issues h]
    exact ⟨fun hnone => congrArg _ (runKvFlush_noEntry hnone), fun x hx =>
      ⟨fun hlack => congrArg _ (runKvFlush_noLayers hl0 hnl rfl hx hlack),
      fun hl hseq => congrArg _ (runKvFlush_noSeq hl0 hnl rfl hx hl hseq),
      fun q pages f hl hseq hp h0 hf => congrArg _ (runKvFlush_pages hl0 hnl rfl hx hl hseq hp h0 hf)⟩⟩
  case collect =>
    intro op i c hi hc
    rw [collect_issueColl hi]
    refine ⟨?_, fun hnone => by rw [issueColl_none hnone]⟩
    rintro h rfl
    rw [issueColl_issues h]
    exact ⟨fun hout => congrArg _ (runCollect_noMember hc hout), fun hmem hbad => congrArg _ (runCollect_outside hc rfl hmem hbad),
      fun n b hmem hok hn hb => ⟨fun hpoison => by rw [hn, runCollect_poisoned hc rfl hmem hok hpoison],
        fun hclean => congrArg _ (by subst hc; exact runCollect_sends rfl rfl hmem hok hn hb hclean)⟩⟩

end Sys2Proof.Machine
end

section
/-! The link layer's flits: control flits and their replays, reception in the order of a flow, and what a chip between passes on (O43). -/

namespace Sys2Proof.Machine

/-! ## Messages, delivered or not -/

section
variable {h : FlitHdr} {cls n : Nat} {reply : Bool} {f : State → State} {s x : State}

theorem onMessage_of_undelivered (hr : (receive h cls reply n s).2 = false) : onMessage h cls reply n f s = (receive h cls reply n s).1 := by
  rw [onMessage_eq, if_neg (ne_true_of_eq_false hr)]

theorem onMessage_of_delivered (hr : (receive h cls reply n s).2 = true) (hf : f (receive h cls reply n s).1 = x) :
    onMessage h cls reply n f s = ackPast h cls x := by
  rw [onMessage_eq, if_pos hr, hf]

end

/-! ## Link control flits (R321, R322, R349) -/

section
variable {p : Nat} {l : Lcf} {s : State}

/-- An update of a port depends on what it makes of the port as it stands. -/
theorem mapPort_congr {f g : Port → Port} (h : f (s.port p) = g (s.port p)) : s.mapPort p f = s.mapPort p g := by
  have hports : setAt s.ports p f = setAt s.ports p g := by
    refine List.ext_getElem (by simp only [setAt_length]) fun i hi _ => ?_
    simp only [setAt, List.getElem_modify]
    split
    next hp =>
      subst hp
      rw [setAt_length] at hi
      simpa only [State.port, List.getD_eq_getElem?_getD, List.getElem?_eq_getElem hi, Option.getD_some] using h
    next => rfl
  rw [State.mapPort, hports]
  rfl

/-- The corrected codewords that count for FEC_RATE once n more have come. -/
def fecWith (p n : Nat) (s : State) : List (Nat × Nat) :=
  (s.clk.ticks, n) :: (s.port p).fecTimes.filter fun x => decide (s.clk.ticks < x.1 + 100000000)

theorem countFec_within {n : Nat} (hn : n ≠ 0) (h : ((fecWith p n s).map fun x => x.2).sum ≤ 1000000) :
    countFec p n s = s.mapPort p fun r => { r with fecTimes := fecWith p n s } :=
  (if_neg hn).trans (if_neg (Nat.not_lt.mpr h))

theorem countFec_exceeded {n : Nat} (hn : n ≠ 0) (h : 1000000 < ((fecWith p n s).map fun x => x.2).sum) :
    countFec p n s = linkFault p 4 (s.mapPort p fun r => { r with fecTimes := [] }) :=
  (if_neg hn).trans (if_pos h)

/-- One more bad control flit in a row. -/
def countBadLcf (p : Nat) (s : State) : State := s.mapPort p fun r => { r with lcfFails := (s.port p).lcfFails + 1 }

/-- The flits that a good control flit leaves in the replay buffer. -/
def unacked (p : Nat) (l : Lcf) (s : State) : List TxFlit := (s.port p).replay.filter fun f => !seqBefore f.lseq l.acked

/-- What a good control flit releases, and the peer's credit totals. -/
def takeLcf (p : Nat) (l : Lcf) (s : State) : State := s.mapPort p fun r => { r with
  lcfFails := 0, replay := unacked p l s, credits := l.credits,
  ackTick := if (unacked p l s).length < (s.port p).replay.length then s.clk.ticks else (s.port p).ackTick }

/-- How often the peer has asked for the replay from q on, with this time. -/
def replayRun (p q : Nat) (s : State) : Nat := if (s.port p).replayed.1 = q then (s.port p).replayed.2 + 1 else 1

def countReplay (p q : Nat) (s : State) : State :=
  s.mapPort p fun r => { r with replayed := (q, replayRun p q s), replays := sat32 (r.replays + 1) }

/-- A replay that is asked for: it goes out, but the eighth of one sequence number takes the link down. -/
def answerReplay (p q : Nat) (s : State) : State :=
  if replayRun p q s ≥ 8 then linkDownAt p (linkFault p 5 (countReplay p q s))
  else sendLcf p (pumpPort p ((countReplay p q s).emit (.peer (peerAt (countReplay p q s) p) pmResend [p, q] [])))

theorem linkControlFlit_down (h : (s.port p).linkUp = false) : exec (.linkControlFlit p l) s = .next s :=
  unless_of_false h

theorem linkControlFlit_bad (hup : (s.port p).linkUp = true) (hcrc : l.crcOk = false) :
    exec (.linkControlFlit p l) s =
      .next (if ((countFec p l.corrected s).port p).lcfFails + 1 ≥ 8 then linkDownAt p (countBadLcf p (countFec p l.corrected s))
        else sendLcf p (countBadLcf p (countFec p l.corrected s))) :=
  (unless_of_true hup).trans (unless_of_false hcrc)

/-- The model reads the port inside its update; `takeLcf` reads it before. -/
theorem takeLcf_eq (x : State) : takeLcf p l x = x.mapPort p fun r => { r with
    lcfFails := 0, replay := unacked p l x, credits := l.credits,
    ackTick := if (unacked p l x).length < r.replay.length then x.clk.ticks else r.ackTick } :=
  mapPort_congr rfl

theorem linkControlFlit_acks (hup : (s.port p).linkUp = true) (hcrc : l.crcOk = true) (hreplay : l.replay = none) :
    exec (.linkControlFlit p l) s = .next (sendLcf p (pumpPort p (takeLcf p l (countFec p l.corrected s)))) := by
  refine (unless_of_true hup).trans ((unless_of_true hcrc).trans ?_)
  rw [takeLcf_eq, hreplay]
  rfl

theorem linkControlFlit_replays {q : Nat} (hup : (s.port p).linkUp = true) (hcrc : l.crcOk = true) (hreplay : l.replay = some q) :
    exec (.linkControlFlit p l) s = .next (answerReplay p q (takeLcf p l (countFec p l.corrected s))) := by
  refine (unless_of_true hup).trans ((unless_of_true hcrc).trans ?_)
  rw [takeLcf_eq, hreplay]
  exact (apply_ite Host.Outcome.next _ _ _).symm

theorem flitCrcFail_down (h : (s.port p).linkUp = false) : exec (.flitCrcFail p) s = .next s :=
  unless_of_false h

/-- The CRC failures that count for CRC_RATE, with this one. -/
def crcWith (p : Nat) (s : State) : List Nat := s.clk.ticks :: (s.port p).crcTimes.filter fun t => decide (s.clk.ticks < t + 100000000)

/-- The next control flit asks for a replay, and the failure counts. -/
def noteCrcFail (p : Nat) (s : State) : State := s.mapPort p fun r => { r with wantReplay := true, crcTimes := crcWith p s }

theorem flitCrcFail_up (h : (s.port p).linkUp = true) :
    exec (.flitCrcFail p) s = .next (if (crcWith p s).length > 1000
      then linkFault p 3 ((noteCrcFail p s).mapPort p fun r => { r with crcTimes := [] }) else noteCrcFail p s) :=
  unless_of_true h

theorem sendLcf_up (h : (s.port p).linkUp = true) :
    sendLcf p s = (s.mapPort p fun r => { r with wantReplay := false }).emit (.lcf p {
      crcOk := true, acked := (s.port p).rxCount, replay := if (s.port p).wantReplay then some (s.port p).rxSeq else none,
      credits := (s.port p).freed }) :=
  unless_of_true h

end

/-! ## What a port sends (R321) -/

section
variable {p : Nat} {s : State}

theorem pumpTx_of_pick {f : TxMsg} (n : Nat) (h : pickTx s p = some f) : pumpTx p (n + 1) s = pumpTx p n (sendFlit p f s) := by
  rw [pumpTx, h]

theorem pumpTx_of_none (h : pickTx s p = none) : ∀ n, pumpTx p n s = s
  | 0 => rfl
  | n + 1 => by rw [pumpTx, h]

theorem pumpPort_of_empty (h : (s.port p).txq = []) : pumpPort p s = s := by
  rw [pumpPort, h]
  rfl

end

/-! ## A chip between (R344, R345) -/

section
variable {hd : FlitHdr} {src dest : Nat} {flit : Bytes} {s v : State}

/-- The port toward a chip is ACTIVE over a running link. -/
def LegRuns (v : State) (dest : Nat) : Prop := (v.port (myPort v dest)).state = .active ∧ (v.port (myPort v dest)).linkUp = true

theorem not_legRuns (h : (v.port (myPort v dest)).state ≠ .active ∨ (v.port (myPort v dest)).linkUp = false) : ¬ LegRuns v dest :=
  fun hleg => h.elim (fun hstate => hstate hleg.1) (fun hdown => by simp [hleg.2] at hdown)

/-- The model's check of that port. -/
theorem legRuns_iff : ((v.port (myPort v dest)).state == .active && (v.port (myPort v dest)).linkUp) = true ↔ LegRuns v dest := by
  rw [Bool.and_eq_true, beq_iff_eq, LegRuns]

/-- What a probe that is delivered does. -/
def takeProbe (hd : FlitHdr) (src dest : Nat) (v : State) : State :=
  if dest = chipId v then ctrlTo hd.orig pmProbeAnswer [src, dest] [] v
  else if (v.port (myPort v dest)).state == .active && (v.port (myPort v dest)).linkUp then ctrlTo dest pmProbe [src, dest] [] v
  else ctrlTo src pmUnreachable [dest] [] v

theorem detourProbe_eq (hd : FlitHdr) (src dest : Nat) (s : State) :
    exec (.detourProbe hd src dest) s = .next (onMessage hd 4 false 1 (takeProbe hd src dest) s) := rfl

theorem detourProbe_delivered {x : State} (hr : receive hd 4 false 1 s = (v, true)) (hx : takeProbe hd src dest v = x) :
    exec (.detourProbe hd src dest) s = .next (ackPast hd 4 x) := by
  obtain ⟨rfl, hdeliv⟩ := Prod.ext_iff.mp hr
  rw [detourProbe_eq, onMessage_of_delivered hdeliv hx]

theorem takeProbe_passes (hd : FlitHdr) (src : Nat) (h : dest ≠ chipId v) (hleg : LegRuns v dest) :
    takeProbe hd src dest v = ctrlTo dest pmProbe [src, dest] [] v :=
  (if_neg h).trans (if_pos (legRuns_iff.mpr hleg))

theorem takeProbe_unreachable (hd : FlitHdr) (src : Nat) (h : dest ≠ chipId v) (hleg : ¬ LegRuns v dest) :
    takeProbe hd src dest v = ctrlTo src pmUnreachable [dest] [] v :=
  (if_neg h).trans (if_neg (mt legRuns_iff.mp hleg))

/-- A flit that has come in order in its port's link. -/
def countFlit (p : Nat) (s : State) : State :=
  s.mapPort p fun r => { r with rxSeq := (r.rxSeq + 1) % 65536, rxCount := (r.rxCount + 1) % 65536 }

/-- The channel of a flit, by its header. -/
def flitChannel (flit : Bytes) : Nat := channelOf (fieldB flit 0 1 % 8) ((fieldB flit 0 1).testBit 6)

/-- A detoured flit as the transmitter of the port onward holds it. -/
def onward (hd : FlitHdr) (dest : Nat) (flit : Bytes) : TxMsg :=
  { ch := flitChannel flit, cls := fieldB flit 0 1 % 8, isle := fieldB flit 1 1 % 32, dest := dest, left := 1, begun := true,
    again := some hd.fseq, fwd := some hd.port, msg := .peer dest pmForward [hd.orig, dest] flit }

/-- A detoured flit waits on the port onward, or is lost and frees its buffer. -/
def passFlit (hd : FlitHdr) (dest : Nat) (flit : Bytes) (v : State) : State :=
  if (v.port (myPort v dest)).state == .active && (v.port (myPort v dest)).linkUp then enqueue (myPort v dest) (onward hd dest flit) v
  else freeCredit hd.port (creditOf (flitChannel flit) true) 1 v

theorem detourFlit_discarded (h : s.boot.inReset = true ∨ (s.port hd.port).linkUp = false ∨ hd.lseq ≠ (s.port hd.port).rxSeq) :
    exec (.detourFlit hd dest flit) s = .next s :=
  if_pos (by simpa using h)

theorem detourFlit_inOrder (hreset : s.boot.inReset = false) (hup : (s.port hd.port).linkUp = true)
    (hseq : hd.lseq = (s.port hd.port).rxSeq) :
    exec (.detourFlit hd dest flit) s = .next (passFlit hd dest flit (countFlit hd.port s)) :=
  if_neg (by simp [hreset, hup, hseq])

theorem passFlit_waits (hleg : LegRuns v dest) : passFlit hd dest flit v = enqueue (myPort v dest) (onward hd dest flit) v :=
  if_pos (legRuns_iff.mpr hleg)

theorem passFlit_lost (hleg : ¬ LegRuns v dest) :
    passFlit hd dest flit v = freeCredit hd.port (creditOf (flitChannel flit) true) 1 v :=
  if_neg (mt legRuns_iff.mp hleg)

end

/-! ## Reception (R322, R323, R325) -/

section
variable {h : FlitHdr} {cls n : Nat} {reply : Bool} {s t : State}

/-- Flits of a message that the link has brought before. -/
def hadBefore (h : FlitHdr) (s : State) : Nat := ((s.port h.port).rxSeq + 65536 - h.lseq) % 65536

/-- The link's account once a message of n flits is in, the first of them had before. -/
def countFlits (h : FlitHdr) (n : Nat) (s : State) : State :=
  s.mapPort h.port fun r => { r with rxSeq := (h.lseq + n) % 65536, rxCount := (r.rxCount + (n - hadBefore h s)) % 65536 }

/-- How far a message's flow is past the message's first flit. -/
def flowPast (h : FlitHdr) (cls : Nat) (t : State) : Nat := (fseqNext t h.orig cls + 65536 - h.fseq) % 65536

/-- What the incarnation and the flow make of a message that its link has brought, fresh of its flits for the first time. -/
def admitMessage (h : FlitHdr) (cls : Nat) (reply : Bool) (n fresh : Nat) (t : State) : State × Bool :=
  if incOf t h.orig ≠ h.inc then
    (freeCredit h.port (channelOf cls reply) fresh (t.mapPort h.port fun r => { r with stale := sat32 (r.stale + fresh) }), false)
  else if flowPast h cls t < n then
    (freeCredit h.port (channelOf cls reply) fresh (t.mapArch fun a =>
      { a with fseqRx := pSet (h.orig, cls) ((h.fseq + n) % 65536) a.fseqRx }), true)
  else if flowPast h cls t < 32768 then (freeCredit h.port (channelOf cls reply) fresh t, false)
  else (t.mapPort h.port fun r => { r with
    rxHeld := r.rxHeld ++ [{ orig := h.orig, cls := cls, fseq := h.fseq, ch := channelOf cls reply, left := fresh }] }, false)

theorem receive_discarded (hreset : s.boot.inReset = false) (ho : h.orig ≠ chipId s)
    (hl : (s.port h.port).linkUp = false ∨ n ≤ hadBefore h s) : receive h cls reply n s = (s, false) :=
  (if_neg (ne_true_of_eq_false hreset)).trans ((if_neg ho).trans (if_pos (by simpa [hadBefore] using hl)))

theorem receive_brought (hreset : s.boot.inReset = false) (ho : h.orig ≠ chipId s) (hup : (s.port h.port).linkUp = true)
    (hn : hadBefore h s < n) : receive h cls reply n s = admitMessage h cls reply n (n - hadBefore h s) (countFlits h n s) :=
  (if_neg (ne_true_of_eq_false hreset)).trans ((if_neg ho).trans (if_neg (by simpa [hup, hadBefore] using hn)))

variable {fresh : Nat}

theorem admitMessage_stale (hinc : incOf t h.orig ≠ h.inc) : admitMessage h cls reply n fresh t =
    (freeCredit h.port (channelOf cls reply) fresh (t.mapPort h.port fun r => { r with stale := sat32 (r.stale + fresh) }), false) :=
  if_pos hinc

theorem admitMessage_delivers (hinc : incOf t h.orig = h.inc) (hflow : flowPast h cls t < n) : admitMessage h cls reply n fresh t =
    (freeCredit h.port (channelOf cls reply) fresh (t.mapArch fun a =>
      { a with fseqRx := pSet (h.orig, cls) ((h.fseq + n) % 65536) a.fseqRx }), true) :=
  (if_neg (not_not_intro hinc)).trans (if_pos hflow)

theorem admitMessage_repeated (hinc : incOf t h.orig = h.inc) (hflow : n ≤ flowPast h cls t) (hpast : flowPast h cls t < 32768) :
    admitMessage h cls reply n fresh t = (freeCredit h.port (channelOf cls reply) fresh t, false) :=
  (if_neg (not_not_intro hinc)).trans ((if_neg (Nat.not_lt.mpr hflow)).trans (if_pos hpast))

theorem admitMessage_ahead (hinc : incOf t h.orig = h.inc) (hflow : n ≤ flowPast h cls t) (hahead : 32768 ≤ flowPast h cls t) :
    admitMessage h cls reply n fresh t = (t.mapPort h.port fun r => { r with
      rxHeld := r.rxHeld ++ [{ orig := h.orig, cls := cls, fseq := h.fseq, ch := channelOf cls reply, left := fresh }] }, false) :=
  (if_neg (not_not_intro hinc)).trans ((if_neg (Nat.not_lt.mpr hflow)).trans (if_neg (Nat.not_lt.mpr hahead)))

end

/-! ## The obligation -/

/-- Settles O43: the link's own flits by what they say, a chip between by its leg onward, reception check by check (logs 37 and 132). -/
theorem flitsAreReplayed : Obligations.FlitsAreReplayed := by
  unfold Obligations.FlitsAreReplayed
  refine ⟨?link, ?between, ?reception⟩
  case link =>
    rintro p l s x hup rfl
    refine ⟨fun hn => if_pos hn, ?fec, ?bad, ?good, sendLcf_up hup, ?crc⟩
    case fec =>
      rintro ts hn rfl
      exact ⟨countFec_within hn, countFec_exceeded hn⟩
    case bad =>
      rintro n u hcrc rfl rfl
      rw [linkControlFlit_bad hup hcrc]
      exact ⟨fun hfew => congrArg _ (if_neg (Nat.not_le.mpr hfew)), fun hmany => congrArg _ (if_pos hmany)⟩
    case good =>
      rintro left u hcrc rfl rfl
      refine ⟨linkControlFlit_acks hup hcrc, ?_⟩
      rintro q n v hq rfl rfl
      rw [linkControlFlit_replays hup hcrc hq]
      exact ⟨fun hfew => congrArg _ (if_neg (Nat.not_le.mpr hfew)), fun hmany => congrArg _ (if_pos hmany)⟩
    case crc =>
      rintro ts u rfl rfl
      rw [flitCrcFail_up hup]
      exact ⟨fun hfew => congrArg _ (if_neg (Nat.not_lt.mpr hfew)), fun hmany => congrArg _ (if_pos hmany)⟩
  case between =>
    intro p src dest hd s v
    refine ⟨fun hdown => ⟨fun l => linkControlFlit_down hdown, flitCrcFail_down hdown⟩, pumpPort_of_empty, fun hnone => pumpTx_of_none hnone _,
      fun n f => pumpTx_of_pick n, fun hr => congrArg _ (onMessage_of_undelivered hr), fun hr => ?probe, ?flit, fun flit => detourFlit_discarded⟩
    case probe =>
      exact ⟨fun hself => detourProbe_delivered hr (if_pos hself),
        fun hother hactive hup => detourProbe_delivered hr (takeProbe_passes hd src hother ⟨hactive, hup⟩),
        fun hother hleg => detourProbe_delivered hr (takeProbe_unreachable hd src hother (not_legRuns hleg))⟩
    case flit =>
      rintro flit cls ch hreset hup hseq rfl rfl rfl
      rw [detourFlit_inOrder hreset hup hseq]
      exact ⟨fun hactive hrun => congrArg _ (passFlit_waits ⟨hactive, hrun⟩), fun hleg => congrArg _ (passFlit_lost (not_legRuns hleg))⟩
  case reception =>
    rintro hd cls n had before reply s t hreset ho rfl hbefore rfl
    refine ⟨receive_discarded hreset ho,
      fun hup hn hinc => (receive_brought hreset ho hup hn).trans (admitMessage_stale hinc), fun hup hn hinc => ?_⟩
    rw [hbefore, receive_brought hreset ho hup hn]
    exact ⟨admitMessage_delivers hinc, admitMessage_repeated hinc, admitMessage_ahead hinc⟩

end Sys2Proof.Machine
end

section
/-! Window requests and collective parts at their target, and the replies at their source (O44). -/

namespace Sys2Proof.Machine

/-! ## Requests at their target (Table 13.8, R336, R341) -/

section
variable {o src dst inc idx off bytes right : Nat} {kv : Bool} {s : State}

theorem windowCheck_fenced (h : (s.isle dst).state = .quiescing ∨ (s.isle dst).state = .scrubbing ∨ s.arch.fenced.contains (o, src) = true) :
    windowCheck s o src dst inc idx off bytes right kv = .fenced :=
  if_pos h

theorem windowCheck_noWindow (hstate : (s.isle dst).state = .enabled) (hfence : s.arch.fenced.contains (o, src) = false)
    (hnone : aGet (s.isle dst).windows idx = none) : windowCheck s o src dst inc idx off bytes right kv = .notOpen := by
  rw [windowCheck, if_neg (by rw [hstate, hfence]; decide), hnone]

end

/-- What a chip does with a request that it has checked: it serves it, or refuses it with the check's code; a halted chip does nothing. -/
def answerRequest (o cls dst idx tag : Nat) (c : WinCheck) (serve : Window → State → State) (t : State) : State :=
  if t.halt.isSome then t else
  match c with
  | .fenced => refuseReq o cls dst idx tag 2 t
  | .notOpen => refuseReq o cls dst idx tag 1 t
  | .ok w => serve w t

section
variable {o cls dst idx tag : Nat} {c : WinCheck} {serve : Window → State → State} {t : State}

theorem answerRequest_serves {w : Window} (hrun : t.halt = none) (hc : c = .ok w) : answerRequest o cls dst idx tag c serve t = serve w t := by
  subst hc
  exact if_neg (by simp [hrun])

theorem answerRequest_fenced (hrun : t.halt = none) (hc : c = .fenced) :
    answerRequest o cls dst idx tag c serve t = refuseReq o cls dst idx tag 2 t := by
  subst hc
  exact if_neg (by simp [hrun])

theorem answerRequest_notOpen (hrun : t.halt = none) (hc : c = .notOpen) :
    answerRequest o cls dst idx tag c serve t = refuseReq o cls dst idx tag 1 t := by
  subst hc
  exact if_neg (by simp [hrun])

end

/-- A window request at its target. Its way, 0 for a write and 1 for a read, is its flow's class and the right that it needs. -/
def takeRequest (m : WinMsg) (way : Nat) (serve : Window → State → State) (t : State) : State :=
  answerRequest m.hdr.orig way m.dstIsle m.window m.tag
    (windowCheck t m.hdr.orig m.srcIsle m.dstIsle m.hdr.inc m.window m.offset m.bytes way m.kv) serve t

/-- What the target answers to a request that is delivered, by what its checks find. -/
theorem takeRequest_answers {m : WinMsg} {way n : Nat} {serve : Window → State → State} {s t : State}
    (hr : (receive m.hdr way false n s).2 = true) (ht : t = (receive m.hdr way false n s).1) (hrun : t.halt = none) :
    (∀ w, windowCheck t m.hdr.orig m.srcIsle m.dstIsle m.hdr.inc m.window m.offset m.bytes way m.kv = .ok w →
      onMessage m.hdr way false n (takeRequest m way serve) s = ackPast m.hdr way (serve w t)) ∧
    ((t.isle m.dstIsle).state = .quiescing ∨ (t.isle m.dstIsle).state = .scrubbing ∨ t.arch.fenced.contains (m.hdr.orig, m.srcIsle) = true →
      onMessage m.hdr way false n (takeRequest m way serve) s =
        ackPast m.hdr way (refuseReq m.hdr.orig way m.dstIsle m.window m.tag 2 t)) ∧
    ((t.isle m.dstIsle).state = .enabled → t.arch.fenced.contains (m.hdr.orig, m.srcIsle) = false →
      aGet (t.isle m.dstIsle).windows m.window = none →
      onMessage m.hdr way false n (takeRequest m way serve) s =
        ackPast m.hdr way (refuseReq m.hdr.orig way m.dstIsle m.window m.tag 1 t)) := by
  subst ht
  exact ⟨fun w hok => onMessage_of_delivered hr (answerRequest_serves hrun hok),
    fun hfence => onMessage_of_delivered hr (answerRequest_fenced hrun (windowCheck_fenced hfence)),
    fun hen hfree hnone => onMessage_of_delivered hr (answerRequest_notOpen hrun (windowCheck_noWindow hen hfree hnone))⟩

/-- A write that passes is written and acknowledged. -/
def serveWrite (m : WinMsg) (w : Window) (t : State) : State :=
  replyTo m.hdr.orig 0 m.dstIsle pmWriteAck [chipId t, m.tag] [] (windowPut m.dstIsle m.window m.offset w (plainBytes m.data) t)

theorem windowWrite_eq (m : WinMsg) (s : State) :
    exec (.windowWrite m) s = .next (onMessage m.hdr 0 false (flitsOf m.bytes) (takeRequest m 0 (serveWrite m)) s) := rfl

/-- A read that passes is answered with the window's bytes. -/
def serveRead (m : WinMsg) (w : Window) (t : State) : State :=
  replyTo m.hdr.orig 1 m.dstIsle pmReadData [chipId t, m.tag]
    (readBytes t m.dstIsle w.view (winAddr (t.isle m.dstIsle) w m.offset) m.bytes) t

theorem windowRead_eq (m : WinMsg) (s : State) :
    exec (.windowRead m) s = .next (onMessage m.hdr 1 false 1 (takeRequest m 1 (serveRead m)) s) := rfl

/-- A part as it is noted for the task that waits for it. -/
def landedPart (m : PartMsg) : Part :=
  { isle := m.srcIsle, collId := m.collId, boundary := m.boundary, round := m.round, pos := m.position, shard := m.shard, data := m.data }

/-- A part that passes, in its window's memory and among the parts that have come. -/
def notePart (m : PartMsg) (w : Window) (t : State) : State :=
  (windowPut m.srcIsle m.window m.offset w (plainBytes m.data) t).mapArch fun a => { a with parts := a.parts ++ [landedPart m] }

def servePart (m : PartMsg) (w : Window) (t : State) : State :=
  pumpColl m.srcIsle (replyTo m.hdr.orig 2 m.srcIsle pmWriteAck [chipId (notePart m w t), m.tag] [] (notePart m w t))

def takePart (m : PartMsg) (t : State) : State :=
  answerRequest m.hdr.orig 2 m.srcIsle m.window m.tag
    (windowCheck t m.hdr.orig m.srcIsle m.srcIsle m.hdr.inc m.window m.offset m.data.length 0 false) (servePart m) t

theorem collectPart_eq (m : PartMsg) (s : State) :
    exec (.collectPart m) s = .next (onMessage m.hdr 2 false (flitsOf m.data.length) (takePart m) s) := rfl

/-! ## Replies at the source (R336, R337) -/

/-- A reply acts on the request that it answers; one that answers none does nothing. -/
def forRequest (src tag : Nat) (f : WinReq → State → State) (t : State) : State :=
  match findReq t src tag with
  | none => t
  | some r => f r t

section
variable {src tag : Nat} {f : WinReq → State → State} {t : State}

theorem forRequest_none (h : findReq t src tag = none) : forRequest src tag f t = t := by rw [forRequest, h]

theorem forRequest_some {r : WinReq} {x : State} (h : findReq t src tag = some r) (hf : f r t = x) : forRequest src tag f t = x := by
  rw [forRequest, h, ← hf]

end

/-- The data of a read goes where its task asked for it, and the request is over. -/
def takeData (d : Bytes) (r : WinReq) (t : State) : State :=
  match r.read with
  | none => t
  | some (view, a) => reqDone r (writeProg r.isle view (coreOf t r.isle r.unit) a (plainBytes d) t)

/-- An acknowledgement ends a write. -/
def takeAcknowledgement (r : WinReq) (t : State) : State := if r.read.isSome then t else reqDone r t

/-- The task that waits for a request. -/
def taskOf (r : WinReq) (t : State) : Option Task :=
  (aGet (t.isle r.isle).units r.unit).bind fun x => x.running.find? fun q => q.id == r.task

/-- A request that its target does not admit has ended: the task takes a fault, but a page copy of the control firmware is sent again later. -/
def faultWaiting (r : WinReq) (w : State) : State :=
  if r.unit = 0xFFFF then copyFailed r w else
  match taskOf r w with
  | none => w
  | some q => taskFault r.isle r.unit q 2 w

/-- A refused request ends; a fenced or stale one is lost. -/
def takeRefusal (code : Nat) (r : WinReq) (t : State) : State :=
  if code ≠ 1 then peerLost r (code = 2) (if code = 2 then 4 else 3) t
  else faultWaiting r (endReqs (fun q => q.tag == r.tag) t)

theorem readData_eq (hd : FlitHdr) (tag : Nat) (d : Bytes) (s : State) :
    exec (.readData hd tag d) s = .next (onMessage hd 1 true (flitsOf d.length) (forRequest hd.orig tag (takeData d)) s) := rfl

theorem writeAcknowledgement_eq (hd : FlitHdr) (cls tag : Nat) (s : State) :
    exec (.writeAcknowledgement hd cls tag) s = .next (onMessage hd cls true 1 (forRequest hd.orig tag takeAcknowledgement) s) := rfl

/-- The state in which the request has ended is not computed: both sides look for its task in it. -/
theorem windowRefusal_eq (hd : FlitHdr) (cls tag code : Nat) (s : State) :
    exec (.windowRefusal hd cls tag code) s = .next (onMessage hd cls true 1 (forRequest hd.orig tag (takeRefusal code)) s) := by
  change execWindowRefusal hd cls tag code s = _
  rw [execWindowRefusal]
  refine congrArg _ (congrArg (onMessage hd cls true 1 · s) (funext fun t => ?_))
  rw [forRequest]
  cases findReq t hd.orig tag with
  | none => rfl
  | some r =>
    refine ite_congr rfl (fun _ => rfl) fun _ => ?_
    generalize endReqs (fun q => q.tag == r.tag) t = w
    rfl

section
variable {r : WinReq} {t : State}

theorem takeData_of_read {view a : Nat} (d : Bytes) (h : r.read = some (view, a)) :
    takeData d r t = reqDone r (writeProg r.isle view (coreOf t r.isle r.unit) a (plainBytes d) t) := by
  rw [takeData, h]

theorem takeAcknowledgement_of_write (h : r.read = none) : takeAcknowledgement r t = reqDone r t :=
  if_neg (by simp [h])

theorem takeRefusal_faults {q : Task} {w : State} (hw : w = endReqs (fun q => q.tag == r.tag) t) (hu : r.unit ≠ 0xFFFF)
    (hq : taskOf r w = some q) : takeRefusal 1 r t = taskFault r.isle r.unit q 2 w := by
  rw [takeRefusal, if_neg (not_not_intro rfl), ← hw, faultWaiting, if_neg hu, hq]

theorem takeRefusal_copy (hu : r.unit = 0xFFFF) : takeRefusal 1 r t = copyFailed r (endReqs (fun q => q.tag == r.tag) t) :=
  (if_neg (not_not_intro rfl)).trans (if_pos hu)

theorem takeRefusal_fenced : takeRefusal 2 r t = peerLost r true 4 t := if_pos (by decide)

theorem takeRefusal_stale {code : Nat} (h1 : code ≠ 1) (h2 : code ≠ 2) : takeRefusal code r t = peerLost r false 3 t := by
  rw [takeRefusal, if_pos h1, if_neg h2, decide_eq_false h2]

end

/-! ## The obligation -/

/-- Settles O44: each request by the outcome of its checks, each reply by the request that it answers (logs 55 and 102). -/
theorem windowRequestsAnswered : Obligations.WindowRequestsAnswered := by
  unfold Obligations.WindowRequestsAnswered
  refine ⟨?requests, ?replies, ?parts⟩
  case requests =>
    rintro m s u v o rfl hu hv
    simp only [windowWrite_eq, windowRead_eq, Host.Outcome.next.injEq]
    exact ⟨fun hr => hu ▸ onMessage_of_undelivered hr, fun hr => hv ▸ onMessage_of_undelivered hr,
      fun hr hrun => takeRequest_answers hr hu hrun, fun hr hrun => takeRequest_answers hr hv hrun⟩
  case replies =>
    rintro hd cls tag d s u v rfl rfl
    simp only [readData_eq, writeAcknowledgement_eq, windowRefusal_eq, Host.Outcome.next.injEq]
    refine ⟨fun hr => onMessage_of_undelivered hr,
      fun hr => ⟨onMessage_of_undelivered hr, fun code => onMessage_of_undelivered hr⟩,
      fun hr => ⟨fun hnone => onMessage_of_delivered hr (forRequest_none hnone),
        fun r view a hreq hread => ?data⟩,
      fun hr => ⟨fun hnone => ⟨onMessage_of_delivered hr (forRequest_none hnone), fun code => onMessage_of_delivered hr (forRequest_none hnone)⟩,
        fun r hreq hread => ?ack, ?task, fun r hreq hunit => ?copy, fun r hreq => ?fenced, fun r code hreq h1 h2 => ?stale⟩⟩
    case data => exact onMessage_of_delivered hr (forRequest_some hreq (takeData_of_read d hread))
    case ack => exact onMessage_of_delivered hr (forRequest_some hreq (takeAcknowledgement_of_write hread))
    case task =>
      intro r w t hreq hw hunit htask
      exact onMessage_of_delivered hr (forRequest_some hreq (takeRefusal_faults hw hunit htask))
    case copy => exact onMessage_of_delivered hr (forRequest_some hreq (takeRefusal_copy hunit))
    case fenced => exact onMessage_of_delivered hr (forRequest_some hreq takeRefusal_fenced)
    case stale => exact onMessage_of_delivered hr (forRequest_some hreq (takeRefusal_stale h1 h2))
  case parts =>
    rintro m s t o rfl rfl
    simp only [collectPart_eq, Host.Outcome.next.injEq]
    refine ⟨fun hr => onMessage_of_undelivered hr, fun hr hrun => ⟨?passes, fun hc => ?fenced, fun hc => ?notOpen⟩⟩
    case passes =>
      rintro w u v x hok rfl rfl rfl
      exact onMessage_of_delivered hr (answerRequest_serves hrun hok)
    case fenced => exact onMessage_of_delivered hr (answerRequest_fenced hrun hc)
    case notOpen => exact onMessage_of_delivered hr (answerRequest_notOpen hrun hc)

end Sys2Proof.Machine
end

section
/-! Isles created, destroyed and enabled by commands that execute when they are accepted, and the target of an isle that is being
scrubbed (O15). -/

namespace Sys2Proof.Machine

theorem isleCreate_atOnce : AtOnce specIsleCreate := ⟨rfl, fun _ _ _ => rfl, rfl, fun _ _ _ => rfl⟩
theorem isleDestroy_atOnce : AtOnce specIsleDestroy := ⟨rfl, fun _ _ _ => rfl, rfl, fun _ _ _ => rfl⟩
theorem isleEnable_atOnce : AtOnce specIsleEnable := ⟨rfl, fun _ _ _ => rfl, rfl, fun _ _ _ => rfl⟩

/-! ## What the commands read and leave -/

theorem leavePool_tide (k : Nat) (s : State) : (leavePool k s).tide = s.tide := by
  rw [leavePool]
  split <;> rfl

theorem clearIsle_tideNow (k : Nat) (s : State) : tideNow (clearIsle k s) = tideNow s :=
  congrArg Tide.count (leavePool_tide k s)

theorem entAsk_running {n : Nat} {req : EntReq} {s : State} (h : s.ent.state = .running) : entAsk n req s = (.got, s) := by
  rw [entAsk, h]

/-- An isle with a target for the end of its scrub, and the command that waits for it (R376). -/
def Isle.bound (r : Isle) (target : IsleState) (fn seq : Nat) : Isle :=
  { r with target := target, targetCmd := some { fn := fn, seq := seq, target := target } }

/-! ## What the execution of each command does, by the isle's state -/

section
variable {fn tide : Nat} {c : Cmd} {s : State}

/-- A new isle: its record granted, standard class, an overrun limit of 4 epochs (R374, R381). -/
theorem runIsleCreate_grants (h : shortOf s (recIsle c.payload) (recGrant c.payload 2000) = none) :
    runIsleCreate fn c tide s = finishAt tide fn c.seq .sOk 0 {}
      (let t := setUnits (recIsle c.payload) (regrant (recIsle c.payload) (recGrant c.payload 2000)
        (s.mapIsle (recIsle c.payload) fun r =>
          { r with state := .created, target := .absent, cls := 1, overrunLimit := 4, pristine := true }))
      isleStateEvent (recIsle c.payload) .sOk (isleStateCode .created) (tideNow t) t) := by
  have hshort : shortage s (recIsle c.payload) (recGrant c.payload 2000) = none := by rw [shortage, h]
  rw [runIsleCreate]
  simp only [hshort]

/-- The first target command of an isle waits for the end of the scrub (Table 15.5). -/
theorem targetCommand_waits (target : IsleState) (h : (s.isle (argIsle c)).targetCmd = none) :
    targetCommand target fn c tide s =
      pendAt tide fn c.seq (s.mapIsle (argIsle c) fun r => r.bound target fn c.seq) := by
  rw [targetCommand, if_neg (by simp [h])]
  rfl

theorem runIsleDestroy_idle (h : busyIsle (s.isle (argIsle c)) = false) :
    runIsleDestroy fn c tide s = finishAt tide fn c.seq .sOk 0 {}
      (isleStateEvent (argIsle c) .sOk 0 (tideNow s) (clearIsle (argIsle c) s)) := by
  rw [runIsleDestroy, if_neg (by simp [h])]
  simp only [clearIsle_tideNow]

theorem runIsleDestroy_waits (h : busyIsle (s.isle (argIsle c)) = true) (hn : (s.isle (argIsle c)).targetCmd = none) :
    runIsleDestroy fn c tide s = pendAt tide fn c.seq (s.mapIsle (argIsle c) fun r => r.bound .absent fn c.seq) := by
  rw [runIsleDestroy, if_pos h, targetCommand_waits .absent hn]

/-- With epochs left and the entropy service running, the keys are drawn at once (R377, R419). -/
theorem runIsleEnable_idle (h : busyIsle (s.isle (argIsle c)) = false) (he : epochsLeft s (argIsle c) = true)
    (hr : s.ent.state = .running) :
    runIsleEnable fn c tide s = finishAt tide fn c.seq .sOk 0 {} (becomeEnabled (argIsle c) s) := by
  rw [runIsleEnable, if_neg (by simp [h]), if_neg (by simp [he]), entAsk_running hr]

theorem runIsleEnable_waits (h : busyIsle (s.isle (argIsle c)) = true) (hn : (s.isle (argIsle c)).targetCmd = none) :
    runIsleEnable fn c tide s = pendAt tide fn c.seq (s.mapIsle (argIsle c) fun r => r.bound .enabled fn c.seq) := by
  rw [runIsleEnable, if_pos h, targetCommand_waits .enabled hn]

end

/-! ## The obligation -/

/-- Settles O15, from what the execution of each command does in each state of the isle. -/
theorem isleCommandsExecute : Obligations.IsleCommandsExecute := by
  unfold Obligations.IsleCommandsExecute
  intro c s
  refine ⟨fun hs h => isleCreate_atOnce.runs h (runIsleCreate_grants hs),
    fun hb h => isleDestroy_atOnce.runs h (runIsleDestroy_idle hb),
    fun hb he hr h => isleEnable_atOnce.runs h (runIsleEnable_idle hb he hr),
    fun hb hn h => isleDestroy_atOnce.runs h (runIsleDestroy_waits hb hn),
    fun hb hn h => isleEnable_atOnce.runs h (runIsleEnable_waits hb hn)⟩

end Sys2Proof.Machine
end

section
/-! ISLE_QOS_SET and the overrun limit (O56): raising VCORE and posting the final entry leave every isle's limit. -/

namespace Sys2Proof.Machine

/-! ## VCORE commands leave the isles (R32, R33) -/

theorem avsDueFrom_isles (n : Nat) (s : State) : (avsDueFrom n s).isles = s.isles := by
  induction n generalizing s with
  | zero => rfl
  | succ n ih =>
    rw [avsDueFrom]
    split
    · rfl
    · split
      · exact ih _
      · rfl

theorem seekVcore_isles (g : Nat) (s : State) : (seekVcore g s).isles = s.isles := by
  have hdue : (avsDue s).isles = s.isles := avsDueFrom_isles 6 s
  simp only [seekVcore]
  split
  · exact hdue
  · split <;> exact hdue

theorem raiseFloor_isles (s : State) : (raiseFloor s).isles = s.isles := by
  rw [raiseFloor]
  split
  · rfl
  · exact seekVcore_isles 670 s

theorem raiseFloor_isle (s : State) (k : Nat) : (raiseFloor s).isle k = s.isle k := by
  rw [State.isle, raiseFloor_isles, State.isle]

/-! ## The overrun limit (R382) -/

theorem Posts.overrunLimit {s t : State} (h : Posts s t) (k : Nat) : (t.isle k).overrunLimit = (s.isle k).overrunLimit := by
  have hwork := h.work k
  unfold Isle.sameWork at hwork
  rw [hwork]

/-- The limit that ISLE_QOS_SET leaves, by the value it carries. -/
def limitAfter (v old : Nat) : Nat := if v = 0 then old else v

section
variable {fn tide : Nat} {c : Cmd} {s : State}

theorem runIsleQosSet_limit_named (hk : argIsle c < s.isles.length) :
    ((runIsleQosSet fn c tide s).isle (argIsle c)).overrunLimit =
      limitAfter (byteAt c.payload 2) (s.isle (argIsle c)).overrunLimit := by
  rw [runIsleQosSet, (posts_finishAt _ _ _ _ _ _ _).overrunLimit, raiseFloor_isle, isle_mapIsle_self _ _ _ hk]
  rfl

theorem runIsleQosSet_limit_other {j : Nat} (hj : j ≠ argIsle c) :
    ((runIsleQosSet fn c tide s).isle j).overrunLimit = (s.isle j).overrunLimit := by
  rw [runIsleQosSet, (posts_finishAt _ _ _ _ _ _ _).overrunLimit, raiseFloor_isle, isle_mapIsle_ne _ _ _ _ hj.symm]

end

/-! ## The check of its arguments -/

/-- What passes checks 1 to 7 has passed check 6. -/
theorem args_of_checkAll {s : State} {fn : Nat} {sp : CmdSpec} {c : Cmd} (h : checkAll s fn (some sp) c = none) :
    sp.args s fn c = true := by
  simp only [checkAll, Option.or_eq_none_iff] at h
  obtain ⟨-, -, h47⟩ := h
  by_contra hargs
  rw [checks47] at h47
  split at h47
  · cases h47
  · split at h47
    · cases h47
    · rw [if_pos (by simp [hargs])] at h47
      cases h47

theorem isleQosSet_limit_le {c : MbxArg} {s : State} (h : Accepted specIsleQosSet c s) : fieldB (bodyOf c) 2 1 ≤ 16 := by
  have hargs := args_of_checkAll h.passes
  simp only [specIsleQosSet, Bool.and_eq_true, decide_eq_true_eq] at hargs
  obtain ⟨⟨⟨-, -⟩, hlim⟩, -⟩ := hargs
  exact hlim

/-! ## The obligation -/

/-- Settles O56, from what the execution at the boundary leaves of each isle's limit. -/
theorem overrunLimitIsSet : Obligations.OverrunLimitIsSet := by
  unfold Obligations.OverrunLimitIsSet
  intro c s ok fn b e
  refine ⟨fun hv h => absurd (isleQosSet_limit_le h) (Nat.not_le.mpr hv), ?boundary⟩
  case boundary =>
    rintro k v rfl rfl hk hdue
    rw [due_runs (t := runIsleQosSet fn e b s) hdue rfl rfl]
    have hnamed := runIsleQosSet_limit_named (fn := fn) (tide := b) (c := e) hk
    exact ⟨fun hv => hnamed.trans (if_neg (Nat.one_le_iff_ne_zero.mp hv)), fun hv => hnamed.trans (if_pos hv),
      fun j hj => runIsleQosSet_limit_other hj⟩

end Sys2Proof.Machine
end

section
/-! Every command answers a next state (O2), and what a step does with the queue (O1). -/

namespace Sys2Proof.Machine

/-! ## Outcomes that are a next state -/

/-- The outcome is a next state. -/
def Takes (o : Host.Outcome State Fault Refusal) : Prop := ∃ t, o = .next t

theorem takes_next (t : State) : Takes (.next t) := ⟨t, rfl⟩

theorem takes_ite (c : Prop) [Decidable c] (a b : Host.Outcome State Fault Refusal) :
    Takes (if c then a else b) ↔ (c → Takes a) ∧ (¬c → Takes b) := by
  split <;> simp [*]

theorem takes_standbyAnswers (resp : Bytes) (s : State) : Takes (standbyAnswers resp s) := by
  simp only [standbyAnswers, ↓takes_ite, ↓takes_next, implies_true, and_self]

theorem takes_fwAnswers (resp : Bytes) (s : State) : Takes (fwAnswers resp s) := by
  simp only [fwAnswers, ↓takes_ite, ↓takes_next, implies_true, and_self]

/-! ## Every command -/

/-- The rows of the table by their shape: the answers of the standby controller and of the firmware; rows that conditions guard; tasks,
which answer whether or not one is at the front of the unit; rows that first look up the record that they are about, or read what the event
found; and all others, which answer one next state whatever the state is. -/
theorem exec_takes (i : Instr) (s : State) : Takes (exec i s) := by
  cases i
  case getEndpointId | getMctpVersionSupport | getMessageTypeSupport | getStandbyRecord | clearStandbyRecord | mctpAlertAck =>
    exact takes_standbyAnswers _ _
  case getFaultSummary | getFaultWord | getTelemetry => exact takes_fwAnswers _ _
  case getRegulator =>
    simp only [exec, execGetRegulator, ↓takes_ite, ↓takes_next, takes_fwAnswers, implies_true, and_self]
  case vstbyPowerOn | perstNAssert | cayPwrEnTristate | perstNRelease | brownout | railMargin | thermalThreshold | thermtrip |
      sensorFail | avsCommand | avsLost | telemetryRefresh | fuses | romLoad | fwStart | fwStartTimeout | memTest | portTrain | align |
      alignTimeout | hbmTrain | hbmZero | ready | tideSyncReleaseStopped | pushTransferDone | pushVerifyDone | markDrive | markDetect |
      checkMark | refclkLost | epochBoundary | subslotStart | registerWrite | tideCountLoRead | flrVf | surpriseDown | vfEnableClear |
      atsInvalidate | hostAccessFail | tlpError | stackFail | cayInsertion | cayPerstRelease | cayLinkUp | nvmeReady |
      cayIdentityCompare | cayHealthRead | cayRemoval | caySmartEvent | cayInboundRequest | governorCheckpoint | lifeDatePassed |
      cayShutdownDone | portTrainPattern | detourFlit | portRetrain | incarnationAnnounce | healthTestFail | entropyHoldExpiry |
      drbgReseed | samplePreload | extest | setEndpointId | bootImagePush | flitCrcFail | tideSyncRise | cayPrsntNChange |
      msixMaskChange =>
    simp only [exec, execVstbyPowerOn, execPerstNAssert, execCayPwrEnTristate, execPerstNRelease, execBrownout, execRailMargin,
      execThermalThreshold, execThermtrip, execSensorFail, execAvsCommand, execAvsLost, execTelemetryRefresh, execFuses, execRomLoad,
      execFwStart, execFwStartTimeout, execMemTest, execPortTrain, execAlign, execAlignTimeout, execHbmTrain, execHbmZero, execReady,
      execTideSyncReleaseStopped, execPushTransferDone, execPushVerifyDone, execMarkDrive, execMarkDetect, execCheckMark, execRefclkLost,
      execEpochBoundary, execSubslotStart, execRegisterWrite, execTideCountLoRead, execFlrVf, execSurpriseDown, execVfEnableClear,
      execAtsInvalidate, execHostAccessFail, execTlpError, execStackFail, execCayInsertion, execCayPerstRelease, execCayLinkUp,
      execNvmeReady, execCayIdentityCompare, execCayHealthRead, execCayRemoval, execCaySmartEvent, execCayInboundRequest,
      execGovernorCheckpoint, execLifeDatePassed, execCayShutdownDone, execPortTrainPattern, execDetourFlit, execPortRetrain,
      execIncarnationAnnounce, execHealthTestFail, execEntropyHoldExpiry, execDrbgReseed, execSamplePreload, execExtest,
      execSetEndpointId, execBootImagePush, execFlitCrcFail, execTideSyncRise, execCayPrsntNChange, execMsixMaskChange, ↓takes_ite,
      ↓takes_next, implies_true, and_self]
  case move | matmul | attend | verify | combine | vchain | tap | kvappend | kvflush | signal | wait =>
    simp only [exec, execMove, execMatmul, execAttend, execVerify, execCombine, execVchain, execTap, execKvappend, execKvflush,
      execSignal, execWait]
    split <;> exact takes_next _
  case strapLatch | configRequest | markRelease | completionDeadline | windowFence | scrubEnd | tierOnePatrol | onChipPatrol |
      spareCopyDone | retireCopyDone | dirtyCopyDone | fatalKeyDestroy | fatalPortsIdle | unitSelftestDone | caySpdm | cayPowerRelease |
      cayIoError | parkWriteStart | parkWriteDone | unparkReadDone | replicaCopyDone | migrateImageDone | linkControlFlit |
      probeTimeout | fseqDeliveredAck | sealJobAdmit | sealJobEnd | taskComplete | lcChallengeExpiry | refusalQuantum | peerAnswer |
      hostTransferDone =>
    simp only [exec, execStrapLatch, execConfigRequest, execMarkRelease, execCompletionDeadline, execWindowFence, execScrubEnd,
      execTierOnePatrol, execOnChipPatrol, execSpareCopyDone, execRetireCopyDone, execDirtyCopyDone, execFatalKeyDestroy,
      execFatalPortsIdle, execUnitSelftestDone, execCaySpdm, execCayPowerRelease, execCayIoError, execParkWriteStart, execParkWriteDone,
      execUnparkReadDone, execReplicaCopyDone, execMigrateImageDone, execLinkControlFlit, execProbeTimeout, execFseqDeliveredAck,
      execSealJobAdmit, execSealJobEnd, execTaskComplete, execLcChallengeExpiry, execRefusalQuantum, execPeerAnswer, execHostTransferDone]
    repeat' split
    all_goals exact takes_next _
  all_goals exact takes_next _

/-! ## The step -/

theorem step_nil {s : State} (h : s.pending = []) : step s = .next (tick s) := by
  simp only [step, h]

theorem step_cons {s : State} {c : Instr} {rest : List Instr} (h : s.pending = c :: rest) :
    step s = exec c { s with pending := rest } := by
  simp only [step, h]

/-! ## The obligations -/

/-- Settles O1: with nothing waiting the next state is one tick later. -/
theorem stepTakesTheFront : Obligations.StepTakesTheFront := by
  unfold Obligations.StepTakesTheFront
  refine ⟨fun c rest s => step_cons rfl, fun s hs => ⟨tick s, step_nil hs, rfl, rfl, rfl, rfl, rfl, rfl, ?counts, ?stands⟩⟩
  case counts =>
    intro haligned hfrozen
    simp [tick, haligned, hfrozen]
  case stands =>
    intro h
    have hstill : (s.tide.aligned && !s.tide.frozen) = false := by
      rcases h with h | h <;> simp [h]
    simp [tick, hstill]

/-- Settles O2, row by row of the table. -/
theorem everyCommandIsTaken : Obligations.EveryCommandIsTaken := by
  unfold Obligations.EveryCommandIsTaken
  refine ⟨exec_takes, fun s => ?step⟩
  case step =>
    cases h : s.pending with
    | nil => exact ⟨tick s, step_nil h⟩
    | cons c rest =>
      rw [step_cons h]
      exact exec_takes c _

end Sys2Proof.Machine
end

section
/-! FAULT_CLEAR (O57): what it clears, in which view, and that posting its entry leaves every fault view. -/

namespace Sys2Proof.Machine

/-! ## Masks of bits -/

/-- Adding 2^i to a number whose bit i is 0 sets that bit and no other. -/
theorem testBit_add_two_pow {m i : Nat} (h : m.testBit i = false) (j : Nat) :
    (m + 2 ^ i).testBit j = (m.testBit j || decide (i = j)) := by
  have hlow : m % 2 ^ i < 2 ^ i := Nat.mod_lt _ (Nat.two_pow_pos i)
  have hm : m = 2 ^ i * (m / 2 ^ i) + m % 2 ^ i := (Nat.div_add_mod m (2 ^ i)).symm
  have hadd : m + 2 ^ i = 2 ^ i * (m / 2 ^ i + 1) + m % 2 ^ i := by rw [Nat.mul_add]; omega
  have heven : m / 2 ^ i % 2 = 0 := by
    simpa [Nat.testBit_eq_decide_div_mod_eq] using h
  have hq := Nat.testBit_two_pow_mul_add (m / 2 ^ i) hlow j
  rw [← hm] at hq
  rw [hadd, Nat.testBit_two_pow_mul_add _ hlow, hq]
  rcases Nat.lt_trichotomy j i with hj | rfl | hj
  · simp [hj, Nat.ne_of_gt hj]
  · simp [Nat.testBit_zero, Nat.add_mod, heven]
  · obtain ⟨n, hn⟩ : ∃ n, j - i = n + 1 := ⟨j - i - 1, by omega⟩
    have hhalf : (m / 2 ^ i + 1) / 2 = m / 2 ^ i / 2 := by omega
    simp [Nat.not_lt.mpr hj.le, hn, Nat.testBit_succ, hhalf, Nat.ne_of_lt hj]

theorem testBit_setBit (m i j : Nat) : (setBit m i).testBit j = (m.testBit j || decide (i = j)) := by
  unfold setBit
  split
  next h =>
    by_cases hj : i = j
    · subst hj
      simp [h]
    · simp [hj]
  next h => exact testBit_add_two_pow (by simpa using h) j

theorem testBit_natMask (l : List Nat) (b : Nat) : (natMask l).testBit b = decide (b ∈ l) := by
  have hfold : ∀ (l : List Nat) (m : Nat), (l.foldl (fun m i => setBit m i) m).testBit b = (m.testBit b || decide (b ∈ l)) := by
    intro l
    induction l with
    | nil => simp
    | cons i l ih =>
      intro m
      rw [List.foldl_cons, ih, testBit_setBit]
      simp [Bool.or_assoc, eq_comm]
  simp [natMask, hfold]

theorem testBit_clearBits (d word mask b : Nat) :
    (clearBits d word mask).testBit b = (decide (b < 32) && (word.testBit b && (!mask.testBit b || fatalBit d b))) := by
  simp [clearBits, testBit_natMask]

/-! ## Maps by pairs -/

theorem pGet_pSet_self {α : Type} (k : Nat × Nat) (v : α) (l : List ((Nat × Nat) × α)) : pGet (pSet k v l) k = some v := by
  induction l with
  | nil => simp [pSet, pGet]
  | cons p l ih =>
    unfold pSet
    split
    · simp [pGet]
    · split
      · simp [pGet]
      next hne =>
        have hskip : (p.1.1 == k.1 && p.1.2 == k.2) = false := by
          simpa using fun h1 h2 => hne ⟨h1.symm, h2.symm⟩
        simpa [pGet, List.find?_cons, hskip] using ih

theorem pGet_pSet_ne {α : Type} {k j : Nat × Nat} (h : j ≠ k) (v : α) (l : List ((Nat × Nat) × α)) : pGet (pSet k v l) j = pGet l j := by
  have hskip : (k.1 == j.1 && k.2 == j.2) = false := by
    simpa using fun h1 h2 => h (Prod.ext h1.symm h2.symm)
  induction l with
  | nil => simp [pSet, pGet, hskip]
  | cons p l ih =>
    unfold pSet
    split
    · simp [pGet, List.find?_cons, hskip]
    · split
      next heq =>
        have hp : (p.1.1 == j.1 && p.1.2 == j.2) = false := by
          rw [← heq.1, ← heq.2]
          exact hskip
        simp [pGet, hskip, hp]
      · simp only [pGet, List.find?_cons] at ih ⊢
        split
        · rfl
        · exact ih

/-! ## Clearing in one view (R446, R449) -/

theorem instOf_clearInst_self (d i mask : Nat) (v : FaultView) :
    instOf (clearInst d i mask v) d i = { instOf v d i with word := clearBits d (instOf v d i).word mask } := by
  simp [clearInst, instOf, pGet_pSet_self]

theorem instOf_clearInst_ne {d i d' i' : Nat} (h : (d', i') ≠ (d, i)) (mask : Nat) (v : FaultView) :
    instOf (clearInst d i mask v) d' i' = instOf v d' i' := by
  simp [clearInst, instOf, pGet_pSet_ne h]

/-- A view after a clear: no class F bit of a 32-bit word has gone, and no bit is set that was not. -/
structure Cleared (v w : FaultView) : Prop where
  fatal : ∀ d i b, fatalBit d b = true → b < 32 → (instOf w d i).word.testBit b = (instOf v d i).word.testBit b
  unset : ∀ d i b, (instOf w d i).word.testBit b = true → (instOf v d i).word.testBit b = true

theorem Cleared.refl (v : FaultView) : Cleared v v := ⟨fun _ _ _ _ _ => rfl, fun _ _ _ h => h⟩

theorem cleared_clearInst (d i mask : Nat) (v : FaultView) : Cleared v (clearInst d i mask v) where
  fatal := by
    intro d' i' b hfatal hb
    by_cases h : (d', i') = (d, i)
    · obtain ⟨rfl, rfl⟩ := Prod.ext_iff.mp h
      simp [instOf_clearInst_self, testBit_clearBits, hfatal, hb]
    · rw [instOf_clearInst_ne h]
  unset := by
    intro d' i' b hset
    by_cases h : (d', i') = (d, i)
    · obtain ⟨rfl, rfl⟩ := Prod.ext_iff.mp h
      simp only [instOf_clearInst_self, testBit_clearBits, Bool.and_eq_true] at hset
      exact hset.2.1
    · rwa [instOf_clearInst_ne h] at hset

/-! ## Posting a final entry leaves the fault views -/

theorem isle_mapIsle_absent {s : State} {k : Nat} (hk : ¬k < s.isles.length) (f : Isle → Isle) (j : Nat) : (s.mapIsle k f).isle j = s.isle j := by
  have hset : setAt s.isles k f = s.isles := List.modify_eq_self (Nat.le_of_not_lt hk)
  rw [State.isle, State.mapIsle_isles, hset, State.isle]

/-- How an update of an isle changes isles, existing or not. -/
theorem isle_mapIsle_rel {R : Isle → Isle → Prop} (hrefl : ∀ x, R x x) {f : Isle → Isle} (h : ∀ x, R x (f x)) (s : State) (k j : Nat) :
    R (s.isle j) ((s.mapIsle k f).isle j) := by
  by_cases hl : k < s.isles.length
  · by_cases hk : k = j
    · subst hk
      rw [isle_mapIsle_self _ _ _ hl]
      exact h _
    · rw [isle_mapIsle_ne _ _ _ _ hk]
      exact hrefl _
  · rw [isle_mapIsle_absent hl]
    exact hrefl _

theorem isle_mapIsle_faults (s : State) (k j : Nat) (f : Isle → Isle) (h : ∀ x, (f x).faults = x.faults) :
    ((s.mapIsle k f).isle j).faults = (s.isle j).faults :=
  isle_mapIsle_rel (R := fun x y => y.faults = x.faults) (fun _ => rfl) h s k j

theorem noteCommand_isle_faults (tide fn : Nat) (c : Cmd) (st : Status) (w : Words) (s : State) (k : Nat) :
    ((noteCommand tide fn c st w s).isle k).faults = (s.isle k).faults := by
  unfold noteCommand logCommand
  dsimp only
  split
  · rfl
  · rw [isle_mapIsle_faults, isle_mapIsle_faults]
    all_goals exact fun _ => rfl

theorem setCause_isles (fn b : Nat) (s : State) : (setCause fn b s).isles = s.isles := by
  simp only [setCause, sendVector]
  repeat' split
  all_goals rfl

theorem writeEntry_isles (fn : Nat) (e : Entry) (s : State) : (writeEntry fn e s).isles = s.isles := by
  have hwrite : ∀ a bs (u : State), (hostWrite fn a bs u).isles = u.isles := fun a bs u => by rw [hostWrite_eq]
  unfold writeEntry
  generalize entryBytes e = bs
  dsimp only
  split <;> split <;> simp only [setCause_isles, hwrite, State.mapFunc_isles]

theorem postEntry_isles (fn : Nat) (e : Entry) (s : State) : (postEntry fn e s).isles = s.isles := by
  unfold postEntry
  dsimp only
  split
  · rfl
  · split
    · exact writeEntry_isles _ _ _
    · rw [setCause_isles, State.mapFunc_isles]

theorem finishAt_isle_faults (tide fn seq : Nat) (st : Status) (d : Nat) (w : Words) (s : State) (k : Nat) :
    ((finishAt tide fn seq st d w s).isle k).faults = (s.isle k).faults := by
  unfold finishAt
  split
  · rfl
  · rw [State.isle, postEntry_isles]
    exact noteCommand_isle_faults _ _ _ _ _ _ _

/-! ## FAULT_CLEAR -/

section
variable (spec : CmdSpec) (c : MbxArg) (st : Status) (w : Words) (eff : State → State) (s : State)

theorem answered_units : (answered spec c st w eff s).units = (eff (working spec c s)).units := by
  rw [answered, (posts_finishAt _ _ _ _ _ _ _).rest]

theorem answered_faults : (answered spec c st w eff s).faults = (eff (working spec c s)).faults := by
  rw [answered, (posts_finishAt _ _ _ _ _ _ _).rest]

theorem answered_isle_faults (k : Nat) : ((answered spec c st w eff s).isle k).faults = ((eff (working spec c s)).isle k).faults :=
  finishAt_isle_faults _ _ _ _ _ _ _ _

end

/-- An isle's own view is cleared in: from a virtual function, or isle 0's from the physical function. -/
theorem runFaultClear_isle {fn tide : Nat} {c : Cmd} {s : State} (hv : ¬(fn = 0 ∧ fView c = 0))
    (h : (namedInst s fn c).gen = fieldB c.payload 8 4) :
    ∃ w, runFaultClear fn c tide s = finishAt tide fn c.seq .sOk 0 w
      (s.mapIsle fn fun r => { r with faults := clearInst (fDomain c) (fInst c) (fieldB c.payload 4 4) r.faults }) := by
  have hgen : (instOf (faultView s fn (fView c)) (fDomain c) (fInst c)).gen = fieldB c.payload 8 4 := h
  simp only [runFaultClear, hgen, hv, ne_eq, not_true_eq_false, if_false]
  exact ⟨_, rfl⟩

/-- What FAULT_CLEAR can do: nothing (its GEN is not the current one), or clear in the one view that it names. -/
theorem faultClear_cases {c : MbxArg} {s : State} (h : Accepted specFaultClear c s) :
    ∃ st w eff, exec (.faultClear c) s = .next (answered specFaultClear c st w eff s) ∧
      (eff = id ∨ ∃ d i mask,
        (c.fn = 0 ∧ fieldB (bodyOf c) 2 1 = 0 ∧ eff = State.mapFaults (clearInst d i mask)) ∨
        (¬(c.fn = 0 ∧ fieldB (bodyOf c) 2 1 = 0) ∧
          eff = State.mapIsle c.fn fun r => { r with faults := clearInst d i mask r.faults })) := by
  by_cases hgen : (namedInst (working specFaultClear c s) c.fn (queued specFaultClear c s)).gen = fieldB (bodyOf c) 8 4
  · by_cases hv : c.fn = 0 ∧ fieldB (bodyOf c) 2 1 = 0
    case pos =>
      have hchip : (namedInst (working specFaultClear c s) c.fn (queued specFaultClear c s)) =
          instOf s.faults (fDomain (queued specFaultClear c s)) (fInst (queued specFaultClear c s)) := by
        obtain ⟨hfn, hview⟩ := hv
        have hf : fView (queued specFaultClear c s) = 0 := hview
        rw [namedInst, hf, hfn, faultView_chip, working_faults]
      rw [hchip] at hgen
      exact ⟨_, _, _, faultClear_atOnce.answers h (runFaultClear_chip (c := queued specFaultClear c s) hv.1 hv.2 hgen) fun _ => rfl,
        .inr ⟨_, _, _, .inl ⟨hv.1, hv.2, rfl⟩⟩⟩
    case neg =>
      obtain ⟨w, hrun⟩ := runFaultClear_isle (tide := tideNow s) (c := queued specFaultClear c s) hv hgen
      exact ⟨_, w, _, faultClear_atOnce.answers h hrun fun _ => rfl, .inr ⟨_, _, _, .inr ⟨hv, rfl⟩⟩⟩
  · exact ⟨_, _, id, faultClear_atOnce.answers h (runFaultClear_stale (c := queued specFaultClear c s) hgen) fun _ => rfl, .inl rfl⟩

/-- What a clear in a view leaves: every unit's retirement, class F bits and bits that were 0, and the views that it does not name. -/
structure ClearKeeps (fn view : Nat) (s t : State) : Prop where
  units : t.units = s.units
  chip : Cleared s.faults t.faults
  isle : ∀ k, Cleared (s.isle k).faults (t.isle k).faults
  chipKept : fn ≠ 0 ∨ view ≠ 0 → t.faults = s.faults
  isleKept : ∀ k, (fn = 0 ∧ view = 0) ∨ k ≠ fn → (t.isle k).faults = (s.isle k).faults

theorem clearKeeps_refl (fn view : Nat) (s : State) : ClearKeeps fn view s s :=
  ⟨rfl, .refl _, fun _ => .refl _, fun _ => rfl, fun _ _ => rfl⟩

theorem clearKeeps_chip (d i mask : Nat) (s : State) : ClearKeeps 0 0 s (s.mapFaults (clearInst d i mask)) :=
  ⟨rfl, cleared_clearInst _ _ _ _, fun _ => .refl _, fun h => by simp at h, fun _ _ => rfl⟩

theorem clearKeeps_isle {fn view : Nat} (h : ¬(fn = 0 ∧ view = 0)) (d i mask : Nat) (s : State) :
    ClearKeeps fn view s (s.mapIsle fn fun r => { r with faults := clearInst d i mask r.faults }) where
  units := rfl
  chip := .refl _
  isle := isle_mapIsle_rel (R := fun x y => Cleared x.faults y.faults) (fun _ => .refl _) (fun _ => cleared_clearInst _ _ _ _) s fn
  chipKept := fun _ => rfl
  isleKept := fun k hk => by rw [isle_mapIsle_ne _ _ _ _ (Ne.symm (hk.resolve_left h))]

theorem clearKeeps_answered {fn view : Nat} {spec : CmdSpec} {c : MbxArg} {st : Status} {w : Words} {eff : State → State} {s : State}
    (h : ClearKeeps fn view (working spec c s) (eff (working spec c s))) : ClearKeeps fn view s (answered spec c st w eff s) where
  units := (answered_units ..).trans h.units
  chip := answered_faults spec c st w eff s ▸ h.chip
  isle := fun k => answered_isle_faults spec c st w eff s k ▸ h.isle k
  chipKept := fun hv => (answered_faults ..).trans (h.chipKept hv)
  isleKept := fun k hk => (answered_isle_faults ..).trans (h.isleKept k hk)

theorem faultClear_keeps {c : MbxArg} {s t : State} (h : Accepted specFaultClear c s) (hnext : exec (.faultClear c) s = .next t) :
    ClearKeeps c.fn (fieldB (bodyOf c) 2 1) s t := by
  obtain ⟨st, w, eff, hexec, heff⟩ := faultClear_cases h
  obtain rfl : t = answered specFaultClear c st w eff s := by
    injection hnext.symm.trans hexec
  refine clearKeeps_answered ?_
  rcases heff with rfl | ⟨d, i, mask, ⟨hfn, hview, rfl⟩ | ⟨hv, rfl⟩⟩
  case inl => exact clearKeeps_refl _ _ _
  case inr.inl =>
    rw [hfn, hview]
    exact clearKeeps_chip _ _ _ _
  case inr.inr => exact clearKeeps_isle hv _ _ _ _

/-! ## The obligation -/

/-- Settles O57, by the one view that the command changes. -/
theorem faultClearKeeps : Obligations.FaultClearKeeps := by
  unfold Obligations.FaultClearKeeps
  intro c s t hacc hnext
  have hkeeps := faultClear_keeps hacc hnext
  exact ⟨hkeeps.units,
    fun d i b hfatal hb => ⟨hkeeps.chip.fatal d i b hfatal hb, fun k => (hkeeps.isle k).fatal d i b hfatal hb⟩,
    fun d i b => ⟨hkeeps.chip.unset d i b, fun k => (hkeeps.isle k).unset d i b⟩, hkeeps.chipKept, hkeeps.isleKept⟩

end Sys2Proof.Machine
end

section
/-! The entropy source's health and start-up tests, its hold, its generator's reseed, and a challenge's end (O46). -/

namespace Sys2Proof.Machine

/-! ## Health tests (Table 16.11) -/

/-- What one sample does to the last sample, the length of its run, and the longest run so far. -/
def runStep (p : Option Bool × Nat × Nat) (b : Bool) : Option Bool × Nat × Nat :=
  let n := if p.1 = some b then p.2.1 + 1 else 1
  (some b, n, max p.2.2 n)

theorem longestRun_eq (l : List Bool) : longestRun l = (l.foldl runStep (none, 0, 0)).2.2 := rfl

theorem runStep_longest_le (l : List Bool) (p : Option Bool × Nat × Nat) : p.2.2 ≤ (l.foldl runStep p).2.2 := by
  induction l generalizing p with
  | nil => exact Nat.le_refl _
  | cons b l ih => exact (Nat.le_max_left _ _).trans (ih (runStep p b))

/-- After n + 1 samples b the run of b is at least that long, and so is the longest. -/
theorem runStep_replicate (n : Nat) (b : Bool) (p : Option Bool × Nat × Nat) :
    ((List.replicate (n + 1) b).foldl runStep p).1 = some b ∧ n + 1 ≤ ((List.replicate (n + 1) b).foldl runStep p).2.1 ∧
      n + 1 ≤ ((List.replicate (n + 1) b).foldl runStep p).2.2 := by
  induction n with
  | zero =>
    simp only [List.replicate, List.foldl, runStep]
    split <;> simp
  | succ n ih =>
    obtain ⟨hlast, hrun, -⟩ := ih
    rw [List.replicate_succ', List.foldl_append]
    simp only [List.foldl, runStep, hlast, if_true, true_and]
    omega

/-- The repetition count test fails a window with 81 equal samples in a row. -/
theorem rctFails_of_run (l r : List Bool) (b : Bool) : rctFails (l ++ List.replicate 81 b ++ r) = true := by
  rw [rctFails, decide_eq_true_eq, longestRun_eq, List.foldl_append, List.foldl_append]
  obtain ⟨-, -, hlongest⟩ := runStep_replicate 80 b (l.foldl runStep (none, 0, 0))
  exact hlongest.trans (runStep_longest_le r _)

theorem aptFails_iff {l : List Bool} (h : l.length = 1024) : aptFails l = true ↔ 840 ≤ l.countP fun b => some b == l.head? := by
  have hwindow : l.take 1024 = l := List.take_of_length_le h.le
  simp [aptFails, h, hwindow]

/-! ## Samples of a window (R418, R419) -/

section
variable {sm : List Bool} {s : State}

/-- A failed test stops the source, and the restart is counted. -/
theorem healthTestFail_restarts {v : Nat} {w x u : State} (hup : s.standby.vstbyUp = true) (htest : s.ent.testing = false)
    (hfailed : s.ent.state ≠ .failed) (hrestarting : s.ent.state ≠ .restarting) (hsm : rctFails sm = true ∨ aptFails sm = true)
    (hw : w = if rctFails sm then recordFault dEntropy 0 0 {} [] s else s)
    (hx : x = if aptFails sm then recordFault dEntropy 0 1 {} [] w else w) (hdraw : drawNat x = (v, u)) :
    exec (.healthTestFail sm) s = .next (u.mapEnt fun e => { e with
      state := .restarting, testing := true, failTick := u.clk.ticks, testTick := u.clk.ticks, restarts := e.restarts + 1,
      buffer := e.buffer.take (v % (e.buffer.length + 1)) }) := by
  have hstands : (!s.standby.vstbyUp || s.ent.testing || s.ent.state == .failed || s.ent.state == .restarting) = false := by
    simp [hup, htest, hfailed, hrestarting]
  have hfails : (!(rctFails sm || aptFails sm)) = false := by rcases hsm with h | h <;> simp [h]
  subst hw hx
  simp only [exec, execHealthTestFail, hstands, hfails, hdraw, Bool.false_eq_true, if_false]

theorem healthTestFail_passes (hr : rctFails sm = false) (ha : aptFails sm = false) : exec (.healthTestFail sm) s = .next s := by
  simp [exec, execHealthTestFail, hr, ha]

theorem healthTestFail_failed (h : s.ent.state = .failed) : exec (.healthTestFail sm) s = .next s := by
  simp [exec, execHealthTestFail, h]

end

/-! ## Start-up tests (R418, R419) -/

/-- Both tests of Table 16.11 pass. -/
def samplesPass (sm : List Bool) : Bool := !rctFails sm && !aptFails sm

theorem samplesPass_true {sm : List Bool} (hr : rctFails sm = false) (ha : aptFails sm = false) : samplesPass sm = true := by
  simp [samplesPass, hr, ha]

theorem samplesPass_false {sm : List Bool} (h : rctFails sm = true ∨ aptFails sm = true) : samplesPass sm = false := by
  rcases h with h | h <;> simp [samplesPass, h]

theorem startupTestDone_idle {s : State} (h : s.ent.testing = false) (sm : List Bool) :
    exec (.startupTestDone sm) s = .next (pumpAll cmdTable s) := by
  simp [exec, execStartupTestDone, onStartupTestDone, h]

section
variable {s u : State} (hup : s.standby.vstbyUp = true) (htest : s.ent.testing = true) (hu : u = advanceTicks (s.ent.testTick + 101200) s)
  (sm : List Bool)
include hup htest hu

theorem startupTestDone_unstarted (h : s.ent.state = .unstarted) :
    exec (.startupTestDone sm) s = .next (pumpAll cmdTable (
      if samplesPass sm then (if s.ent.kat then serviceRuns u else u.mapEnt fun e => { e with testing := false })
      else (if u.boot.inReset then recordFault dEntropy 0 2 {} [] u else u).mapEnt fun e =>
        { e with state := .restarting, failTick := u.clk.ticks, testTick := u.clk.ticks })) := by
  subst hu
  simp only [exec, execStartupTestDone, onStartupTestDone, hup, htest, Bool.not_true, Bool.or_self, Bool.false_eq_true, if_false,
    advanceTicks_ent, h, samplesPass]
  rfl

theorem startupTestDone_restarting (h : s.ent.state = .restarting) :
    exec (.startupTestDone sm) s = .next (pumpAll cmdTable (
      if s.ent.failTick + 2000000 < u.clk.ticks then serviceFails u
      else if !samplesPass sm then u.mapEnt fun e => { e with testTick := u.clk.ticks }
      else if s.ent.kat then serviceRuns (advanceTicks (u.clk.ticks + 38400) u)
      else (advanceTicks (u.clk.ticks + 38400) u).mapEnt fun e => { e with state := .unstarted, testing := false })) := by
  subst hu
  simp only [exec, execStartupTestDone, onStartupTestDone, hup, htest, Bool.not_true, Bool.or_self, Bool.false_eq_true, if_false,
    advanceTicks_ent, h, samplesPass]
  rfl

theorem startupTestDone_failed (h : s.ent.state = .failed) :
    exec (.startupTestDone sm) s = .next (pumpAll cmdTable (restartDone (samplesPass sm) u)) := by
  subst hu
  simp only [exec, execStartupTestDone, onStartupTestDone, hup, htest, Bool.not_true, Bool.or_self, Bool.false_eq_true, if_false,
    advanceTicks_ent, h, samplesPass]

end

/-! ## The hold, the generator and the challenge (R418, R419, R423) -/

section
variable {s : State}

theorem entropyHoldExpiry_fails (h : s.ent.state = .restarting) : exec .entropyHoldExpiry s = .next (serviceFails s) := if_pos h

theorem entropyHoldExpiry_other (h : s.ent.state ≠ .restarting) : exec .entropyHoldExpiry s = .next s := if_neg h

theorem drbgReseed_byCalls (h : s.ent.state = .running) (hc : 65536 ≤ s.ent.calls) : exec .drbgReseed s = .next (seedDrbg s) := by
  simp only [exec, execDrbgReseed, h, ne_eq, not_true_eq_false, if_false, hc, if_true]

theorem drbgReseed_byTime (h : s.ent.state = .running) (hc : s.ent.calls < 65536) :
    exec .drbgReseed s = .next (seedDrbg (advanceTicks (s.ent.seedTick + 100000000) s)) := by
  simp only [exec, execDrbgReseed, h, ne_eq, not_true_eq_false, if_false, Nat.not_le.mpr hc]

theorem lcChallengeExpiry_ends {x : Bytes × Nat} (h : s.sec.challenge = some x) :
    exec .lcChallengeExpiry s = .next ((advanceTicks (x.2 + 6000000000) s).mapSec fun c => { c with challenge := none }) := by
  simp only [exec, execLcChallengeExpiry, h]

theorem lcChallengeExpiry_none (h : s.sec.challenge = none) : exec .lcChallengeExpiry s = .next s := by
  simp only [exec, execLcChallengeExpiry, h]

end

/-! ## The obligation -/

/-- Settles O46, from what each event does in each state of the service. -/
theorem entropyServiceMoves : Obligations.EntropyServiceMoves := by
  unfold Obligations.EntropyServiceMoves
  refine ⟨fun s => ⟨fun sm v w x u => healthTestFail_restarts, fun sm => healthTestFail_passes, fun sm => healthTestFail_failed, ?startup,
    fun sm h => startupTestDone_idle h sm, entropyHoldExpiry_fails, entropyHoldExpiry_other, drbgReseed_byCalls,
    fun u h hc hu => hu ▸ drbgReseed_byTime h hc, ⟨rfl, rfl, rfl, rfl⟩, fun x => lcChallengeExpiry_ends, lcChallengeExpiry_none⟩,
    rctFails_of_run, fun l => aptFails_iff⟩
  case startup =>
    intro good bad u hr ha hbad hup htest hu
    have hgood := samplesPass_true hr ha
    replace hbad := samplesPass_false hbad
    refine ⟨fun h hk => ?passes, fun h hk => ?unproven, fun w h hw => ?fails, fun h ht hk => ?serves, fun h ht => ?again,
      fun h ht => ?ends, fun h => ?restart⟩
    case passes => simp only [startupTestDone_unstarted hup htest hu good h, hgood, hk, if_true]
    case unproven => simp only [startupTestDone_unstarted hup htest hu good h, hgood, hk, if_true, Bool.false_eq_true, if_false]
    case fails => simp only [startupTestDone_unstarted hup htest hu bad h, hbad, hw, Bool.false_eq_true, if_false]
    case serves =>
      simp only [startupTestDone_restarting hup htest hu good h, Nat.not_lt.mpr ht, hgood, hk, Bool.not_true,
        Bool.false_eq_true, if_false, if_true]
    case again => simp only [startupTestDone_restarting hup htest hu bad h, Nat.not_lt.mpr ht, hbad, Bool.not_false, if_false,
        if_true]
    case ends => simp only [startupTestDone_restarting hup htest hu bad h, ht, if_true]
    case restart =>
      simp only [startupTestDone_failed hup htest hu _ h, hgood, hbad, and_self]

end Sys2Proof.Machine
end

section
/-! JTAG and the standby controller (O47). -/

namespace Sys2Proof.Machine

/-! ## JTAG (R411, R481) -/

section
variable {s : State}

theorem idcode_first (h : s.fuses.stepping = 0xA1) : idcode s = 0x1D01098B := if_pos h

theorem idcode_later (h : s.fuses.stepping ≠ 0xA1) : idcode s = 0x2D01098B := if_neg h

theorem boundaryOpen_inReset (h : s.pins.perstN = false) : boundaryOpen s = true := by
  simp [boundaryOpen, h]

theorem boundaryOpen_released (h : s.pins.perstN = true) : boundaryOpen s = jtagFull s := by
  simp [boundaryOpen, h]

theorem samplePreload_open (h : boundaryOpen s = true) : exec .samplePreload s = .next
    ((s.mapSec fun c => { c with jtagIr := 2, boundary := pinLevels s }).emit (.jtag (pinLevels s))) := if_pos h

theorem samplePreload_closed (h : boundaryOpen s = false) : exec .samplePreload s = .next s := by
  simp only [exec, execSamplePreload, h, Bool.false_eq_true, if_false]

theorem extest_open (h : boundaryOpen s = true) : exec .extest s = .next
    ((List.range 12).foldl (fun s i => s.emit (.strobe (16 + i) (s.sec.boundary.testBit i))) (s.mapSec fun c => { c with jtagIr := 3 })) :=
  if_pos h

theorem extest_closed (h : boundaryOpen s = false) : exec .extest s = .next s := by
  simp only [exec, execExtest, h, Bool.false_eq_true, if_false]

/-- In the other life-cycle states an unlock whose SCOPE leaves JTAG out opens nothing (Table 16.6). -/
theorem jtagFull_locked {sc : Nat} (hlc0 : s.sec.lc ≠ 0) (hlc1 : s.sec.lc ≠ 1) (hlc4 : s.sec.lc ≠ 4)
    (hunlocked : s.sec.unlocked = some sc) (hsc : sc.testBit 0 = false) : jtagFull s = false := by
  simp [jtagFull, hlc0, hlc1, hlc4, hunlocked, hsc]

end

/-! ## Who answers over MCTP (R461) -/

section
variable {s : State} (resp : Bytes)

theorem standbyAnswers_up (h : s.standby.vstbyUp = true) : standbyAnswers resp s = .next (s.emit (.mctp resp)) := if_pos h

theorem standbyAnswers_down (h : s.standby.vstbyUp = false) : standbyAnswers resp s = .next s := by
  simp only [standbyAnswers, h, Bool.false_eq_true, if_false]

theorem fwAnswers_runs (h : s.standby.vstbyUp = true) (hfw : s.boot.fwRunning = true) (hreset : s.boot.inReset = false) :
    fwAnswers resp s = .next (s.emit (.mctp (0 :: resp))) := by
  simp [fwAnswers, h, hfw, hreset]

theorem fwAnswers_stopped (h : s.standby.vstbyUp = true) (hfw : s.boot.fwRunning = false) :
    fwAnswers resp s = .next (s.emit (.mctp [1])) := by
  simp [fwAnswers, h, hfw]

theorem fwAnswers_down (h : s.standby.vstbyUp = false) : fwAnswers resp s = .next s := by
  simp [fwAnswers, h]

end

/-! ## The standby controller's own answers (R447, R460 to R462) -/

section
variable {s : State}

theorem setEndpointId_up (h : s.standby.vstbyUp = true) (eid : Nat) : exec (.setEndpointId eid) s = .next
    ((s.mapStandby fun r => { r with eid := eid }).emit (.mctp ([0, 0] ++ natLe 1 eid ++ [0]))) := if_pos h

theorem setEndpointId_down (h : s.standby.vstbyUp = false) (eid : Nat) : exec (.setEndpointId eid) s = .next s := by
  simp only [exec, execSetEndpointId, h, Bool.false_eq_true, if_false]

theorem getMctpVersionSupport_up {v : Nat} {u : State} (h : s.standby.vstbyUp = true) (hdraw : drawNat s = (v, u)) :
    exec .getMctpVersionSupport s = .next (u.emit (.mctp ([0, 1] ++ natLe 4 v))) := by
  obtain ⟨rfl, rfl⟩ := Prod.mk.inj hdraw
  exact standbyAnswers_up (s := s.mapClk _) _ h

theorem clearStandbyRecord_up (h : s.standby.vstbyUp = true) : exec .clearStandbyRecord s = .next ((s.mapStandby fun r =>
    { r with brownout := false, strapUnstable := false, fatal := none, recFresh := false }).emit (.mctp [0])) := by
  simp only [exec, execClearStandbyRecord, h, if_true]
  exact standbyAnswers_up (s := s.mapStandby _) _ h

theorem clearStandbyRecord_down (h : s.standby.vstbyUp = false) : exec .clearStandbyRecord s = .next s := by
  simp only [exec, execClearStandbyRecord, h, Bool.false_eq_true, if_false]
  exact standbyAnswers_down _ h

/-- Only the sequence number in force releases ALERT_N. -/
theorem mctpAlertAck_current {seq : Nat} (h : s.standby.vstbyUp = true) (hseq : seq = s.faults.seq) :
    exec (.mctpAlertAck seq) s = .next ((s.mapPins fun p => { p with alertLow := alertHeld s }).emit (.mctp [0])) := by
  simp only [exec, execMctpAlertAck, ackAlert, h, hseq, if_true]
  exact standbyAnswers_up (s := s.mapPins _) _ h

theorem mctpAlertAck_stale {seq : Nat} (h : s.standby.vstbyUp = true) (hseq : seq ≠ s.faults.seq) :
    exec (.mctpAlertAck seq) s = .next (s.emit (.mctp [1])) := by
  simp only [exec, execMctpAlertAck, ackAlert, h, hseq, if_true, if_false]
  exact standbyAnswers_up _ h

theorem mctpAlertAck_down (h : s.standby.vstbyUp = false) (seq : Nat) : exec (.mctpAlertAck seq) s = .next s := by
  simp only [exec, execMctpAlertAck, h, Bool.false_eq_true, if_false]
  exact standbyAnswers_down _ h

/-! ## Readings of a regulator -/

theorem getRegulator_named {i : Nat} (h : i < s.boot.cfg.regulators.length) :
    exec (.getRegulator i) s = fwAnswers (s.power.tele.regulators.getD i []) s := if_pos h

theorem getRegulator_beyond {i : Nat} (h : s.boot.cfg.regulators.length ≤ i) : exec (.getRegulator i) s = standbyAnswers [1] s :=
  if_neg (Nat.not_lt.mpr h)

theorem getRegulator_stopped (h : s.standby.vstbyUp = true) (hfw : s.boot.fwRunning = false) (i : Nat) :
    exec (.getRegulator i) s = .next (s.emit (.mctp [1])) := by
  rcases Nat.lt_or_ge i s.boot.cfg.regulators.length with hi | hi
  · rw [getRegulator_named hi, fwAnswers_stopped _ h hfw]
  · rw [getRegulator_beyond hi, standbyAnswers_up _ h]

theorem getRegulator_down (h : s.standby.vstbyUp = false) (i : Nat) : exec (.getRegulator i) s = .next s := by
  rcases Nat.lt_or_ge i s.boot.cfg.regulators.length with hi | hi
  · rw [getRegulator_named hi, fwAnswers_down _ h]
  · rw [getRegulator_beyond hi, standbyAnswers_down _ h]

end

/-! ## The obligation -/

/-- Settles O47, from which of the standby controller and the firmware answers. -/
theorem sidebandsAnswer : Obligations.SidebandsAnswer := by
  unfold Obligations.SidebandsAnswer
  refine ⟨fun s => ⟨rfl, fun h => ?first, fun h => ?later, fun h => samplePreload_open (boundaryOpen_inReset h),
    fun h => extest_open (boundaryOpen_inReset h), fun h hfull => ?closed, fun sc _ => jtagFull_locked⟩,
    fun eid seq d i s => ⟨fun h => ?standby, fun h hfw hreset => ?firmware, fun h hfw => ?stopped, fun h => ?down⟩⟩
  case first => rw [← idcode_first h]; rfl
  case later => rw [← idcode_later h]; rfl
  case closed =>
    have hclosed := (boundaryOpen_released h).trans hfull
    exact ⟨samplePreload_closed hclosed, extest_closed hclosed⟩
  case standby =>
    exact ⟨setEndpointId_up h eid, standbyAnswers_up _ h, fun v u => getMctpVersionSupport_up h, standbyAnswers_up _ h,
      standbyAnswers_up _ h, clearStandbyRecord_up h, mctpAlertAck_current h, mctpAlertAck_stale h⟩
  case firmware =>
    exact ⟨fwAnswers_runs _ h hfw hreset, fwAnswers_runs _ h hfw hreset, fwAnswers_runs _ h hfw hreset,
      fun hi => (getRegulator_named hi).trans (fwAnswers_runs _ h hfw hreset),
      fun hi => (getRegulator_beyond hi).trans (standbyAnswers_up _ h)⟩
  case stopped =>
    exact ⟨fwAnswers_stopped _ h hfw, fwAnswers_stopped _ h hfw, fwAnswers_stopped _ h hfw, getRegulator_stopped h hfw i⟩
  case down =>
    exact ⟨setEndpointId_down h eid, standbyAnswers_down _ h, standbyAnswers_down _ h, standbyAnswers_down _ h, clearStandbyRecord_down h,
      mctpAlertAck_down h seq, fwAnswers_down _ h, fwAnswers_down _ h, fwAnswers_down _ h, getRegulator_down h i⟩

end Sys2Proof.Machine
end

section
/-! The thirteen operations on ciphertexts, as they issue (O52). -/

namespace Sys2Proof.Machine

/-! ## What the issue of a task leaves (R150, R235, R390) -/

/-- A switch of a pool core changes the pool's records and the core's operand buffers alone. -/
theorem poolSwitch_rest (k u : Nat) (s : State) :
    poolSwitch k u s = { s with pool := (poolSwitch k u s).pool,
                                mems := { s.mems with ob := (poolSwitch k u s).mems.ob, obPoison := (poolSwitch k u s).mems.obPoison } } := by
  unfold poolSwitch
  split
  · rfl
  · split
    · rfl
    · dsimp only
      split <;> split <;> rfl

theorem noteTurn_rest (k u : Nat) (s : State) : noteTurn k u s = { s with isles := (noteTurn k u s).isles } := by
  unfold noteTurn
  split <;> rfl

theorem issueTask_rest (k u : Nat) (t : Task) (s : State) :
    issueTask k u t s = { s with isles := (issueTask k u t s).isles, pool := (issueTask k u t s).pool,
                                 mems := { s.mems with ob := (issueTask k u t s).mems.ob, obPoison := (issueTask k u t s).mems.obPoison } } := by
  rw [issueTask, noteTurn_rest, poolSwitch_rest]
  rfl

theorem issueTask_raus (k u : Nat) (t : Task) (s : State) : (issueTask k u t s).raus = s.raus := by rw [issueTask_rest]
theorem issueTask_funcs (k u : Nat) (t : Task) (s : State) : (issueTask k u t s).funcs = s.funcs := by rw [issueTask_rest]
theorem issueTask_faults (k u : Nat) (t : Task) (s : State) : (issueTask k u t s).faults = s.faults := by rw [issueTask_rest]
theorem issueTask_host (k u : Nat) (t : Task) (s : State) : (issueTask k u t s).mems.host = s.mems.host := by rw [issueTask_rest]
theorem issueTask_lagoon (k u : Nat) (t : Task) (s : State) : (issueTask k u t s).mems.lagoon = s.mems.lagoon := by rw [issueTask_rest]
theorem issueTask_shelf (k u : Nat) (t : Task) (s : State) : (issueTask k u t s).mems.shelf = s.mems.shelf := by rw [issueTask_rest]
theorem issueTask_hbm (k u : Nat) (t : Task) (s : State) : (issueTask k u t s).mems.hbm = s.mems.hbm := by rw [issueTask_rest]

/-! ## RAUs -/

theorem rau_mapRau_self {s : State} {r : Nat} (f : Rau → Rau) (h : r < s.raus.length) : (s.mapRau r f).rau r = f (s.rau r) :=
  getD_setAt_self _ _ _ _ h

theorem rau_mapRau_ne {s : State} {r i : Nat} (f : Rau → Rau) (h : i ≠ r) : (s.mapRau r f).rau i = s.rau i :=
  getD_setAt_ne _ _ _ _ _ h.symm

theorem rau_issueTask (k u : Nat) (t : Task) (s : State) (i : Nat) : (issueTask k u t s).rau i = s.rau i := by
  rw [State.rau, issueTask_raus, State.rau]

/-! ## A SEAL task at the front (R425, R432, R441) -/

section
variable {op k u : Nat} {t : Task} {s : State}

theorem issueSeal_none (h : front s k u 10 = none) : issueSeal op k u s = s := by
  rw [issueSeal, frontIf, h]

variable (h : front s k u 10 = some t) (hop : (sealOf t.desc).op = op)
include h hop

theorem frontIf_seal : frontIf s k u 10 (fun d => fieldB d 16 1 == op) = some t :=
  frontIf_holds h (beq_iff_eq.mpr hop)

theorem issueSeal_outside (hin : sealInIsle (issueTask k u t s) (siteOf (issueTask k u t s) k u t) (sealOf t.desc) = false) :
    issueSeal op k u s = taskFault k u t 2 (issueTask k u t s) := by
  simp only [issueSeal, frontIf_seal h hop, hin, Bool.not_false, if_true]

theorem issueSeal_joins {r : Nat} (hin : sealInIsle (issueTask k u t s) (siteOf (issueTask k u t s) k u t) (sealOf t.desc) = true)
    (hr : rauOf (issueTask k u t s) (siteOf (issueTask k u t s) k u t).core = some r) :
    issueSeal op k u s = mapTask k u t.id (fun t => { t with busy := true }) ((issueTask k u t s).mapRau r fun x =>
      { x with queue := x.queue ++ [sealTaskOf (siteOf (issueTask k u t s) k u t) t] }) := by
  simp only [issueSeal, frontIf_seal h hop, hin, hr, Bool.not_true, Bool.false_eq_true, if_false]

theorem issueSeal_unserved {w : Site} (hw : w = siteOf (issueTask k u t s) k u t)
    (hin : sealInIsle (issueTask k u t s) w (sealOf t.desc) = true) (hr : rauOf (issueTask k u t s) w.core = none) :
    issueSeal op k u s =
      failSeal (2 * (w.core / 32) + w.core % 8 / 4) (sealTaskOf w t) none (statusCode .eFault) 0 (issueTask k u t s) := by
  subst hw
  simp only [issueSeal, frontIf_seal h hop, hin, hr, Bool.not_true, Bool.false_eq_true, if_false]

end

/-- An address elsewhere than the shelf is out of reach. -/
theorem sealInIsle_elsewhere {s : State} {w : Site} {d : SealD}
    (h : ∃ x ∈ sealAddrs d ++ [(d.out, 64)], spaceOf x.1 ≠ 2 ∧ spaceOf x.1 ≠ 3) : sealInIsle s w d = false := by
  obtain ⟨x, hx, h2, h3⟩ := h
  have hspace : ((sealAddrs d ++ [(d.out, 64)]).all fun r => spaceOf r.1 == 2 || spaceOf r.1 == 3) = false :=
    List.all_eq_false.mpr ⟨x, hx, by simp [h2, h3]⟩
  simp [sealInIsle, hspace]

/-- The task that has joined runs on its unit, busy. -/
theorem busy_of_joined {k u : Nat} {t : Task} {s : State} (h : front s k u 10 = some t) (r : Nat) (f : Rau → Rau) :
    ∃ y ∈ (unitOf (mapTask k u t.id (fun t => { t with busy := true }) ((issueTask k u t s).mapRau r f)) k u).running,
      y.id = t.id ∧ y.busy = true := by
  have hruns : t ∈ (unitOf (issueTask k u t s) k u).running := by simp [unitOf_issueTask h]
  obtain ⟨l, hq⟩ := queue_of_readyTask (readyTask_of_front h)
  obtain ⟨hk, hunit⟩ := unit_of_queue hq
  have hlen : k < (issueTask k u t s).isles.length := by
    rw [issueTask, mapUnit, State.mapIsle_isles, setAt_length, noteTurn_islesLength, poolSwitch_isles]
    exact hk
  have hget : aGet ((issueTask k u t s).isle k).units u = some (unitOf (issueTask k u t s) k u) := by
    rw [unitOf, units_issueTask hk, aGet_aMod_self, hunit]
    rfl
  rw [mapTask, unitOf_mapUnit (s := (issueTask k u t s).mapRau r f) hlen hget]
  exact ⟨_, List.mem_map_of_mem hruns, by simp⟩

/-! ## The obligation -/

/-- Settles O52: the thirteen rows are one operation, that of the task at the front. -/
theorem sealTasksRun : Obligations.SealTasksRun := by
  unfold Obligations.SealTasksRun
  intro k u s
  refine ⟨?issues, ?joins, fun t v w _ _ => sealInIsle_elsewhere, fun h => ?idle⟩
  case issues =>
    rintro r t v x w h rfl rfl hcases
    have hnext : ∀ op, (sealOf t.desc).op = op → (.next (issueSeal op k u s) : Host.Outcome State Fault Refusal) = .next x := by
      intro op hop
      rcases hcases with ⟨hin, hr, rfl⟩ | ⟨hin, hr, rfl⟩ | ⟨hin, rfl⟩
      · rw [issueSeal_joins h hop hin hr]
      · rw [issueSeal_unserved h hop rfl hin hr]
      · rw [issueSeal_outside h hop hin]
    exact ⟨hnext 1, hnext 2, hnext 3, hnext 4, hnext 5, hnext 6, hnext 7, hnext 8, hnext 9, hnext 10, hnext 11, hnext 12, hnext 13⟩
  case joins =>
    rintro r t v x w h rfl rfl - - hr rfl
    have hlen : r < (issueTask k u t s).raus.length := by rwa [issueTask_raus]
    refine ⟨?queue, fun i hi => ?others, issueTask_host k u t s, issueTask_lagoon k u t s, issueTask_shelf k u t s, issueTask_hbm k u t s,
      issueTask_funcs k u t s, issueTask_faults k u t s, fun _ _ => busy_of_joined h _ _⟩
    case queue => exact congrArg Rau.queue ((rau_mapRau_self _ hlen).trans (by rw [rau_issueTask]))
    case others => exact (rau_mapRau_ne _ hi).trans (rau_issueTask ..)
  case idle =>
    have hnext : ∀ op, (.next (issueSeal op k u s) : Host.Outcome State Fault Refusal) = .next s :=
      fun op => congrArg Host.Outcome.next (issueSeal_none h)
    exact ⟨hnext 1, hnext 2, hnext 3, hnext 4, hnext 5, hnext 6, hnext 7, hnext 8, hnext 9, hnext 10, hnext 11, hnext 12, hnext 13⟩

end Sys2Proof.Machine
end

section
/-! The jobs of the RAUs: admission and header checks, a job's end and its results, and the end of an operation (O53). -/

namespace Sys2Proof.Machine

/-! ## SEAL_JOB_ADMIT (R434, R438) -/

theorem sealJobAdmit_out {r : Nat} {s : State} (h : 4 ≤ r ∨ pastReady s = false) : exec (.sealJobAdmit r) s = .next s := by
  have hout : 4 ≤ r ∨ (!pastReady s) = true := by simpa using h
  simp only [exec, execSealJobAdmit, hout, if_true]

theorem not_out {r : Nat} {s : State} (hr : r < 4) (hp : pastReady s = true) : ¬(4 ≤ r ∨ (!pastReady s) = true) := by
  simp [hp, hr]

section
variable {r : Nat} {s u : State} {t : SealTask} (hu : u = s.mapRau r fun x => { x with queue := x.queue.filter (sealLive s) })
  (hr : r < 4) (hp : pastReady s = true)
include hu hr hp

/-- No RAU serves: what waits ends. -/
theorem sealJobAdmit_retired (hunit : unitState u 5 r = 2) (hfind : ((u.rau r).queue.find? fun t => !t.started) = some t) :
    exec (.sealJobAdmit r) s = .next (failSeal r t none (statusCode .eFault) 0 u) := by
  subst hu
  simp only [exec, execSealJobAdmit, not_out hr hp, if_false, hunit, if_true, hfind]

variable (hserved : unitState u 5 r = 2 → ((u.rau r).queue.find? fun t => !t.started) = none)
include hserved

theorem sealJobAdmit_held
    (h : counting u = false ∨ ((u.rau r).queue.any fun t => t.admitted.isSome) = true ∨ rauTurn u (runnable u (u.rau r)) = none) :
    exec (.sealJobAdmit r) s = .next u := by
  subst hu
  simp only [exec, execSealJobAdmit, not_out hr hp, if_false, ite_eq_right_iff.mpr hserved]
  split
  · rfl
  next hfree =>
    simp only [Bool.or_eq_true, Bool.not_eq_true', not_or, Bool.not_eq_true, Bool.not_eq_false] at hfree
    have hturn := (h.resolve_left (by simp [hfree.1])).resolve_left (by simp [hfree.2])
    simp only [hturn]

section
variable (hcount : counting u = true) (hidle : ((u.rau r).queue.any fun t => t.admitted.isSome) = false)
  (hturn : rauTurn u (runnable u (u.rau r)) = some t)
include hcount hidle hturn

/-- A task that has begun has its next job admitted, or waits. -/
theorem sealJobAdmit_begun (ht : t.started = true) : exec (.sealJobAdmit r) s = .next (admitJob r t u) := by
  subst hu
  simp only [exec, execSealJobAdmit, not_out hr hp, if_false, ite_eq_right_iff.mpr hserved, hcount, hidle, hturn, ht,
    Bool.not_true, Bool.or_self, Bool.false_eq_true, if_true]

/-- A task that has not begun passes its header checks first; where they leave it in the queue, begun, its first job is admitted. -/
theorem sealJobAdmit_begins {x : SealTask} (ht : t.started = false)
    (hfind : ((startSeal r t u).rau r).queue.find? (fun x => x.isle == t.isle && x.unit == t.unit && x.task == t.task) = some x) :
    exec (.sealJobAdmit r) s = .next (if x.started then admitJob r x (startSeal r t u) else startSeal r t u) := by
  subst hu
  simp only [exec, execSealJobAdmit, not_out hr hp, if_false, ite_eq_right_iff.mpr hserved, hcount, hidle, hturn, ht,
    hfind, Bool.not_true, Bool.or_self, Bool.false_eq_true]

theorem sealJobAdmit_fails (ht : t.started = false)
    (hfind : ((startSeal r t u).rau r).queue.find? (fun x => x.isle == t.isle && x.unit == t.unit && x.task == t.task) = none) :
    exec (.sealJobAdmit r) s = .next (startSeal r t u) := by
  subst hu
  simp only [exec, execSealJobAdmit, not_out hr hp, if_false, ite_eq_right_iff.mpr hserved, hcount, hidle, hturn, ht,
    hfind, Bool.not_true, Bool.or_self, Bool.false_eq_true]

end
end

section
variable {r : Nat} {t : SealTask} {job : SealJob} {rest : List SealJob} {s : State} (h : t.plan = job :: rest)
include h

theorem admitJob_fits (hfit : tideNow s + job.bound + 25 ≤ (subslotAt s).2) :
    admitJob r t s = mapSeal r t (fun x => { x with plan := rest, admitted := some (tideNow s), job := some job })
      (s.mapRau r fun x => { x with lastIsle := some t.isle }) := by
  simp only [admitJob, h, Nat.not_lt.mpr hfit, if_false]

theorem admitJob_waits (hlate : (subslotAt s).2 < tideNow s + job.bound + 25) : admitJob r t s = s := by
  simp only [admitJob, h, hlate, if_true]

end

/-! ## The header checks (Table 17.7) -/

section
variable {r : Nat} {t : SealTask} {s : State} {o : SealOp}

theorem startSeal_noSet (h : sealOp s t = none) : startSeal r t s = failSeal r t none (statusCode .eBadarg) 0 s := by
  simp only [startSeal, h]

variable (h : sealOp s t = some o)
include h

theorem startSeal_header {st : Nat} (hc : sealChecks o s (sealSite s t) = some (1, st)) : startSeal r t s = failSeal r t none st 0 s := by
  simp only [startSeal, h, hc]

theorem startSeal_check {n st : Nat} (hc : sealChecks o s (sealSite s t) = some (n + 2, st)) :
    startSeal r t s = failSeal r t (some o) st 0 s := by
  simp only [startSeal, h, hc]

variable (hc : sealChecks o s (sealSite s t) = none)
include hc

section
variable (hok : ([o.ranges.1, o.ranges.2.1, o.ranges.2.2].all fun x => (sealSite s t).ok s x.1 x.2) = true)
include hok

theorem startSeal_begins (hlines : readPoison s t.isle (o.reads s (sealSite s t)) = []) :
    startSeal r t s = mapSeal r t (fun x => { x with
      started := true, plan := o.plan, headA := readBytes s (sealSite s t).k (sealSite s t).h o.d.a 64,
      headB := readBytes s (sealSite s t).k (sealSite s t).h o.d.b 64 }) s := by
  simp only [startSeal, h, hc, hok, hlines, Bool.not_true, Bool.false_eq_true, if_false, List.isEmpty_nil]

theorem startSeal_poisoned (hlines : readPoison s t.isle (o.reads s (sealSite s t)) ≠ []) :
    startSeal r t s = failSeal r t (some o) (statusCode .ePoison) 0
      (poisonInv t.isle t.prog t.inv (readPoison s t.isle (o.reads s (sealSite s t))) s) := by
  have hlines' : (readPoison s t.isle (o.reads s (sealSite s t))).isEmpty = false := List.isEmpty_eq_false_iff.mpr hlines
  simp only [startSeal, h, hc, hok, hlines', Bool.not_true, Bool.false_eq_true, if_false, Bool.not_false, if_true]

end

theorem startSeal_outside {x : Task} (hok : ([o.ranges.1, o.ranges.2.1, o.ranges.2.2].all fun x => (sealSite s t).ok s x.1 x.2) = false)
    (hx : ((unitOf s t.isle t.unit).running.find? fun x => x.id == t.task) = some x) :
    startSeal r t s = taskFault t.isle t.unit x 2
      (s.mapRau r fun x => { x with queue := x.queue.filter fun y => !(y.unit == t.unit && y.isle == t.isle && y.task == t.task) }) := by
  simp only [startSeal, h, hc, hok, hx, Bool.not_false, if_true]

end

/-! ## SEAL_JOB_END (R437, R440) -/

theorem sealJobEnd_idle {r : Nat} {s : State} (h : ((s.rau r).queue.find? fun t => t.admitted.isSome) = none ∨ pastReady s = false)
    (mm : Bool) : exec (.sealJobEnd r mm) s = .next s := by
  simp only [exec, execSealJobEnd]
  split
  · rfl
  next t ht =>
    have hp := h.resolve_left (by simp [ht])
    simp only [hp, Bool.not_false, if_true]

section
variable {r b : Nat} {s v x : State} {t : SealTask} {job : SealJob} (hfind : ((s.rau r).queue.find? fun t => t.admitted.isSome) = some t)
  (hp : pastReady s = true) (hb : t.admitted = some b) (hjob : t.job = some job)
  (hv : v = if tideNow s < b + job.bound then advanceCount (b + job.bound) s else s)
  (hx : x = addPressure t.isle (fun p => { p with rau := p.rau + job.bound })
    (v.mapIsle t.isle fun r => { r with sealed := { r.sealed with jobs := sat32 (r.sealed.jobs + 1) } }))
include hfind hp hb hjob hv hx

/-- The job's time is over, and it is counted; what it was for is gone. -/
theorem sealJobEnd_gone (hlive : sealLive x t = false) (mm : Bool) : exec (.sealJobEnd r mm) s = .next (x.mapRau r fun r =>
    { r with queue := r.queue.filter fun y => y.admitted.isNone }) := by
  subst hx hv
  simp only [exec, execSealJobEnd, hfind, hp, hb, hjob, Option.getD_some, Bool.not_true, Bool.false_eq_true, if_false, hlive,
    Bool.not_false, if_true]

theorem sealJobEnd_mismatch (hlive : sealLive x t = true) : exec (.sealJobEnd r true) s = .next (sealMismatch r t (sealOp x t) x) := by
  subst hx hv
  simp only [exec, execSealJobEnd, hfind, hp, hb, hjob, Option.getD_some, Bool.not_true, Bool.false_eq_true, if_false, hlive, if_true]

theorem sealJobEnd_runs (hlive : sealLive x t = true) {t' : SealTask} (ht' : t' = { t with ended := t.ended + 1, admitted := none, job := none }) :
    exec (.sealJobEnd r false) s = .next (runJob r t' job (mapSeal r t (fun _ => t') x)) := by
  subst ht' hx hv
  simp only [exec, execSealJobEnd, hfind, hp, hb, hjob, Option.getD_some, Bool.not_true, Bool.false_eq_true, if_false, hlive]

end

section
variable {r : Nat} {t : SealTask} {job : SealJob} {s : State} {o : SealOp}

theorem runJob_noSet (h : sealOp s t = none) : runJob r t job s = failSeal r t none (statusCode .eBadarg) t.ended s := by
  simp only [runJob, h]

variable (h : sealOp s t = some o)
include h

theorem runJob_poisoned {lines : List Nat} (hlines : lines = readPoison s t.isle (o.jobSpans s (sealSite s t) job.work)) (hne : lines ≠ []) :
    runJob r t job s = failSeal r t (some o) (statusCode .ePoison) t.ended (poisonInv t.isle t.prog t.inv lines s) := by
  subst hlines
  simp only [runJob, h, List.isEmpty_eq_false_iff.mpr hne, Bool.not_false, if_true]

variable (hlines : readPoison s t.isle (o.jobSpans s (sealSite s t) job.work) = [])
include hlines

theorem runJob_refused (hbad : o.jobOk s (sealSite s t) t job.work = false ∨ o.jobResults s (sealSite s t) t job.work = none) :
    runJob r t job s = failSeal r t (some o) (statusCode .eBadarg) t.ended (scribbleBody t o s) := by
  have hnone : (if o.jobOk s (sealSite s t) t job.work then o.jobResults s (sealSite s t) t job.work else none) = none := by
    rcases hbad with hbad | hbad <;> simp [hbad]
  simp only [runJob, h, hlines, List.isEmpty_nil, Bool.not_true, Bool.false_eq_true, if_false, hnone]

section
variable {rs : List (SealLoc × Nat × Limb)} (hok : o.jobOk s (sealSite s t) t job.work = true)
  (hrs : o.jobResults s (sealSite s t) t job.work = some rs)
include hok hrs

theorem runJob_last (hplan : t.plan = []) :
    runJob r t job s = endSeal r t (settleDepth o o.result) 0 t.ended (rs.foldl (o.store (sealSite s t)) s) := by
  simp only [runJob, h, hlines, List.isEmpty_nil, Bool.not_true, Bool.false_eq_true, if_false, hok, if_true, hrs, hplan]

theorem runJob_stores (hplan : t.plan ≠ []) :
    runJob r t job s = mapSeal r t (fun x => { x with temps := rs.foldl (keepTemps o.n) x.temps }) (rs.foldl (o.store (sealSite s t)) s) := by
  simp only [runJob, h, hlines, List.isEmpty_nil, Bool.not_true, Bool.false_eq_true, if_false, hok, if_true, hrs,
    List.isEmpty_eq_false_iff.mpr hplan]

end
end

/-! ## What pointwise jobs make (R436) -/

theorem load_length (o : SealOp) (s : State) (w : Site) (t : SealTask) (x : SealLoc) (c0 m : Nat) : (o.load s w t x c0 m).length = m := by
  unfold SealOp.load
  split <;> simp

/-- A pointwise result of two limbs of m coefficients has m, each made of the two that stand there. -/
theorem getD_zipWith {f : Nat → Nat → Nat} {a b : Limb} {m : Nat} (ha : a.length = m) (hb : b.length = m) :
    (List.zipWith f a b).length = m ∧ ∀ i, i < m → (List.zipWith f a b).getD i 0 = f (a.getD i 0) (b.getD i 0) := by
  refine ⟨by simp [ha, hb], fun i hi => ?_⟩
  simp [List.getD_eq_getElem?_getD, ha, hb, hi]

/-! ## The end of an operation (R433) -/

/-- The operation's record written. -/
def recorded (r status jobs : Nat) (t : SealTask) (s : State) : State :=
  writeBytes t.isle (t.unit / 64) (sealOf t.desc).recAt
    (natLe 2 status ++ natLe 2 0 ++ natLe 4 jobs ++ natLe 1 r ++ List.replicate 7 0) s

section
variable (r status jobs : Nat) (t : SealTask) (h : SealHdr) (s : State)

/-- Memory has the record, and OUT's header where OUT is not in a sealed region. -/
theorem endSeal_mems : (endSeal r t h status jobs s).mems =
    (if inSealed (recorded r status jobs t s) t.isle (t.unit / 64) (sealOf t.desc).out 64 then recorded r status jobs t s
      else writeBytes t.isle (t.unit / 64) (sealOf t.desc).out (sealHdrBytes { h with status := status })
        (recorded r status jobs t s)).mems := rfl

theorem endSeal_mems_sealed (hin : inSealed (recorded r status jobs t s) t.isle (t.unit / 64) (sealOf t.desc).out 64 = true) :
    (endSeal r t h status jobs s).mems = (recorded r status jobs t s).mems :=
  (endSeal_mems r status jobs t h s).trans (congrArg State.mems (if_pos hin))

theorem endSeal_mems_open (hin : inSealed (recorded r status jobs t s) t.isle (t.unit / 64) (sealOf t.desc).out 64 = false) :
    (endSeal r t h status jobs s).mems =
      (writeBytes t.isle (t.unit / 64) (sealOf t.desc).out (sealHdrBytes { h with status := status }) (recorded r status jobs t s)).mems :=
  (endSeal_mems r status jobs t h s).trans (congrArg State.mems (if_neg (ne_true_of_eq_false hin)))

/-- The queue of every RAU drops what names the task. -/
theorem endSeal_dropped (i : Nat) : t ∉ ((endSeal r t h status jobs s).rau i).queue := by
  intro hmem
  have hraus : ∃ l : List Rau, (endSeal r t h status jobs s).raus = l.map fun r => { r with queue := r.queue.filter fun x =>
      !(x.isle == t.isle && x.unit == t.unit && x.task == t.task && x.prog == t.prog && x.inv == t.inv && x.phase == t.phase) } := ⟨_, rfl⟩
  obtain ⟨l, hl⟩ := hraus
  rw [State.rau, hl, List.getD_eq_getElem?_getD, List.getElem?_map] at hmem
  cases hi : l[i]? with
  | none => simp [hi] at hmem
  | some x => simp [hi] at hmem

end

/-- A unit on which tasks run is one of its isle's. -/
theorem unit_of_running {k u : Nat} {y : Task} {s : State} (h : y ∈ (unitOf s k u).running) :
    k < s.isles.length ∧ aGet (s.isle k).units u = some (unitOf s k u) := by
  have hunit : aGet (s.isle k).units u = some (unitOf s k u) := by
    rw [unitOf] at h ⊢
    cases hg : aGet (s.isle k).units u with
    | none => rw [hg] at h; cases h
    | some x => rfl
  refine ⟨Nat.lt_of_not_le fun hk => ?_, hunit⟩
  rw [State.isle, List.getD_eq_getElem?_getD, List.getElem?_eq_none hk] at hunit
  cases hunit

/-- The tasks that run on a unit after an update of one of them. -/
theorem mem_running_mapTask {k u id : Nat} {f : Task → Task} {s : State} {y : Task} (hy : y ∈ (unitOf (mapTask k u id f s) k u).running) :
    ∃ z, y = if z.id = id then f z else z := by
  obtain ⟨hk, hunit⟩ := unit_of_running hy
  have hlen : k < s.isles.length := by rwa [mapTask, mapUnit, State.mapIsle_isles, setAt_length] at hk
  rw [mapTask, mapUnit, isle_mapIsle_self _ _ _ hlen, aGet_aMod_self] at hunit
  obtain ⟨x, -, hx⟩ := Option.map_eq_some_iff.mp hunit
  rw [mapTask, mapUnit, ← hx] at hy
  obtain ⟨z, -, hz⟩ := List.mem_map.mp hy
  exact ⟨z, hz.symm⟩

section
variable (r status jobs : Nat) (t : SealTask) (h : SealHdr) (s : State)

/-- The task's work is over. -/
theorem endSeal_over {y : Task} (hy : y ∈ (unitOf (endSeal r t h status jobs s) t.isle t.unit).running) (hid : y.id = t.task) :
    y.busy = false := by
  obtain ⟨z, rfl⟩ := mem_running_mapTask (k := t.isle) (u := t.unit) (id := t.task) hy
  split
  · rfl
  next hz => exact absurd (by rwa [if_neg hz] at hid) hz

end

/-! ## The obligation -/

/-- Settles O53, from the cases of admission, of the header checks, of a job's end, and of the end of an operation. -/
theorem sealJobsRun : Obligations.SealJobsRun := by
  unfold Obligations.SealJobsRun
  refine ⟨?admission, ?start, ?jobEnd, fun r mm s h => sealJobEnd_idle h mm, ?pointwise, fun o w s i j c0 l => ⟨rfl, fun _ => rfl⟩, ?ends⟩
  case admission =>
    intro r s u hu
    refine ⟨sealJobAdmit_out, fun hr hp => ⟨fun t => sealJobAdmit_retired hu hr hp, fun hserved =>
      ⟨sealJobAdmit_held hu hr hp hserved, fun t hcount hidle hturn => ⟨fun job rest ht hplan => ?begun, ?begins, ?fails⟩⟩⟩⟩
    case begun =>
      rw [sealJobAdmit_begun hu hr hp hserved hcount hidle hturn ht]
      exact ⟨fun hfit => by rw [admitJob_fits hplan hfit], fun hlate => by rw [admitJob_waits hplan hlate]⟩
    case begins =>
      rintro x v ht rfl hfind
      exact sealJobAdmit_begins hu hr hp hserved hcount hidle hturn ht hfind
    case fails =>
      rintro v ht rfl hfind
      exact sealJobAdmit_fails hu hr hp hserved hcount hidle hturn ht hfind
  case start =>
    rintro r t s w rfl
    refine ⟨startSeal_noSet, fun o h => ⟨fun st => startSeal_header h, fun n st => startSeal_check h, ?reads⟩⟩
    rintro ok lines hc rfl rfl
    exact ⟨startSeal_begins h hc, startSeal_poisoned h hc, fun x => startSeal_outside h hc⟩
  case jobEnd =>
    rintro r b s v x y t t' job hfind hp hb hjob hv hx ht' rfl
    have hruns := fun hlive => sealJobEnd_runs hfind hp hb hjob hv hx hlive ht'
    refine ⟨sealJobEnd_gone hfind hp hb hjob hv hx, sealJobEnd_mismatch hfind hp hb hjob hv hx, fun hlive h => ?noSet,
      fun o w lines hlive h hw hlines => ?runs⟩
    case noSet =>
      rw [hruns hlive, runJob_noSet h, ht']
    case runs =>
      subst hw
      rw [hruns hlive]
      subst ht'
      refine ⟨fun hne => congrArg _ (runJob_poisoned h hlines hne), fun hnil hbad => congrArg _ (runJob_refused h (hlines ▸ hnil) hbad),
        fun rs hnil hok hrs => ⟨fun hplan => congrArg _ (runJob_last h (hlines ▸ hnil) hok hrs hplan),
          fun hplan => congrArg _ (runJob_stores h (hlines ▸ hnil) hok hrs hplan)⟩⟩
  case pointwise =>
    rintro o s w t q x y z c m a b rfl rfl rfl
    have hpoint := fun f => getD_zipWith (f := f) (load_length o s w t x (c * 16384) (min 16384 (o.n - c * 16384)))
      (load_length o s w t y (c * 16384) (min 16384 (o.n - c * 16384)))
    exact ⟨rfl, ⟨_, rfl, hpoint _⟩, ⟨_, rfl, hpoint _⟩, ⟨_, rfl, hpoint _⟩⟩
  case ends =>
    rintro r status jobs t h d s u v rfl rfl rfl
    exact ⟨endSeal_mems_sealed r status jobs t h s, endSeal_mems_open r status jobs t h s, endSeal_dropped r status jobs t h s,
      fun y => endSeal_over r status jobs t h s⟩

end Sys2Proof.Machine
end

section
/-! The bytes of a slot and the command they spell (O9): numbers laid out in bytes are read back, a header in its slot is the header that
was written there, and a slot that is copied is its command. -/

namespace Sys2Proof.Machine

/-! ## Numbers in bytes (R8) -/

@[simp] theorem natLe_length (n v : Nat) : (natLe n v).length = n := by
  induction n generalizing v with
  | zero => rfl
  | succ n ih => simp [natLe, ih]

theorem leNat_natLe {n v : Nat} (h : v < 256 ^ n) : leNat (natLe n v) = v := by
  induction n generalizing v with
  | zero => rw [Nat.pow_zero, Nat.lt_one_iff] at h; simp [natLe, leNat, h]
  | succ n ih =>
    have hv : v / 256 < 256 ^ n := Nat.div_lt_of_lt_mul (by rwa [Nat.pow_succ'] at h)
    rw [natLe, leNat, ih hv, BitVec.toNat_ofNat]
    exact Nat.mod_add_div v 256

theorem sliceB_append_left {a : Bytes} {o n : Nat} (h : o + n ≤ a.length) (b : Bytes) : sliceB (a ++ b) o n = sliceB a o n := by
  refine List.map_congr_left fun i hi => ?_
  rw [List.mem_range] at hi
  simp only [List.getD_eq_getElem?_getD, List.getElem?_append_left (show o + i < a.length by omega)]

theorem sliceB_append_right {a : Bytes} {o : Nat} (h : a.length ≤ o) (b : Bytes) (n : Nat) :
    sliceB (a ++ b) o n = sliceB b (o - a.length) n := by
  refine List.map_congr_left fun i _ => ?_
  simp only [List.getD_eq_getElem?_getD, List.getElem?_append_right (show a.length ≤ o + i by omega),
    show o + i - a.length = o - a.length + i by omega]

theorem sliceB_all (a : Bytes) : sliceB a 0 a.length = a := by
  refine List.ext_getElem (by simp [sliceB]) fun i _ h => ?_
  simp [sliceB, h]

theorem fieldB_append_left {a : Bytes} {o n : Nat} (h : o + n ≤ a.length) (b : Bytes) : fieldB (a ++ b) o n = fieldB a o n :=
  congrArg leNat (sliceB_append_left h b)

theorem fieldB_append_right {a : Bytes} {o : Nat} (h : a.length ≤ o) (b : Bytes) (n : Nat) :
    fieldB (a ++ b) o n = fieldB b (o - a.length) n := congrArg leNat (sliceB_append_right h b n)

theorem fieldB_natLe {n v : Nat} (h : v < 256 ^ n) : fieldB (natLe n v) 0 n = v := by
  have hall := sliceB_all (natLe n v)
  rw [natLe_length] at hall
  rw [fieldB, hall, leNat_natLe h]

/-! ## The header (Table 5.5) -/

@[simp] theorem hdrBytes_length (h : Hdr) : (hdrBytes h).length = 32 := by simp [hdrBytes]

/-- Every field of a header fits its bytes. -/
structure HdrFits (h : Hdr) : Prop where
  opcode : h.opcode < 256 ^ 2
  flags : h.flags < 256 ^ 2
  tag : h.tag < 256 ^ 4
  plen : h.plen < 256 ^ 2
  res0 : h.res0 < 256 ^ 2
  token : h.token < 256 ^ 4
  res1 : h.res1 < 256 ^ 16

theorem MbxArg.wf_fits {c : MbxArg} (h : c.wf = true) : HdrFits c.hdr := by
  simp only [MbxArg.wf, Bool.and_eq_true, decide_eq_true_eq] at h
  obtain ⟨⟨⟨⟨⟨⟨⟨⟨⟨-, -⟩, hop⟩, hflags⟩, htag⟩, hplen⟩, hres0⟩, htoken⟩, hres1⟩, -⟩ := h
  exact ⟨by omega, by omega, by omega, by omega, by omega, by omega, by omega⟩

/-- A slot whose first 32 bytes are a header holds that header. -/
theorem slotHdr_of_bytes {f : Func} {slot : Nat} {h : Hdr} (hf : HdrFits h) (hb : slotBytes f slot 0 32 = hdrBytes h) :
    slotHdr f slot = h := by
  have hfields : slotHdr f slot = {
      opcode := fieldB (natLe 2 h.opcode) 0 2, flags := fieldB (natLe 2 h.flags) 0 2, tag := fieldB (natLe 4 h.tag) 0 4,
      plen := fieldB (natLe 2 h.plen) 0 2, res0 := fieldB (natLe 2 h.res0) 0 2,
      token := fieldB (natLe 4 h.token) 0 4, res1 := fieldB (natLe 16 h.res1) 0 16 } := by
    simp [slotHdr, hb, hdrBytes, fieldB_append_left, fieldB_append_right]
  rw [hfields, fieldB_natLe hf.opcode, fieldB_natLe hf.flags, fieldB_natLe hf.tag, fieldB_natLe hf.plen, fieldB_natLe hf.res0,
    fieldB_natLe hf.token, fieldB_natLe hf.res1]

/-! ## The slot -/

theorem Memory.writeN_append (m : List Host.Cell) (a : Nat) (b c : Bytes) :
    Memory.writeN m a (b ++ c) = Memory.writeN (Memory.writeN m a b) (a + b.length) c := by
  induction b generalizing m a with
  | nil => rfl
  | cons x b ih => rw [List.cons_append, Memory.writeN, Memory.writeN, ih, List.length_cons]; congr 1; omega

theorem Memory.readN_congr {m n : List Host.Cell} {a k : Nat} (h : ∀ i < k, Memory.read m (a + i) = Memory.read n (a + i)) :
    Memory.readN m a k = Memory.readN n a k :=
  List.map_congr_left fun i hi => h i (List.mem_range.mp hi)

/-- Of two runs of bytes written one after the other, the first is read back. -/
theorem Memory.readN_writeN_left {m : List Host.Cell} (w : Memory.wf m = true) (a : Nat) (b c : Bytes) :
    Memory.readN (Memory.writeN m a (b ++ c)) a b.length = b := by
  have hfirst := Memory.readN_writeN w a b
  rw [Memory.writeN_append, ← Memory.readN_congr fun i hi => ?_, hfirst]
  exact (Memory.read_writeN_outside (Memory.wf_writeN a b w) (by omega)).symm

/-- And so is the second. -/
theorem Memory.readN_writeN_right {m : List Host.Cell} (w : Memory.wf m = true) (a : Nat) (b c : Bytes) :
    Memory.readN (Memory.writeN m a (b ++ c)) (a + b.length) c.length = c := by
  rw [Memory.writeN_append]
  exact Memory.readN_writeN (Memory.wf_writeN a b w) _ c

/-- Writing the same bytes again changes nothing. -/
theorem Memory.writeN_writeN {m : List Host.Cell} (w : Memory.wf m = true) (a : Nat) (bs : Bytes) :
    Memory.writeN (Memory.writeN m a bs) a bs = Memory.writeN m a bs := by
  have w1 := Memory.wf_writeN a bs w
  refine Memory.ext (Memory.wf_writeN a bs w1) w1 fun b => ?_
  by_cases hout : b < a ∨ a + bs.length ≤ b
  · rw [Memory.read_writeN_outside w1 hout]
  · obtain ⟨i, rfl⟩ : ∃ i, b = a + i := ⟨b - a, by omega⟩
    have hi : i < bs.length := by omega
    rw [Memory.read_writeN_inside w1 a hi, Memory.read_writeN_inside w a hi]

/-- The slot holds a command: its header in the layout of Table 5.5, and its payload after it. -/
structure SlotHolds (f : Func) (c : MbxArg) : Prop where
  hdr : slotHdr f c.slot = c.hdr
  payload : slotBytes f c.slot 32 (min c.hdr.plen 224) = c.payload

theorem slotHolds_of_written {f : Func} {c : MbxArg} {m : List Host.Cell} (hwf : c.wf = true)
    (hlen : c.payload.length = min c.hdr.plen 224) (w : Memory.wf m = true)
    (hslots : f.slots = Memory.writeN m (256 * c.slot) (hdrBytes c.hdr ++ c.payload)) : SlotHolds f c := by
  refine ⟨slotHdr_of_bytes (MbxArg.wf_fits hwf) ?_, ?_⟩
  · have h := Memory.readN_writeN_left w (256 * c.slot) (hdrBytes c.hdr) c.payload
    rwa [hdrBytes_length, ← hslots] at h
  · have h := Memory.readN_writeN_right w (256 * c.slot) (hdrBytes c.hdr) c.payload
    rwa [hdrBytes_length, ← hslots, hlen] at h

/-! ## The copy -/

/-- The slot that was rung first is copied, and the command in it is accepted. -/
theorem exec_slotCopy {fn slot : Nat} {rest : List Nat} {s : State} (ha : fnAlive s fn = true) (hroom : outstanding (s.func fn) < 64)
    (hbell : (s.func fn).doorbells = slot :: rest) :
    exec (.slotCopy fn slot) s = .next (pumpAll cmdTable (acceptCmd cmdTable (cmdTable (slotHdr (s.func fn) slot).opcode) fn slot
      (slotHdr (s.func fn) slot) (slotBytes (s.func fn) slot 32 (min (slotHdr (s.func fn) slot).plen 224))
      (s.mapFunc fn fun f => { f with doorbells := rest }))) := by
  have hcopies : copySlot cmdTable fn slot s = acceptCmd cmdTable (cmdTable (slotHdr (s.func fn) slot).opcode) fn slot
      (slotHdr (s.func fn) slot) (slotBytes (s.func fn) slot 32 (min (slotHdr (s.func fn) slot).plen 224))
      (s.mapFunc fn fun f => { f with doorbells := rest }) := by
    simp [copySlot, ha, hbell, Nat.not_le.mpr hroom]
  exact congrArg (fun t => Host.Outcome.next (pumpAll cmdTable t)) hcopies

/-- A function with a doorbell waiting exists. -/
theorem lt_of_doorbells {s : State} {fn slot : Nat} {rest : List Nat} (h : (s.func fn).doorbells = slot :: rest) : fn < s.funcs.length := by
  by_contra hl
  simp [State.func, List.getD_eq_getElem?_getD, List.getElem?_eq_none (Nat.le_of_not_lt hl)] at h

/-- The host that writes to a slot what is there changes nothing. -/
theorem putSlot_written {f : Func} {slot : Nat} {h : Hdr} {payload : Bytes} {m : List Host.Cell} (w : Memory.wf m = true)
    (hlen : payload.length ≤ 224) (hslots : f.slots = Memory.writeN m (256 * slot) (hdrBytes h ++ payload)) :
    putSlot slot h payload f = f := by
  have htake : (hdrBytes h ++ payload).take 256 = hdrBytes h ++ payload := List.take_of_length_le (by simp; omega)
  rw [putSlot, htake, hslots, Memory.writeN_writeN w, ← hslots]
  split <;> rfl

theorem setAt_congr {α : Type} {l : List α} {i : Nat} {f g : α → α} (d : α) (h : f (l.getD i d) = g (l.getD i d)) :
    setAt l i f = setAt l i g := by
  refine List.ext_getElem? fun j => ?_
  by_cases hj : i = j
  · subst hj
    cases hi : l[i]? with
    | none => simp [setAt, hi]
    | some x => simpa [setAt, hi, List.getD_eq_getElem?_getD] using h
  · simp [setAt, hj]

/-- Two updates of a function that do the same to it as it is give the same state. -/
theorem State.mapFunc_congr {s : State} {fn : Nat} {f g : Func → Func} (h : f (s.func fn) = g (s.func fn)) :
    s.mapFunc fn f = s.mapFunc fn g :=
  congrArg (fun l => { s with funcs := l }) (setAt_congr {} h)

theorem State.mapFunc_id (s : State) (fn : Nat) : s.mapFunc fn id = s := by
  simp [State.mapFunc, setAt]

/-- A command's own row, where its slot holds it already and no doorbell waits: the command is accepted. -/
theorem mbxRow_written {spec : CmdSpec} {c : MbxArg} {m : List Host.Cell} {s : State} (hop : c.hdr.opcode = spec.opcode)
    (ha : fnAlive s c.fn = true) (hcopies : copiesNow (s.func c.fn) c.slot = true) (w : Memory.wf m = true)
    (hlen : c.payload.length ≤ 224) (hslots : (s.func c.fn).slots = Memory.writeN m (256 * c.slot) (hdrBytes c.hdr ++ c.payload)) :
    mbxRow cmdTable spec c s = pumpAll cmdTable (acceptCmd cmdTable (some spec) c.fn c.slot c.hdr c.payload s) := by
  have hhdr : ({ c.hdr with opcode := spec.opcode } : Hdr) = c.hdr := by rw [← hop]
  have hsame : s.mapFunc c.fn (putSlot c.slot c.hdr c.payload) = s :=
    (State.mapFunc_congr (putSlot_written w hlen hslots)).trans (State.mapFunc_id s c.fn)
  rw [mbxRow, hhdr, hostRow, hsame]
  simp [ha, hcopies]

/-! ## The obligation -/

/-- Settles O9: the copy reads back the header and the payload that were laid out, and the command's own row writes what is there. -/
theorem slotSpellsCommand : Obligations.SlotSpellsCommand := by
  unfold Obligations.SlotSpellsCommand
  intro op spec c i m rest s hspec hrow hop hwf hlen w hslots hbell ha hroom
  obtain ⟨hexec, hopcode⟩ := exec_row hspec hrow (s.mapFunc c.fn fun f => { f with doorbells := [] })
  have hholds := slotHolds_of_written hwf hlen w hslots
  have hcopy := exec_slotCopy ha hroom hbell
  rw [hholds.hdr, hholds.payload, hop, hspec] at hcopy
  refine ⟨hcopy, fun hrest hring => ?_⟩
  subst hrest
  have hfunc := func_mapFunc_self s c.fn (fun f => { f with doorbells := [] }) (lt_of_doorbells hbell)
  have hcopies : copiesNow ((s.mapFunc c.fn fun f => { f with doorbells := [] }).func c.fn) c.slot = true := by
    rw [hfunc]
    simpa [copiesNow, hring] using! hroom
  have halive : fnAlive (s.mapFunc c.fn fun f => { f with doorbells := [] }) c.fn = true := by
    rw [← ha, fnAlive, hfunc]
    rfl
  rw [hcopy, hexec, mbxRow_written (hop.trans hopcode.symm) halive hcopies w (by omega) (by rw [hfunc]; exact hslots)]

end Sys2Proof.Machine
end

section
/-! Writes and reads of a function's registers (O5, O31, O32, O33): the mailbox, the completion ring, the stream doorbells, and the
causes, masks and vectors. -/

namespace Sys2Proof.Machine

/-! ## A function that takes writes -/

theorem fnAlive_running {s : State} {fn : Nat} (h : fnAlive s fn = true) : s.boot.fwRunning = true := by
  simp only [fnAlive, Bool.and_eq_true] at h
  exact h.1.1.1

theorem fnAlive_flr {s : State} {fn : Nat} (h : fnAlive s fn = true) : (s.func fn).flr = none := by
  simp only [fnAlive, Bool.and_eq_true, Option.isNone_iff_eq_none] at h
  exact h.1.2

/-- A function in reset takes no write. -/
theorem fnAlive_of_flr {s : State} {fn : Nat} (h : (s.func fn).flr ≠ none) : fnAlive s fn = false := by
  by_contra ha
  exact h (fnAlive_flr (by simpa using ha))

/-! ## Where a write goes (R483) -/

section
variable {fn off size v : Nat} {s : State}

theorem barWrite_misaligned (h : off % size ≠ 0) : barWrite fn off size v s = s := by
  unfold barWrite
  rw [if_pos (.inr h)]

theorem barWrite_size (h : size ∉ [1, 2, 4, 8]) : barWrite fn off size v s = s := by
  unfold barWrite
  rw [if_pos (.inl (by simpa using h))]

theorem barWrite_dead (h : fnAlive s fn = false) (hl : s.boot.loader = false) : barWrite fn off size v s = s := by
  unfold barWrite
  simp [hl, barLive, h]

/-- A 4-byte write of a function that takes writes is a write of the register at its offset. -/
theorem barWrite_four (ha : fnAlive s fn = true) (h : off % 4 = 0) : barWrite fn off 4 v s = regPut fn off 4 v true s := by
  unfold barWrite
  simp [h, fnAlive_running ha, barLive, ha]

theorem exec_registerWrite_low (h : off < 0x10000) : exec (.registerWrite fn off size v) s = .next (barWrite fn off size v s) := by
  change execRegisterWrite fn off size v s = _
  rw [execRegisterWrite, if_neg (Nat.not_le.mpr h)]

theorem exec_registerWrite_four (ha : fnAlive s fn = true) (hlow : off < 0x10000) (h : off % 4 = 0) :
    exec (.registerWrite fn off 4 v) s = .next (regPut fn off 4 v true s) := by
  rw [exec_registerWrite_low hlow, barWrite_four ha h]

theorem exec_registerWrite_stream (h : 0x10000 ≤ off) : exec (.registerWrite fn off size v) s = .next
    (if 0x90000 ≤ off ∨ off % size ≠ 0 then s else streamPut fn ((off - 0x10000) / 64) ((off - 0x10000) % 64) size v s) := by
  change execRegisterWrite fn off size v s = _
  rw [execRegisterWrite, if_pos h]
  split <;> rfl

theorem exec_registerWrite_misaligned (h : off % size ≠ 0) : exec (.registerWrite fn off size v) s = .next s := by
  rcases Nat.lt_or_ge off 0x10000 with hoff | hoff
  · rw [exec_registerWrite_low hoff, barWrite_misaligned h]
  · rw [exec_registerWrite_stream hoff, if_pos (.inr h)]

theorem exec_registerWrite_beyond (h : 0x90000 ≤ off) : exec (.registerWrite fn off size v) s = .next s := by
  rw [exec_registerWrite_stream (by omega), if_pos (.inl h)]

theorem streamPut_dead {handle offset : Nat} (h : fnAlive s fn = false) : streamPut fn handle offset size v s = s := by
  simp [streamPut, barLive, h]

theorem streamPut_offset {handle offset : Nat} (h : offset ≠ 0) : streamPut fn handle offset size v s = s := by
  simp [streamPut, h]

theorem streamPut_four {handle : Nat} (h : fnAlive s fn = true) :
    streamPut fn handle 0 4 v s = ringStream fn handle (v % 2 ^ 32) s := by
  simp [streamPut, barLive, h]

theorem exec_registerWrite_dead (ha : fnAlive s fn = false) (hl : s.boot.loader = false) :
    exec (.registerWrite fn off size v) s = .next s := by
  rcases Nat.lt_or_ge off 0x10000 with hoff | hoff
  · rw [exec_registerWrite_low hoff, barWrite_dead ha hl]
  · rw [exec_registerWrite_stream hoff, streamPut_dead ha, ite_self]

/-! ## The slots and the doorbell (R100, R101) -/

theorem regPut_slots (hlo : 0x1000 ≤ off) (hhi : off < 0x2000) (h : off % 4 = 0) : regPut fn off 4 v true s =
    if (s.func fn).doorbells.contains ((off - 0x1000) / 256) then s
    else s.mapFunc fn fun f => { f with slots := Memory.writeN f.slots (off - 0x1000) (natLe 4 v) } := by
  rw [regPut]
  simp only [h, Nat.sub_zero]
  rw [if_pos ⟨hlo, hhi⟩]

theorem exec_slots_free (ha : fnAlive s fn = true) (hlo : 0x1000 ≤ off) (hhi : off < 0x2000) (h : off % 4 = 0)
    (hfree : (s.func fn).doorbells.contains ((off - 0x1000) / 256) = false) : exec (.registerWrite fn off 4 v) s =
    .next (s.mapFunc fn fun f => { f with slots := Memory.writeN f.slots (off - 0x1000) (natLe 4 v) }) := by
  rw [exec_registerWrite_four ha (by omega) h, regPut_slots hlo hhi h, if_neg (by rw [hfree]; decide)]

theorem exec_slots_busy (ha : fnAlive s fn = true) (hlo : 0x1000 ≤ off) (hhi : off < 0x2000) (h : off % 4 = 0)
    (hbusy : (s.func fn).doorbells.contains ((off - 0x1000) / 256) = true) : exec (.registerWrite fn off 4 v) s = .next s := by
  rw [exec_registerWrite_four ha (by omega) h, regPut_slots hlo hhi h, if_pos hbusy]

theorem exec_doorbell (ha : fnAlive s fn = true) :
    exec (.registerWrite fn 0x2000 4 v) s = .next (ringDoorbell fn (v % 16) s) :=
  (exec_registerWrite_four ha (by omega) rfl).trans (congrArg _ (by simp [regPut, vectors]))

end

section
variable {fn slot : Nat} {s : State}

theorem ringDoorbell_taken (hfree : (s.func fn).doorbells.contains slot = false) (hring : (s.func fn).cqEnable = true) :
    ringDoorbell fn slot s = s.mapFunc fn fun f => { f with doorbells := f.doorbells ++ [slot] } := by
  simp only [ringDoorbell, hfree, hring, Bool.not_false, Bool.and_self, if_true]

/-- The error bits after a doorbell that is ignored (R101). -/
def ignoredErr (f : Func) (slot : Nat) : Nat :=
  let busy := if f.doorbells.contains slot then setBit f.mbxErr 0 else f.mbxErr
  if f.cqEnable then busy else setBit busy 1

theorem ringDoorbell_ignored (h : (s.func fn).doorbells.contains slot = true ∨ (s.func fn).cqEnable = false) :
    ringDoorbell fn slot s = setCause fn 3 (s.mapFunc fn fun f => { f with mbxErr := ignoredErr (s.func fn) slot }) := by
  rw [ringDoorbell, if_neg (by rcases h with h | h <;> simp only [h] <;> simp)]
  rfl

theorem ignoredErr_busyBit (f : Func) (slot : Nat) :
    (ignoredErr f slot).testBit 0 = (f.mbxErr.testBit 0 || f.doorbells.contains slot) := by
  rw [ignoredErr]
  cases f.cqEnable <;> cases f.doorbells.contains slot <;> simp [testBit_setBit, -Nat.testBit_zero]

theorem ignoredErr_offBit (f : Func) (slot : Nat) : (ignoredErr f slot).testBit 1 = (f.mbxErr.testBit 1 || !f.cqEnable) := by
  rw [ignoredErr]
  cases f.cqEnable <;> cases f.doorbells.contains slot <;> simp [testBit_setBit]

/-- A slot is BUSY while its doorbell waits. -/
theorem testBit_slotBusy (f : Func) (slot : Nat) : (slotBusy f).testBit slot = f.doorbells.contains slot := by
  rw [slotBusy, testBit_natMask]
  simp

/-! ## What raising a cause leaves (R117) -/

theorem sendVector_field {α : Type} (g : Func → α) (hg : ∀ f l, g { f with msixPending := l } = g f) (fn v k : Nat) (s : State) :
    g ((sendVector fn v s).func k) = g (s.func k) := by
  simp only [sendVector]
  split
  · rfl
  · split
    · exact func_mapFunc_field g _ _ _ _ fun f => hg f _
    · rfl

/-- Raising a cause leaves every field of a function but its causes and its pending vectors. -/
theorem setCause_field {α : Type} (g : Func → α) (hcause : ∀ f n, g { f with irqCause := n } = g f)
    (hpending : ∀ f l, g { f with msixPending := l } = g f) (fn b k : Nat) (s : State) :
    g ((setCause fn b s).func k) = g (s.func k) := by
  have hset : g ((s.mapFunc fn fun f => { f with irqCause := setBit f.irqCause b }).func k) = g (s.func k) :=
    func_mapFunc_field g _ _ _ _ fun f => hcause f _
  simp only [setCause]
  split
  · rfl
  · split
    · exact hset
    · split
      · exact hset
      · exact (sendVector_field g hpending _ _ _ _).trans hset

end

/-! ## The obligations on the mailbox -/

/-- Settles O5: what a doorbell, a copy and a slot write do, by whether the slot is busy and the ring enabled. -/
theorem doorbellRule : Obligations.DoorbellRule := by
  unfold Obligations.DoorbellRule
  intro fn slot s hfn hslot ha
  have hmod : slot % 16 = slot := Nat.mod_eq_of_lt hslot
  refine ⟨fun hfree hring => ⟨_, exec_doorbell ha, ?taken⟩, fun rest u hbell hrest hroom hu => ?copied,
    fun off v hbusy hlo hhi hoff => ?discarded, fun hignored => ⟨_, exec_doorbell ha, ?ignored⟩⟩
  case taken =>
    rw [hmod, ringDoorbell_taken hfree hring, func_mapFunc_self _ _ _ hfn, testBit_slotBusy]
    simp
  case copied =>
    subst hu
    rw [func_mapFunc_self _ _ _ hfn, testBit_slotBusy, testBit_slotBusy, hbell]
    exact ⟨by simp, hrest, exec_slotCopy ha hroom hbell⟩
  case discarded =>
    have hindex : (0x1000 + off - 0x1000) / 256 = slot := by omega
    exact exec_slots_busy ha (by omega) (by omega) (by omega) (by rw [hindex]; exact hbusy)
  case ignored =>
    have hkept := fun {α : Type} (g : Func → α) hc hp =>
      setCause_field g hc hp fn 3 fn (s.mapFunc fn fun f => { f with mbxErr := ignoredErr (s.func fn) slot })
    rw [hmod, ringDoorbell_ignored hignored, hkept (·.doorbells) (fun _ _ => rfl) (fun _ _ => rfl),
      hkept (·.slots) (fun _ _ => rfl) (fun _ _ => rfl),
      hkept (·.cmds) (fun _ _ => rfl) (fun _ _ => rfl), hkept (·.mbxErr) (fun _ _ => rfl) (fun _ _ => rfl),
      func_mapFunc_self _ _ _ hfn]
    exact ⟨rfl, rfl, rfl, ignoredErr_busyBit _ _, ignoredErr_offBit _ _⟩

theorem exec_slotCopy_full {fn slot : Nat} {s : State} (h : 64 ≤ outstanding (s.func fn)) :
    exec (.slotCopy fn slot) s = .next (pumpAll cmdTable s) := by
  have hstays : copySlot cmdTable fn slot s = s := by simp [copySlot, h]
  exact congrArg (fun t => Host.Outcome.next (pumpAll cmdTable t)) hstays

/-- A slot that was not rung first is not copied. -/
theorem exec_slotCopy_notFirst {fn slot : Nat} {s : State} (h : (s.func fn).doorbells.head? ≠ some slot) :
    exec (.slotCopy fn slot) s = .next (pumpAll cmdTable s) := by
  have hstays : copySlot cmdTable fn slot s = s := by
    simp only [copySlot]
    split
    · rfl
    · split
      · rfl
      next hbell =>
        rw [hbell, List.head?_cons, ne_eq, Option.some.injEq] at h
        rw [if_pos h]
  exact congrArg (fun t => Host.Outcome.next (pumpAll cmdTable t)) hstays

/-- Settles O31: each write by where it goes, and the copy of the slot that was rung first. -/
theorem mailboxRegisters : Obligations.MailboxRegisters := by
  unfold Obligations.MailboxRegisters
  rintro fn v slot s rfl
  refine ⟨fun ha hfree hring => ?taken, fun ha hbusy hring => ?busy, fun ha hfree hring => ?off, fun off => exec_slots_free,
    fun off => exec_slots_busy, fun off size => exec_registerWrite_misaligned, fun off size hsize hoff => ?size,
    fun off size => exec_registerWrite_beyond, fun off size => exec_registerWrite_dead, ?stream, ?copy, rfl, exec_slotCopy_full,
    fun n => exec_slotCopy_notFirst⟩
  case taken => rw [exec_doorbell ha, ringDoorbell_taken hfree hring]
  case busy => rw [exec_doorbell ha, ringDoorbell_ignored (.inl hbusy), ignoredErr, if_pos hbusy, if_pos hring]
  case off =>
    rw [exec_doorbell ha, ringDoorbell_ignored (.inr hring), ignoredErr, if_neg (by simp [hring]), if_neg (by rw [hfree]; decide)]
  case size => rw [exec_registerWrite_low hoff, barWrite_size hsize]
  case stream =>
    rintro off h ha hlo hhi hoff rfl
    rw [exec_registerWrite_stream hlo, if_neg (by omega), show (off - 0x10000) % 64 = 0 by omega, streamPut_four ha]
  case copy =>
    rintro rest h ha hroom hbell rfl
    exact exec_slotCopy ha hroom hbell

/-! ## The completion ring's registers (R103, R105) -/

/-- Eight bytes written at once replace the lower 64 bits of the register. -/
theorem mergeBytes_eight {old v : Nat} (hv : v < 2 ^ 64) : mergeBytes old 0 8 v = v + old / 2 ^ 64 * 2 ^ 64 := by
  simp only [mergeBytes, Nat.mul_zero, Nat.pow_zero, Nat.mod_one, Nat.mul_one, Nat.one_mul, Nat.zero_add,
    Nat.mod_eq_of_lt (show v < 2 ^ (8 * 8) from hv)]

theorem mergeBytes_eight_mod {old v : Nat} (hv : v < 2 ^ 64) : mergeBytes old 0 8 v % 2 ^ 64 = v := by
  rw [mergeBytes_eight hv]
  omega

theorem mergeBytes_eight_enable {old v : Nat} (hv : v < 2 ^ 64) : (mergeBytes old 0 8 v).testBit 0 = v.testBit 0 := by
  rw [mergeBytes_eight hv, Nat.testBit_zero, Nat.testBit_zero]
  congr 2
  omega

section
variable {fn v : Nat} {s : State}

theorem exec_cqEnable (ha : fnAlive s fn = true) : exec (.cqEnable fn v) s = .next (writeCqBase fn 0 8 v s) := by
  have hwrites : barWrite fn 0x2010 8 v s = writeCqBase fn 0 8 v s := by
    unfold barWrite
    simp [fnAlive_running ha, barLive, ha]
  exact congrArg Host.Outcome.next hwrites

theorem writeCqBase_enables (hv : v < 2 ^ 64) (hoff : (s.func fn).cqEnable = false) (hon : v.testBit 0 = true) :
    writeCqBase fn 0 8 v s = drainEnabled fn
      (s.mapFunc fn fun f => { f with cqBase := v / 4096 * 4096, cqEnable := true, head := 0, tail := 0, unread := 0 }) := by
  simp only [writeCqBase, mergeBytes_eight_enable hv, mergeBytes_eight_mod hv, hon, hoff, Bool.not_false, Bool.and_self, if_true]
  congr 1
  exact State.mapFunc_congr (by simp [hoff])

theorem writeCqBase_keeps (hv : v < 2 ^ 64) (hon : (s.func fn).cqEnable = true) :
    writeCqBase fn 0 8 v s = s.mapFunc fn fun f => { f with cqEnable := v.testBit 0 } := by
  simp only [writeCqBase, mergeBytes_eight_enable hv, hon, Bool.not_true, Bool.and_false, Bool.false_eq_true, if_false]
  exact State.mapFunc_congr (by simp [hon])

theorem exec_cqHeadWrite (ha : fnAlive s fn = true) : exec (.cqHeadWrite fn v) s = .next (writeHead fn v s) :=
  congrArg Host.Outcome.next ((barWrite_four ha rfl).trans (by simp [regPut, vectors]))

/-- A HEAD within the entries written releases them. -/
theorem writeHead_releases (hv : v < 256) (h : (v + 256 - (s.func fn).head) % 256 ≤ (s.func fn).unread) :
    writeHead fn v s = drainRing 256 fn
      (s.mapFunc fn fun f => { f with head := v, unread := f.unread - (v + 256 - (s.func fn).head) % 256 }) := by
  simp only [writeHead, Nat.mod_eq_of_lt hv, Nat.not_lt.mpr h, decide_false, Bool.false_eq_true, if_false]

/-- A HEAD beyond TAIL is HOST_ACCESS, and the ring counts as empty there. -/
theorem writeHead_beyond (hv : v < 256) (h : (s.func fn).unread < (v + 256 - (s.func fn).head) % 256) :
    writeHead fn v s = drainRing 256 fn
      ((recordFault dHost 0 0 {} [isleOf fn] s).mapFunc fn fun f => { f with head := v, unread := 0 }) := by
  simp only [writeHead, Nat.mod_eq_of_lt hv, h, decide_true, if_true]

/-! ## The stream doorbells (R114, R472) -/

theorem exec_dbStream_four {h n : Nat} (ha : fnAlive s fn = true) (hn : n < 2 ^ 32) :
    exec (.dbStream fn h 0 4 n) s = .next (ringStream fn h n s) := by
  change Host.Outcome.next (streamPut fn h 0 4 n s) = _
  rw [streamPut_four ha, Nat.mod_eq_of_lt hn]

variable {h n : Nat} {x : Stream}

theorem ringStream_bad (hx : aGet (s.isle (isleOf fn)).streams h = some x) (hbad : badCount x n = true) :
    ringStream fn h n s = streamEvent (isleOf fn) h 2 .eBadarg n (tideNow s) s := by
  simp only [ringStream, hx, hbad, if_true]

theorem ringStream_output (hx : aGet (s.isle (isleOf fn)).streams h = some x) (hgood : badCount x n = false) (hout : x.dirOut = true) :
    ringStream fn h n s = mapStream (isleOf fn) h (fun x => { x with lastDb := n, consumer := n }) s := by
  simp only [ringStream, hx, hgood, hout, if_true, Bool.false_eq_true, if_false]

/-- Frames announced on an input stream wake the sequence that it is bound to. -/
theorem ringStream_input (hx : aGet (s.isle (isleOf fn)).streams h = some x) (hgood : badCount x n = false) (hin : x.dirOut = false) :
    ringStream fn h n s = x.bound.elim id (wakeSeq (isleOf fn))
      (mapStream (isleOf fn) h (fun x => { x with lastDb := n, producer := n, dbTicks := x.dbTicks ++ [(n, tideNow s)] }) s) := by
  simp only [ringStream, hx, hgood, hin, Bool.false_eq_true, if_false]
  cases x.bound <;> rfl

end

/-- Settles O32: the base and the HEAD as they are written, and a stream's count by its direction. -/
theorem ringAndStreamDoorbells : Obligations.RingAndStreamDoorbells := by
  unfold Obligations.RingAndStreamDoorbells
  refine ⟨fun fn v s ha => ⟨fun hoff hv hon => ?enables, fun hon hv => ?keeps, ?releases, ?beyond⟩,
    fun fn h n s x ha hn hx => ⟨fun hbad => ?bad, fun hgood hout => ?output, fun hgood hin hfree => ?input, fun q hgood hin hbound => ?wakes,
      fun off hoff => ?offset⟩⟩
  case enables => rw [exec_cqEnable ha, writeCqBase_enables hv hoff hon]
  case keeps => rw [exec_cqEnable ha, writeCqBase_keeps hv hon]
  case releases =>
    rintro n hv rfl h
    rw [exec_cqHeadWrite ha, writeHead_releases hv h]
  case beyond =>
    rintro n hv rfl h
    rw [exec_cqHeadWrite ha, writeHead_beyond hv h]
  case bad => rw [exec_dbStream_four ha hn, ringStream_bad hx hbad]
  case output => rw [exec_dbStream_four ha hn, ringStream_output hx hgood hout]
  case input => rw [exec_dbStream_four ha hn, ringStream_input hx hgood hin, hfree]; rfl
  case wakes => rw [exec_dbStream_four ha hn, ringStream_input hx hgood hin, hbound]; rfl
  case offset => exact congrArg Host.Outcome.next (streamPut_offset hoff)

/-! ## Causes, masks and vectors (R117, R119) -/

section
variable {fn v : Nat} {s : State}

theorem exec_irqCauseClear (ha : fnAlive s fn = true) : exec (.irqCauseClear fn v) s = .next (clearCause fn (v % 256) s) :=
  congrArg Host.Outcome.next ((barWrite_four ha rfl).trans (by simp [regPut, vectors]))

theorem exec_irqMaskWrite (ha : fnAlive s fn = true) : exec (.irqMaskWrite fn v) s = .next (writeMask fn v s) :=
  congrArg Host.Outcome.next ((barWrite_four ha rfl).trans (by simp [regPut, vectors]))

/-- The causes written with 1 are cleared. -/
def causesCleared (fn bits : Nat) (s : State) : State := s.mapFunc fn fun f =>
  { f with irqCause := natMask ((List.range 6).filter fun b => f.irqCause.testBit b && !bits.testBit b) }

theorem clearCause_eq (fn bits : Nat) (s : State) : clearCause fn bits s =
    if bits.testBit 1 && !((s.func fn).heldComps.isEmpty && (s.func fn).heldEvents.isEmpty) then setCause fn 1 (causesCleared fn bits s)
    else causesCleared fn bits s := by
  have hkept : ∀ {α : Type} (g : Func → α), (∀ f n, g { f with irqCause := n } = g f) →
      g ((causesCleared fn bits s).func fn) = g (s.func fn) := fun g hg => func_mapFunc_field g _ _ _ _ fun f => hg f _
  rw [← hkept (·.heldComps) fun _ _ => rfl, ← hkept (·.heldEvents) fun _ _ => rfl]
  rfl

theorem clearCause_noHeldBit {bits : Nat} (h : bits.testBit 1 = false) : clearCause fn bits s = causesCleared fn bits s := by
  simp [clearCause_eq, h]

theorem clearCause_nothingHeld {bits : Nat} (hc : (s.func fn).heldComps = []) (he : (s.func fn).heldEvents = []) :
    clearCause fn bits s = causesCleared fn bits s := by
  simp [clearCause_eq, hc, he]

/-- CQ_HELD sets again at once while completions wait (R105). -/
theorem clearCause_held {bits : Nat} {e : Entry} {es : List Entry} (h : bits.testBit 1 = true) (hc : (s.func fn).heldComps = e :: es) :
    clearCause fn bits s = setCause fn 1 (causesCleared fn bits s) := by
  simp [clearCause_eq, h, hc]

theorem causesCleared_heldComps (fn bits : Nat) (s : State) :
    ((causesCleared fn bits s).func fn).heldComps = (s.func fn).heldComps :=
  func_mapFunc_field (·.heldComps) _ _ _ _ fun _ => rfl

/-- While a reset holds a function's registers, a 4-byte write beyond the mailbox does nothing, to a loader either. -/
theorem barWrite_inReset {off : Nat} (h : (s.func fn).flr ≠ none) (hoff : 0x3000 ≤ off) : barWrite fn off 4 v s = s := by
  have hloader : loaderPut off 4 v s = s := by
    rw [loaderPut, if_neg (by omega), if_neg (by omega)]
  unfold barWrite
  simp [hloader, barLive, fnAlive_of_flr h]

theorem exec_msixMaskChange {msk fm : Bool} : exec (.msixMaskChange fn v msk fm) s =
    if !barReadable s fn || (s.func fn).flr.isSome then .next s
    else .next (setVectorMask fn v msk (s.mapFunc fn fun f => { f with msixFnMask := fm })) := rfl

theorem exec_tideCountLoRead : exec (.tideCountLoRead fn) s =
    if !barReadable s fn then .next s
    else if (s.func fn).flr.isSome then .next (s.emit (.regRead fn (barRead s fn 0x4000 4)))
    else .next ((s.mapFunc fn fun f => { f with tideShadow := highHalf s.tide.count }).emit (.regRead fn (barRead s fn 0x4000 4))) := rfl

end

/-- Settles O33: what each register takes, by whether the function is in reset and entries wait. -/
theorem interruptRegisters : Obligations.InterruptRegisters := by
  unfold Obligations.InterruptRegisters
  intro fn v s
  refine ⟨fun ha hbit => ?cleared, fun ha hbit hc he => ?nothingHeld, ?held, ?unmasked, fun msk fm hread hflr => ?masks,
    fun msk fm hdead => ?noMasks, fun hflr => ⟨?noClear, ?noMask⟩, fun hread hflr => ?readInReset, fun hread hflr => ?reads,
    fun hdead => ?noRead⟩
  case cleared => rw [exec_irqCauseClear ha, clearCause_noHeldBit hbit]; rfl
  case nothingHeld => rw [exec_irqCauseClear ha, clearCause_nothingHeld hc he]; rfl
  case held =>
    rintro e es u ha hbit hc rfl
    rw [exec_irqCauseClear ha, clearCause_held hbit ((causesCleared_heldComps fn (v % 256) s).symm.trans hc)]
    rfl
  case unmasked =>
    rintro raised ha rfl
    rw [exec_irqMaskWrite ha]
    rfl
  case masks => rw [exec_msixMaskChange, if_neg (by simp [hread, hflr])]
  case noMasks => rw [exec_msixMaskChange, if_pos (by rcases hdead with h | h <;> simp [h, Option.isSome_iff_ne_none])]
  case noClear => exact congrArg Host.Outcome.next (barWrite_inReset hflr (by omega))
  case noMask => exact congrArg Host.Outcome.next (barWrite_inReset hflr (by omega))
  case readInReset =>
    rw [exec_tideCountLoRead, if_neg (by simp [hread]), if_pos (Option.isSome_iff_ne_none.mpr hflr)]
  case reads => rw [exec_tideCountLoRead, if_neg (by simp [hread]), if_neg (by simp [hflr])]
  case noRead => rw [exec_tideCountLoRead, if_pos (by simp [hdead])]

end Sys2Proof.Machine
end

section
/-! Resets of functions, the loss of the link, the fence of a reset isle's windows and the end of scrubs (O35). -/

namespace Sys2Proof.Machine

section
variable {s : State}

/-! ## Resets (R96, R119, R120) -/

theorem exec_flrVf {vf : Nat} (hr : s.boot.inReset = false) (hf : s.boot.fwRunning = true) (hvf : vf ≠ 0) (ha : vfAllows s vf = true) :
    exec (.flrVf vf) s = .next (if isReady (resetFunc vf true s) then resetIsle vf .enabled true (resetFunc vf true s) else resetFunc vf true s) := by
  change execFlrVf vf s = _
  rw [execFlrVf, if_neg (by simp [hr, hf, hvf, ha])]

/-- What the reset of a function leaves of it. -/
theorem resetFunc_func {fn : Nat} (h : fn < s.funcs.length) :
    (resetFunc fn true s).func fn = { nextSeq := (s.func fn).nextSeq, flr := some s.clk.ticks } :=
  func_mapFunc_self _ _ _ h

theorem exec_flrPf_ready (hr : s.boot.inReset = false) (h : isReady s = true) : exec .flrPf s = .next (pfReset s) := by
  change Host.Outcome.next (pfResetNow s) = _
  rw [pfResetNow, if_neg (by simp [hr]), if_pos h]

theorem exec_flrPf_early (hr : s.boot.inReset = false) (h : isReady s = false) :
    exec .flrPf s = .next { resetFunc 0 true s with pcie := { s.pcie with vfEnable := false } } := by
  change Host.Outcome.next (pfResetNow s) = _
  rw [pfResetNow, if_neg (by simp [hr]), if_neg (by simp [h])]

theorem exec_surpriseDown (hr : s.boot.inReset = false) (hf : s.boot.fwRunning = true) (hl : s.pcie.linkUp = true) :
    exec .surpriseDown s =
      .next (pfResetNow (recordFault dHost 0 2 {} [0] { s with pcie := { s.pcie with linkUp := false } })) := by
  change execSurpriseDown s = _
  rw [execSurpriseDown, if_neg (by simp [hr, hf, hl])]

theorem exec_vfEnableClear : exec .vfEnableClear s = if s.pcie.vfEnable && !s.boot.inReset then .next (clearVfs s) else .next s := rfl

/-! ## Fences and scrubs (R119, R151, R379) -/

variable {k : Nat}

theorem exec_windowFence_due {t : Nat} (h : (s.isle k).fenceDue = some t) :
    exec (.windowFence k) s = .next (ctrlAll pmFence [chipId (advanceCount t s), k, 1] []
      ((advanceCount t s).mapIsle k fun r => { r with fenceDue := none, windows := [] })) := by
  change execWindowFence k s = _
  simp only [execWindowFence, h]
  rfl

theorem exec_windowFence_none (h : (s.isle k).fenceDue = none) : exec (.windowFence k) s = .next s := by
  change execWindowFence k s = _
  simp only [execWindowFence, h]

theorem exec_scrubEnd (hc : counting s = true) (hh : s.halt = none) (hs : (s.isle k).state = .scrubbing) :
    exec (.scrubEnd k) s = if ((advanceCount (s.isle k).scrubEnd s).isle k).keysHeld
      then .next (dropScrubs (advanceCount (s.isle k).scrubEnd s))
      else .next (dropScrubs (scrubDone k (advanceCount (s.isle k).scrubEnd s))) := by
  change execScrubEnd k s = _
  rw [execScrubEnd, if_neg (by simp [hc, hh]), if_pos hs]

end

/-! ## The obligation -/

/-- Settles O35, row by row of the resets, the fence and the scrub's end. -/
theorem functionsReset : Obligations.FunctionsReset := by
  unfold Obligations.FunctionsReset
  intro s
  refine ⟨fun vf hr hf hvf ha hready => ?vf, fun fn hfn => ?registers, fun fn => rfl, exec_flrPf_ready, ?early, rfl, ?down, fun hv hr => ?clears,
    fun hv => ?nothing, fun k t => exec_windowFence_due, fun k => exec_windowFence_none, ?scrub⟩
  case vf =>
    rw [exec_flrVf hr hf hvf ha, if_pos hready, resetIsle]
    exact ⟨fun he => by rw [if_pos he], fun he => by rw [if_neg he]⟩
  case registers =>
    rw [resetFunc_func hfn]
    exact ⟨rfl, rfl, rfl, rfl, rfl⟩
  case early =>
    rintro p hr h rfl
    exact exec_flrPf_early hr h
  case down =>
    rintro u hr hf hl rfl
    exact exec_surpriseDown hr hf hl
  case clears => rw [exec_vfEnableClear, if_pos (by simp [hv, hr])]
  case nothing => rw [exec_vfEnableClear, if_neg (by simp [hv])]
  case scrub =>
    rintro k u hc hh hs rfl
    rw [exec_scrubEnd hc hh hs]
    exact ⟨fun hk => if_neg (by simp [hk]), fun hk => if_pos hk⟩

end Sys2Proof.Machine
end

section
/-! The completion ring (O6): what a posted entry writes to host memory, and what an entry that finds no room leaves. -/

namespace Sys2Proof.Machine

/-! ## Host memory (R98) -/

theorem sendVector_mems (fn v : Nat) (s : State) : (sendVector fn v s).mems = s.mems := by
  simp only [sendVector]
  split
  · rfl
  · split <;> rfl

theorem setCause_mems (fn b : Nat) (s : State) : (setCause fn b s).mems = s.mems := by
  simp only [setCause]
  split
  · rfl
  · split
    · rfl
    · split
      · rfl
      · exact sendVector_mems _ _ _

theorem hostWrite_host {fn a : Nat} {bs : Bytes} {s : State} (h : (s.func fn).flr = none) :
    (hostWrite fn a bs s).mems.host = Memory.writeN s.mems.host (hostKey fn a) bs := by
  simp only [hostWrite, h, Option.isSome_none, Bool.false_eq_true, if_false, hostTouch]
  split <;> rfl

theorem hostWrite_funcs (fn a : Nat) (bs : Bytes) (s : State) : (hostWrite fn a bs s).funcs = s.funcs := by
  rw [hostWrite_eq]

/-! ## An entry at TAIL (R103, R105) -/

@[simp] theorem entryBytes_length (e : Entry) : (entryBytes e).length = 32 := by simp [entryBytes]

/-- Host memory after an entry at TAIL: its bytes, and then the new TAIL in the shadow where there is one. -/
def entryHost (fn : Nat) (e : Entry) (f : Func) (m : List Host.Cell) : List Host.Cell :=
  let m := Memory.writeN m (hostKey fn (f.cqBase + 32 * f.tail)) (entryBytes e)
  if f.shadowEnable then Memory.writeN m (hostKey fn f.cqShadow) (natLe 4 ((f.tail + 1) % 256)) else m

/-- The state with an entry written and TAIL moved, before the shadow and the cause. -/
def entryWritten (fn : Nat) (e : Entry) (s : State) : State :=
  (hostWrite fn ((s.func fn).cqBase + 32 * (s.func fn).tail) (entryBytes e) s).mapFunc fn fun f =>
    { f with tail := (f.tail + 1) % 256, unread := f.unread + 1 }

/-- The same with the shadow. -/
def shadowWritten (fn : Nat) (e : Entry) (s : State) : State :=
  if (s.func fn).shadowEnable then
    hostWrite fn (s.func fn).cqShadow (natLe 4 (((s.func fn).tail + 1) % 256)) (entryWritten fn e s)
  else entryWritten fn e s

theorem writeEntry_eq (fn : Nat) (e : Entry) (s : State) :
    writeEntry fn e s = if e.quiet then shadowWritten fn e s else setCause fn 0 (shadowWritten fn e s) := rfl

section
variable {fn : Nat} {s : State}

theorem entryWritten_func (hfn : fn < s.funcs.length) (e : Entry) : (entryWritten fn e s).func fn =
    { s.func fn with tail := ((s.func fn).tail + 1) % 256, unread := (s.func fn).unread + 1 } := by
  rw [entryWritten, func_mapFunc_self _ _ _ (by rw [hostWrite_funcs]; exact hfn), hostWrite_func]

theorem shadowWritten_func (hfn : fn < s.funcs.length) (e : Entry) : (shadowWritten fn e s).func fn =
    { s.func fn with tail := ((s.func fn).tail + 1) % 256, unread := (s.func fn).unread + 1 } := by
  rw [shadowWritten]
  split
  · rw [hostWrite_func, entryWritten_func hfn]
  · exact entryWritten_func hfn e

theorem shadowWritten_host (hfn : fn < s.funcs.length) (hflr : (s.func fn).flr = none) (e : Entry) :
    (shadowWritten fn e s).mems.host = entryHost fn e (s.func fn) s.mems.host := by
  have hentry : (entryWritten fn e s).mems.host =
      Memory.writeN s.mems.host (hostKey fn ((s.func fn).cqBase + 32 * (s.func fn).tail)) (entryBytes e) := hostWrite_host hflr
  rw [shadowWritten, entryHost]
  split
  · rw [hostWrite_host (by rw [entryWritten_func hfn]; exact hflr), hentry]
  · exact hentry

theorem writeEntry_host (hfn : fn < s.funcs.length) (hflr : (s.func fn).flr = none) (e : Entry) :
    (writeEntry fn e s).mems.host = entryHost fn e (s.func fn) s.mems.host := by
  rw [writeEntry_eq, ← shadowWritten_host hfn hflr]
  split
  · rfl
  · rw [setCause_mems]

/-- Writing an entry moves TAIL and leaves the rest of the ring's registers. -/
theorem writeEntry_field {α : Type} (g : Func → α) (hcause : ∀ f n, g { f with irqCause := n } = g f)
    (hpending : ∀ f l, g { f with msixPending := l } = g f) (hfn : fn < s.funcs.length) (e : Entry) :
    g ((writeEntry fn e s).func fn) =
      g { s.func fn with tail := ((s.func fn).tail + 1) % 256, unread := (s.func fn).unread + 1 } := by
  rw [writeEntry_eq, ← shadowWritten_func hfn e]
  split
  · rfl
  · exact setCause_field g hcause hpending _ _ _ _

end

/-! ## What is read in host memory afterwards -/

section
variable {fn : Nat} {e : Entry} {f : Func} {m : List Host.Cell}

theorem entryHost_elsewhere (w : Memory.wf m = true) {a : Nat}
    (hentry : a < hostKey fn (f.cqBase + 32 * f.tail) ∨ hostKey fn (f.cqBase + 32 * f.tail) + 32 ≤ a)
    (hshadow : a < hostKey fn f.cqShadow ∨ hostKey fn f.cqShadow + 4 ≤ a) :
    Memory.read (entryHost fn e f m) a = Memory.read m a := by
  have hkept := Memory.read_writeN_outside (bs := entryBytes e) w (by rw [entryBytes_length]; exact hentry)
  rw [entryHost]
  split
  · rw [Memory.read_writeN_outside (Memory.wf_writeN _ _ w) (by rw [natLe_length]; exact hshadow), hkept]
  · exact hkept

theorem entryHost_shadow (w : Memory.wf m = true) (h : f.shadowEnable = true) :
    Memory.readN (entryHost fn e f m) (hostKey fn f.cqShadow) 4 = natLe 4 ((f.tail + 1) % 256) := by
  have hread := Memory.readN_writeN
    (Memory.wf_writeN (hostKey fn (f.cqBase + 32 * f.tail)) (entryBytes e) w) (hostKey fn f.cqShadow) (natLe 4 ((f.tail + 1) % 256))
  rw [natLe_length] at hread
  rw [entryHost, if_pos h, hread]

/-- The entry is read at TAIL, unless the shadow lies in it. -/
theorem entryHost_entry (w : Memory.wf m = true) (h : f.shadowEnable = false ∨ f.cqShadow + 4 ≤ f.cqBase + 32 * f.tail ∨
    f.cqBase + 32 * f.tail + 32 ≤ f.cqShadow) :
    Memory.readN (entryHost fn e f m) (hostKey fn (f.cqBase + 32 * f.tail)) 32 = entryBytes e := by
  have hread := Memory.readN_writeN w (hostKey fn (f.cqBase + 32 * f.tail)) (entryBytes e)
  rw [entryBytes_length] at hread
  rw [entryHost]
  split
  next hshadow =>
    rw [← hread]
    refine Memory.readN_congr fun i hi => ?_
    have hapart := h.resolve_left (by simp [hshadow])
    rw [hread, Memory.read_writeN_outside (Memory.wf_writeN _ _ w) (by rw [natLe_length]; simp only [hostKey]; omega)]
  · exact hread

end

/-! ## Posting (R103) -/

section
variable {fn : Nat} {e : Entry} {s : State}

theorem flr_of_entriesOn (h : entriesOff fn s = false) : (s.func fn).flr = none := by
  simp only [entriesOff, Bool.or_eq_false_iff] at h
  simpa using h.1.1.1

theorem ringRoom_iff {f : Func} (h : f.cqEnable = true) : ringRoom f = false ↔ (f.tail + 1) % 256 = f.head := by
  simp [ringRoom, h]

theorem postEntry_written (hon : entriesOff fn s = false) (hroom : ringRoom (s.func fn) = true) (hheld : (s.func fn).heldComps = []) :
    postEntry fn e s = writeEntry fn e s := by
  simp only [postEntry, hon, hroom, hheld, List.isEmpty_nil, Bool.and_self, if_true, Bool.false_eq_true, if_false]

theorem postEntry_held (hon : entriesOff fn s = false) (h : ringRoom (s.func fn) = false ∨ (s.func fn).heldComps ≠ []) :
    postEntry fn e s = setCause fn 1 (s.mapFunc fn fun f => { f with heldComps := f.heldComps ++ [e] }) := by
  have hwaits : ¬(ringRoom (s.func fn) && (s.func fn).heldComps.isEmpty) = true := by
    rcases h with h | h <;> simp [h]
  simp only [postEntry, hon, if_neg hwaits, Bool.false_eq_true, if_false]

end

/-! ## The obligation -/

/-- Settles O6: an entry with room is written at TAIL with its shadow, one without is held and host memory stays as it is. -/
theorem ringRule : Obligations.RingRule := by
  unfold Obligations.RingRule
  intro fn e s hon hring hfn w
  have hflr := flr_of_entriesOn hon
  refine ⟨ringRoom_iff hring, fun hroom hheld => ?written, fun hwaits => ?held⟩
  case written =>
    have hhas : ringRoom (s.func fn) = true := by simp [ringRoom, hring, hroom]
    rw [postEntry_written hon hhas hheld]
    simp only [hostRead, writeEntry_host hfn hflr]
    exact ⟨writeEntry_field (·.tail) (fun _ _ => rfl) (fun _ _ => rfl) hfn e, writeEntry_field (·.head) (fun _ _ => rfl) (fun _ _ => rfl) hfn e,
      entryHost_shadow w, entryHost_entry w, fun a => entryHost_elsewhere w⟩
  case held =>
    have hkept := fun {α : Type} (g : Func → α) hc hp =>
      setCause_field g hc hp fn 1 fn (s.mapFunc fn fun f => { f with heldComps := f.heldComps ++ [e] })
    rw [postEntry_held hon (hwaits.imp_left (ringRoom_iff hring).mpr), setCause_mems, hkept (·.tail) (fun _ _ => rfl) (fun _ _ => rfl),
      hkept (·.heldComps) (fun _ _ => rfl) (fun _ _ => rfl), func_mapFunc_self _ _ _ hfn]
    exact ⟨rfl, rfl, rfl⟩

end Sys2Proof.Machine
end

section
/-! Commands that a check refuses (O7, O58): they change nothing but what an answer changes, and wait for their Q where their class is
quantized. -/

namespace Sys2Proof.Machine

section
variable {spec : CmdSpec} {c : MbxArg} {s : State}

/-! ## The state after a refusal holds nothing back -/

/-- A command that is answered at once leaves the queue, whatever its phase. -/
theorem refuseAt_cmds_of_found {tide fn seq : Nat} {st : Status} {d : Nat} {e : Cmd} {s : State} (h : findCmd s fn seq = some e) (k : Nat) :
    ((refuseAt tide fn seq st d s).func k).cmds = ((dropCmd fn seq s).func k).cmds := by
  simp only [refuseAt, h]
  exact postEntry_cmds _ _ _ _

theorem func_entered_ne (spec : CmdSpec) (c : MbxArg) (s : State) {k : Nat} (h : c.fn ≠ k) : (entered spec c s).func k = s.func k := by
  rw [entered, func_mapFunc_ne _ _ _ _ h, func_mapFunc_ne _ _ _ _ h]

theorem entered_length (spec : CmdSpec) (c : MbxArg) (s : State) : (entered spec c s).funcs.length = s.funcs.length := by
  simp [entered, setAt_length]

theorem findCmd_entered (hfn : c.fn < s.funcs.length) : ∃ e, findCmd (entered spec c s) c.fn (s.func c.fn).nextSeq = some e := by
  rw [findCmd, entered_cmds hfn, ← Option.isSome_iff_exists, List.find?_isSome]
  exact ⟨queued spec c s, by simp, by simp⟩

theorem quiet_refused (tide : Nat) (st : Status) (d : Nat) (hfn : c.fn < s.funcs.length) (hq : Quiet s) :
    Quiet (refuseAt tide c.fn (s.func c.fn).nextSeq st d (entered spec c s)) := by
  intro k e he
  obtain ⟨x, hx⟩ := findCmd_entered (spec := spec) hfn
  rw [refuseAt_cmds_of_found hx, dropCmd] at he
  by_cases hk : c.fn = k
  · subst hk
    rw [func_mapFunc_self _ _ _ (by rwa [entered_length]), entered_cmds hfn] at he
    obtain ⟨hmem, hseq⟩ := List.mem_filter.mp he
    rcases List.mem_append.mp hmem with hold | hnew
    · exact hq _ _ hold
    · rw [List.mem_singleton.mp hnew] at hseq
      simp at hseq
  · rw [func_mapFunc_ne _ _ _ _ hk, func_entered_ne _ _ _ hk] at he
    exact hq _ _ he

/-! ## The row of a refused command (R110, R111) -/

/-- Outside LIMBO a refusal of a quantized class waits for its Q. -/
theorem refuse_waits {fn seq : Nat} {e : Cmd} {peer : Bool} {st : Status} {d : Nat} {s : State}
    (hc : securityClass e.hdr.opcode st = true) (hl : s.boot.limbo = none) :
    refuse fn seq e peer st d s = setPhase fn seq (.refusal (if peer then peerQuantum e.d else quantum e.d) st d) s := by
  simp only [refuse, hc, hl, Option.isNone_none, Bool.and_self, if_true]

theorem refuse_answers {fn seq : Nat} {e : Cmd} {peer : Bool} {st : Status} {d : Nat} {s : State}
    (hc : securityClass e.hdr.opcode st = false) : refuse fn seq e peer st d s = refuseAt (tideNow s) fn seq st d s := by
  simp only [refuse, hc, Bool.false_and, Bool.false_eq_true, if_false]

theorem quiet_refuse {e : Cmd} {peer : Bool} {st : Status} {d : Nat} (hfn : c.fn < s.funcs.length) (hq : Quiet s) :
    Quiet (refuse c.fn (s.func c.fn).nextSeq e peer st d (entered spec c s)) := by
  rw [refuse]
  split
  · exact quiet_entered_phase _ (by simp) hfn hq
  · exact quiet_refused _ _ _ hfn hq

theorem exec_refused {op : Nat} {i : Instr} {st : Status} {d : Nat} (hspec : cmdTable op = some spec) (hrow : RowOf op c i)
    (ha : fnAlive s c.fn = true) (hcopies : copiesNow (s.func c.fn) c.slot = true) (hq : Quiet s)
    (hc : checkAll (entered spec c s) c.fn (some spec) (queued spec c s) = some (st, d)) :
    exec i s = .next (refuse c.fn (s.func c.fn).nextSeq (queued spec c s)
      (spec.peerMark || spec.peer (entered spec c s) c.fn (bodyOf c)) st d (entered spec c s)) := by
  rw [(exec_row hspec hrow s).1, row_refused ha hcopies hc, pumpAll_quiet _ _ (quiet_refuse (copiesNow_lt hcopies) hq)]

/-! ## What a refusal leaves (R102) -/

theorem posts_entered (spec : CmdSpec) (c : MbxArg) (s : State) : Posts s (entered spec c s) :=
  (posts_mapFunc _ _ _).trans (posts_mapFunc _ _ _)

theorem posts_refuse (fn seq : Nat) (e : Cmd) (peer : Bool) (st : Status) (d : Nat) (s : State) :
    Posts s (refuse fn seq e peer st d s) := by
  rw [refuse]
  split
  · exact posts_mapFunc _ _ _
  · exact posts_refuseAt _ _ _ _ _ _

theorem posts_ringDoorbell (fn slot : Nat) (s : State) : Posts s (ringDoorbell fn slot s) := by
  simp only [ringDoorbell]
  split
  · exact posts_mapFunc _ _ _
  · exact (posts_mapFunc _ _ _).trans (posts_setCause _ _ _)

/-- A row whose function cannot send, or whose slot is not copied at once, only writes its slot and rings. -/
theorem posts_mbxRow_unaccepted (h : ¬(fnAlive s c.fn = true ∧ copiesNow (s.func c.fn) c.slot = true)) :
    Posts s (mbxRow cmdTable spec c s) := by
  rw [mbxRow, hostRow]
  by_cases ha : fnAlive s c.fn = true
  · rw [if_neg (by simp [ha]), if_neg fun hcopies => h ⟨ha, hcopies⟩]
    exact (posts_mapFunc _ _ _).trans (posts_ringDoorbell _ _ _)
  · rw [if_pos (by simpa using ha)]
    exact Posts.refl s

end

/-! ## The obligations -/

/-- Settles O7: a refused command is outstanding as a refusal or answered, and one that is not copied at once waits in its slot. -/
theorem refusedCommandsOnlyAnswer : Obligations.RefusedCommandsOnlyAnswer := by
  unfold Obligations.RefusedCommandsOnlyAnswer
  intro op spec c i s t st d hspec hrow hq hc ht
  by_cases h : fnAlive s c.fn = true ∧ copiesNow (s.func c.fn) c.slot = true
  · rw [exec_refused hspec hrow h.1 h.2 hq hc] at ht
    injection ht with ht
    rw [← ht]
    exact (posts_entered _ _ _).trans (posts_refuse _ _ _ _ _ _ _)
  · rw [(exec_row hspec hrow s).1] at ht
    injection ht with ht
    rw [← ht]
    exact posts_mbxRow_unaccepted h

/-- Settles O58, by whether the command's class is quantized. -/
theorem refusalsWaitForQ : Obligations.RefusalsWaitForQ := by
  unfold Obligations.RefusalsWaitForQ
  intro op spec c i s st d hspec hrow ha hcopies hfn hq hl hc
  have hop : (queued spec c s).hdr.opcode = op := (exec_row hspec hrow s).2
  have hclass : securityClass (queued spec c s).hdr.opcode st = true ↔ (0x0200 ≤ op ∧ op ≤ 0x0AFF ∨ st = .eDenied) := by
    simp [hop, securityClass]
  rw [exec_refused hspec hrow ha hcopies hq hc]
  refine ⟨fun hquant hmark hpeer => ?waits, fun hnot => ?answers⟩
  case waits =>
    rw [refuse_waits (s := entered spec c s) (hclass.mpr hquant) hl, hmark, hpeer]
    rfl
  case answers => rw [refuse_answers (by simpa using mt hclass.mp hnot)]; rfl

/-! ## Peer-checked commands (O59) -/

/-- A state in which VF 1 waits for its peers' answer when the fuse programming that a command of the PF asked for is over. -/
def programmedWhileAsked : State :=
  let waits := Tests.tWaits (.peer 1024000)
  { waits with sec := { waits.sec with burns := [{ fn := 0, seq := 0, what := .advance 1, rows := [] }] } }

/-- The command that waits. -/
def askingCmd : Cmd := { Tests.tQuery with phase := .peer 1024000, hdr := { Tests.tQuery.hdr with opcode := 0x0209 } }

theorem programmedWhileAsked_cmds : (programmedWhileAsked.func 1).cmds = [askingCmd] := by decide +kernel

/-- The fuse programming in hand after an outcome. -/
def burnsAfter : Host.Outcome State Fault Refusal → List Burn
  | .next t => t.sec.burns
  | _ => []

/-- The row that ends the VF's command settles the programming too. -/
theorem refusalQuantum_settles : burnsAfter (exec (.refusalQuantum 1) programmedWhileAsked) = [] := by decide +kernel

/-- The end of the VF's command alone leaves it in hand. -/
theorem refuseAt_keeps_burns : (pumpAll cmdTable (refuseAt
    (if programmedWhileAsked.tide.aligned then 1024000 else 0) 1 askingCmd.seq .ePeerLost 0
    (advanceTicks (programmedWhileAsked.clk.ticks + (1024000 - quantNow programmedWhileAsked)) programmedWhileAsked))).sec.burns ≠ [] := by
  decide +kernel

/-- Refutes O59: at the Q of a VF's command, fuse programming of the PF whose time has passed is settled as well, so that more than the
entry of E_PEER_LOST changes. -/
theorem not_peerChecksEndByQ : ¬ Obligations.PeerChecksEndByQ := by
  unfold Obligations.PeerChecksEndByQ
  rintro ⟨-, hends⟩
  obtain ⟨-, -, hlost⟩ := hends 1 1024000 0 [] askingCmd specArchForm .eState programmedWhileAsked _ programmedWhileAsked_cmds rfl (by decide)
  obtain ⟨-, hexec⟩ := hlost (by decide +kernel) (by decide +kernel) (by decide +kernel) rfl
  have hburns := congrArg burnsAfter hexec
  rw [refusalQuantum_settles] at hburns
  exact refuseAt_keeps_burns hburns.symm

end Sys2Proof.Machine
end

section
/-! Queries without a side effect (O11, O13, O55): each answers S_OK with its result words on the state as it is. -/

namespace Sys2Proof.Machine

/-! ## Commands that only answer -/

/-- A command that executes when it is accepted, and whose execution is its final entry. -/
structure JustAnswers (spec : CmdSpec) : Prop where
  atOnce : AtOnce spec
  words : ∀ fn c tide s, ∃ w, spec.run fn c tide s = finishAt tide fn c.seq .sOk 0 w s

theorem tideQuery_answers : JustAnswers specTideQuery :=
  ⟨⟨rfl, fun _ _ _ => rfl, rfl, fun _ _ _ => rfl⟩, fun _ _ _ _ => ⟨_, rfl⟩⟩
theorem paceQuery_answers : JustAnswers specPaceQuery :=
  ⟨⟨rfl, fun _ _ _ => rfl, rfl, fun _ _ _ => rfl⟩, fun _ _ _ _ => ⟨_, rfl⟩⟩
theorem isleQuery_answers : JustAnswers specIsleQuery :=
  ⟨⟨rfl, fun _ _ _ => rfl, rfl, fun _ _ _ => rfl⟩, fun _ _ _ _ => ⟨_, rfl⟩⟩
theorem progQuery_answers : JustAnswers specProgQuery :=
  ⟨⟨rfl, fun _ _ _ => rfl, rfl, fun _ _ _ => rfl⟩, fun _ _ _ _ => ⟨_, rfl⟩⟩
theorem tapQuery_answers : JustAnswers specTapQuery :=
  ⟨⟨rfl, fun _ _ _ => rfl, rfl, fun _ _ _ => rfl⟩, fun _ _ _ _ => ⟨_, rfl⟩⟩
theorem streamQuery_answers : JustAnswers specStreamQuery :=
  ⟨⟨rfl, fun _ _ _ => rfl, rfl, fun _ _ _ => rfl⟩, fun _ _ _ _ => ⟨_, rfl⟩⟩
theorem archQuery_answers : JustAnswers specArchQuery :=
  ⟨⟨rfl, fun _ _ _ => rfl, rfl, fun _ _ _ => rfl⟩, fun _ _ _ _ => ⟨_, rfl⟩⟩
theorem lcQuery_answers : JustAnswers specLcQuery :=
  ⟨⟨rfl, fun _ _ _ => rfl, rfl, fun _ _ _ => rfl⟩, fun _ _ _ _ => ⟨_, rfl⟩⟩
theorem keyEpochQuery_answers : JustAnswers specKeyEpochQuery :=
  ⟨⟨rfl, fun _ _ _ => rfl, rfl, fun _ _ _ => rfl⟩, fun _ _ _ _ => ⟨_, rfl⟩⟩
theorem entropyQuery_answers : JustAnswers specEntropyQuery :=
  ⟨⟨rfl, fun _ _ _ => rfl, rfl, fun _ _ _ => rfl⟩, fun _ _ _ _ => ⟨_, rfl⟩⟩
theorem cartQuery_answers : JustAnswers specCartQuery :=
  ⟨⟨rfl, fun _ _ _ => rfl, rfl, fun _ _ _ => rfl⟩, fun _ _ _ _ => ⟨_, rfl⟩⟩
theorem unitQuery_answers : JustAnswers specUnitQuery :=
  ⟨⟨rfl, fun _ _ _ => rfl, rfl, fun _ _ _ => rfl⟩, fun _ _ _ _ => ⟨_, rfl⟩⟩

/-- The opcodes of the queries that reset no counter. -/
theorem query_justAnswers {op : Nat} {spec : CmdSpec}
    (h : op ∈ [0x0140, 0x0142, 0x0207, 0x0403, 0x0412, 0x0482, 0x0600, 0x0800, 0x0822, 0x0830, 0x0900, 0x0B04])
    (hspec : cmdTable op = some spec) : JustAnswers spec := by
  simp only [List.mem_cons, List.not_mem_nil, or_false] at h
  rcases h with rfl | rfl | rfl | rfl | rfl | rfl | rfl | rfl | rfl | rfl | rfl | rfl
  all_goals
    injection hspec with hspec
    subst hspec
  exacts [tideQuery_answers, paceQuery_answers, isleQuery_answers, progQuery_answers, tapQuery_answers, streamQuery_answers,
    archQuery_answers, lcQuery_answers, keyEpochQuery_answers, entropyQuery_answers, cartQuery_answers, unitQuery_answers]

section
variable {spec : CmdSpec} {c : MbxArg} {s : State}

theorem posts_answered (st : Status) (w : Words) : Posts s (answered spec c st w id s) :=
  ((posts_entered spec c s).trans (posts_mapFunc _ _ _)).trans (posts_finishAt _ _ _ _ _ _ _)

theorem JustAnswers.answered (h : JustAnswers spec) (ha : Accepted spec c s) :
    ∃ w, mbxRow cmdTable spec c s = answered spec c .sOk w id s := by
  obtain ⟨w, hw⟩ := h.words c.fn (queued spec c s) (tideNow s) (working spec c s)
  have hnext := h.atOnce.answers (w := w) (eff := id) ha hw fun _ => rfl
  injection hnext with hnext
  exact ⟨w, hnext⟩

end

/-! ## PACE_QUERY (R71) -/

/-- The words of PACE_QUERY for a core. -/
def paceWords (s : State) (core : Nat) : Words :=
  { w0 := if unitServes s 0 core then s.tide.paces.getD core 0 else 0, w1 := vcoreNow s, w2 := sensorReading s core }

theorem working_vcoreNow (spec : CmdSpec) (c : MbxArg) (s : State) : vcoreNow (working spec c s) = vcoreNow s :=
  SameAvs.vcoreNow ⟨rfl, rfl, rfl, rfl⟩

theorem exec_paceQuery {c : MbxArg} {s : State} {core : Nat} (hcore : paceCore s c.fn (queued specPaceQuery c s) = some core)
    (ha : Accepted specPaceQuery c s) : exec (.paceQuery c) s = .next (answered specPaceQuery c .sOk (paceWords s core) id s) := by
  have hworking : paceCore (working specPaceQuery c s) c.fn (queued specPaceQuery c s) = some core := hcore
  refine paceQuery_answers.atOnce.answers ha ?_ fun _ => rfl
  rw [specPaceQuery_run, runPaceQuery, hworking, working_vcoreNow]
  rfl

theorem paceCore_pf {c : MbxArg} {s : State} (hfn : c.fn = 0) :
    paceCore s c.fn (queued specPaceQuery c s) = if fieldB (bodyOf c) 0 2 < 64 then some (fieldB (bodyOf c) 0 2) else none := by
  rw [paceCore, if_pos hfn]
  rfl

theorem paceCore_vf {c : MbxArg} {s : State} (hfn : c.fn ≠ 0) :
    paceCore s c.fn (queued specPaceQuery c s) = (dedicated (s.isle c.fn))[fieldB (bodyOf c) 0 2]? := by
  rw [paceCore, if_neg hfn]
  rfl

/-- What passes checks 1 to 7 has passed check 4. -/
theorem auth_of_checkAll {s : State} {fn : Nat} {sp : CmdSpec} {c : Cmd} (h : checkAll s fn (some sp) c = none) :
    sp.auth s fn c = true := by
  simp only [checkAll, Option.or_eq_none_iff] at h
  obtain ⟨-, -, h47⟩ := h
  by_contra hauth
  rw [checks47, if_pos (by simp [hauth])] at h47
  cases h47

/-- The core that an accepted PACE_QUERY names: from the PF by its number, from a VF by its index in the isle's list. -/
theorem paceQuery_core {c : MbxArg} {s : State} (ha : Accepted specPaceQuery c s) :
    ∃ core, paceCore s c.fn (queued specPaceQuery c s) = some core := by
  have hauth : (c.fn == 0 || (paceCore s c.fn (queued specPaceQuery c s)).isSome) = true := auth_of_checkAll ha.passes
  have hargs : ((c.fn != 0 || (paceCore s c.fn (queued specPaceQuery c s)).isSome) &&
      zeroB (bodyOf c) 2 6) = true := args_of_checkAll ha.passes
  rw [← Option.isSome_iff_exists]
  by_cases hfn : c.fn = 0
  · simp only [hfn, bne_self_eq_false, Bool.false_or, Bool.and_eq_true] at hargs
    rw [hfn]
    exact hargs.1
  · simpa [hfn] using hauth

theorem paceQuery_denied {c : MbxArg} {s : State} (hfn : c.fn ≠ 0) (hnone : (dedicated (s.isle c.fn))[fieldB (bodyOf c) 0 2]? = none)
    (hp : s.boot.phase = 0x09) (hh : s.halt = none)
    (h1 : check1 (entered specPaceQuery c s) (queued specPaceQuery c s) = none) :
    checkAll (entered specPaceQuery c s) c.fn (some specPaceQuery) (queued specPaceQuery c s) = some (.eDenied, 0) := by
  have hcore : paceCore (entered specPaceQuery c s) c.fn (queued specPaceQuery c s) = none := (paceCore_vf hfn).trans hnone
  have hauth : specPaceQuery.auth (entered specPaceQuery c s) c.fn (queued specPaceQuery c s) = false := by
    change (c.fn == 0 || (paceCore (entered specPaceQuery c s) c.fn (queued specPaceQuery c s)).isSome) = false
    simp [hfn, hcore]
  rw [checkAll_known h1 hh hp, checks47, if_pos (by simp [hauth])]

/-! ## Queries of an object by its handle -/

section
variable {fn tide : Nat} {c : Cmd} {s : State}

theorem runProgQuery_named {g : Prog} (h : aGet (s.isle fn).progs (fieldB c.payload 0 4) = some g) :
    runProgQuery fn c tide s = finishAt tide fn c.seq .sOk 0
      { w0 := progStateCode g.state, w1 := imgBudget g.image (dNow s fn), w2 := sat32 g.committed, w3 := sat32 g.aborted } s := by
  have hprog : progOf s fn c = g := congrArg (·.getD {}) h
  rw [runProgQuery, hprog]
  rfl

theorem runTapQuery_named {t : Tap} (h : (s.isle fn).taps[fieldB c.payload 0 4]? = some t) :
    runTapQuery fn c tide s = finishAt tide fn c.seq .sOk 0
      { w0 := tapStateCode t.state, w1 := t.captured.length, w2 := t.missed.length } s := by
  have htap : (s.isle (isleOf fn)).taps.getD (tapId c) {} = t := by
    rw [List.getD_eq_getElem?_getD]
    exact congrArg (·.getD {}) h
  rw [runTapQuery, htap]

theorem runStreamQuery_named {x : Stream} (h : aGet (s.isle fn).streams (fieldB c.payload 0 4) = some x) :
    runStreamQuery fn c tide s = finishAt tide fn c.seq .sOk 0
      { w0 := x.producer, w1 := x.consumer, w2 := x.bound.getD 0xFFFFFFFF, w3 := x.reasons } s := by
  have hstream : streamOf s fn c = x := congrArg (·.getD {}) h
  rw [runStreamQuery, hstream]

theorem runSeqQuery_named {q : Seq} (h : seqOf s fn (seqHandle c) = some q) :
    runSeqQuery fn c tide s = finishAt tide fn c.seq .sOk 0
      { w0 := seqStateCode q.state + b2n q.managed * 2 ^ 8 + b2n q.home * 2 ^ 9 + sat16 (lostPages q).length * 2 ^ 16,
        w1 := q.c, w2 := q.f, w3 := q.step } s := by
  have hseq : seqOf s (isleOf fn) (seqHandle c) = some q := h
  rw [runSeqQuery, hseq]

theorem runUnitQuery_eq : runUnitQuery fn c tide s = finishAt tide fn c.seq .sOk 0
    { w0 := unitState s (uCls c) (uIdx c), w1 := lowHalf ((pGet s.units.recs (uCls c, uIdx c)).elim 0 fun r => r.lastT),
      w2 := highHalf ((pGet s.units.recs (uCls c, uIdx c)).elim 0 fun r => r.lastT) } s := by
  rw [runUnitQuery]
  cases pGet s.units.recs (uCls c, uIdx c) <;> rfl

end

/-! ## The obligations -/

/-- Settles O11: each of these queries only answers. -/
theorem queriesChangeNothing : Obligations.QueriesChangeNothing := by
  unfold Obligations.QueriesChangeNothing
  intro op spec c i s t hop hspec hrow ha ht
  obtain ⟨w, hw⟩ := (query_justAnswers hop hspec).answered ha
  rw [(exec_row hspec hrow s).1, hw] at ht
  injection ht with ht
  rw [← ht]
  exact posts_answered _ _

/-- Settles O13: the words of each query, on the state that executes it. -/
theorem queriesAnswer : Obligations.QueriesAnswer := by
  unfold Obligations.QueriesAnswer
  intro c s
  refine ⟨fun h => tideQuery_answers.atOnce.answers h rfl fun _ => rfl, fun core hcore => exec_paceQuery hcore,
    fun h => isleQuery_answers.atOnce.answers h rfl fun _ => rfl,
    fun g hg h => progQuery_answers.atOnce.answers h (runProgQuery_named hg) fun _ => rfl,
    fun t ht h => tapQuery_answers.atOnce.answers h (runTapQuery_named ht) fun _ => rfl,
    fun x hx h => streamQuery_answers.atOnce.answers h (runStreamQuery_named hx) fun _ => rfl,
    fun h => archQuery_answers.atOnce.answers h rfl fun _ => rfl, fun h => cartQuery_answers.atOnce.answers h rfl fun _ => rfl,
    fun h => keyEpochQuery_answers.atOnce.answers h rfl fun _ => rfl, fun h => entropyQuery_answers.atOnce.answers h rfl fun _ => rfl,
    fun h => lcQuery_answers.atOnce.answers h rfl fun _ => rfl,
    fun h => unitQuery_answers.atOnce.answers h runUnitQuery_eq fun _ => rfl,
    fun q hq h => seqQuery_atOnce.answers h (runSeqQuery_named hq) fun _ => rfl⟩

/-- Settles O55: a core's number from the PF, an index into the isle's list from a VF. -/
theorem paceQueryIndex : Obligations.PaceQueryIndex := by
  unfold Obligations.PaceQueryIndex
  rintro c n s rfl
  refine ⟨fun hfn ha => ?pf, fun hfn ha => ?vf, fun hfn => paceQuery_denied hfn⟩
  case pf =>
    obtain ⟨core, hcore⟩ := paceQuery_core ha
    have hnumber := hcore
    rw [paceCore_pf hfn] at hnumber
    split at hnumber
    next hlt =>
      injection hnumber with hnumber
      rw [hnumber] at hlt ⊢
      exact ⟨hlt, exec_paceQuery hcore ha⟩
    · cases hnumber
  case vf =>
    obtain ⟨core, hcore⟩ := paceQuery_core ha
    exact ⟨core, (paceCore_vf hfn).symm.trans hcore, exec_paceQuery hcore ha⟩

end Sys2Proof.Machine
end

section
/-! Commands whose work goes on after S_PENDING, or after an agreement (O17). -/

namespace Sys2Proof.Machine

/-! ## Commands that begin at once -/

theorem memLoad_atOnce : AtOnce specMemLoad := ⟨rfl, fun _ _ _ => rfl, rfl, fun _ _ _ => rfl⟩
theorem memStore_atOnce : AtOnce specMemStore := ⟨rfl, fun _ _ _ => rfl, rfl, fun _ _ _ => rfl⟩
theorem progLoad_atOnce : AtOnce specProgLoad := ⟨rfl, fun _ _ _ => rfl, rfl, fun _ _ _ => rfl⟩
theorem fwStage_atOnce : AtOnce specFwStage := ⟨rfl, fun _ _ _ => rfl, rfl, fun _ _ _ => rfl⟩
theorem unitRetire_atOnce : AtOnce specUnitRetire := ⟨rfl, fun _ _ _ => rfl, rfl, fun _ _ _ => rfl⟩
theorem unitReturn_atOnce : AtOnce specUnitReturn := ⟨rfl, fun _ _ _ => rfl, rfl, fun _ _ _ => rfl⟩
theorem entropyRestart_atOnce : AtOnce specEntropyRestart := ⟨rfl, fun _ _ _ => rfl, rfl, fun _ _ _ => rfl⟩
theorem cartEject_atOnce : AtOnce specCartEject := ⟨rfl, fun _ _ _ => rfl, rfl, fun _ _ _ => rfl⟩
theorem cartQuiesce_atOnce : AtOnce specCartQuiesce := ⟨rfl, fun _ _ _ => rfl, rfl, fun _ _ _ => rfl⟩
theorem cartPair_atOnce : AtOnce specCartPair := ⟨rfl, fun _ _ _ => rfl, rfl, fun _ _ _ => rfl⟩
theorem tideEpochSet_atOnce : AtOnce specTideEpochSet := ⟨rfl, fun _ _ _ => rfl, rfl, fun _ _ _ => rfl⟩
theorem poolSet_atOnce : AtOnce specPoolSet := ⟨rfl, fun _ _ _ => rfl, rfl, fun _ _ _ => rfl⟩
theorem fwActivate_atOnce : AtOnce specFwActivate := ⟨rfl, fun _ _ _ => rfl, rfl, fun _ _ _ => rfl⟩

/-! ## Their executions, by case -/

section
variable {fn tide : Nat} {c : Cmd} {s : State}

/-- The self-test of a unit that is no cay slot begins. -/
theorem runUnitReturn_tests (h : uCls c ≠ 4) : runUnitReturn fn c tide s =
    (setUnitState (uCls c) (uIdx c) 3 (tideNow s) (pendAt tide fn c.seq s)).mapUnits fun u => { u with jobs := u.jobs ++
      [{ cls := uCls c, idx := uIdx c, ret := true,
         since := tideNow (setUnitState (uCls c) (uIdx c) 3 (tideNow s) (pendAt tide fn c.seq s)),
         reqT := fieldB c.payload 8 8, cmd := some (fn, c.seq) }] } := by
  rw [runUnitReturn]
  exact if_neg fun hc => h hc.1

theorem runCartPair_serves (h : s.ent.state = .running) : runCartPair fn c tide s = startPair c s := by
  simp only [runCartPair, entAsk, h]

variable {t : Nat}

theorem runPoolSet_proposes (h : chooseT s (fieldB c.payload 8 8) = some t) :
    runPoolSet fn c tide s = propose t (.pool c.payload) (some (fn, c.seq)) (pendAt tide fn c.seq s) := by
  rw [runPoolSet, h]

theorem runSlotTableSet_proposes (h : chooseT s (fieldB c.payload 16 8) = some t) :
    runSlotTableSet fn c tide s = propose t (.slotTable (slotOwners c.payload)) (some (fn, c.seq)) s := by
  rw [runSlotTableSet, h]

theorem runArchForm_proposes (h : chooseT s (fieldB c.payload 8 8) = some t) :
    runArchForm fn c tide s = propose t (.archForm (formMask c)) (some (fn, c.seq)) s := by
  rw [runArchForm, h]

theorem runFwActivate_proposes (hstaged : s.fw.staged.isSome = true) (h : chooseT s (fieldB c.payload 0 8) = some t) :
    runFwActivate fn c tide s = propose t .fwActivate (some (fn, c.seq)) s := by
  obtain ⟨v, hv⟩ := Option.isSome_iff_exists.mp hstaged
  rw [runFwActivate, hv, h]

theorem runTideEpochSet_proposes (h : chooseT s (fieldB c.payload 8 8) = some t) :
    runTideEpochSet fn c tide s = propose t (.epochLen (newE c)) (some (fn, c.seq)) s := by
  rw [runTideEpochSet, h]
  rfl

/-! ## Agreements (R64) -/

/-- With no other chip a peer-checked command asks nobody. -/
theorem slotTableSet_alone (h : otherPresent s = []) (p : Bytes) : specSlotTableSet.peer s fn p = false := by
  simp [specSlotTableSet, h]

theorem archLeave_alone (h : otherPresent s = []) (p : Bytes) : specArchLeave.peer s fn p = false := by
  simp [specArchLeave, h]

theorem archForm_alone {p : Bytes} (h : (maskBits (fieldB p 0 2) 16).filter (fun j => j != chipId s) = []) :
    specArchForm.peer s fn p = false := by
  simp only [specArchForm, h]
  rfl

theorem replayStart_alone {p : Bytes} (h : (maskBits (fieldB p 8 2) 16).filter (fun j => j != chipId s) = []) :
    specReplayStart.peer s fn p = false := by
  simp only [specReplayStart, h]
  rfl

/-- A chip that is alone confirms its own proposal at once. -/
theorem propose_alone {act : Action} {cmd : Option (Nat × Nat)} (h : agreeMembers s act = []) :
    propose t act cmd s = agreeDone (tideNow s) { t := t, src := chipId s, act := act, proposed := tideNow s, cmd := cmd }
      (confirmAgreed t (chipId s) act (s.mapTide fun x => { x with agreed := x.agreed ++
        [{ t := t, src := chipId s, act := act, proposed := tideNow s, cmd := cmd }] })) := by
  have hmembers : ∀ f : Tide → Tide, agreeMembers (s.mapTide f) act = [] := fun f => h
  rw [propose, hmembers, if_pos List.isEmpty_nil]
  rfl

end

/-! ## The obligation -/

/-- Settles O17: what the execution of each command does, and the proposal of a chip that is alone. -/
theorem longCommandsBegin : Obligations.LongCommandsBegin := by
  unfold Obligations.LongCommandsBegin
  refine ⟨fun c s => ⟨fun h => memLoad_atOnce.runs h rfl, fun h => memStore_atOnce.runs h rfl, fun h => progLoad_atOnce.runs h rfl,
    fun h => fwStage_atOnce.runs h rfl, fun h => unitRetire_atOnce.runs h rfl, ?tests, fun h => ?restarts,
    fun h => cartEject_atOnce.runs h rfl, fun h => cartQuiesce_atOnce.runs h rfl, fun he h => ?pairs⟩,
    fun c s t => ⟨fun ht h => ?epoch, fun ht h => ?pool, fun ht halone h => ?table, fun ht hstaged h => ?activates,
      fun ht halone h => ?forms,
      fun halone h => ?leaves, fun halone h => ?replays, ?alone⟩⟩
  case tests =>
    rintro u rfl hcls h
    exact unitReturn_atOnce.runs h (runUnitReturn_tests (c := queued specUnitReturn c s) hcls)
  case restarts =>
    refine entropyRestart_atOnce.runs h ?_
    rw [specEntropyRestart_run]
    rfl
  case pairs =>
    refine cartPair_atOnce.runs h ?_
    rw [specCartPair_run, runCartPair_serves (s := working specCartPair c s) he]
    rfl
  case epoch =>
    refine tideEpochSet_atOnce.runs h ?_
    rw [specTideEpochSet_run]
    exact runTideEpochSet_proposes (c := queued specTideEpochSet c s) (s := working specTideEpochSet c s) ht
  case pool =>
    refine poolSet_atOnce.runs h ?_
    rw [specPoolSet_run]
    exact runPoolSet_proposes (c := queued specPoolSet c s) (s := working specPoolSet c s) ht
  case table =>
    refine exec_runs h rfl rfl rfl (slotTableSet_alone (s := entered specSlotTableSet c s) halone _) ?_
    rw [specSlotTableSet_run]
    exact runSlotTableSet_proposes (c := queued specSlotTableSet c s) (s := working specSlotTableSet c s) ht
  case activates =>
    refine fwActivate_atOnce.runs h ?_
    rw [specFwActivate_run]
    exact runFwActivate_proposes (c := queued specFwActivate c s) (s := working specFwActivate c s) hstaged ht
  case forms =>
    refine exec_runs h rfl rfl rfl (archForm_alone (s := entered specArchForm c s) halone) ?_
    rw [specArchForm_run]
    exact runArchForm_proposes (c := queued specArchForm c s) (s := working specArchForm c s) ht
  case leaves =>
    refine exec_runs h rfl rfl rfl (archLeave_alone (s := entered specArchLeave c s) halone _) ?_
    rw [specArchLeave_run]
    rfl
  case replays =>
    refine exec_runs h rfl rfl rfl (replayStart_alone (s := entered specReplayStart c s) halone) ?_
    rw [specReplayStart_run]
    rfl
  case alone =>
    rintro a u act cmd halone rfl
    exact propose_alone halone

end Sys2Proof.Machine
end

section
/-! Boundary-executed commands of isles (O18): each waits for its boundary, and what it does there. What the boundary-executed commands of
memory, sealed computation, streams, windows, replay and isle keys (O19) share stands here too. -/

namespace Sys2Proof.Machine

/-! ## Commands that wait for their boundary -/

/-- A boundary-executed command that asks no peer, and whose acceptance does nothing of its own. -/
structure AtBoundary (spec : CmdSpec) : Prop where
  row : cmdTable spec.opcode = some spec
  accepted : ∀ fn c s, spec.accepted fn c s = s
  boundary : spec.boundary = true
  peer : ∀ s fn p, spec.peer s fn p = false

theorem AtBoundary.waits {spec : CmdSpec} (hb : AtBoundary spec) {c : MbxArg} {s : State} (h : Accepted spec c s) :
    (.next (mbxRow cmdTable spec c s) : Host.Outcome State Fault Refusal) = .next (waiting spec c s) :=
  exec_waits h hb.row (hb.accepted _ _ _) hb.boundary (hb.peer _ _ _)

theorem isleResize_atBoundary : AtBoundary specIsleResize := ⟨rfl, fun _ _ _ => rfl, rfl, fun _ _ _ => rfl⟩
theorem isleDisable_atBoundary : AtBoundary specIsleDisable := ⟨rfl, fun _ _ _ => rfl, rfl, fun _ _ _ => rfl⟩
theorem isleReset_atBoundary : AtBoundary specIsleReset := ⟨rfl, fun _ _ _ => rfl, rfl, fun _ _ _ => rfl⟩
theorem isleQosSet_atBoundary : AtBoundary specIsleQosSet := ⟨rfl, fun _ _ _ => rfl, rfl, fun _ _ _ => rfl⟩
theorem memModeSet_atBoundary : AtBoundary specMemModeSet := ⟨rfl, fun _ _ _ => rfl, rfl, fun _ _ _ => rfl⟩
theorem memResidentSet_atBoundary : AtBoundary specMemResidentSet := ⟨rfl, fun _ _ _ => rfl, rfl, fun _ _ _ => rfl⟩
theorem sealPsetSet_atBoundary : AtBoundary specSealPsetSet := ⟨rfl, fun _ _ _ => rfl, rfl, fun _ _ _ => rfl⟩
theorem sealKeyLoad_atBoundary : AtBoundary specSealKeyLoad := ⟨rfl, fun _ _ _ => rfl, rfl, fun _ _ _ => rfl⟩
theorem sealKeyDrop_atBoundary : AtBoundary specSealKeyDrop := ⟨rfl, fun _ _ _ => rfl, rfl, fun _ _ _ => rfl⟩
theorem streamDestroy_atBoundary : AtBoundary specStreamDestroy := ⟨rfl, fun _ _ _ => rfl, rfl, fun _ _ _ => rfl⟩
theorem winOpen_atBoundary : AtBoundary specWinOpen := ⟨rfl, fun _ _ _ => rfl, rfl, fun _ _ _ => rfl⟩
theorem winClose_atBoundary : AtBoundary specWinClose := ⟨rfl, fun _ _ _ => rfl, rfl, fun _ _ _ => rfl⟩
theorem replayLogSet_atBoundary : AtBoundary specReplayLogSet := ⟨rfl, fun _ _ _ => rfl, rfl, fun _ _ _ => rfl⟩
theorem replayLogStop_atBoundary : AtBoundary specReplayLogStop := ⟨rfl, fun _ _ _ => rfl, rfl, fun _ _ _ => rfl⟩
theorem replayStop_atBoundary : AtBoundary specReplayStop := ⟨rfl, fun _ _ _ => rfl, rfl, fun _ _ _ => rfl⟩
theorem keyEpochRotate_atBoundary : AtBoundary specKeyEpochRotate := ⟨rfl, fun _ _ _ => rfl, rfl, fun _ _ _ => rfl⟩
theorem keyEpochRetire_atBoundary : AtBoundary specKeyEpochRetire := ⟨rfl, fun _ _ _ => rfl, rfl, fun _ _ _ => rfl⟩

section
variable {fn tide : Nat} {c : Cmd} {s : State}

/-! ## ISLE_RESIZE, ISLE_DISABLE, ISLE_RESET (R374, R375, R378, R396) -/

theorem shortage_none {k : Nat} {g : Grant} (h : shortOf s k g = none) : shortage s k g = none := by
  rw [shortage, h]

/-- An isle that is not running holds zeroed units: what it gives back needs no scrub. -/
theorem runIsleResize_stopped {k : Nat} {g : Grant} {u : State} (hk : k = recIsle c.payload)
    (hg : g = recGrant c.payload (s.isle k).grant.parkWait) (hu : u = setUnits k (regrant k g s))
    (ha : resizeAllowed (s.isle k) g = true) (hs : shortOf s k g = none) (hst : (s.isle k).state ≠ .enabled) :
    runIsleResize fn c tide s = finishAt tide fn c.seq .sOk 0 {} { u with units := { u.units with scrubs := s.units.scrubs } } := by
  subst hu hg hk
  unfold runIsleResize
  rw [if_neg (by simp [ha]), shortage_none hs]
  refine (if_neg fun h => hst h.1).trans ?_
  exact congrArg (finishAt tide fn c.seq .sOk 0 {}) (if_neg hst)

/-- A running isle that keeps its cores and lagoons is resized at this boundary. -/
theorem runIsleResize_running {k : Nat} {g : Grant} (hk : k = recIsle c.payload)
    (hg : g = recGrant c.payload (s.isle k).grant.parkWait) (ha : resizeAllowed (s.isle k) g = true) (hs : shortOf s k g = none)
    (hst : (s.isle k).state = .enabled) (hcores : g.cores = (s.isle k).grant.cores) (hlagoons : g.lagoons = (s.isle k).grant.lagoons) :
    runIsleResize fn c tide s = finishAt tide fn c.seq .sOk 0 {} (setUnits k (regrant k g s)) := by
  subst hg hk
  unfold runIsleResize
  rw [if_neg (by simp [ha]), shortage_none hs]
  refine (if_neg fun h => h.2.elim (fun h => h hcores) fun h => h hlagoons).trans ?_
  exact congrArg (finishAt tide fn c.seq .sOk 0 {}) (if_pos hst)

theorem runIsleDisable_idle (h : busyIsle (s.isle (argIsle c)) = false) :
    runIsleDisable fn c tide s = finishAt tide fn c.seq .sOk 0 {} (quiesceEnter (argIsle c) .disabled false s) := by
  rw [runIsleDisable, if_neg (by simp [h])]

theorem runIsleReset_idle (h : busyIsle (s.isle (argIsle c)) = false) :
    runIsleReset fn c tide s = finishAt tide fn c.seq .sOk 0 {} (quiesceEnter (argIsle c) .enabled false s) := by
  rw [runIsleReset, if_neg (by simp [h])]

/-- The reset of an isle that is being scrubbed is coalesced. -/
theorem runIsleReset_busy (h : busyIsle (s.isle (argIsle c)) = true) :
    runIsleReset fn c tide s = finishAt tide fn c.seq .sOk 0 {} s := by
  rw [runIsleReset, if_pos h]

end

/-- Settles O18: each command waits, and its execution by the state of the isle that it names. -/
theorem isleBoundaryCommands : Obligations.IsleBoundaryCommands := by
  unfold Obligations.IsleBoundaryCommands
  intro c s ok fn b e
  refine ⟨isleResize_atBoundary.waits, ?stopped, ?running, isleDisable_atBoundary.waits, fun h hd => ?disable, isleReset_atBoundary.waits,
    fun h hd => ?reset, fun h hd => ?coalesced, isleQosSet_atBoundary.waits, fun hd => ?qos⟩
  case stopped =>
    intro k g u hk hg hu ha hs hst hd
    refine due_runs hd isleResize_atBoundary.row ?_
    rw [specIsleResize_run]
    exact runIsleResize_stopped (c := e) (s := s) hk hg hu ha hs hst
  case running =>
    intro k g hk hg ha hs hst hcores hlagoons hd
    refine due_runs hd isleResize_atBoundary.row ?_
    rw [specIsleResize_run]
    exact runIsleResize_running (c := e) (s := s) hk hg ha hs hst hcores hlagoons
  case disable =>
    refine due_runs hd isleDisable_atBoundary.row ?_
    rw [specIsleDisable_run]
    exact runIsleDisable_idle (c := e) (s := s) h
  case reset =>
    refine due_runs hd isleReset_atBoundary.row ?_
    rw [specIsleReset_run]
    exact runIsleReset_idle (c := e) (s := s) h
  case coalesced =>
    refine due_runs hd isleReset_atBoundary.row ?_
    rw [specIsleReset_run]
    exact runIsleReset_busy (c := e) (s := s) h
  case qos =>
    refine due_runs hd isleQosSet_atBoundary.row ?_
    rw [specIsleQosSet_run, runIsleQosSet]
    rfl

end Sys2Proof.Machine
end

section
/-! Boundary-executed commands of memory, sealed computation, streams, windows, replay and isle keys (O19): what each does at its boundary. -/

namespace Sys2Proof.Machine

section
variable {fn tide : Nat} {c : Cmd} {s : State}

/-! ## Parameter sets and keys of sealed computation (R426, R429, R430) -/

theorem psetAt_hostTouch (f a n : Nat) (s : State) (fn p : Nat) : psetAt (hostTouch f a n s) fn p = psetAt s fn p := by
  rw [hostTouch_rest]
  rfl

theorem runSealPsetSet_taken {p : Pset} (hp : psetAt s fn (fieldB c.payload 8 8) = (p, true)) (hok : psetOk p = true)
    (htag : c.hdr.tag ∉ (s.func fn).failTags) :
    runSealPsetSet fn c tide s = finishAt tide fn c.seq .sOk 0 { w0 := 2 ^ p.nLog2, w1 := p.l, w2 := p.k }
      (mapSealed fn (fun x => { x with psets := aSet (fieldB c.payload 0 1) p x.psets }) (hostTouch fn (fieldB c.payload 8 8) 400 s)) := by
  rw [runSealPsetSet, withHost_goes htag]
  simp only [psetAt_hostTouch, hp, hok, Bool.and_self, Bool.not_true, Bool.false_eq_true, if_false, isleOf]

theorem runSealPsetSet_malformed {p : Pset} (hp : psetAt s fn (fieldB c.payload 8 8) = (p, false))
    (htag : c.hdr.tag ∉ (s.func fn).failTags) :
    runSealPsetSet fn c tide s = finishAt tide fn c.seq .eBadarg 0 {} (hostTouch fn (fieldB c.payload 8 8) 400 s) := by
  rw [runSealPsetSet, withHost_goes htag]
  simp only [psetAt_hostTouch, hp, Bool.false_and, Bool.not_false, if_true]

theorem dropKey_of_registered {k i : Nat} {x : SealKey} (h : aGet (s.isle k).sealed.keys i = some x) :
    dropKey k i s = mapSealed k (fun x => { x with keys := aDel x.keys i }) (writeBytes k x.view x.base (List.replicate x.len 0) s) := by
  rw [dropKey, h]
  rfl

/-! ## The replay log and isle keys (R146, R154, R359) -/

theorem runReplayLogStop_counts {l : LogSession} (h : (s.isle fn).log = some l) :
    runReplayLogStop fn c tide s = finishAt tide fn c.seq .sOk 0 { w0 := l.seqno + l.recs.length + l.cmds.length + 1 }
      (s.mapIsle fn fun r => { r with log := r.log.map fun l => { l with ending := some 0 } }) := by
  simp only [runReplayLogStop, isleOf, h]

theorem rotateWith_adds {key : Nat} {u : State} (h : rotateEpoch fn key tide s = some u) :
    rotateWith key fn c tide s = finishAt tide fn c.seq .sOk 0 { w0 := (u.isle fn).keys.current.getD 0 } u := by
  simp only [rotateWith, isleOf, h]

/-- The key of the new epoch: the one that was drawn for the command, or one drawn now. -/
theorem runKeyEpochRotate_adds {key : Nat} {u v : State} (hu : rotateEpoch fn key tide v = some u)
    (hv : v = if c.aux = [] then (drawEntropy 32 s).2 else s) (hdrawn : c.aux = [] → key = (drawEntropy 32 s).1)
    (hheld : ∀ x l, c.aux = x :: l → key = x) (hent : s.ent.state = .running) :
    runKeyEpochRotate fn c tide s = finishAt tide fn c.seq .sOk 0 { w0 := (u.isle fn).keys.current.getD 0 } u := by
  cases haux : c.aux with
  | nil =>
    rw [if_pos haux] at hv
    subst hv
    rw [runKeyEpochRotate, haux]
    refine (askFor_running hent).trans ?_
    rw [rotateNow, ← hdrawn haux]
    exact rotateWith_adds hu
  | cons x l =>
    rw [if_neg (by simp [haux])] at hv
    subst hv
    rw [runKeyEpochRotate, haux]
    rw [hheld x l haux] at hu
    exact rotateWith_adds hu

theorem runKeyEpochRetire_destroys {x : Nat} (h : (s.isle fn).keys.previous = some x) :
    runKeyEpochRetire fn c tide s = finishAt tide fn c.seq .sOk 0 {}
      (destroyEpoch fn x tide (s.mapIsle fn fun r => { r with keys := { r.keys with previous := none } })) := by
  simp only [runKeyEpochRetire, isleOf, h]

end

/-- Settles O19: each command waits, and its execution by what it finds at its boundary. -/
theorem memoryBoundaryCommands : Obligations.MemoryBoundaryCommands := by
  unfold Obligations.MemoryBoundaryCommands
  refine ⟨fun c s ok fn b e => ⟨memModeSet_atBoundary.waits, fun hd => ?mode, memResidentSet_atBoundary.waits, fun l hl hd => ?resident,
      sealPsetSet_atBoundary.waits, fun p hp hok htag hd => ?pset, fun p hp htag hd => ?badPset, sealKeyLoad_atBoundary.waits,
      fun hd => ?keyLoad, sealKeyDrop_atBoundary.waits, fun x hx hd => ?keyDrop⟩,
    fun c s ok fn b e => ⟨streamDestroy_atBoundary.waits, fun hd => ?stream, winOpen_atBoundary.waits, fun w old hw hold hd => ?winOpen,
      winClose_atBoundary.waits, fun hd => ?winClose, replayLogSet_atBoundary.waits, fun l u hl hu hd => ?logSet,
      replayLogStop_atBoundary.waits, fun l hl hd => ?logStop, replayStop_atBoundary.waits, fun hd => ?replayStop,
      keyEpochRotate_atBoundary.waits, fun key u v hu hv hdrawn hheld hent hd => ?rotate, keyEpochRetire_atBoundary.waits,
      fun x hx hd => ?retire⟩⟩
  case mode =>
    refine due_runs hd memModeSet_atBoundary.row ?_
    rw [specMemModeSet_run, runMemModeSet, isleOf]
  case resident =>
    refine due_runs hd memResidentSet_atBoundary.row ?_
    subst hl
    rw [specMemResidentSet_run, runMemResidentSet]
    rfl
  case pset =>
    refine due_runs hd sealPsetSet_atBoundary.row ?_
    rw [specSealPsetSet_run]
    exact runSealPsetSet_taken hp hok htag
  case badPset =>
    refine due_runs hd sealPsetSet_atBoundary.row ?_
    rw [specSealPsetSet_run]
    exact runSealPsetSet_malformed hp htag
  case keyLoad =>
    refine due_runs hd sealKeyLoad_atBoundary.row ?_
    rw [specSealKeyLoad_run, runSealKeyLoad]
  case keyDrop =>
    refine due_runs hd sealKeyDrop_atBoundary.row ?_
    rw [specSealKeyDrop_run, runSealKeyDrop, isleOf, dropKey_of_registered hx]
  case stream =>
    refine due_runs hd streamDestroy_atBoundary.row ?_
    rw [specStreamDestroy_run, runStreamDestroy, isleOf]
  case winOpen =>
    refine due_runs hd winOpen_atBoundary.row ?_
    subst hold hw
    rw [specWinOpen_run, runWinOpen]
    rfl
  case winClose =>
    refine due_runs hd winClose_atBoundary.row ?_
    rw [specWinClose_run, runWinClose]
    rfl
  case logSet =>
    refine due_runs hd replayLogSet_atBoundary.row ?_
    subst hu hl
    rw [specReplayLogSet_run, runReplayLogSet]
    rfl
  case logStop =>
    refine due_runs hd replayLogStop_atBoundary.row ?_
    rw [specReplayLogStop_run]
    exact runReplayLogStop_counts hl
  case replayStop =>
    refine due_runs hd replayStop_atBoundary.row ?_
    rw [specReplayStop_run, runReplayStop, isleOf]
  case rotate =>
    refine due_runs hd keyEpochRotate_atBoundary.row ?_
    rw [specKeyEpochRotate_run]
    exact runKeyEpochRotate_adds hu hv hdrawn hheld hent
  case retire =>
    refine due_runs hd keyEpochRetire_atBoundary.row ?_
    rw [specKeyEpochRetire_run]
    exact runKeyEpochRetire_destroys hx

end Sys2Proof.Machine
end

section
/-! The acceptance of a SEQ_REWIND of an UNPARKING sequence is not without effect: the sequence is marked, so that the rewind comes before any
input (R306). What waits, or goes to the replica chips, is the command on the marked state (O20, O21). -/

namespace Sys2Proof.Machine

/-- Whether sequence 0 of isle 1 holds its input for a rewind, in the state that follows. -/
def holdsForRewind : Host.Outcome State Fault Refusal → Bool
  | .next t => (seqOf t 1 0).any fun q => q.rewindHold
  | _ => false

/-- A SEQ_REWIND of sequence 0 to position 0, from VF 1. -/
def rewindToStart : MbxArg := Tests.tCmd 1 0x0506 (Tests.z 8)

/-! ## One chip (O20) -/

/-- READY, and the one sequence of isle 1 is being read back from its cartridge. -/
def unparkingAlone : State := Tests.tWith fun r => { r with seqs := [(0, { state := .unparking })] }

theorem unparkingAlone_accepts : Accepted specSeqRewind rewindToStart unparkingAlone := accepted_of (by decide +kernel)

theorem unparkingAlone_marked :
    holdsForRewind (exec (.seqRewind rewindToStart) unparkingAlone) = true ∧
    holdsForRewind (.next (waiting specSeqRewind rewindToStart unparkingAlone)) = false := by
  decide +kernel

/-- Refutes O20: a SEQ_REWIND of a sequence that is UNPARKING is accepted and waits for its boundary, but its acceptance has marked the sequence. -/
theorem not_programBoundaryCommands : ¬ Obligations.ProgramBoundaryCommands := by
  unfold Obligations.ProgramBoundaryCommands
  rintro ⟨-, hseq⟩
  obtain ⟨-, -, -, -, -, -, -, -, -, -, -, -, hrewind, -⟩ :=
    hseq rewindToStart unparkingAlone (fun _ _ _ => true) 1 0 (queued specSeqRewind rewindToStart unparkingAlone)
  have hwaits := hrewind { state := .unparking } (by decide +kernel) (by decide) (by decide) (by decide +kernel) unparkingAlone_accepts
  have hmark := congrArg holdsForRewind hwaits
  rw [unparkingAlone_marked.1, unparkingAlone_marked.2] at hmark
  cases hmark

/-! ## A sequence with a replica on another chip (O21) -/

/-- The same on chip 0 of an archipelago of two, with a replica on chip 1. -/
def unparkingReplicated : State :=
  { Tests.tPair with isles := setAt Tests.tPair.isles 1 fun r => { r with seqs := [(0, { replicas := 257, state := .unparking })] } }

theorem unparkingReplicated_accepts : Accepted specSeqRewind rewindToStart unparkingReplicated := accepted_of (by decide +kernel)

/-- What the question to the other chips leaves on a state. -/
def askedOf (c : MbxArg) (s : State) (spec : CmdSpec) : State :=
  (setPhase c.fn (s.func c.fn).nextSeq (.peer (peerQuantum (quantNow s))) (entered spec c s)).emit
    (.peer 0xFF spec.opcode [c.fn, c.hdr.tag] (spec.peerData (entered spec c s) c.fn (bodyOf c)))

theorem unparkingReplicated_marked :
    holdsForRewind (exec (.seqRewind rewindToStart) unparkingReplicated) = true ∧
    holdsForRewind (.next (askedOf rewindToStart unparkingReplicated specSeqRewind)) = false := by
  decide +kernel

/-- Refutes O21: a SEQ_REWIND of a replicated sequence that is UNPARKING goes to the replica chips from a state in which the sequence is marked. -/
theorem not_peerCheckedCommands : ¬ Obligations.PeerCheckedCommands := by
  unfold Obligations.PeerCheckedCommands
  rintro ⟨hasks, -⟩
  obtain ⟨-, -, -, -, -, -, -, -, -, -, hrewind⟩ :=
    hasks rewindToStart unparkingReplicated (askedOf rewindToStart unparkingReplicated) fun _ => rfl
  have hasked := hrewind { replicas := 257, state := .unparking } (by decide +kernel) (by decide) (by decide) (by decide +kernel)
    unparkingReplicated_accepts
  have hmark := congrArg holdsForRewind hasked
  rw [unparkingReplicated_marked.1, unparkingReplicated_marked.2] at hmark
  cases hmark

end Sys2Proof.Machine
end

section
/-! The end of the transfer of a command that posted S_PENDING (O23): MEM_LOAD, MEM_STORE, PROG_LOAD, FW_STAGE and SEAL_KEY_LOAD. -/

namespace Sys2Proof.Machine

section
variable {fn : Nat} {c : Cmd} {s : State}

theorem hostRead_hostTouch (f a n : Nat) (s : State) (fn p len : Nat) : hostRead (hostTouch f a n s) fn p len = hostRead s fn p len := by
  rw [hostTouch_rest]
  rfl

theorem isle_hostTouch (f a n : Nat) (s : State) (k : Nat) : (hostTouch f a n s).isle k = s.isle k := by
  rw [hostTouch_rest]
  rfl

theorem cmdView_hostTouch (f a n : Nat) (s : State) (c : Cmd) : cmdView (hostTouch f a n s) c = cmdView s c := by
  rw [hostTouch_rest]
  rfl

/-! ## MEM_LOAD and MEM_STORE (R122, R155) -/

theorem memLoadDone_ok : memLoadDone fn c true s = finish fn c.seq .sOk 0 {}
    (writeBytes fn (cmdView s c) (fieldB c.payload 8 8) (hostRead s fn (fieldB c.payload 0 8) (fieldB c.payload 16 4))
      (hostTouch fn (fieldB c.payload 0 8) (fieldB c.payload 16 4) s)) := rfl

theorem memStoreDone_clean {bs : List (Byte × Bool)}
    (hread : readProg s fn (cmdView s c) none (fieldB c.payload 8 8) (fieldB c.payload 16 4) = some bs) (hclean : (bs.all fun x => !x.2) = true) :
    memStoreDone fn c true s = finish fn c.seq .sOk 0 {} (hostWrite fn (fieldB c.payload 0 8) (bs.map fun x => if x.2 then 0 else x.1) s) := by
  have hnone : (bs.findIdx? fun x => x.2) = none := List.findIdx?_eq_none_iff.mpr fun x hx => by simpa using List.all_eq_true.mp hclean x hx
  simp only [memStoreDone, memAddr, memLen, isleOf, Bool.not_true, Bool.false_eq_true, if_false, hread, hnone]

theorem memStoreDone_poisoned {bs : List (Byte × Bool)} {i : Nat}
    (hread : readProg s fn (cmdView s c) none (fieldB c.payload 8 8) (fieldB c.payload 16 4) = some bs)
    (hpoison : (bs.findIdx? fun x => x.2) = some i) :
    memStoreDone fn c true s = finish fn c.seq .ePoison 0 { w0 := i }
      (hostWrite fn (fieldB c.payload 0 8) (bs.map fun x => if x.2 then 0 else x.1) s) := by
  simp only [memStoreDone, memAddr, memLen, isleOf, Bool.not_true, Bool.false_eq_true, if_false, hread, hpoison]

/-! ## PROG_LOAD (R231) -/

theorem progLoadDone_loads {b : Bytes} {h : Nat} {u : State} (hb : b = hostRead s fn (fieldB c.payload 0 8) (fieldB c.payload 8 4))
    (hu : u = setNote fn c.seq (imgDigest b) (hostTouch fn (fieldB c.payload 0 8) (fieldB c.payload 8 4) s)) (hcheck : loadCheck u fn b = none)
    (hfree : aFree (u.isle fn).progs 16 = some h) :
    progLoadDone fn c true s = finish fn c.seq .sOk 0 { w0 := h } (u.mapIsle fn fun r => { r with
      progs := aSet h { image := b, regions := progRegions u fn b, shards := progShards u fn b } r.progs }) := by
  simp only [progLoadDone, loadLen, isleOf, Bool.not_true, Bool.false_eq_true, if_false, hostRead_hostTouch, ← hb, ← hu, hcheck, hfree]

theorem progLoadDone_refuses {b : Bytes} {u : State} {st : Status} {detail : Nat} {w : Words}
    (hb : b = hostRead s fn (fieldB c.payload 0 8) (fieldB c.payload 8 4))
    (hu : u = setNote fn c.seq (imgDigest b) (hostTouch fn (fieldB c.payload 0 8) (fieldB c.payload 8 4) s))
    (hcheck : loadCheck u fn b = some (st, detail, w)) :
    progLoadDone fn c true s = setPhase fn c.seq
      (.refusal ((c.d / 6400 + 2 + ceilDiv (fieldB c.payload 8 4) 4194304) * 6400) st detail) (setAux fn c.seq [w.w0, w.w1, w.w2] u) := by
  simp only [progLoadDone, loadLen, isleOf, Bool.not_true, Bool.false_eq_true, if_false, hostRead_hostTouch, ← hb, ← hu, hcheck]

/-! ## FW_STAGE (R98) -/

theorem fwStageDone_stages {d : ImageDesc} (hd : d = parseImage s (fieldB c.payload 0 8) (fieldB c.payload 8 4)) (hcode : imageCode s d = 0) :
    fwStageDone fn c true s = finish fn c.seq .sOk 0 { w0 := d.ifVersion, w1 := d.build % 2 ^ 32, w2 := d.build / 2 ^ 32 % 2 ^ 32 }
      ((hostTouch fn (fieldB c.payload 0 8) (fieldB c.payload 8 4) s).mapFw fun f =>
        { f with staged := some (d.ifVersion, d.build, d.measurement), stagedKeys := imageKeysOf d }) := by
  simp only [fwStageDone, Bool.not_true, Bool.false_eq_true, if_false, parseImage_hostTouch, imageCode_hostTouch, ← hd, hcode, ne_eq,
    not_true_eq_false, lowHalf, highHalf]

theorem fwStageDone_denies {d : ImageDesc} (hd : d = parseImage s (fieldB c.payload 0 8) (fieldB c.payload 8 4)) (hcode : imageCode s d ≠ 0) :
    fwStageDone fn c true s = finish fn c.seq .eDenied 0 {} (hostTouch fn (fieldB c.payload 0 8) (fieldB c.payload 8 4) s) := by
  simp only [fwStageDone, Bool.not_true, Bool.false_eq_true, if_false, parseImage_hostTouch, imageCode_hostTouch, ← hd, hcode, ne_eq,
    not_false_eq_true, if_true]

/-! ## SEAL_KEY_LOAD (R429) -/

theorem sealKeyLoadDone_registers {b : Bytes} {x : SealKey} (hb : b = hostRead s fn (fieldB c.payload 8 8) (fieldB c.payload 24 8))
    (hok : keyObjOk (s.isle fn).sealed b = true)
    (hx : x = { base := fieldB c.payload 16 8, len := fieldB c.payload 24 8, view := cmdView s c, kind := fieldB b 4 1, pset := fieldB b 5 1,
                auto := fieldB b 8 4, keyId := fieldB b 12 4 }) :
    sealKeyLoadDone fn c true s = finish fn c.seq .sOk 0 (w64 (leNat ((sha384 b).take 8)))
      (mapSealed fn (fun y => { y with keys := aSet (fieldB c.payload 0 1) x y.keys }) (writeBytes fn (cmdView s c) (fieldB c.payload 16 8) b
        (hostTouch fn (fieldB c.payload 8 8) (fieldB c.payload 24 8) s))) := by
  simp only [sealKeyLoadDone, keyRegion, isleOf, Bool.not_true, Bool.false_eq_true, if_false, hostRead_hostTouch, isle_hostTouch,
    cmdView_hostTouch, ← hb, hok, ← hx]

/-! ## The row -/

/-- What the end of the transfer does, by the command's opcode. -/
def transferEnd (fn : Nat) (c : Cmd) (ok : Bool) (s : State) : State :=
  if c.hdr.opcode = 0x0302 then memLoadDone fn c ok s
  else if c.hdr.opcode = 0x0303 then memStoreDone fn c ok s
  else if c.hdr.opcode = 0x0400 then progLoadDone fn c ok s
  else if c.hdr.opcode = 0x0C01 then fwStageDone fn c ok s
  else if c.hdr.opcode = specSealKeyLoad.opcode then sealKeyLoadDone fn c ok s
  else s

theorem exec_hostTransferDone {tag : Nat} (h : ((s.func fn).cmds.find? fun c => c.hdr.tag == tag && c.phase == .final) = some c) (ok : Bool) :
    exec (.hostTransferDone fn tag ok) s = .next (pumpAll cmdTable (transferEnd fn c ok s)) := by
  have hrow : exec (.hostTransferDone fn tag ok) s = execHostTransferDone fn tag ok s := rfl
  rw [hrow, execHostTransferDone, h]
  rfl

theorem transferEnd_memLoad (h : c.hdr.opcode = 0x0302) (ok : Bool) : transferEnd fn c ok s = memLoadDone fn c ok s := by
  rw [transferEnd, if_pos h]

theorem transferEnd_memStore (h : c.hdr.opcode = 0x0303) (ok : Bool) : transferEnd fn c ok s = memStoreDone fn c ok s := by
  rw [transferEnd, h]
  rfl

theorem transferEnd_progLoad (h : c.hdr.opcode = 0x0400) (ok : Bool) : transferEnd fn c ok s = progLoadDone fn c ok s := by
  rw [transferEnd, h]
  rfl

theorem transferEnd_fwStage (h : c.hdr.opcode = 0x0C01) (ok : Bool) : transferEnd fn c ok s = fwStageDone fn c ok s := by
  rw [transferEnd, h]
  rfl

theorem transferEnd_sealKeyLoad (h : c.hdr.opcode = 0x0A01) (ok : Bool) : transferEnd fn c ok s = sealKeyLoadDone fn c ok s := by
  rw [transferEnd, h]
  rfl

theorem transferEnd_fails (h : c.hdr.opcode ∈ [0x0302, 0x0303, 0x0400, 0x0C01, 0x0A01]) :
    transferEnd fn c false s = finish fn c.seq .eFault 0 {} (recordFault dHost 0 0 {} [fn] s) := by
  simp only [List.mem_cons, List.not_mem_nil, or_false] at h
  rcases h with h | h | h | h | h <;> rw [transferEnd, h] <;> rfl

end

/-- Settles O23, by the command whose transfer it is. -/
theorem transfersEnd : Obligations.TransfersEnd := by
  unfold Obligations.TransfersEnd
  intro fn tag c s hfind
  have hrow := exec_hostTransferDone hfind
  refine ⟨fun h => ?fails, fun h => ?load, fun bs h hread hclean => ?store, fun bs i h hread hpoison => ?poisoned,
    fun b i g u h hb hu hcheck hfree hg => ?prog, fun b u st detail w q h hb hu hcheck hq => ?badProg, fun d h hd hcode => ?image,
    fun d h hd hcode => ?badImage, fun b x h hb hok hx => ?key⟩
  case fails => rw [hrow, transferEnd_fails h]
  case load => rw [hrow, transferEnd_memLoad h, memLoadDone_ok]
  case store => rw [hrow, transferEnd_memStore h, memStoreDone_clean hread hclean]
  case poisoned => rw [hrow, transferEnd_memStore h, memStoreDone_poisoned hread hpoison]
  case prog => rw [hrow, transferEnd_progLoad h, progLoadDone_loads hb hu hcheck hfree, hg]
  case badProg => rw [hrow, transferEnd_progLoad h, progLoadDone_refuses hb hu hcheck, hq]
  case image => rw [hrow, transferEnd_fwStage h, fwStageDone_stages hd hcode]
  case badImage => rw [hrow, transferEnd_fwStage h, fwStageDone_denies hd hcode]
  case key => rw [hrow, transferEnd_sealKeyLoad h, sealKeyLoadDone_registers hb hok hx]

end Sys2Proof.Machine
end

section
/-! The mark protocol (O28): check marks and cold alignment over TIDE_SYNC, link marks, the reference clock and the sub-slots. -/

namespace Sys2Proof.Machine

/-! ## The lowest of a list -/

section
variable {α : Type} (f : α → Nat)

theorem foldl_min_le_start (l : List α) (c : Nat) : l.foldl (fun m x => min m (f x)) c ≤ c := by
  induction l generalizing c with
  | nil => exact Nat.le_refl c
  | cons y l ih => exact (ih _).trans (Nat.min_le_left _ _)

theorem foldl_min_le_of_mem {l : List α} (c : Nat) {x : α} (hx : x ∈ l) : l.foldl (fun m x => min m (f x)) c ≤ f x := by
  induction l generalizing c with
  | nil => cases hx
  | cons y l ih =>
    rcases List.mem_cons.mp hx with rfl | hx
    · exact (foldl_min_le_start f l _).trans (Nat.min_le_right _ _)
    · exact ih _ hx

theorem foldl_min_start_or_mem (l : List α) (c : Nat) :
    l.foldl (fun m x => min m (f x)) c = c ∨ ∃ x ∈ l, l.foldl (fun m x => min m (f x)) c = f x := by
  induction l generalizing c with
  | nil => exact .inl rfl
  | cons y l ih =>
    rcases ih (min c (f y)) with h | ⟨x, hx, h⟩
    · rcases Nat.le_total c (f y) with hy | hy
      · exact .inl (h.trans (Nat.min_eq_left hy))
      · exact .inr ⟨y, List.mem_cons_self, h.trans (Nat.min_eq_right hy)⟩
    · exact .inr ⟨x, List.mem_cons_of_mem y hx, h⟩

end

/-! ## The leader and the alignment (R55, R56, R58) -/

section
variable {s : State}

theorem lowestAligned_le_chipId (s : State) : lowestAligned s ≤ chipId s := foldl_min_le_start _ _ _

theorem lowestAligned_le_peer {p : Port} (hp : p ∈ s.ports) (hr : reaches p = true) (ha : p.peerAligned = true) :
    lowestAligned s ≤ p.peer.1 :=
  foldl_min_le_of_mem (fun p : Port => p.peer.1) _ (List.mem_filter.mpr ⟨hp, by simp [hr, ha]⟩)

theorem lowestAligned_chipId_or_peer (s : State) :
    lowestAligned s = chipId s ∨ ∃ p ∈ s.ports, reaches p = true ∧ p.peerAligned = true ∧ lowestAligned s = p.peer.1 := by
  rcases foldl_min_start_or_mem (fun p : Port => p.peer.1) (s.ports.filter fun p => reaches p && p.peerAligned) (chipId s) with h | ⟨p, hp, h⟩
  · exact .inl h
  · obtain ⟨hmem, hcond⟩ := List.mem_filter.mp hp
    obtain ⟨hr, ha⟩ := Bool.and_eq_true_iff.mp hcond
    exact .inr ⟨p, hmem, hr, ha, h⟩

theorem updateLeader_of_aligned (h : s.tide.aligned = true) : updateLeader s = s.mapTide fun x => { x with leader := lowestAligned s } := if_pos h

/-- The counter loaded and running, with the leader that it has then. -/
def countLoaded (n : Nat) (byLink : Bool) (s : State) : State :=
  updateLeader (s.mapTide fun x => { x with
    count := n % 2 ^ 64, aligned := true, linkAligned := byLink, coldWait := false,
    crossReset := some (if byLink then ceilDiv n 64 * 64 % 64 else 0) })

theorem countLoaded_tide (n : Nat) (byLink : Bool) (s : State) : (countLoaded n byLink s).tide =
    { s.tide with count := n % 2 ^ 64, aligned := true, linkAligned := byLink, coldWait := false, leader := lowestAligned s,
                  crossReset := some (if byLink then ceilDiv n 64 * 64 % 64 else 0) } := by
  rw [countLoaded, updateLeader_of_aligned rfl]
  rfl

theorem countLoaded_boot (n : Nat) (byLink : Bool) (s : State) : (countLoaded n byLink s).boot = s.boot := by
  rw [countLoaded, updateLeader_of_aligned rfl]
  rfl

/-- The same with the boundary and the check mark that come next. -/
def tideLoaded (n : Nat) (byLink : Bool) (s : State) : State :=
  (countLoaded n byLink s).mapTide fun x => { x with
    nextB := boundaryFrom (countLoaded n byLink s) (countLoaded n byLink s).tide.count
    lastCheck := (countLoaded n byLink s).tide.count / 10000000 * 10000000 }

theorem alignAt_eq (n : Nat) (byLink : Bool) (s : State) : alignAt n byLink s =
    if (tideLoaded n byLink s).boot.phase = phAlign then
      (tideLoaded n byLink s).mapBoot fun b => { b with phase := phHbm, phaseTick := (tideLoaded n byLink s).clk.ticks }
    else tideLoaded n byLink s := rfl

theorem alignAt_tide (n : Nat) (byLink : Bool) (s : State) : (alignAt n byLink s).tide = (tideLoaded n byLink s).tide := by
  rw [alignAt_eq]
  split
  · rfl
  · rfl

theorem tideLoaded_tide (n : Nat) (byLink : Bool) (s : State) : (tideLoaded n byLink s).tide =
    { s.tide with count := n % 2 ^ 64, aligned := true, linkAligned := byLink, coldWait := false, leader := lowestAligned s,
                  crossReset := some (if byLink then ceilDiv n 64 * 64 % 64 else 0)
                  nextB := boundaryFrom (countLoaded n byLink s) (countLoaded n byLink s).tide.count
                  lastCheck := (countLoaded n byLink s).tide.count / 10000000 * 10000000 } := by
  rw [tideLoaded, State.mapTide_tide, countLoaded_tide]

/-- An aligned chip that was in ALIGN goes on to HBM_TRAIN. -/
theorem alignAt_phase (n : Nat) (byLink : Bool) (s : State) (h : s.boot.phase = phAlign) : (alignAt n byLink s).boot.phase = phHbm := by
  have hphase : (tideLoaded n byLink s).boot.phase = phAlign := (congrArg Boot.phase (countLoaded_boot n byLink s)).trans h
  rw [alignAt_eq, if_pos hphase]
  rfl

/-! ## The line (R56, R59) -/

theorem exec_markDrive (hphase : s.boot.phase = 0x07) (hcold : s.tide.coldWait = true) (hhigh : s.pins.syncHigh = true)
    (hhold : s.pins.syncHold = false) (hpeer : lowerPeerReady s = false) :
    exec .markDrive s = .next (((advanceTicks (s.pins.syncSince + 10000) s).mapPins fun p =>
      { p with markSince := some (advanceTicks (s.pins.syncSince + 10000) s).clk.ticks, syncHigh := false }).emit (.strobe 0 false)) := by
  have hrow : exec .markDrive s = execMarkDrive s := rfl
  rw [hrow, execMarkDrive, if_neg (by simp [hphase, hcold, hhigh, hhold, hpeer, phAlign])]

theorem exec_markRelease {t0 : Nat} (h : s.pins.markSince = some t0) :
    exec .markRelease s = .next (((advanceTicks (t0 + 100) s).mapPins fun p =>
      { p with markSince := none, syncHigh := true, syncSince := (advanceTicks (t0 + 100) s).clk.ticks }).emit (.strobe 0 true)) := by
  have hrow : exec .markRelease s = execMarkRelease s := rfl
  rw [hrow, execMarkRelease, h]

theorem exec_markRelease_none (h : s.pins.markSince = none) : exec .markRelease s = .next s := by
  have hrow : exec .markRelease s = execMarkRelease s := rfl
  rw [hrow, execMarkRelease, h]

/-- The first edge that a chip in cold wait sees is count 0. -/
theorem exec_markDetect_cold (pulse : Bool) (h : s.tide.coldWait = true) :
    exec (.markDetect pulse) s = .next (alignAt 0 false ((s.mapPins fun p => { p with syncHigh := false }).mapPorts fun p =>
      { p with peerAligned := p.peerAligned || (p.state == .active && p.peerReady) })) := by
  have hrow : exec (.markDetect pulse) s = execMarkDetect pulse s := rfl
  rw [hrow, execMarkDetect]
  exact if_pos h

/-- At a check mark the count is compared with the nearest multiple of 10,000,000. -/
theorem exec_markDetect_check {m : Nat} (hcold : s.tide.coldWait = false) (hc : counting s = true)
    (hm : m = (s.tide.count + 5000000) / 10000000 * 10000000) :
    exec (.markDetect true) s =
      if s.tide.count + 1 < m ∨ m + 1 < s.tide.count then
        .next (syncSlip ((s.mapPins fun p => { p with syncHigh := false }).mapTide fun x => { x with marksSkipped := 0, lastCheck := m }))
      else .next ((s.mapPins fun p => { p with syncHigh := false }).mapTide fun x => { x with marksSkipped := 0, lastCheck := m }) := by
  have hrow : exec (.markDetect true) s = execMarkDetect true s := rfl
  subst hm
  rw [hrow, execMarkDetect]
  refine (if_neg (c := s.tide.coldWait = true) (by simp [hcold])).trans ?_
  refine (if_pos (c := (counting s && true) = true) (by simp [hc])).trans ?_
  rfl

theorem exec_markDetect_low (hcold : s.tide.coldWait = false) :
    exec (.markDetect false) s = .next (s.mapPins fun p => { p with syncHigh := false }) := by
  have hrow : exec (.markDetect false) s = execMarkDetect false s := rfl
  rw [hrow, execMarkDetect]
  refine (if_neg (c := s.tide.coldWait = true) (by simp [hcold])).trans ?_
  exact if_neg (c := (counting s && false) = true) (by simp)

/-- The state at the check mark of count m. -/
def atCheck (m : Nat) (s : State) : State := (advanceCount m s).mapTide fun x => { x with lastCheck := m }

theorem atCheck_pins (m : Nat) (s : State) : (atCheck m s).pins = s.pins := advanceCount_pins m s
theorem atCheck_leader (m : Nat) (s : State) : (atCheck m s).tide.leader = s.tide.leader := advanceCount_tide_leader m s
theorem atCheck_marksSkipped (m : Nat) (s : State) : (atCheck m s).tide.marksSkipped = s.tide.marksSkipped := advanceCount_tide_marksSkipped m s
theorem atCheck_chipId (m : Nat) (s : State) : chipId (atCheck m s) = chipId s := advanceCount_chipId m s

section
variable {m : Nat} (hm : m = s.tide.lastCheck + 10000000) (hc : counting s = true)
include hm hc

theorem exec_checkMark_drives (hhigh : s.pins.syncHigh = true) (hlong : s.pins.syncSince + 10000 ≤ (atCheck m s).clk.ticks)
    (hlead : s.tide.leader = chipId s) :
    exec .checkMark s = .next ((((atCheck m s).mapTide fun x => { x with marksSkipped := 0 }).mapPins fun p =>
      { p with markSince := some (atCheck m s).clk.ticks, syncHigh := false }).emit (.strobe 0 false)) := by
  have hrow : exec .checkMark s = execCheckMark s := rfl
  rw [hrow, execCheckMark, if_neg (by simp [hc]), ← hm]
  refine (if_pos (c := (atCheck m s).pins.syncHigh = true ∧ (atCheck m s).pins.syncSince + 10000 ≤ (atCheck m s).clk.ticks)
    (by rw [atCheck_pins]; exact ⟨hhigh, hlong⟩)).trans ?_
  exact if_pos (c := (atCheck m s).tide.leader = chipId (atCheck m s)) (by rw [atCheck_leader, atCheck_chipId, hlead])

/-- A line that stays low skips the mark; every tenth mark skipped in a row is MARK_MISSED. -/
theorem exec_checkMark_skips (hlow : s.pins.syncHigh = false) :
    exec .checkMark s =
      if (s.tide.marksSkipped + 1) % 10 = 0 then
        .next (recordFault dTide 0 3 {} [] ((atCheck m s).mapTide fun x => { x with marksSkipped := s.tide.marksSkipped + 1 }))
      else .next ((atCheck m s).mapTide fun x => { x with marksSkipped := s.tide.marksSkipped + 1 }) := by
  have hrow : exec .checkMark s = execCheckMark s := rfl
  rw [hrow, execCheckMark, if_neg (by simp [hc]), ← hm]
  refine (if_neg (c := (atCheck m s).pins.syncHigh = true ∧ (atCheck m s).pins.syncSince + 10000 ≤ (atCheck m s).clk.ticks)
    (by rw [atCheck_pins, hlow]; simp)).trans ?_
  rw [← atCheck_marksSkipped m s]
  rfl

end

theorem exec_tideSyncRise (hhold : s.pins.syncHold = false) (hmark : s.pins.markSince = none) (hlow : s.pins.syncHigh = false) :
    exec .tideSyncRise s = .next (s.mapPins fun p => { p with syncHigh := true, syncSince := s.clk.ticks }) := by
  have hrow : exec .tideSyncRise s = execTideSyncRise s := rfl
  rw [hrow, execTideSyncRise, if_neg (by simp [hhold, hmark, hlow])]

theorem exec_refclkLost (hreset : s.boot.inReset = false) (hok : s.tide.refclkOk = true) :
    exec .refclkLost s = .next (portsIdle ((recordFault dTide 0 0 {} [] s).mapTide fun x => { x with refclkOk := false, frozen := true })) := by
  have hrow : exec .refclkLost s = execRefclkLost s := rfl
  rw [hrow, execRefclkLost, if_neg (by simp [hreset, hok])]

/-! ## Link marks (R58) -/

/-- A tide message that is delivered does what it says; one that is not has only its reception. -/
theorem onTide_delivered {h : FlitHdr} (f : State → State) (hd : (receive h 3 false 1 s).2 = true) :
    onTide h f s = ackPast h 3 (f (receive h 3 false 1 s).1) := by
  rw [onTide, onMessage_eq, if_pos hd]

theorem onTide_discarded {h : FlitHdr} (f : State → State) (hd : (receive h 3 false 1 s).2 = false) :
    onTide h f s = (receive h 3 false 1 s).1 := by
  rw [onTide, onMessage_eq, if_neg (by simp [hd])]

/-- What a delivered request for a link mark does. -/
def answerAlign (h : FlitHdr) (v : State) : State :=
  if counting v && v.tide.leader == chipId v && (v.port h.port).state == .active && h.orig == peerAt v h.port then
    peerReports h.port true false (tideTo [h.orig] (fun _ => .tideMark h.port v.tide.count) v)
  else v

theorem exec_alignRequest (h : FlitHdr) (s : State) : exec (.alignRequest h) s = .next (onTide h (answerAlign h) s) := rfl

/-- What a delivered link mark does. -/
def takeMark (h : FlitHdr) (n : Nat) (v : State) : State :=
  if v.tide.aligned || (v.port h.port).state != .active || h.orig != peerAt v h.port || !v.boot.alignByLink then v else
    let u := (alignAt (n + (v.port h.port).latency) true (v.mapPort h.port fun p => { p with peerAligned := true })).mapPins fun p =>
      { p with syncHold := false }
    if isReady u && u.arch.formed then propose (earliestT u (tideNow u)) (.rejoin (chipId u)) none u else u

theorem exec_tideMark (h : FlitHdr) (n : Nat) (s : State) : exec (.tideMark h n) s = .next (onTide h (takeMark h n) s) := rfl

/-- A chip that waits for a link mark takes it, and rejoins when it is READY in an archipelago. -/
theorem takeMark_aligns {h : FlitHdr} {n : Nat} {v u : State} (hfree : v.tide.aligned = false) (hport : (v.port h.port).state = .active)
    (horig : h.orig = peerAt v h.port) (hlink : v.boot.alignByLink = true)
    (hu : u = (alignAt (n + (v.port h.port).latency) true (v.mapPort h.port fun p => { p with peerAligned := true })).mapPins
      fun p => { p with syncHold := false }) :
    takeMark h n v = if isReady u && u.arch.formed then propose (earliestT u (tideNow u)) (.rejoin (chipId u)) none u else u := by
  subst hu
  rw [takeMark, if_neg (by simp [hfree, hport, ← horig, hlink])]

/-! ## Sub-slots (R61, R384) -/

/-- The sub-slot, counted from the base, that the count is in. -/
def subslotHere (s : State) : Nat := (s.tide.count - s.tide.base) / (s.tide.epochLen / 16)

theorem exec_subslotStart (hc : counting s = true) : exec .subslotStart s =
    if subslotHere s % 16 ≠ s.tide.subslot then .next (pumpPorts (s.mapTide fun x => { x with subslot := subslotHere s % 16 }))
    else .next (pumpPorts ((advanceCount (s.tide.base + (subslotHere s + 1) * (s.tide.epochLen / 16)) s).mapTide fun x =>
      { x with subslot := (subslotHere s + 1) % 16 })) := by
  have hrow : exec .subslotStart s = execSubslotStart s := rfl
  rw [hrow, execSubslotStart, if_neg (by simp [hc])]
  rfl

end

/-- Settles O28: the rows of the line, then those of the clock and of the link marks, each by what it does when its guard holds. -/
theorem marksAlign : Obligations.MarksAlign := by
  unfold Obligations.MarksAlign
  refine ⟨fun s => ⟨?drive, ?release, exec_markRelease_none, exec_markDetect_cold, ?aligned, ?slip, ?agree, exec_markDetect_low, ?leader, ?skip,
    ?missed⟩, fun s => ⟨exec_tideSyncRise, exec_refclkLost, ?asked, ?askedElsewhere, ?discarded, ?mark, ?late, ?next, ?moved⟩⟩
  case drive =>
    rintro u rfl hphase hcold hhigh hhold hpeer
    exact exec_markDrive hphase hcold hhigh hhold hpeer
  case release =>
    rintro t0 u h rfl
    exact exec_markRelease h
  case aligned =>
    rintro n byLink t rfl
    have htide := (alignAt_tide n byLink s).trans (tideLoaded_tide n byLink s)
    refine ⟨by rw [htide], by rw [htide], by rw [htide], by rw [htide], by rw [htide], by rw [htide], ?_, fun p hp hr ha => ?_, ?_,
      alignAt_phase n byLink s⟩ <;> rw [htide]
    · exact lowestAligned_le_chipId s
    · exact lowestAligned_le_peer hp hr ha
    · exact lowestAligned_chipId_or_peer s
  case slip =>
    intro m hcold hc hm hfar
    rw [exec_markDetect_check hcold hc hm, if_pos hfar]
  case agree =>
    intro m hcold hc hm hle hge
    rw [exec_markDetect_check hcold hc hm, if_neg (by omega)]
  case leader =>
    rintro m u hm hc rfl hhigh hlong hlead
    exact exec_checkMark_drives hm hc hhigh hlong hlead
  case skip =>
    rintro m u hm hc rfl hlow hnot
    rw [exec_checkMark_skips hm hc hlow, if_neg hnot, atCheck]
  case missed =>
    rintro m u hm hc rfl hlow hten
    rw [exec_checkMark_skips hm hc hlow, if_pos hten, atCheck]
  case asked =>
    intro h v hv hd hc hlead hport horig
    rw [exec_alignRequest, onTide_delivered _ hd, ← hv, answerAlign, if_pos (by simp [hc, hlead, hport, ← horig])]
  case askedElsewhere =>
    intro h v hv hd hlead
    rw [exec_alignRequest, onTide_delivered _ hd, ← hv, answerAlign, if_neg (by simp [hlead])]
  case discarded =>
    intro h n hd
    rw [exec_alignRequest, exec_tideMark, onTide_discarded _ hd, onTide_discarded _ hd]
    exact ⟨rfl, rfl⟩
  case mark =>
    intro h n v u hv hd hfree hport horig hlink hu
    have htake := takeMark_aligns hfree hport horig hlink hu
    refine ⟨fun halone => ?_, fun hformed hready => ?_, ?_⟩
    · rw [exec_tideMark, onTide_delivered _ hd, ← hv, htake, if_neg (by rcases halone with h | h <;> simp [h])]
    · rw [exec_tideMark, onTide_delivered _ hd, ← hv, htake, if_pos (by simp [hformed, hready])]
    · rw [hu, State.mapPins_tide, alignAt_tide, tideLoaded_tide]
      exact ⟨rfl, rfl, rfl⟩
  case late =>
    intro h n v hv hd haligned
    rw [exec_tideMark, onTide_delivered _ hd, ← hv, takeMark, if_pos (by simp [haligned])]
  case next =>
    rintro len here hc rfl rfl hsame
    exact (exec_subslotStart hc).trans (if_neg (not_not.mpr hsame))
  case moved =>
    rintro len here hc rfl rfl hdiff
    exact (exec_subslotStart hc).trans (if_pos hdiff)

end Sys2Proof.Machine
end

section
/-! The epoch boundary and the completion deadline (O29): what each row does in each of its cases. -/

namespace Sys2Proof.Machine

section
variable {s : State}

/-! ## The boundary (R61, R62, R445) -/

/-- The state at the boundary: the count has come to it, the next is one epoch on, and fuse programming whose time has passed is settled. -/
def atBoundaryTick (s : State) : State :=
  settleBurns ((advanceCount s.tide.nextB s).mapTide fun x => { x with nextB := s.tide.nextB + s.tide.epochLen })

theorem settleBurns_none (h : s.sec.burns = []) : settleBurns s = s := by
  rw [settleBurns, h]
  rfl

theorem atBoundaryTick_of_no_burns (h : s.sec.burns = []) :
    atBoundaryTick s = (advanceCount s.tide.nextB s).mapTide fun x => { x with nextB := s.tide.nextB + s.tide.epochLen } :=
  settleBurns_none ((congrArg Sec.burns (advanceCount_sec s.tide.nextB s)).trans h)

/-- A running count comes to the count it is advanced to. -/
theorem advanceCount_count {t : Nat} (hc : counting s = true) (hle : s.tide.count ≤ t) (hlt : t < 2 ^ 64) :
    (advanceCount t s).tide.count = t := by
  have hcount : (advanceCount t s).tide.count =
      if counting s = true then (s.tide.count + (s.clk.ticks + (t - s.tide.count) - s.clk.ticks)) % 2 ^ 64 else s.tide.count := rfl
  rw [hcount, if_pos hc, Nat.add_sub_cancel_left, Nat.add_sub_cancel' hle, Nat.mod_eq_of_lt hlt]

theorem exec_epochBoundary (hc : counting s = true) (ack : Bool) (paces : List Nat) : exec (.epochBoundary ack paces) s =
    if isReady (atBoundaryTick s) = false then
      .next (if (atBoundaryTick s).halt.isSome then loseStackPages s.tide.nextB (atBoundaryTick s)
        else if (atBoundaryTick s).boot.fwRunning && ack then readPaces paces (atBoundaryTick s) else atBoundaryTick s)
    else if ack = false then
      .next (if (atBoundaryTick s).tide.cpMissed + 1 = 4 then
          recordFault dCp 0 0 {} [] ((atBoundaryTick s).mapTide fun x => { x with cpMissed := (atBoundaryTick s).tide.cpMissed + 1 })
        else (atBoundaryTick s).mapTide fun x => { x with cpMissed := (atBoundaryTick s).tide.cpMissed + 1 })
    else .next (pumpAll cmdTable (newPressure (boundarySteps s.tide.nextB paces ((atBoundaryTick s).mapTide fun x =>
      { x with cpMissed := 0 })))) := by
  have hrow : exec (.epochBoundary ack paces) s = execEpochBoundary ack paces s := rfl
  rw [hrow, execEpochBoundary, if_neg (by simp [hc])]
  simp only [← Bool.not_eq_true']
  rfl

/-! ## The completion deadline (R66, R67, R68) -/

/-- The count of the boundaries that the release has missed with this one. -/
def missedWith (r : Isle) : Nat := (match r.overrun with | some o => o.2 | none => 0) + 1

/-- The overrun noted: on the isle, on its late steps, as an event and in the pressure record; isles of class 2 yield their share of the pool. -/
def overrunNoted (k b n : Nat) (s : State) : State :=
  let r := s.isle k
  let late := lateInvs r
  let u := (advanceCount (b + n * s.tide.epochLen - 325) s).mapIsle k fun r => { r with
    overrun := some (b, n),
    invs := r.invs.map fun i => if late.contains (i.prog, i.num) then { i with overrun := n, flags := setBit i.flags 0 } else i }
  let v := addPressure k (fun x => { x with late := x.late + 1 }) (postEvent k .eOverrun n 1 (lateProg r) 0 0 u)
  if r.cls = 2 then v else v.mapIsles fun q => if q.cls = 2 ∧ q.grant.pool then { q with yield := true } else q

theorem exec_completionDeadline {k b : Nat} (hb : (s.isle k).released = some b) (hwork : workLeft (s.isle k) = true) (hhalt : s.halt = none) :
    exec (.completionDeadline k) s =
      if missedWith (s.isle k) < (s.isle k).overrunLimit then .next (overrunNoted k b (missedWith (s.isle k)) s)
      else .next (stopTasks k (lateInvs (s.isle k)) (overrunNoted k b (missedWith (s.isle k)) s)) := by
  have hrow : exec (.completionDeadline k) s = execCompletionDeadline k s := rfl
  rw [hrow, execCompletionDeadline, hb]
  exact if_neg (by simp [hwork, hhalt])

theorem exec_completionDeadline_idle {k : Nat} (h : (s.isle k).released = none ∨ workLeft (s.isle k) = false) :
    exec (.completionDeadline k) s = .next s := by
  have hrow : exec (.completionDeadline k) s = execCompletionDeadline k s := rfl
  rw [hrow, execCompletionDeadline]
  cases hb : (s.isle k).released with
  | none => rfl
  | some b =>
    have hwork : workLeft (s.isle k) = false := h.resolve_left (by simp [hb])
    exact if_pos (by simp [hwork])

end

/-- Settles O29: the boundary by readiness and acknowledgement, the deadline by the overrun limit. -/
theorem boundaryComes : Obligations.BoundaryComes := by
  unfold Obligations.BoundaryComes
  refine ⟨fun s u paces hc hu => ?boundary, fun k b n s u v w late hb hwork hhalt hlate hfirst hmore hu hv hw => ?deadline⟩
  case boundary =>
    have hrow := exec_epochBoundary hc
    rw [show atBoundaryTick s = u from hu.symm] at hrow
    refine ⟨fun hburns => hu.trans (atBoundaryTick_of_no_burns hburns), fun hnot hhalt => ?_, fun hnot hhalt => ?_, fun ack hnot hhalt => ?_,
      fun hready => ?_, fun hready hfew => ?_, fun hready hthree => ?_, fun hburns hle hlt => ?_⟩
    · rw [hrow, if_pos hnot, if_neg (by simp [hhalt]), if_neg (by simp)]
    · rw [hrow, if_pos hnot, if_neg (by simp [hhalt]), Bool.and_true]
    · rw [hrow, if_pos hnot, if_pos (Option.isSome_iff_ne_none.mpr hhalt)]
    · rw [hrow, if_neg (by simp [hready]), if_neg (by simp)]
    · rw [hrow, if_neg (by simp [hready]), if_pos rfl, if_neg hfew]
    · rw [hrow, if_neg (by simp [hready]), if_pos rfl, hthree, if_pos rfl]
    · rw [hu.trans (atBoundaryTick_of_no_burns hburns)]
      exact advanceCount_count hc hle hlt
  case deadline =>
    have hn : n = missedWith (s.isle k) := by
      cases ho : (s.isle k).overrun with
      | none => rw [hfirst ho, missedWith, ho]
      | some o => rw [hmore o ho, missedWith, ho]
    have hnoted : w = overrunNoted k b n s := by
      subst hw hv hu hlate
      rfl
    have hrow := exec_completionDeadline hb hwork hhalt
    rw [← hn, ← hnoted, ← hlate] at hrow
    refine ⟨fun hbelow => ?_, fun hlimit => ?_, fun t hnone => exec_completionDeadline_idle (.inl hnone),
      fun t hidle => exec_completionDeadline_idle (.inr hidle)⟩
    · rw [hrow, if_pos hbelow]
    · rw [hrow, if_neg (Nat.not_lt.mpr hlimit), stopTasks]

end Sys2Proof.Machine
end

section
/-! Agreed counts (O30): what a delivered proposal, acknowledgement, confirm, cancel and miss do, and the deadline of the confirm. -/

namespace Sys2Proof.Machine

section
variable {t src : Nat} {act : Action} {v : State}

/-! ## The rows -/

/-- What a delivered confirm does. -/
def takeConfirm (t src : Nat) (act : Action) (v : State) : State :=
  match findAgreed v t src act with
  | some a => if a.confirmed ∨ src = chipId v then v else confirmAgreed t src act v
  | none => v

theorem exec_agreedCountConfirm (t : Nat) (h : FlitHdr) (act : Action) (s : State) :
    exec (.agreedCountConfirm t h act) s = .next (onTide h (takeConfirm t h.orig act) s) := rfl

theorem exec_agreedCountCancel (t : Nat) (h : FlitHdr) (act : Action) (s : State) : exec (.agreedCountCancel t h act) s =
    .next (onTide h (fun v => if h.orig = chipId v then v else dropAgreed t h.orig act v) s) := rfl

theorem exec_agreedCountAck (t : Nat) (h : FlitHdr) (act : Action) (s : State) :
    exec (.agreedCountAck t h act) s = .next (pumpAll cmdTable (settleJobs (onTide h (takeAck t h.orig act) s))) := rfl

theorem exec_agreedCountMiss (t : Nat) (h : FlitHdr) (act : Action) (s : State) :
    exec (.agreedCountMiss t h act) s = .next (pumpAll cmdTable (settleJobs (onTide h (takeMiss t h.orig act) s))) := rfl

theorem exec_confirmDeadline (t : Nat) (s : State) :
    exec (.confirmDeadline t) s = .next (pumpAll cmdTable (settleJobs (onConfirmDeadline t s))) := rfl

/-- What a delivered proposal of an epoch length does. -/
theorem exec_agreedCountProposal_epochLen (t : Nat) (h : FlitHdr) (e : Nat) (s : State) : exec (.agreedCountProposal t h (.epochLen e)) s =
    .next (onTide h (fun v => if epochBad v e then v else takeProposal t h.orig (.epochLen e) v) s) := rfl

/-- A proposal that is not delivered has only its reception. -/
theorem exec_agreedCountProposal_discarded {h : FlitHdr} {s : State} (hd : (receive h 3 false 1 s).2 = false) :
    exec (.agreedCountProposal t h act) s = .next (receive h 3 false 1 s).1 := by
  have hrow : exec (.agreedCountProposal t h act) s = execAgreedCountProposal t h act s := rfl
  rw [hrow, execAgreedCountProposal, onTide_discarded _ hd]

/-! ## What each does -/

/-- A member that is READY and holds no such proposal notes and acknowledges it. -/
theorem takeProposal_epochLen {e : Nat} (hready : isReady v = true) (hsrc : src ≠ chipId v) (hnew : findAgreed v t src (.epochLen e) = none) :
    takeProposal t src (.epochLen e) v = tideTo [src] (fun j => .ack t j (.epochLen e)) (v.mapTide fun x => { x with
      agreed := x.agreed ++ [{ t := t, src := src, act := .epochLen e, proposed := tideNow v }] }) := by
  unfold takeProposal
  exact (if_neg (by simp [hready, hsrc, hnew])).trans (if_neg Bool.false_ne_true)

theorem takeConfirm_confirms {a : Agreed} (hfind : findAgreed v t src act = some a) (hfresh : a.confirmed = false) (hsrc : src ≠ chipId v) :
    takeConfirm t src act v = confirmAgreed t src act v := by
  rw [takeConfirm, hfind]
  exact if_neg (by simp [hfresh, hsrc])

section
variable {a : Agreed} {acks : List Nat} {u : State} (hfind : findAgreed v t (chipId v) act = some a) (hfresh : a.confirmed = false)
  (hacks : acks = insNat src a.acks) (hu : u = mapAgreed t (chipId v) act (fun a => { a with acks := acks }) v)
include hfind hfresh hacks hu

/-- An acknowledgement is noted, and the last one that comes in time confirms. -/
theorem takeAck_notes : takeAck t src act v =
    if (agreeMembers u act).all (fun c => acks.contains c) = true ∧ tideNow u + 40000 ≤ t then
      tideTo (agreeMembers u act) (fun j => .confirm t j act) (confirmAgreed t (chipId v) act u)
    else u := by
  subst hu hacks
  rw [takeAck, hfind]
  exact if_neg (by simp [hfresh])

end

theorem takeMiss_cancels {a : Agreed} (hfind : findAgreed v t (chipId v) act = some a) (hmember : (agreeMembers v act).contains src = true) :
    takeMiss t src act v = agreeFails a (tideTo (agreeMembers v act) (fun j => .cancel t j act) (dropAgreed t (chipId v) act v)) := by
  rw [takeMiss, hfind]
  exact if_neg (by rw [hmember]; simp)

theorem takeMiss_unknown (hfind : findAgreed v t (chipId v) act = none) : takeMiss t src act v = v := by
  rw [takeMiss, hfind]

/-- What is found after a confirm is confirmed. -/
theorem confirmed_of_findAgreed {a : Agreed} {s : State} (h : findAgreed (confirmAgreed t src act s) t src act = some a) :
    a.confirmed = true := by
  have his : a.is t src act = true := by simpa using List.find?_some h
  obtain ⟨x, -, hx⟩ := List.mem_map.mp (List.mem_of_find?_eq_some h)
  by_cases hxis : x.is t src act = true
  · rw [if_pos hxis] at hx
    beta_reduce at hx
    split at hx <;> rw [← hx]
    assumption
  · rw [if_neg hxis] at hx
    exact absurd (hx ▸ his) hxis

end

/-- Settles O30: the messages by their reception and then by what each does, and the deadline by whether a record lacks its confirm. -/
theorem agreedCountsAgree : Obligations.AgreedCountsAgree := by
  unfold Obligations.AgreedCountsAgree
  intro t src h act s v hsrc hv
  refine ⟨fun hd => ?discarded, fun hd => ?delivered, fun hnone => ?quiet, fun u hsome hu => ?deadline, fun a u hfind hu => ?record⟩
  case discarded =>
    rw [exec_agreedCountProposal_discarded hd, exec_agreedCountConfirm, exec_agreedCountCancel, exec_agreedCountAck, exec_agreedCountMiss,
      onTide_discarded _ hd, onTide_discarded _ hd, onTide_discarded _ hd, onTide_discarded _ hd, ← hv]
    exact ⟨rfl, rfl, rfl, rfl, rfl⟩
  case delivered =>
    refine ⟨fun e hact hready hme hnew hgood => ?_, fun e hact hbad => ?_, fun a acks u hfind hfresh hacks hu hwait => ?_,
      fun a acks u hfind hfresh hacks hu hall htime => ?_, fun a hfind hfresh hme => ?_, fun hme => ?_, fun a hfind hmember => ?_,
      fun hfind => ?_⟩
    · subst hact
      rw [exec_agreedCountProposal_epochLen, onTide_delivered _ hd, ← hv, if_neg (by simp [hgood]), hsrc, takeProposal_epochLen hready hme hnew]
    · subst hact
      rw [exec_agreedCountProposal_epochLen, onTide_delivered _ hd, ← hv, if_pos hbad]
    · rw [exec_agreedCountAck, onTide_delivered _ hd, ← hv, hsrc, takeAck_notes hfind hfresh hacks hu, if_neg]
      rintro ⟨hall, htime⟩
      rcases hwait with hmissing | hlate
      · rw [hall] at hmissing
        cases hmissing
      · omega
    · rw [exec_agreedCountAck, onTide_delivered _ hd, ← hv, hsrc, takeAck_notes hfind hfresh hacks hu, if_pos ⟨hall, htime⟩]
    · rw [exec_agreedCountConfirm, onTide_delivered _ hd, ← hv, hsrc, takeConfirm_confirms hfind hfresh hme]
    · rw [exec_agreedCountCancel, onTide_delivered _ hd, ← hv, hsrc, if_neg hme]
    · rw [exec_agreedCountMiss, onTide_delivered _ hd, ← hv, hsrc, takeMiss_cancels hfind hmember]
    · rw [exec_agreedCountMiss, onTide_delivered _ hd, ← hv, takeMiss_unknown hfind]
  case quiet => rw [exec_confirmDeadline, onConfirmDeadline, if_pos (by simp [hnone])]
  case deadline =>
    rw [exec_confirmDeadline, onConfirmDeadline, if_neg (by simp [hsome]), ← hu]
  case record =>
    subst hu
    exact ⟨confirmed_of_findAgreed hfind, rfl⟩

end Sys2Proof.Machine
end

section
/-! Ports (O42): what training, a link that goes down, probes and detours, retraining and the return of held flows do in each of their cases. -/

namespace Sys2Proof.Machine

section
variable {s : State}

/-! ## Training (R318, R58, R88) -/

/-- A chip that serves its ports: started, without a fatal fault, and with a running clock. -/
structure ServesPorts (s : State) : Prop where
  started : s.boot.inReset = false
  firmware : s.boot.fwRunning = true
  sound : s.halt = none
  clocked : s.tide.frozen = false

theorem switchToLink_asks {r : PortTrain} (hcold : s.tide.coldWait = false) (hlink : s.boot.alignByLink = true) (hfree : s.tide.aligned = false) :
    switchToLink r s = tideTo [peerAt s r.port] (fun _ => .alignRequest r.port) s := by
  rw [switchToLink, if_neg (by simp [hcold]), if_pos (by simp [hlink, hfree])]

theorem switchToLink_turns {r : PortTrain} (hcold : s.tide.coldWait = true) (hpeer : r.peerAligned = true) (hfree : s.tide.aligned = false) :
    switchToLink r s = askLinkMark (s.mapTide fun x => { x with coldWait := false }) := by
  rw [switchToLink, if_pos (by simp [hcold, hpeer, hfree])]

theorem switchToLink_aligned {r : PortTrain} (haligned : s.tide.aligned = true) : switchToLink r s = s := by
  rw [switchToLink, if_neg (by simp [haligned]), if_neg (by simp [haligned])]

section
variable {r : PortTrain} (hs : ServesPorts s)
include hs

theorem exec_portTrainPattern : exec (.portTrainPattern r) s =
    if (s.port r.port).state = .active then
      if r.peerChip ≠ (s.port r.port).peer.1 then .next s
      else .next (if (peerReports r.port r.peerAligned r.peerReady s).tide.coldWait then
          switchToLink r (peerReports r.port r.peerAligned r.peerReady s) else peerReports r.port r.peerAligned r.peerReady s)
    else if (s.port r.port).state = .retired then
      if r.lanesOk = false ∨ r.peerChip ≠ peerAt s r.port ∨ r.peerPort ≠ 14 - r.port then .next s else .next (linkTrained r s)
    else .next (if ((trainPort r s).port r.port).state = .active then switchToLink r (trainPort r s) else trainPort r s) := by
  have hrow : exec (.portTrainPattern r) s = execPortTrainPattern r s := rfl
  rw [hrow, execPortTrainPattern, if_neg (by simp [hs.started, hs.firmware, hs.sound, hs.clocked])]
  simp only [beq_iff_eq, Bool.not_eq_true']

theorem exec_portTrainPattern_active (hst : (s.port r.port).state = .active) (hpeer : r.peerChip = (s.port r.port).peer.1) :
    exec (.portTrainPattern r) s = .next (if (peerReports r.port r.peerAligned r.peerReady s).tide.coldWait then
      switchToLink r (peerReports r.port r.peerAligned r.peerReady s) else peerReports r.port r.peerAligned r.peerReady s) := by
  rw [exec_portTrainPattern hs, if_pos hst, if_neg (not_not.mpr hpeer)]

theorem exec_portTrainPattern_retired (hst : (s.port r.port).state = .retired) : exec (.portTrainPattern r) s =
    if r.lanesOk = false ∨ r.peerChip ≠ peerAt s r.port ∨ r.peerPort ≠ 14 - r.port then .next s else .next (linkTrained r s) := by
  rw [exec_portTrainPattern hs, if_neg (by simp [hst]), if_pos hst]

theorem exec_portTrainPattern_idle (ha : (s.port r.port).state ≠ .active) (hr : (s.port r.port).state ≠ .retired) :
    exec (.portTrainPattern r) s =
      .next (if ((trainPort r s).port r.port).state = .active then switchToLink r (trainPort r s) else trainPort r s) := by
  rw [exec_portTrainPattern hs, if_neg ha, if_neg hr]

end

section
variable {r : PortTrain} {u : State} (harch : s.boot.archEn = true) (hidle : (s.port r.port).state = .idle) (hwire : (s.port r.port).wiring = false)
  (hu : u = setPortState r.port .training s)
include harch hidle hwire hu

/-- What the training of an idle port gives (R318). -/
theorem trainPort_idle : trainPort r s =
    if r.lanesOk = false then setPortState r.port .idle (linkFault r.port 0 u)
    else if r.peerChip ≠ peerAt u r.port ∨ r.peerPort ≠ 14 - r.port then
      setPortState r.port .idle (linkFault r.port 1 (u.mapPort r.port fun q => { q with wiring := true }))
    else setPortState r.port .active (linkTrained r (u.mapPort r.port fun q => { q with detour := none, retrained := false })) := by
  subst hu
  rw [trainPort, if_neg (by simp [harch, hidle, hwire])]
  simp only [Bool.not_eq_true']

end

/-! ## Link-down, probes and detours (R322, R344) -/

theorem exec_linkDown (p : Nat) (s : State) : exec (.linkDown p) s = .next (linkDownAt p s) := rfl

theorem linkDownAt_down {p : Nat} (h : (s.port p).linkUp = false) : linkDownAt p s = s := by
  rw [linkDownAt, if_pos (by simp [h])]

section
variable {p : Nat} {t v u : State} (hup : (s.port p).linkUp = true)
  (ht : t = loseForwards p ((linkFault p 2 s).mapPort p fun r => { r with
    linkUp := false, lcfFails := 0, returning := false, heldFlows := [], heldMsgs := [] }))
  (hv : v = t.emit (.peer (chipId t) pmMarker [p] [])) (hu : u = v.mapPort p fun r => { r with downTick := v.clk.ticks, retrained := false })
include hup ht hv hu

theorem linkDownAt_up : linkDownAt p s =
    if (s.port p).state ≠ .active then (s.port p).heldMsgs.foldl (fun s m => sendMsg m s) v
    else if u.arch.member = 0 || !u.arch.present.testBit (peerAt u p) then
      restartFlows (peerAt u p) (setPortState p .cut (u.mapPort p fun r => { r with txq := [], replay := [] }))
    else announce (detoursBreak p (probePeer p u)) := by
  subst hu hv ht
  rw [linkDownAt, if_neg (by simp [hup])]

end

theorem probePeer_through {p k : Nat} (h : intermediate s (peerAt s p) = some k) :
    probePeer p s = ctrlTo k pmProbe [chipId s, peerAt s p] [] (s.mapPort p fun r => { r with probe := some (k, s.clk.ticks) }) := by
  rw [probePeer, h]

theorem probePeer_alone {p : Nat} (h : intermediate s (peerAt s p) = none) : probePeer p s = portCut p s := by
  rw [probePeer, h]

/-- The chip of R344: a member between, with a port that runs to here and, as far as it has announced, one to the peer. -/
theorem intermediate_spec {j k : Nat} (h : intermediate s j = some k) :
    s.arch.present.testBit k = true ∧ k ≠ chipId s ∧ k ≠ j ∧ (s.port (myPort s k)).state = .active ∧
      (s.port (myPort s k)).linkUp = true ∧ ∀ l, aGet s.arch.links k = some l → l.testBit j = true := by
  have hmem := List.mem_of_find?_eq_some h
  have hcond := List.find?_some h
  simp only [Bool.and_eq_true, bne_iff_ne, beq_iff_eq] at hcond
  obtain ⟨⟨⟨⟨hj, hme⟩, hactive⟩, hup⟩, hlinks⟩ := hcond
  refine ⟨(List.mem_filter.mp hmem).2, hme, hj, hactive, hup, fun l hl => ?_⟩
  rw [hl] at hlinks
  simpa using hlinks

/-- What a delivered answer to a probe does. -/
def takeProbeAnswer (h : FlitHdr) (src dest : Nat) (v : State) : State :=
  if src ≠ chipId v then ctrlTo src pmProbeAnswer [src, dest] [] v else
  match (v.port (myPort v dest)).probe with
  | none => v
  | some (k, t) =>
    if v.clk.ticks > t + 100 ∨ h.orig ≠ k then v
    else goByDetour (myPort v dest) k (noteRemap 3 (myPort v dest) (carrier v dest) (myPort v k) (tideNow v)
      (setPortState (myPort v dest) .detoured v))

theorem exec_probeAnswer (h : FlitHdr) (src dest : Nat) (s : State) :
    exec (.probeAnswer h src dest) s = .next (onMessage h 4 false 1 (takeProbeAnswer h src dest) s) := rfl

theorem goByDetour_eq {p k : Nat} : goByDetour p k s =
    moveTx (peerAt s p) p (myPort s k)
      (if carrier s (peerAt s p) = myPort s k then
        (s.mapPort p fun r => { r with probe := none, detour := some k, replay := [] }).mapPort (myPort s k) fun r =>
          { r with txq := r.txq ++ (((s.port p).replay.filter fun f => !f.fwd).map (TxFlit.resend p)) }
      else moveTx (peerAt s p) (carrier s (peerAt s p)) (myPort s k)
        ((s.mapPort p fun r => { r with probe := none, detour := some k, replay := [] }).mapPort (myPort s k) fun r =>
          { r with txq := r.txq ++ (((s.port p).replay.filter fun f => !f.fwd).map (TxFlit.resend p)) })) := rfl

theorem exec_probeTimeout_none {p : Nat} (h : (s.port p).probe = none) : exec (.probeTimeout p) s = .next s := by
  have hrow : exec (.probeTimeout p) s = execProbeTimeout p s := rfl
  rw [hrow, execProbeTimeout, h]

theorem exec_probeTimeout_cuts {p : Nat} {x : Nat × Nat} (h : (s.port p).probe = some x) :
    exec (.probeTimeout p) s = .next (portCut p s) := by
  have hrow : exec (.probeTimeout p) s = execProbeTimeout p s := rfl
  rw [hrow, execProbeTimeout, h]

/-! ## Retraining and the return of held flows (R345, R347) -/

theorem exec_portRetrain_unasked {p : Nat} {r : PortTrain} (h : (s.port p).state = .active ∨ (s.port p).retrained = true) :
    exec (.portRetrain p r) s = .next s := by
  have hrow : exec (.portRetrain p r) s = execPortRetrain p r s := rfl
  rw [hrow, execPortRetrain, if_pos (by rcases h with h | h <;> simp [h])]

section
variable {p : Nat} {r : PortTrain} {u : State} (hst : (s.port p).state = .detoured ∨ (s.port p).state = .cut)
  (honce : (s.port p).retrained = false)
  (hu : u = (advanceTicks ((s.port p).downTick + 10000000) s).mapPort p fun q => { q with retrained := true })
include hst honce hu

/-- The one retrain of a port that went down, 100 ms after it did. -/
theorem exec_portRetrain : exec (.portRetrain p r) s =
    if r.lanesOk = false then .next (linkFault p 0 u)
    else if r.peerChip ≠ peerAt u p ∨ r.peerPort ≠ 14 - p then .next (linkFault p 1 (u.mapPort p fun q => { q with wiring := true }))
    else if chipId (linkTrained { r with port := p } u) < peerAt (linkTrained { r with port := p } u) p then
      .next (propose (earliestT (linkTrained { r with port := p } u) (tideNow (linkTrained { r with port := p } u))) (.portReturn p) none
        (linkTrained { r with port := p } u))
    else .next (linkTrained { r with port := p } u) := by
  have hrow : exec (.portRetrain p r) s = execPortRetrain p r s := rfl
  subst hu
  rw [hrow, execPortRetrain, if_neg (by rcases hst with h | h <;> simp [h, honce])]
  simp only [Bool.not_eq_true']

end

/-- What an acknowledgement of a detoured flow's last flit releases. -/
def freeFlow (h : FlitHdr) (cls fseq : Nat) (v : State) : State :=
  if (v.port (myPort v h.orig)).returning && (v.port (myPort v h.orig)).heldFlows.contains (cls, fseq) then releaseFlow (myPort v h.orig) cls v
  else v

theorem exec_fseqDeliveredAck {h : FlitHdr} {cls fseq : Nat} {v : State} (hd : receive h 4 false 1 s = (v, true)) :
    exec (.fseqDeliveredAck h cls fseq) s =
      .next (if chipId (freeFlow h cls fseq v) < h.orig ∨ flowHeld (freeFlow h cls fseq v) h.orig 4 = false then
        ackPast h 4 (freeFlow h cls fseq v) else freeFlow h cls fseq v) := by
  have hrow : exec (.fseqDeliveredAck h cls fseq) s = execFseqDeliveredAck h cls fseq s := rfl
  rw [hrow, execFseqDeliveredAck, hd]
  simp only [Bool.not_eq_true', freeFlow]
  rfl

theorem exec_fseqDeliveredAck_discarded {h : FlitHdr} {cls fseq : Nat} (hd : (receive h 4 false 1 s).2 = false) :
    exec (.fseqDeliveredAck h cls fseq) s = .next (receive h 4 false 1 s).1 := by
  have hrow : exec (.fseqDeliveredAck h cls fseq) s = execFseqDeliveredAck h cls fseq s := rfl
  have hpair : receive h 4 false 1 s = ((receive h 4 false 1 s).1, false) := Prod.ext rfl hd
  rw [hrow, execFseqDeliveredAck, hpair]

section
variable {p cls : Nat} {held : List TxMsg} {u : State} (hheld : held = (s.port p).heldMsgs.filter fun m => m.cls == cls)
  (hu : u = s.mapPort p fun r => { r with
    heldFlows := r.heldFlows.filter fun h => h.1 != cls, heldMsgs := r.heldMsgs.filter fun m => m.cls != cls })
include hheld hu

/-- What a flow held goes out; with the last flow the port is ACTIVE. -/
theorem releaseFlow_eq : releaseFlow p cls s = held.foldl (fun s m => sendMsg m s)
    (if (u.port p).heldFlows.isEmpty then
      announce (setPortState p .active (u.mapPort p fun r => { r with returning := false, detour := none }))
    else u) := by
  subst hu hheld
  rfl

end

end

/-- Settles O42: training by the state of the port, link-down by its state and its peer, probes and returns by what they find. -/
theorem portsTrainAndFail : Obligations.PortsTrainAndFail := by
  unfold Obligations.PortsTrainAndFail
  refine ⟨fun p s => ⟨?idle, ?active, ?retired, ?wiring, ?trained, ?lanes, ?lone, ?quiet, ?down, fun k h => probePeer_through h,
    probePeer_alone, fun k h => intermediate_spec h, ?discarded, ?answered, ?detour, exec_probeTimeout_none, fun x h => exec_probeTimeout_cuts h⟩,
    fun p s => ⟨?returns, ?refused, fun r h => exec_portRetrain_unasked (.inl h), fun r h => exec_portRetrain_unasked (.inr h),
      fun hd cls fseq h => exec_fseqDeliveredAck_discarded h, ?acked, ?released⟩⟩
  case idle =>
    intro r t hreset hfw hhalt hclk ha hr ht
    have hrow := exec_portTrainPattern_idle (r := r) ⟨hreset, hfw, hhalt, hclk⟩ ha hr
    rw [← ht] at hrow
    refine ⟨fun hst hcold hlink hfree => ?_, fun hst hcold hpeer hfree => ?_, fun h => ?_⟩
    · rw [hrow, if_pos hst, switchToLink_asks hcold hlink hfree]
    · rw [hrow, if_pos hst, switchToLink_turns hcold hpeer hfree]
    · by_cases hst : (t.port r.port).state = .active
      · rw [hrow, if_pos hst, switchToLink_aligned (h.resolve_right (not_not.mpr hst))]
      · rw [hrow, if_neg hst]
  case active =>
    intro r t hreset hfw hhalt hclk hst ht
    have hserves : ServesPorts s := ⟨hreset, hfw, hhalt, hclk⟩
    refine ⟨fun hpeer => ?_, fun hpeer hcold => ?_, fun hpeer hcold hfree hal => ?_⟩
    · rw [exec_portTrainPattern hserves, if_pos hst, if_pos hpeer]
    · rw [exec_portTrainPattern_active hserves hst hpeer, ← ht, if_neg (by simp [hcold])]
    · rw [exec_portTrainPattern_active hserves hst hpeer, ← ht, if_pos hcold, switchToLink_turns hcold hal hfree]
  case retired =>
    intro r hreset hfw hhalt hclk hst
    have hrow := exec_portTrainPattern_retired (r := r) ⟨hreset, hfw, hhalt, hclk⟩ hst
    refine ⟨fun hl hc hp => ?_, fun hbad => ?_⟩
    · rw [hrow, if_neg (by simp [hl, hc, hp])]
    · rw [hrow, if_pos hbad]
  case wiring =>
    intro r u harch hidle hwire hu hl hbad
    rw [trainPort_idle harch hidle hwire hu, if_neg (by simp [hl]), if_pos hbad]
  case trained =>
    intro r u harch hidle hwire hu hl hc hp
    rw [trainPort_idle harch hidle hwire hu, if_neg (by simp [hl]), if_neg (by simp [hc, hp])]
  case lanes =>
    intro r u harch hidle hwire hu hl
    rw [trainPort_idle harch hidle hwire hu, if_pos hl]
  case lone =>
    intro r harch
    rw [trainPort, if_pos (by simp [harch])]
  case quiet =>
    intro h
    rw [exec_linkDown, linkDownAt_down h]
  case down =>
    intro t v u hup ht hv hu
    have hrow := linkDownAt_up hup ht hv hu
    refine ⟨fun hst => ?_, fun hst hout => ?_, fun hst hmember hpresent => ?_⟩
    · rw [exec_linkDown, hrow, if_pos hst]
    · rw [exec_linkDown, hrow, if_neg (not_not.mpr hst), if_pos (by rcases hout with h | h <;> simp [h])]
    · rw [exec_linkDown, hrow, if_neg (not_not.mpr hst), if_neg (by simp [hmember, hpresent])]
  case discarded =>
    intro hd src dest h
    rw [exec_probeAnswer, onMessage_eq, if_neg (by simp [h])]
  case answered =>
    intro hd src dest port v hrecv hport
    have hrow : exec (.probeAnswer hd src dest) s = .next (ackPast hd 4 (takeProbeAnswer hd src dest v)) := by
      rw [exec_probeAnswer, onMessage_eq, hrecv, if_pos rfl]
    subst hport
    refine ⟨fun hsrc => ?_, fun k t hsrc hprobe htime horig => ?_, fun k t hsrc hprobe hlate => ?_, fun hsrc hprobe => ?_⟩
    · rw [hrow, takeProbeAnswer, if_pos hsrc]
    · rw [hrow, takeProbeAnswer, if_neg (not_not.mpr hsrc), hprobe]
      simp only [gt_iff_lt, Nat.not_lt.mpr htime, horig, ne_eq, not_true_eq_false, or_self, if_false]
    · rw [hrow, takeProbeAnswer, if_neg (not_not.mpr hsrc), hprobe]
      simp only [gt_iff_lt, hlate, ne_eq, if_true]
    · rw [hrow, takeProbeAnswer, if_neg (not_not.mpr hsrc), hprobe]
  case detour =>
    rintro k j c d u w flits rfl rfl rfl rfl rfl rfl
    refine ⟨fun h => ?_, fun h => ?_⟩
    · rw [goByDetour_eq, if_pos h]
      rfl
    · rw [goByDetour_eq, if_neg h]
      rfl
  case returns =>
    intro r u w hst honce hl hu hc hp hw
    have hrow := exec_portRetrain (r := r) hst honce hu
    rw [if_neg (by simp [hl]), if_neg (by simp [hc, hp]), ← hw] at hrow
    refine ⟨fun hlow => ?_, fun hhigh => ?_⟩
    · rw [hrow, if_pos hlow]
    · rw [hrow, if_neg (Nat.not_lt.mpr hhigh)]
  case refused =>
    intro r u hst honce hu
    have hrow := exec_portRetrain (r := r) hst honce hu
    refine ⟨fun hl => ?_, fun hl hbad => ?_⟩
    · rw [hrow, if_pos hl]
    · rw [hrow, if_neg (by simp [hl]), if_pos hbad]
  case acked =>
    intro hd cls fseq v w hrecv hp hmine hother
    have hw : freeFlow hd cls fseq v = w := by
      subst hp
      rw [freeFlow]
      split
      · rename_i h
        obtain ⟨hret, hflow⟩ := Bool.and_eq_true_iff.mp h
        exact (hmine hret hflow).symm
      · rename_i h
        exact (hother (by simpa only [Bool.and_eq_true, not_and_or, Bool.not_eq_true] using h)).symm
    have hrow := exec_fseqDeliveredAck (cls := cls) (fseq := fseq) hrecv
    rw [hw] at hrow
    refine ⟨fun hfree => ?_, fun hhigh hheld => ?_⟩
    · rw [hrow, if_pos hfree]
    · rw [hrow, if_neg (by rintro (h | h); exacts [absurd h (Nat.not_lt.mpr hhigh), by rw [hheld] at h; cases h])]
  case released =>
    intro cls held u hheld hu
    have hrow := releaseFlow_eq hheld hu
    refine ⟨fun h => ?_, fun h => ?_⟩
    · rw [hrow, if_neg (by simp [h])]
    · rw [hrow, if_pos h]

end Sys2Proof.Machine
end

section
/-! Announcements of other chips (O45): what each does when it is delivered. -/

namespace Sys2Proof.Machine

section
variable {s v : State} {h : FlitHdr}

/-! ## Messages of the CTRL flow (R321, R323) -/

theorem onCtrl_eq (n : Nat) (f : State → State) (s : State) : onCtrl h n f s = onMessage h 4 false (1 + n / 240) f s := rfl

theorem onCtrl_delivered (f : State → State) (hd : (receive h 4 false 1 s).2 = true) :
    onCtrl h 0 f s = ackPast h 4 (f (receive h 4 false 1 s).1) := by
  rw [onCtrl_eq]
  exact (onMessage_eq h 4 false 1 f s).trans (if_pos hd)

theorem onCtrl_discarded (f : State → State) (hd : (receive h 4 false 1 s).2 = false) : onCtrl h 0 f s = (receive h 4 false 1 s).1 := by
  rw [onCtrl_eq]
  exact (onMessage_eq h 4 false 1 f s).trans (if_neg (by simp [hd]))

/-- What a chip says to itself comes by no detour. -/
theorem ackPast_self (cls : Nat) (horig : h.orig = chipId s) : ackPast h cls s = s := by
  rw [ackPast]
  exact if_neg fun hc => hc.1 horig

/-! ## Departures (R55, R346) -/

/-- What a delivered departure does. -/
def takeDepart (chip : Nat) (v : State) : State :=
  if chip = chipId v then v
  else if v.arch.leavers.contains chip then v.mapArch fun a => { a with left := insNat chip a.left }
  else chipDeparts chip (peerReports (myPort v chip) false false v)

theorem exec_depart (h : FlitHdr) (s : State) : exec (.depart h) s = .next (onCtrl h 0 (takeDepart h.orig) s) := rfl

/-- The tide of an aligned chip is led by no chip above it, whatever its peers report. -/
theorem peerReports_leader_le {p : Nat} {aligned ready : Bool} (ha : v.tide.aligned = true) :
    (peerReports p aligned ready v).tide.leader ≤ chipId v := by
  have haligned : (v.mapPort p fun r => { r with peerAligned := aligned, peerReady := ready }).tide.aligned = true := ha
  rw [peerReports, updateLeader_of_aligned haligned]
  exact lowestAligned_le_chipId (v.mapPort p fun r => { r with peerAligned := aligned, peerReady := ready })

/-! ## Fences (R338) -/

/-- What a delivered fence does. -/
def takeFence (chip k : Nat) (up : Bool) (v : State) : State :=
  if chip = chipId v then v
  else if !up then v.mapArch fun a => { a with fenced := a.fenced.filter (· != (chip, k)) }
  else
    let u := failFenced chip k (v.mapArch fun a => { a with fenced := if a.fenced.contains (chip, k) then a.fenced else (chip, k) :: a.fenced })
    if (List.range 32).all fun k => u.arch.fenced.contains (chip, k) then chipDeparts chip u else u

theorem exec_fence (h : FlitHdr) (k : Nat) (up : Bool) (s : State) : exec (.fence h k up) s = .next (onCtrl h 0 (takeFence h.orig k up) s) := rfl

theorem takeFence_lowered {chip k : Nat} (hchip : chip ≠ chipId v) :
    takeFence chip k false v = v.mapArch fun a => { a with fenced := a.fenced.filter (· != (chip, k)) } := by
  rw [takeFence, if_neg hchip, if_pos (by simp)]

theorem takeFence_raised {chip k : Nat} {u : State} (hchip : chip ≠ chipId v)
    (hu : u = failFenced chip k (v.mapArch fun a => { a with
      fenced := if a.fenced.contains (chip, k) then a.fenced else (chip, k) :: a.fenced })) :
    takeFence chip k true v = if (List.range 32).all (fun k => u.arch.fenced.contains (chip, k)) = true then chipDeparts chip u else u := by
  subst hu
  rw [takeFence, if_neg hchip, if_neg (by simp)]

theorem failFenced_idle {chip k : Nat} (hidle : (v.isle k).invs = []) : failFenced chip k v = v := by
  rw [failFenced, hidle]
  rfl

/-! ## Steps of partners (R332) -/

theorem exec_stepDone (h : FlitHdr) (k dg n : Nat) (s : State) :
    exec (.stepDone h k dg n) s = .next (onCtrl h 0 (partnerSays k dg n h.orig false (Inv.hearsDone h.orig)) s) := rfl

theorem exec_stepFail (h : FlitHdr) (k dg n : Nat) (s : State) :
    exec (.stepFail h k dg n) s = .next (onCtrl h 0 (partnerSays k dg n h.orig true (Inv.hearsFail h.orig)) s) := rfl

section
variable {k dg n chip : Nat} {failed : Bool} {f : Inv → Inv}

theorem partnerSays_inFlight (hin : (v.isle k).invs.any (Inv.isOf (v.isle k) dg n) = true) : partnerSays k dg n chip failed f v =
    v.mapIsle k fun r => { r with invs := r.invs.map fun i => if i.isOf r dg n then f i else i } := by
  rw [partnerSays]
  exact if_pos hin

theorem partnerSays_early (hin : (v.isle k).invs.any (Inv.isOf (v.isle k) dg n) = false) (hcome : invToCome (v.isle k) dg n = true) :
    partnerSays k dg n chip failed f v = v.mapArch fun a => { a with early := (k, dg, n, chip, failed) :: a.early } := by
  rw [partnerSays]
  exact (if_neg (by simp [hin])).trans (if_pos hcome)

end

/-! ## Runs, rewinds, admissions and incarnations (R297, R302, R325, R331) -/

theorem exec_progRunAccept (h : FlitHdr) (k dg mode t : Nat) (s : State) : exec (.progRunAccept h k dg mode t) s =
    .next (onCtrl h 0 (fun v => v.mapArch fun a => { a with
      accepts := (a.accepts.filter fun r => !(r.isle == k && r.chip == h.orig && r.digest == dg)) ++
        [{ isle := k, chip := h.orig, digest := dg, mode := mode, tick := t }] }) s) := rfl

theorem exec_replicaRewind (h : FlitHdr) (k a len b : Nat) (s : State) : exec (.replicaRewind h k a len b) s =
    .next (onCtrl h 0 (fun v => v.mapArch fun x => { x with rewinds := x.rewinds ++ [(k, a, len, b)] }) s) := rfl

theorem exec_admissionList (h : FlitHdr) (k dg : Nat) (es : List Admitted) (s : State) : exec (.admissionList h k dg es) s =
    .next (onMessage h 4 false (1 + (es.flatMap fun e => e.frames.map fun f => f.length).sum / 240) (fun v => v.mapArch fun a => { a with
      admissions := (a.admissions.filter fun r => !(r.1 == k && r.2.1 == dg && r.2.2.1 == h.orig)) ++ [(k, dg, h.orig, es)] }) s) := rfl

theorem exec_incarnationAnnounce {links : Nat} (hreset : s.boot.inReset = false) (horig : h.orig ≠ chipId s)
    (hup : (s.port h.port).linkUp = true) : exec (.incarnationAnnounce h links) s =
      .next (onCtrl h 0 (fun v => v.mapArch fun a => { a with links := aSet h.orig links a.links }) (recordInc h.orig h.inc s)) := by
  have hrow : exec (.incarnationAnnounce h links) s = execIncarnationAnnounce h links s := rfl
  rw [hrow, execIncarnationAnnounce, if_neg (by simp [hreset, horig, hup])]

theorem exec_incarnationAnnounce_ignored {links : Nat} (h' : s.boot.inReset = true ∨ h.orig = chipId s ∨ (s.port h.port).linkUp = false) :
    exec (.incarnationAnnounce h links) s = .next s := by
  have hrow : exec (.incarnationAnnounce h links) s = execIncarnationAnnounce h links s := rfl
  rw [hrow, execIncarnationAnnounce, if_pos (by simpa only [Bool.not_eq_true'] using h')]

/-- The incarnation that is recorded is the one that came. -/
theorem recordInc_recorded (chip inc : Nat) (s : State) : aGet (recordInc chip inc s).arch.incs chip = some inc := by
  rw [recordInc]
  split
  · assumption
  · exact aGet_aSet_self chip inc _

end

/-- Settles O45: each announcement by its reception, and then by what it says. -/
theorem peersAnnounce : Obligations.PeersAnnounce := by
  unfold Obligations.PeersAnnounce
  refine ⟨?messages, fun h s u v links hu hv => ⟨fun hreset horig hup => ⟨fun hd => ?links, fun hd => ?stale⟩,
    exec_incarnationAnnounce_ignored, ?recorded⟩, fun h k dg es s v n hn hv => ⟨fun hd => ?noList, fun hd => ?list⟩⟩
  case messages =>
    rintro h _ k dg n s v rfl hv
    refine ⟨fun hd => ?discarded, fun hd => ⟨?departs, ?self, ?fenced, ?lowered, failFenced_idle, ?inFlight, ?early, fun mode t => ?run,
      fun a len b => ?rewind⟩⟩
    case discarded =>
      rw [hv]
      refine ⟨?_, fun up => ?_, ?_, ?_, fun mode t => ?_, fun a len b => ?_⟩
      · rw [exec_depart, onCtrl_discarded _ hd]
      · rw [exec_fence, onCtrl_discarded _ hd]
      · rw [exec_stepDone, onCtrl_discarded _ hd]
      · rw [exec_stepFail, onCtrl_discarded _ hd]
      · rw [exec_progRunAccept, onCtrl_discarded _ hd]
      · rw [exec_replicaRewind, onCtrl_discarded _ hd]
    case departs =>
      intro u hother hu
      refine ⟨fun hstays => ⟨?_, fun haligned => ?_⟩, fun hleaves => ?_⟩
      · rw [exec_depart, onCtrl_delivered _ hd, ← hv, takeDepart, if_neg hother, if_neg (by rw [hstays]; simp), hu]
      · rw [hu]
        exact peerReports_leader_le haligned
      · rw [exec_depart, onCtrl_delivered _ hd, ← hv, takeDepart, if_neg hother, if_pos hleaves]
    case self =>
      intro hself
      rw [exec_depart, onCtrl_delivered _ hd, ← hv, takeDepart, if_pos hself, ackPast_self 4 hself]
    case fenced =>
      intro u hother hu
      have hfence := takeFence_raised hother hu
      refine ⟨fun hsome => ?_, fun hall => ?_⟩
      · rw [exec_fence, onCtrl_delivered _ hd, ← hv, hfence, if_neg (by rw [hsome]; simp)]
      · rw [exec_fence, onCtrl_delivered _ hd, ← hv, hfence, if_pos hall]
    case lowered =>
      intro hother
      rw [exec_fence, onCtrl_delivered _ hd, ← hv, takeFence_lowered hother]
    case inFlight =>
      intro hin
      rw [exec_stepDone, exec_stepFail, onCtrl_delivered _ hd, onCtrl_delivered _ hd, ← hv, partnerSays_inFlight hin, partnerSays_inFlight hin]
      exact ⟨rfl, rfl⟩
    case early =>
      intro hin hcome
      rw [exec_stepDone, exec_stepFail, onCtrl_delivered _ hd, onCtrl_delivered _ hd, ← hv, partnerSays_early hin hcome,
        partnerSays_early hin hcome]
      exact ⟨rfl, rfl⟩
    case run => rw [exec_progRunAccept, onCtrl_delivered _ hd, ← hv]
    case rewind => rw [exec_replicaRewind, onCtrl_delivered _ hd, ← hv]
  case links => rw [exec_incarnationAnnounce hreset horig hup, ← hu, onCtrl_delivered _ hd, ← hv]
  case stale => rw [exec_incarnationAnnounce hreset horig hup, ← hu, onCtrl_discarded _ hd, ← hv]
  case recorded =>
    rw [hu]
    exact recordInc_recorded h.orig h.inc s
  case noList => rw [exec_admissionList, ← hn, onMessage_eq, if_neg (by simp [hd]), ← hv]
  case list => rw [exec_admissionList, ← hn, onMessage_eq, if_pos hd, ← hv]

end Sys2Proof.Machine
end
